-- ==== Sys2Proof/Word.lean ====
section
/-! DEFINITION. The plainest types of the model: a byte, a 32-bit word, strings of bytes, and the
status codes of R404. -/

namespace Sys2Proof

/-- One byte (R9). -/
abbrev Byte := BitVec 8

/-- One 32-bit register or lane (R9, R129). -/
abbrev Word := BitVec 32

/-- A run of bytes, lowest address first (R9). -/
abbrev Bytes := List Byte

/-- A PCIe function: 0 the physical function, m + 1 the virtual function of partition m (R24, R390). -/
abbrev Fn := Fin 9

/-- A status code of R404. -/
abbrev Status := BitVec 16

/-- ST_OK of R404. -/
abbrev stOk : Status := 0x0000#16
/-- ST_ALREADY_DONE of R404. -/
abbrev stAlreadyDone : Status := 0x0001#16
/-- ST_BAD_OPCODE of R404. -/
abbrev stBadOpcode : Status := 0x0010#16
/-- ST_BAD_CHECK of R404. -/
abbrev stBadCheck : Status := 0x0011#16
/-- ST_STALE_COUNTER of R404. -/
abbrev stStaleCounter : Status := 0x0012#16
/-- ST_NOT_PERMITTED of R404. -/
abbrev stNotPermitted : Status := 0x0013#16
/-- ST_BAD_ARGUMENT of R404. -/
abbrev stBadArgument : Status := 0x0014#16
/-- ST_NO_BUFFER of R404. -/
abbrev stNoBuffer : Status := 0x0020#16
/-- ST_NOT_OWNER of R404. -/
abbrev stNotOwner : Status := 0x0021#16
/-- ST_ACC_OVERCOMMIT of R404. -/
abbrev stAccOvercommit : Status := 0x0030#16
/-- ST_SCALE_SKEW of R404. -/
abbrev stScaleSkew : Status := 0x0031#16
/-- ST_DIM_EXCEEDS of R404. -/
abbrev stDimExceeds : Status := 0x0040#16
/-- ST_BUDGET_EXCEEDED of R404. -/
abbrev stBudgetExceeded : Status := 0x0041#16
/-- ST_ABORTED of R404. -/
abbrev stAborted : Status := 0x0050#16
/-- ST_STALE_EPOCH of R404. -/
abbrev stStaleEpoch : Status := 0x0051#16
/-- ST_PREEMPTED of R404. -/
abbrev stPreempted : Status := 0x0052#16
/-- ST_UNCORRECTABLE of R404. -/
abbrev stUncorrectable : Status := 0x0060#16
/-- ST_HOST_TIMEOUT of R404. -/
abbrev stHostTimeout : Status := 0x0061#16
/-- ST_SEALED of R404. -/
abbrev stSealed : Status := 0x0070#16
/-- ST_FUSE_EXHAUSTED of R404. -/
abbrev stFuseExhausted : Status := 0x0071#16

end Sys2Proof
end

