-- ==== Sys2Proof/Syntax.lean ====
section
/-! DEFINITION. The commands of the block: one constructor of `Instr` for each row of
spec/opcode_table.json, in the table's order. The table gives a row no operand bits; the operands here
are what the row's rule needs from outside the module: the unit it falls on, the value written, the
bytes a host read returned, what a sensor or a standard's own decoding delivered. -/

namespace Sys2Proof

/-- What a configuration request asks (R482, R483, R490 to R495). A setting is named, or
written with its dword at the place the PCIe specification gives it (log entry 7). -/
inductive CfgOp where
  /-- read the dword at `off` -/
  | read (off : Nat)
  /-- write Bus Master Enable (R495) -/
  | busMaster (on : Bool)
  /-- write VF Enable and NumVFs (R483); meaningful in the physical function -/
  | vfs (enable : Bool) (num : Nat)
  /-- write ATS enable (R492) -/
  | ats (on : Bool)
  /-- write the ASPM L1 enable and the L1.1 and L1.2 enables (R494) -/
  | aspm (l1 l11 l12 : Bool)
  /-- write MSI-X Enable and Function Mask (R491) -/
  | msix (enable mask : Bool)
  /-- write the completion timeout value of Device Control 2, in µs; 0 selects 40 ms (R490) -/
  | timeout (us : Nat)
  /-- write a dword whole -/
  | write (off : Nat) (value : BitVec 32)
deriving DecidableEq, Repr

/-- Who holds an outstanding memory request (R214); decoders, motion search and scalers are the media
unit. -/
inductive MemAgent where
  | dma (p : Fin 256)
  | decoder (engine : Fin 8)
  | motion (unit : Fin 2)
  | scaler (unit : Fin 4)
  | host
  | link (port : Fin 4)
deriving DecidableEq, Repr

/-- A memory request at an LPDDR5 channel (R210). -/
inductive MemOp where
  | read (bytes : Nat)
  | write (data : Bytes)
deriving DecidableEq, Repr

/-- What the wires and the codeword of a read turned out to hold (R218 to R220). -/
inductive ReadOutcome where
  /-- no error -/
  | clean
  /-- link ECC corrected the transfer, or the one repeat came back clean -/
  | linkCorrected
  /-- the repeat failed too -/
  | linkFailed
  /-- the codeword held one wrong byte -/
  | inlineCorrected
  /-- the codeword held two or three wrong bytes -/
  | inlineFailed
deriving DecidableEq, Repr

/-- What the picture's own syntax says (R245 to R248, R259, R263, R264), as its standard gives it. -/
structure PicInfo where
  /-- a random-access point by its syntax alone (R248) -/
  rap : Bool
  intra : Bool
  /-- becomes a reference (R256) -/
  isRef : Bool
  /-- is output (R259) -/
  outputs : Bool
  /-- a RASL picture skipped after entry from SEEK (R248) -/
  rasl : Bool
  tenBit : Bool
  mono : Bool
  reshown : Bool
  /-- excluded feature or syntax that breaks its standard in the header (R247) -/
  broken : Bool
  codedWidth : Nat
  codedHeight : Nat
  width : Nat
  height : Nat
  /-- references held together with the picture itself (R264) -/
  refsNeeded : Nat
  /-- reorder depth its sequence declares (R264) -/
  reorder : Nat
  /-- PICTURE numbers it refers to (R264) -/
  refers : List Nat
  /-- PICTURE numbers that lose their last mark with it (R263) -/
  unmarked : List Nat
  /-- output order key (R259) -/
  poc : Int
  /-- every picture before it leaves the reorder queue first (R259) -/
  flush : Bool
  /-- an H.264 I picture with a recovery point SEI of recovery_frame_cnt 0 (R248) -/
  recoveryPoint : Bool := false
deriving DecidableEq, Repr

/-- The payload of a received frame, as the protocols of R284 define it. -/
inductive FrameBody where
  | arpRequest (target sender : BitVec 32) (senderMac : BitVec 48)
  | neighbour (target sender : BitVec 128) (senderMac : BitVec 48)
  | rtp (pt : Nat) (seq : BitVec 16) (ts : BitVec 32) (marker : Bool) (ssrc : BitVec 32)
      (payload : Option Bytes)
  | senderReport (ssrc : BitVec 32) (ntp : BitVec 64) (rtp : BitVec 32)
  | other
deriving DecidableEq, Repr

/-- A frame at an Ethernet port, in the parts R284 to R288 name. The payload of an RTP packet is given
depacketised (R288), `none` for an unsupported type. -/
structure Frame where
  fcsOk : Bool
  /-- fragment, extension header, bad checksum, or over 9,216 bytes -/
  malformed : Bool
  vlan : Option (BitVec 12)
  dstMac : BitVec 48
  ipv6 : Bool
  src : BitVec 128
  dst : BitVec 128
  udpPort : BitVec 16
  body : FrameBody
deriving DecidableEq, Repr

/-- A message between modules of a skein (R336, R348, R349). -/
structure SkMessage where
  srcModule : BitVec 4
  srcPart : BitVec 3
  dstPart : BitVec 3
  queue : BitVec 4
  srcQueue : BitVec 4
  expert : BitVec 12
  epoch : BitVec 16
  tag : BitVec 32
  payload : Bytes
deriving DecidableEq, Repr

/-- A flit on a Burava port (R333), with what the receiver's checks found. -/
structure Flit where
  crcOk : Bool
  fecOk : Bool
  /-- the message it completes authenticates (R335) -/
  authOk : Bool
  crCount : BitVec 5
  crSub : Bool
  crVc : BitVec 2
  ack : BitVec 8
  seq : BitVec 8
  kind : BitVec 2
  first : Bool
  last : Bool
  sub : Bool
  vc : BitVec 2
  src : BitVec 4
  dest : BitVec 4
  payload : Bytes
deriving DecidableEq, Repr

/-- Why a port goes down: the cause codes 0 to 4 of EV_LINK_DOWN (R406, R339). -/
inductive PortCause where
  | noFlit | replayLimit | fecAlignment | authentication | disabled
deriving DecidableEq, Repr

/-- The manager's side of an ADMIT message (R342, R423). -/
structure AdmitInfo where
  index : BitVec 4
  size : BitVec 4
  members : List Bytes
  routes : BitVec 64
  /-- the manager's report (R416) -/
  report : Bytes
  pace : Bool
deriving DecidableEq, Repr

/-- What a received TLP or the link showed (R489). -/
inductive TlpError where
  /-- receiver error, bad TLP, bad DLLP, replay rollover, replay timer -/
  | correctable
  /-- poisoned TLP written to BAR0 -/
  | poisonedWrite
  /-- ECRC error -/
  | ecrc
  /-- malformed TLP, flow-control or data-link protocol error, receiver overflow -/
  | fatal
  /-- surprise down -/
  | surpriseDown
deriving DecidableEq, Repr

/-- How a host read came back (R489, R490). -/
inductive ReadResult where
  | ok | poisoned | unsupported | completerAbort
deriving DecidableEq, Repr

/-- The SRAM word a patrol scrubber visits (R499, R501). -/
inductive ScrubPlace where
  /-- a 64-bit word of a spindle's operand cache -/
  | operandWord (p : Fin 256) (word : Fin 49152)
  /-- other spindle SRAM -/
  | spindle (p : Fin 256)
  /-- a 64-bit word of a spire cache -/
  | spireWord (s : Fin 32) (word : Fin 524288)
  /-- stem engine buffers -/
  | spire (s : Fin 32)
  /-- SRAM outside the domes that holds state of a partition -/
  | module (part : Option (Fin 8))
deriving DecidableEq, Repr

/-- What the ROM loader finds of a firmware image (R413, R516). -/
structure FwImage where
  /-- flash or host bytes could be read -/
  readable : Bool
  header : Bytes
  body : Bytes
deriving DecidableEq, Repr

/-- What firmware start finds (R519): failed channels with their delays, bypassed columns per spindle. -/
structure StartFindings where
  failedChannels : List (Fin 24)
  /-- channel, then write delay 1, read delay 1, write delay 0, read delay 0 (R226) -/
  delays : List (Fin 24 × BitVec 32)
  /-- spindle and physical column that gave a wrong result (R95) -/
  badColumns : List (Fin 256 × Fin 32)
deriving DecidableEq, Repr

/-- The commands: one constructor for each row of spec/opcode_table.json. `slot` of a mailbox command is
the mailbox it runs in, 0 to 8, or 9 for a command relayed through a skein (R345). -/
inductive Instr where
  | registerWrite (fn : Fn) (off : BitVec 28) (value : Word)
  | lanLocalTimeLoRead (fn : Fn)
  | netFlowArrivalLoRead (fn : Fn) (stream : Fin 256)
  | netFlowSrNtpLoRead (fn : Fn) (stream : Fin 256)
  | pwrEnergyLoRead (fn : Fn)
  | blfSeqLoRead (fn : Fn)
  | blfIdLoRead (fn : Fn)
  | bar0BadAccess (fn : Fn) (write : Bool)
  | configurationRequest (fn : Fn) (op : CfgOp)
  | droopEvent (d : Fin 4)
  | droopHold (d : Fin 4)
  | holdResume (d : Fin 4)
  | rateWindow (d : Fin 4) (rate : BitVec 16)
  | opSlewSettled
  | arrayIdle (p : Fin 256)
  | waveAdmit (d : Fin 4)
  | wavefrontIssue (p : Fin 256)
  | weightSetLoaded (p : Fin 256)
  | operationComplete (p : Fin 256)
  | descriptorFetch (p : Fin 256)
  | head (p : Fin 256)
  | workFetch (p : Fin 256)
  | arm (p : Fin 256)
  | jump (p : Fin 256)
  | endProgram (p : Fin 256)
  | acquire (p : Fin 256)
  | release (p : Fin 256)
  | barrier (p : Fin 256)
  | waitLocal (p : Fin 256)
  | drain (p : Fin 256)
  | skeinBarrier (p : Fin 256)
  | copy (p : Fin 256)
  | copyComplete (p : Fin 256)
  | vector (p : Fin 256)
  | vNop (p : Fin 256)
  | vXset (p : Fin 256)
  | vXadd (p : Fin 256)
  | vTagset (p : Fin 256)
  | vAdd (p : Fin 256)
  | vSub (p : Fin 256)
  | vMul (p : Fin 256)
  | vFma (p : Fin 256)
  | vMin (p : Fin 256)
  | vMax (p : Fin 256)
  | vAbs (p : Fin 256)
  | vNeg (p : Fin 256)
  | vCvt (p : Fin 256)
  | vQmul (p : Fin 256)
  | vSel (p : Fin 256)
  | vBcasti (p : Fin 256)
  | vAnd (p : Fin 256)
  | vOr (p : Fin 256)
  | vXor (p : Fin 256)
  | vExp2 (p : Fin 256)
  | vLog2 (p : Fin 256)
  | vRcp (p : Fin 256)
  | vRsqrt (p : Fin 256)
  | vCmpeq (p : Fin 256)
  | vCmplt (p : Fin 256)
  | vCmple (p : Fin 256)
  | vMand (p : Fin 256)
  | vMor (p : Fin 256)
  | vMnot (p : Fin 256)
  | vRsum (p : Fin 256)
  | vRprod (p : Fin 256)
  | vRmax (p : Fin 256)
  | vRmin (p : Fin 256)
  | vRargmax (p : Fin 256)
  | vRargmin (p : Fin 256)
  | vPerm (p : Fin 256)
  | vSlideup (p : Fin 256)
  | vSlidedn (p : Fin 256)
  | vBcast (p : Fin 256)
  | vVld (p : Fin 256)
  | vVst (p : Fin 256)
  | vTld (p : Fin 256)
  | vTst (p : Fin 256)
  | vFld (p : Fin 256)
  | vFst (p : Fin 256)
  | vMacm (p : Fin 256)
  | vMulm (p : Fin 256)
  | conv (spire : Fin 32)
  | stemHead (spire : Fin 32)
  | stemEnd (spire : Fin 32)
  | poolAcquire (part : Fin 8) (pool : Fin 8) (owner : BitVec 16)
  | poolGroup (part : Fin 8) (pairs : List (Fin 8 × BitVec 16))
  | poolShare (part : Fin 8) (handle : Word) (owner other : BitVec 16)
  | poolRelease (part : Fin 8) (handle : Word) (owner : BitVec 16)
  | freeRingRefill (part : Fin 8) (pool : Fin 8)
  | memoryRequest (agent : MemAgent) (part : Fin 8) (offset : Nat) (op : MemOp)
  | memoryReadComplete (c : Fin 24) (outcome : ReadOutcome)
  | refreshDue (c : Fin 24) (bank : Fin 16)
  | mr4Read (c : Fin 24) (celsius : Int)
  | wckOscillatorRun (c : Fin 24) (drift0 drift1 : Nat)
  | retrainPause (c : Fin 24) (delay0 delay1 : BitVec 8)
  | cmdStreamOpen (slot : Fin 10)
  | cmdStreamClose (slot : Fin 10)
  | streamDrainEnd (stream : Fin 256)
  | medRingDoorbell (fn : Fn) (stream : Fin 256) (value : Word)
  | ringEntryRead (stream : Fin 256) (entry : Option Bytes)
  | chunkCopyComplete (stream : Fin 256) (data : Option Bytes)
  | cmdPortConfig (slot : Fin 10)
  | ethLinkChange (port : Fin 2) (up : Bool)
  | frameReceive (port : Fin 2) (frame : Frame) (stamp : BitVec 64)
  | reorderTimeout (stream : Fin 256)
  | pictureStart (engine : Fin 8) (info : PicInfo)
  | waitBufRetry (stream : Fin 256)
  | pictureDrop (stream : Fin 256)
  | contextSwitch (engine : Fin 8) (row : BitVec 12)
  | pictureComplete (engine : Fin 8) (symbols : Nat) (luma chroma : Bytes)
  | pictureReject (engine : Fin 8) (symbols : Nat) (status : Status)
  | pictureAbandon (engine : Fin 8)
  | motionSearchRequest (unit : Fin 2) (part : Fin 8) (owner : BitVec 16) (request : Bytes)
  | motionSearchComplete (unit : Fin 2)
  | preparationRequest (pipe : Fin 256) (request : Bytes)
  | workItemStart (unit : Fin 4)
  | workItemComplete (unit : Fin 4) (image : Option Bytes)
  | batchComplete (part : Fin 8) (queue : Fin 16)
  | batchOpenRetry (part : Fin 8) (queue : Fin 16)
  | liveRequestDrop (part : Fin 8) (queue : Fin 16)
  | cmdPipeCreate (slot : Fin 10) (stages : Option Bytes)
  | cmdPipeRemove (slot : Fin 10)
  | cmdQueueCreate (slot : Fin 10)
  | cmdPipeAttach (slot : Fin 10)
  | cmdPipeDetach (slot : Fin 10)
  | cmdPrepSubmit (slot : Fin 10)
  | cmdOringCreate (slot : Fin 10)
  | cmdOringDestroy (slot : Fin 10)
  | resultBobbinRetry (pipe : Fin 256) (stage : Fin 8)
  | trackStep (pipe : Fin 256) (stream : Fin 256)
  | recordWrite (ring : Fin 64)
  | lanOringDoorbell (fn : Fn) (ring : Fin 64) (value : Word)
  | answerPart (job : Fin 1024)
  | cmdSkeinForm (slot : Fin 10) (table : Option Bytes)
  | cmdSkeinDissolve (slot : Fin 10) (memberJobs : Bool)
  | cmdSkeinRelay (slot : Fin 10) (inner : Option Bytes)
  | cmdSkeinExclude (slot : Fin 10)
  | cmdSkeinPort (slot : Fin 10)
  | cmdSkeinPlace (slot : Fin 10)
  | cmdSkeinQueue (slot : Fin 10)
  | cmdSkeinBarrier (slot : Fin 10)
  | flit (port : Fin 4) (f : Flit)
  | nak (port : Fin 4) (seq : BitVec 8)
  | portDown (port : Fin 4) (cause : PortCause)
  | portUp (port : Fin 4)
  | linkKeyExchange (port : Fin 4) (peer peerEphemeral signature : Bytes)
  | admitMessage (info : AdmitInfo)
  | admitReply (member : BitVec 4) (accepted : Bool)
  | formationTimeout
  | relayedCommand (descriptor : Bytes)
  | relayCompletion (member : BitVec 4) (completion : Bytes)
  | sendEntry (part : Fin 8) (queue : Fin 16)
  | message (m : SkMessage)
  | slotFree (part : Fin 8) (queue : Fin 16)
  | creditReturn (part : Fin 8) (dest : BitVec 4) (dstPart : BitVec 3) (queue : BitVec 4)
      (expert : BitVec 12) (epoch : BitVec 16)
  | creditGrant (part : Fin 8) (dest : BitVec 4) (dstPart : BitVec 3) (queue : BitVec 4) (slotClass credits : Nat)
  | arrive (member : BitVec 4) (barrier : Fin 16)
  | skeinRelease (barrier : Fin 16)
  /-- `answered`: the workers that answered the last heartbeat, bit m for module m -/
  | heartbeat (answered : BitVec 16)
  | heartbeatArrival
  | managerLost
  | lossNotice (member : BitVec 4)
  | paceReport
  /-- `reports`: the reports of R359 that have come in since the last, module and E -/
  | pacePublish (reports : List (BitVec 4 × BitVec 16))
  | paceCeiling (ceiling : BitVec 16)
  | cmdPartCreate (slot : Fin 10)
  | cmdPartDelete (slot : Fin 10)
  | cmdPartGrow (slot : Fin 10)
  | cmdPartShrink (slot : Fin 10)
  | cmdJobDefine (slot : Fin 10)
  | cmdJobUndefine (slot : Fin 10)
  | cmdJobStart (slot : Fin 10)
  | cmdJobAbort (slot : Fin 10)
  | cmdJobPreempt (slot : Fin 10)
  | cmdJobResume (slot : Fin 10)
  | jobDispatch (job : Fin 1024)
  | saveComplete (job : Fin 1024)
  | restoreComplete (job : Fin 1024) (readable : Bool)
  | timeLimit (job : Fin 1024)
  | jobEnd (job : Fin 1024)
  | cmdClientLimit (slot : Fin 10)
  | cmdClientStats (slot : Fin 10)
  | cmdSeqJoin (slot : Fin 10)
  | cmdSeqLeave (slot : Fin 10)
  | sequenceStep (job : Fin 1024)
  | lanMbCfgWrite (fn : Fn) (mailbox : Fin 9) (value : Word)
  | lanMbCmdDoorbell (fn : Fn) (mailbox : Fin 9) (value : Word)
  | lanMbCplDoorbell (fn : Fn) (mailbox : Fin 9) (value : Word)
  | lanMbEvtDoorbell (fn : Fn) (mailbox : Fin 9) (value : Word)
  | commandBegin (mailbox : Fin 9) (entry : Option Bytes)
  | cmdDevInfo (slot : Fin 10)
  | cmdModelLoad (slot : Fin 10) (image : Option Bytes)
  | cmdModelUnload (slot : Fin 10)
  | cmdAdapterInstall (slot : Fin 10)
  | cmdMemWrite (slot : Fin 10) (data : Option Bytes)
  | cmdPoolCreate (slot : Fin 10)
  | cmdPoolDestroy (slot : Fin 10)
  | cmdIdentityGet (slot : Fin 10)
  | cmdAttest (slot : Fin 10)
  | cmdAuditExport (slot : Fin 10)
  | cmdOwnerEnroll (slot : Fin 10) (record : Option Bytes)
  | cmdSessionOpen (slot : Fin 10) (request : Option Bytes)
  | cmdSessionClose (slot : Fin 10)
  | cmdSvAdvance (slot : Fin 10)
  | cmdCeilingLower (slot : Fin 10)
  | cmdSkeinBind (slot : Fin 10)
  | cmdDebugDisable (slot : Fin 10)
  | cmdBlfRequest (slot : Fin 10) (request : Option Bytes)
  | cmdBlfRecords (slot : Fin 10)
  | belfryStatus
  | belfryIdentity
  | belfryLog
  | stageFw
  | stageParam
  | commit
  | partialReset
  | indicatorId
  | encoderEdge (a b fast : Bool)
  | trigger
  | csiFrame (input : Fin 2) (channel : BitVec 2) (intact inWindow : Bool) (window : Bytes)
  | pairTimeout
  | callReturn (area : BitVec 32) (status : BitVec 2)
  | callDeadline
  | coreWatchdog
  | tamperSample (ohms : Nat)
  | vblfFalling
  | vblfInRange
  | identityLine
  | faultLine
  | newRecordNotice
  | tamperNotice
  | sealNotice
  | stateNotice
  | powerSample (millivolts milliamps milliwatts estimate microjoules : Nat)
  | powerDisagree
  | powerRecalFit
  | cmdPowerLimit (slot : Fin 10)
  | cmdPowerRecal (slot : Fin 10)
  | cmdJobPower (slot : Fin 10)
  | thermalRead (d : Fin 4) (sensors : List (BitVec 16))
  | thermalStep (d : Fin 4)
  | thermalEnd (d : Fin 4)
  | startCondition
  | railPowerGood
  | railTimeout
  | dipBegin (millivolts : Nat)
  | dipEnd (leastMillivolts microseconds : Nat)
  | dipLimit (leastMillivolts microseconds : Nat)
  | overvoltageWindow (greatestMillivolts microseconds : Nat)
  | overvoltage75V (greatestMillivolts microseconds : Nat)
  | holdBankCharged
  | holdBankLow
  | receivedTlpError (err : TlpError)
  | hostReadCompletion (tag : Nat) (result : ReadResult)
  | completionTimeout (tag : Nat)
  | msiXWindow (fn : Fn) (vec : Fin 3)
  | invalidationRequest (fn : Fn) (base length : Nat)
  | translationCompletion (fn : Fn) (page : Nat) (translated : Nat) (readOk writeOk : Bool)
  | aspmL1Idle
  | perstAssert
  | perstRelease
  | hotReset
  | dlDown
  | pfFlr
  | vfEnableCleared
  | vfFlr (part : Fin 8)
  | busMasterEnableCleared (fn : Fn)
  | patrolScrub (place : ScrubPlace) (wrongBits : Nat)
  | fatalRestart
  | lifelogSecond
  | lifelogCommitTimer
  | cmdLifelogExport (slot : Fin 10)
  | cmdLifelogCommit (slot : Fin 10)
  | romLoaderStart (fuseBlank : Bool)
  | imageVerified (image : FwImage)
  | firmwareStartEnd (found : StartFindings)
  | lanBootCtrlWrite (fn : Fn) (value : Word)
  | lanRecGo (fn : Fn) (value : Word)
  | recReadComplete (image : Option Bytes)
  | recProgramComplete (ok : Bool)
  | recReadBackComplete (ok : Bool)
  | droopRecovered (d : Fin 4)
  | retrainPauseEnd (c : Fin 24)
  | pcieLinkUp (speed width : BitVec 4)
  | configReady
  | l1Exit
  | creditGrantAck (member : BitVec 4) (part : Fin 8) (queue : Fin 16) (accepted : Bool)
  | skeinDissolveNotice
deriving DecidableEq, Repr

end Sys2Proof
end

