-- ==== Sys2Proof/Decode.lean ====
section
/-! DEFINITION. The command a word spells. spec/opcode_table.json gives no row a bit, so no word spells
one; the 64-byte descriptors the rules themselves lay out are decoded where their rows act. -/

namespace Sys2Proof

/-- The command that the bits `w` of a row of `nbits` bits spell: none, since no row of the table has
bits. -/
def decodeTableWord (_nbits _w : Nat) : Option Instr := none

end Sys2Proof
end

