-- ==== Sys2Proof/Config.lean ====
section
/-! DEFINITION. What spec/ leaves open and what it takes from other publications, as constants with no
body: nothing in Lean can evaluate them, so a claim that mentions one holds whatever its value is. -/

namespace Sys2Proof.Config

/-- FREE VALUE. The bits that undefined storage reads as: `tag` names the draw that made a range
undefined and `addr` the place (R196, R224, R231, R376). Log entry 2. -/
opaque freeBits (w tag addr : Nat) : BitVec w

/-- FREE VALUE. A number the spec leaves to the module, `tag` the draw (R235 which free bobbin, R36 and
others). Log entry 3. -/
opaque freeNat (tag : Nat) : Nat

/-- FREE VALUE. `n` bytes of on-die entropy at draw `tag` (R223, R410, R419). Log entry 4. -/
opaque entropy (tag n : Nat) : Bytes

/-- SHA-512 as published (R411 to R428). Log entry 5. -/
opaque sha512 : Bytes → Bytes

/-- HMAC-SHA-512 of RFC 2104: key, message, 64-byte result (R398). Log entry 5. -/
opaque hmacSha512 : Bytes → Bytes → Bytes

/-- HKDF-SHA-512 of RFC 5869: salt, keying material, info, length (R419, R421, R423). Log entry 5. -/
opaque hkdfSha512 : Bytes → Bytes → Bytes → Nat → Bytes

/-- X25519 of RFC 7748: private key, public key, shared secret (R411, R418). Log entry 5. -/
opaque x25519 : Bytes → Bytes → Bytes

/-- The X25519 public key of a private key (R411). Log entry 5. -/
opaque x25519Public : Bytes → Bytes

/-- The Ed25519 public key of a seed (R411, R444). Log entry 5. -/
opaque ed25519Public : Bytes → Bytes

/-- Ed25519 signature: seed, message, 64 bytes (R412, R416, R443). Log entry 5. -/
opaque ed25519Sign : Bytes → Bytes → Bytes

/-- Ed25519 check: public key, message, signature (R413 to R451). Log entry 5. -/
opaque ed25519Verify : Bytes → Bytes → Bytes → Bool

/-- AES-256-GCM opening: key, nonce, additional data, ciphertext, tag; `none` when the tag fails
(R421, R335). Log entry 5. -/
opaque gcmOpen : Bytes → Bytes → Bytes → Bytes → Bytes → Option Bytes

/-- The four endorsement public keys in ROM, by index (R410, R412). Log entry 6. -/
opaque endorsementKey : Nat → Bytes

/-- The four firmware public keys in ROM, by index (R410, R413). Log entry 6. -/
opaque firmwareKey : Nat → Bytes

/-- FREE VALUE. What a configuration-space dword reads as in the bits that spec/ does not state (R482): function,
offset, and the host's last write of it. Log entry 7. -/
opaque cfgDword (fn off : Nat) (written : Option (BitVec 32)) : BitVec 32

/-- FREE VALUE. The issue fraction 0 to 255 the power controller picks for a dome at a sample so that the
predicted power does not pass the limit: draw, dome, limit, estimate, measurement, all mW (R473).
Log entry 8. -/
opaque issueFraction (tag dome limit estimate measured : Nat) : BitVec 8

end Sys2Proof.Config
end

