-- ==== Sys2Proof/Machine/State.lean ====
section
/-! DEFINITION. The state of the module as plain data: every register, counter, memory, queue, mode and
pin that spec/ gives it, and the queue of commands that wait. The default of each field is its value
right after reset. Where spec/ gives no reset value the default is zero or empty (log entry 1). -/

namespace Sys2Proof.Machine

/-- Why a step stops the machine. No command of the block stops it: what the manual calls an error is an
effect on the state (a job that ends, a status in a completion). -/
inductive Fault where
  /-- Raised by no meaning; kept so that the type has a name for a stop. Safe: a stop proves nothing. -/
  | unreachable
deriving DecidableEq, Repr

/-- Why a step refuses a command. -/
inductive Refusal where
  /-- Raised by an arm of `exec` that has no meaning yet. Safe: nothing is claimed of it. -/
  | notModelled (mnemonic : String)
deriving DecidableEq, Repr

/-! ### Storage -/

/-- A range of storage whose contents the manual calls undefined: it reads as `Config.freeBits` of `tag`
until it is written (log entry 2). -/
structure UndefRange where
  lo : Nat
  len : Nat
  tag : Nat
deriving DecidableEq, Repr

/-- Addressed storage of cells of `w` bits: the listed cells, addresses strictly rising, and the undefined
ranges. An unlisted address reads as zero outside them (log entry 2). -/
structure Store (w : Nat) where
  cells : List (Nat × BitVec w) := []
  undef : List UndefRange := []
deriving DecidableEq, Repr

/-- A family of like things by number; a number not listed is in its reset state. -/
abbrev Table (α : Type) := List (Nat × α)

/-! ### What leaves the module -/

/-- What the module sends, in the order `State.out` keeps it (newest first). -/
inductive Output where
  /-- bytes written to host memory under a function's Requester ID (R488) -/
  | hostWrite (fn : Nat) (addr : Nat) (bytes : Bytes)
  /-- a host read of so many bytes with its tag (R481, R490) -/
  | hostRead (fn addr bytes tag : Nat)
  /-- the value a register read returns (R11) -/
  | regValue (fn : Nat) (off : Nat) (value : Word)
  /-- a Completer Abort (R485) -/
  | completerAbort (fn : Nat)
  /-- a configuration request answered with Request Retry Status (R515) -/
  | requestRetry (fn : Nat)
  /-- a configuration request answered, with the dword read (R482) -/
  | configAnswer (fn : Nat) (value : Word)
  /-- an MSI-X message (R491) -/
  | msix (fn : Nat) (vec : Nat)
  /-- an Invalidation Completion (R493) -/
  | invalidationDone (fn : Nat)
  /-- a translation request (R492, R493) -/
  | translationRequest (fn : Nat) (page : Nat)
  /-- the answer of the pool manager (R233) -/
  | poolReply (part : Nat) (status : Status) (handles : List Word)
  /-- data, or a failed read, returned to a requester of memory (R214, R221) -/
  | memoryReply (agent : MemAgent) (data : Option Bytes)
  /-- an answer on Ethernet (R284) -/
  | ethReply (port : Nat) (dstMac : BitVec 48) (address : BitVec 128)
  /-- a flit forwarded or a NAK sent on a Burava port (R338, R343) -/
  | flitOut (port : Nat) (f : Flit)
  | nakOut (port : Nat) (seq : BitVec 8)
  /-- a control message to a module of the skein (R336): name, module, numbers -/
  | skControl (what : String) (dest : Nat) (args : List Nat) (data : Bytes)
  /-- a message to a queue of another module (R348) -/
  | skMessage (dest : Nat) (m : SkMessage)
  /-- the link-key exchange bytes of a port (R423) -/
  | linkHello (port : Nat) (ephemeral signature : Bytes)
  /-- a pulse on FSYNC (R435) -/
  | fsync
  /-- a line on the Belfry's indicator (R457) -/
  | indicator (line : String)
  /-- a request for ASPM L1 (R494) -/
  | requestL1
  /-- the latency that LTR reports, snoop and no-snoop, in microseconds (R494) -/
  | ltr (microseconds : Nat)
  /-- the completion of a motion-search request (R269, R271) -/
  | requestDone (part : Nat) (status : Status)
  /-- a bank's per-bank refresh (R215) -/
  | refresh (channel bank : Nat)
deriving DecidableEq, Repr

/-! ### A spindle: array, address generator, vector engine, DMA engine -/

/-- A HEAD descriptor, decoded (R106); counts are the real counts. -/
structure HeadDesc where
  outStat : Bool := false
  accInit : Bool := false
  hilbert : Bool := false
  work : Bool := false
  slot : Nat := 0
  mode : Nat := 0
  fmtA : Nat := 0
  fmtB : Nat := 0
  width : Nat := 0
  accBase : Nat := 0
  accTiles : Nat := 0
  reduceMask : Nat := 0
  wlevel : Nat := 0
  hilbLevel : Nat := 0
  colLevel : Nat := 7
  cols : Nat := 0
  colsLast : Nat := 0
  wc : Nat := 0
  wcSpire : Nat := 0
  exit : Nat := 0
  counts : List Nat := []
  satLimit : Nat := 0
  uflLimit : Nat := 0
deriving DecidableEq, Repr

/-- A STREAM descriptor, decoded (R107). -/
structure StreamDesc where
  role : Nat := 0
  base : Nat := 0
  extent : Nat := 0
  scaleBase : Nat := 0
  knotBase : Nat := 0
  stride : List Int := []
  sstride : List Int := []
deriving DecidableEq, Repr

/-- One unit of 32 elements as a feeder read it: its bytes, its scale entry, its knot record (R110, R111). -/
structure OperandUnit where
  data : Bytes := []
  entry : BitVec 16 := 0
  knots : Bytes := []
deriving DecidableEq, Repr

/-- One array operation in progress (R105, R108). -/
structure ArrayOp where
  head : HeadDesc := {}
  sa : StreamDesc := {}
  sb : StreamDesc := {}
  sc : StreamDesc := {}
  /-- program offset of the HEAD -/
  pc : Nat := 0
  /-- i5 when WORK is set (R108) -/
  item : Nat := 0
  /-- wavefronts issued -/
  issued : Nat := 0
  /-- blocks counted by the west and north feeders (R98) -/
  blkA : Nat := 0
  blkB : Nat := 0
  /-- weight sets the cells hold, each with the wavefront from which it is in use (R80, R112) -/
  sets : List (Nat × List OperandUnit) := []
  /-- output-stationary: the units of the group in progress (R81) -/
  groupA : List OperandUnit := []
  groupB : List OperandUnit := []
  /-- largest finite magnitude written in a final pass, as FP32 bits (R161) -/
  amax : Word := 0
deriving DecidableEq, Repr

/-- SPN_SKEW_INFO (R102). -/
structure SkewInfo where
  valid : Bool := false
  side : Bool := false
  cause : BitVec 2 := 0
  expected : BitVec 4 := 0
  found : BitVec 4 := 0
  entry : BitVec 16 := 0
deriving DecidableEq, Repr

/-- The array and its registers (R75, R102, R471). -/
structure ArrayUnit where
  satCount : Word := 0
  uflCount : Word := 0
  bypass : BitVec 32 := 0
  fmtA : BitVec 4 := 0
  fmtB : BitVec 4 := 0
  mode : Bool := false
  state : BitVec 4 := 0
  wavefronts : Word := 0
  stallDrain : BitVec 16 := 0
  stallFeed : BitVec 16 := 0
  /-- gated products of the operation (R87); SPN_GATE_COUNT shows them in units of 1,024 -/
  gated : Nat := 0
  skew : SkewInfo := {}
  /-- no wavefront for 1 µs (R100) -/
  idle : Bool := true
  /-- waits at the dome's wave gate (R100) -/
  waiting : Bool := false
  /-- tokens in the issue bucket, in 1/255 (R471) -/
  tokens : Nat := 64 * 255
  op : Option ArrayOp := none
deriving DecidableEq, Repr

/-- A VECTOR block as handed to the engine (R130 to R133). -/
structure VBlock where
  pc : Nat := 0
  vl : Nat := 0
  vlLast : Nat := 0
  vlLevel : Nat := 3
  count0 : Nat := 1
  count1 : Nat := 1
  count2 : Nat := 1
  insns : List (BitVec 64) := []
  /-- belongs to the epilogue of the operation in judgement (R157) -/
  epilogue : Bool := false
deriving DecidableEq, Repr

/-- The vector engine (R128, R152). Registers, masks and address registers are storage of 32-bit cells:
register r lane l at 32 r + l. -/
structure VecEngine where
  v : Store 32 := {}
  m : Store 32 := {}
  x : Store 32 := {}
  packTag : BitVec 16 := 0
  unpackTag : BitVec 16 := 0
  i0 : BitVec 16 := 0
  i1 : BitVec 16 := 0
  i2 : BitVec 16 := 0
  vl : BitVec 6 := 0
  /-- fallback tile buffers: row r word l at 32 r + l -/
  fb : Store 32 := {}
  nanJob : Bool := false
  permJob : Bool := false
  emptyJob : Bool := false
  nan : Bool := false
  perm : Bool := false
  empty : Bool := false
  state : BitVec 4 := 0
  posPc : BitVec 16 := 0
  error : Bool := false
  cause : BitVec 3 := 0
  insn : BitVec 7 := 0
  /-- blocks held, the executing one first (R133) -/
  blocks : List VBlock := []
  /-- the executing block has started -/
  started : Bool := false
deriving DecidableEq, Repr

/-- One scale slot, newest entry first (R162). -/
structure ScaleSlot where
  entries : List Word := []
  ops : BitVec 16 := 0
deriving DecidableEq, Repr

/-- The operation awaiting judgement (R157, R166). -/
structure Judgement where
  head : HeadDesc := {}
  pc : Nat := 0
  arrayDone : Bool := false
  amax : Word := 0
  /-- epilogue blocks of the program, in order, and how many have completed in this attempt -/
  blocks : List VBlock := []
  handed : Nat := 0
  done : Nat := 0
  snapSat : Word := 0
  snapUfl : Word := 0
  savedX : Store 32 := {}
  savedPack : BitVec 16 := 0
  savedUnpack : BitVec 16 := 0
deriving DecidableEq, Repr

/-- Scale control of a spindle (R162, R170). -/
structure ScaleUnit where
  amax : Word := 0
  limitCount : BitVec 16 := 0
  repeatCount : BitVec 12 := 0
  overrun : Bool := false
  attempt : Bool := false
  slots : List ScaleSlot := [{}, {}, {}, {}]
  /-- EV_SAT_LIMIT events raised by the job (R158) -/
  events : Nat := 0
  judging : Option Judgement := none
deriving DecidableEq, Repr

/-- A COPY held by the DMA engine (R188, R193). -/
structure CopyReq where
  pc : Nat := 0
  desc : Bytes := []
  /-- the work item when it began (R189) -/
  item : Nat := 0
deriving DecidableEq, Repr

/-- The DMA engine (R193, R204). -/
structure DmaUnit where
  state : BitVec 4 := 0
  localCount : BitVec 16 := 0
  count : Word := 0
  nonfinite : Word := 0
  copies : List CopyReq := []
deriving DecidableEq, Repr

/-- The address generator (R103, R126). -/
structure AgenUnit where
  /-- region offset of the program -/
  program : Nat := 0
  /-- the loop-descriptor table: slot, program offset held there and the descriptor -/
  slots : Table (Nat × Bytes) := []
  /-- last program offset of the extent (R540) -/
  last : Nat := 0
  /-- next program offset to execute -/
  next : Nat := 0
  pc : BitVec 16 := 0
  slot : BitVec 6 := 0
  kind : BitVec 4 := 0
  state : BitVec 4 := 0
  workItem : Word := 0xFFFFFFFF#32
  /-- the SYNC at `next` has made its request and waits -/
  syncWaiting : Bool := false
  /-- the work fetch of the HEAD at `next` has been granted a value in range -/
  workReady : Bool := false
deriving DecidableEq, Repr

/-- A spindle (R12). Accumulator row r column c at 32 r + c (R93). -/
structure Spindle where
  job : Option Nat := none
  arr : ArrayUnit := {}
  acc : Store 32 := {}
  /-- tile busy marks (R93) -/
  busy : BitVec 16 := 0
  cache : Store 8 := {}
  /-- 64-bit words of the operand cache in uncorrectable error (R505) -/
  bad : List Nat := []
  agen : AgenUnit := {}
  vec : VecEngine := {}
  scale : ScaleUnit := {}
  dma : DmaUnit := {}
deriving DecidableEq, Repr

/-! ### A spire and a dome -/

/-- Who waits at a semaphore (R199, R379). -/
inductive Waiter where
  | spindle (p : Nat)
  | stem (s : Nat)
  /-- a job that restores and takes its recorded count back -/
  | restoring (job : Nat)
deriving DecidableEq, Repr

/-- A semaphore (R198 to R204, R354). -/
structure Sem where
  value : BitVec 16 := 0
  gen : BitVec 4 := 0
  /-- in barrier use (R200), with the count of its first arrival -/
  barrier : Bool := false
  need : Nat := 0
  /-- ACQUIRE requests waiting, oldest first, with their counts -/
  queue : List (Waiter × Nat) := []
  /-- barrier arrivals waiting -/
  arrivals : List Waiter := []
  /-- the pending return of R203 -/
  pendingReturn : Nat := 0
deriving DecidableEq, Repr

/-- A work counter (R122, R127). -/
structure WorkCounter where
  value : Word := 0
  limit : Word := 0
deriving DecidableEq, Repr

/-- A stem engine (R303 to R306). -/
structure StemUnit where
  job : Option Nat := none
  list : Nat := 0
  state : BitVec 4 := 0
  entry : BitVec 12 := 0
  /-- the WAIT of the present entry has been granted -/
  granted : Bool := false
deriving DecidableEq, Repr

/-- A spire (R12, R24). -/
structure Spire where
  owner : Option (Fin 8) := none
  cache : Store 8 := {}
  /-- 64-bit words of the spire cache in uncorrectable error (R505) -/
  bad : List Nat := []
  work : Table WorkCounter := []
  sems : Table Sem := []
  stem : StemUnit := {}
deriving DecidableEq, Repr

/-- A dome (R39 to R41, R102, R471, R477, R512). -/
structure Dome where
  /-- DOM_STEP_RATE.OP (R41) -/
  op : BitVec 4 := 5
  rate : BitVec 16 := 0
  holdCount : BitVec 16 := 0
  droopCount : BitVec 16 := 0
  /-- a further droop would be counted (R39) -/
  droopArmed : Bool := true
  hold : Bool := false
  waveCount : BitVec 16 := 0
  lastSize : BitVec 5 := 0
  nextStart : BitVec 6 := 0
  sramUncorr : BitVec 16 := 0
  sramCorr : BitVec 16 := 0
  fraction : BitVec 8 := 0xFF#8
  tempMax : BitVec 16 := 0x8000#16
  junction : BitVec 16 := 0x8000#16
  throttling : Bool := false
  /-- above 105 °C and not yet back at 100 °C (R477) -/
  hot : Bool := false
  /-- greatest issue fraction that throttling leaves the dome (R477) -/
  thermalCap : BitVec 8 := 0xFF#8
  /-- hottest reading of the second in progress, for the life log (R508) -/
  secondMax : Option (BitVec 16) := none
deriving DecidableEq, Repr

/-! ### LPDDR5 -/

/-- A request in a bank queue (R210). -/
structure MemReq where
  agent : MemAgent
  part : Fin 8
  offset : Nat
  bank : Nat
  row : Nat
  op : MemOp
deriving DecidableEq, Repr

/-- A channel (R205 to R226). -/
structure Channel where
  state : BitVec 4 := 0
  refRate : BitVec 2 := 0
  postponed : BitVec 4 := 0
  train : BitVec 32 := 0
  linkCorr : Word := 0
  inlineCorr : Word := 0
  uncorr : BitVec 16 := 0
  uncorrValid : Bool := false
  uncorrPart : BitVec 3 := 0
  uncorrGranule : BitVec 7 := 0
  retrain : Word := 0
  /-- requests in the bank queues, oldest first -/
  queue : List MemReq := []
  lastBank : Nat := 15
  openRow : Table Nat := []
  /-- open-row hits in a row, per bank (R211) -/
  hits : Table Nat := []
  draining : Bool := false
  /-- the lanes whose drift asks for a pause (R217) -/
  due0 : Bool := false
  due1 : Bool := false
  /-- time of the last EV_ECC_CORRECTED (R221) -/
  lastEvent : Option Nat := none
deriving DecidableEq, Repr

/-! ### Bobbin pools -/

/-- A pool (R227 to R241). -/
structure Pool where
  sizeClass : BitVec 4 := 0
  count : BitVec 17 := 0
  floor : BitVec 17 := 0
  fallback : Option (Fin 8) := none
  base : Nat := 0
  ctrl : Nat := 0
  /-- free bobbins in the on-chip cache and in the free ring -/
  cached : List Nat := []
  ring : List Nat := []
  /-- place in the free ring of its oldest handle -/
  head : Nat := 0
  gens : Table (BitVec 12) := []
  owners : Table (List (BitVec 16)) := []
  low : BitVec 17 := 0
  failFallback : BitVec 16 := 0
  failNoBuffer : BitVec 16 := 0
  /-- ACQUIREs that wait for a refill, with the pool each began at (R237) -/
  waiting : List (BitVec 16 × Fin 8) := []
deriving DecidableEq, Repr

/-! ### Partitions and jobs -/

/-- A loaded model image with its adapter banks (R172, R176, R421). -/
structure ModelImage where
  base : Nat := 0
  length : Nat := 0
  bank0 : Nat := 0
  bank1 : Nat := 0
  bankLength : Nat := 0
  active : Bool := false
deriving DecidableEq, Repr

/-- A registered job description (R367). -/
structure JobDesc where
  offset : Nat := 0
  saveBytes : Nat := 0
deriving DecidableEq, Repr

/-- A client record (R382). -/
structure Client where
  started : Word := 0
  done : Word := 0
  endedOtherwise : Word := 0
  active : BitVec 16 := 0
  limit : BitVec 16 := 0
deriving DecidableEq, Repr

/-- A job-description header, decoded (R365). -/
structure JobHeader where
  spindles : Nat := 0
  spires : Nat := 0
  relocs : Nat := 0
  preemptible : Bool := false
  answer : Bool := false
  sequences : Bool := false
  power : BitVec 8 := 0
  timeLimit : Nat := 0
  answerRing : Nat := 0
  answerSem : Nat := 0
  answerSpire : Nat := 0
  answerArg : Nat := 0
  answerTag : Word := 0
  skeinQueues : BitVec 16 := 0
  skeinBarriers : BitVec 16 := 0
  stepSem : Nat := 0
  stepSpire : Nat := 0
  goSem : Nat := 0
  goSpire : Nat := 0
  seqMax : Nat := 0
  seqTableArg : Nat := 0
deriving DecidableEq, Repr

/-- A pending join of a sequence set (R385, R386). -/
structure PendingJoin where
  ticket : Nat := 0
  tag : Word := 0
  input : Nat := 0
  inputLength : Nat := 0
  pools : List (Fin 8) := []
  /-- deferred by an earlier step -/
  deferred : Bool := false
  cancel : Bool := false
deriving DecidableEq, Repr

/-- A live sequence (R383). -/
structure Sequence where
  index : Nat := 0
  ticket : Nat := 0
  tag : Word := 0
  slot : Nat := 0
  input : Nat := 0
  inputLength : Nat := 0
  handles : List Word := []
  leave : Bool := false
deriving DecidableEq, Repr

/-- The sequence set of a job (R383 to R388). -/
structure SeqSet where
  step : Nat := 0
  nextTicket : Nat := 1
  live : List Sequence := []
  joins : List PendingJoin := []
deriving DecidableEq, Repr

/-- What a pre-emption saved (R376). -/
structure SavedJob where
  spindles : Table Spindle := []
  stems : Table StemUnit := []
  /-- live ranges of the spire caches -/
  caches : Table (Store 8) := []
  /-- recorded semaphore counts, by 32 × spire + semaphore -/
  counts : List (Nat × Nat) := []
deriving DecidableEq, Repr

/-- Where a pipeline job came from (R314). -/
structure JobOrigin where
  pipe : Nat := 0
  stage : Nat := 0
  queue : Nat := 0
  batch : Word := 0
  result : Word := 0
  seq : Nat := 0
deriving DecidableEq, Repr

/-- A job-table entry (R369 to R389). -/
structure Job where
  serial : BitVec 16 := 0
  client : BitVec 8 := 0
  part : BitVec 3 := 0
  state : BitVec 4 := 0
  status : Status := 0
  cause : BitVec 8 := 0
  preemptions : BitVec 8 := 0
  /-- time of R375 in ticks -/
  time : Nat := 0
  desc : Nat := 0
  header : JobHeader := {}
  save : Nat := 0
  saveBytes : Nat := 0
  argKinds : List Nat := []
  args : List Nat := []
  /-- bobbins shared with the job as arguments (R368) -/
  shares : List Word := []
  /-- mailbox slot and host sequence of the start, and its interrupt flag (R381, R401) -/
  slot : Option (Fin 10) := none
  hostSeq : Word := 0
  irq : Bool := false
  origin : Option JobOrigin := none
  /-- outcome fixed by the arbiter while ENDING (R373) -/
  outcome : Status := 0
  errSpindle : BitVec 16 := 0xFFFF#16
  errOffset : BitVec 16 := 0xFFFF#16
  stale : BitVec 16 := 0
  rateNotHeld : Bool := false
  /-- breached (R475), with the time of its last event -/
  breached : Bool := false
  lastBreach : Option Nat := none
  power : BitVec 8 := 0
  /-- order in which it entered WAITING or RESUMING, and in which it became terminal -/
  order : Nat := 0
  /-- semaphore units held, by 32 × spire + semaphore (R203) -/
  held : Table Int := []
  saved : Option SavedJob := none
  /-- adapter bank in use at the start, by image base (R176) -/
  banks : List (Nat × Bool) := []
  /-- answer bytes sent and next PART (R325) -/
  answerSent : Nat := 0
  answerPart : Nat := 0
  seqs : Option SeqSet := none
  /-- slot of the command that began the save (R374) -/
  preemptor : Option (Fin 10) := none
  /-- ENDING: its last records have been formed and its semaphores, queues and sequences settled (R380) -/
  endFormed : Bool := false
deriving DecidableEq, Repr

/-- An expert-table entry (R346). -/
structure Expert where
  home : BitVec 4 := 0
  part : BitVec 3 := 0
  epoch : BitVec 16 := 0
  valid : Bool := false
deriving DecidableEq, Repr

/-- A skein queue (R347 to R351). -/
structure SkQueue where
  receive : Bool := false
  sem : Nat := 0
  semSpire : Nat := 0
  freeSem : Nat := 0
  freeSpire : Nat := 0
  slotClass : Nat := 0
  vc : Nat := 2
  base : Nat := 0
  slots : Nat := 0
  grants : List Nat := []
  /-- next slot or entry in ring order -/
  next : Nat := 0
  /-- send: units of SEM taken and entries not yet sent -/
  taken : Nat := 0
  /-- receive: sources of the slots filled and not yet freed, oldest first -/
  filled : List (BitVec 4 × BitVec 3 × BitVec 12 × BitVec 16) := []
  /-- receive: modules whose acknowledgement is awaited; bound once none is left -/
  awaiting : List Nat := []
deriving DecidableEq, Repr

/-- A batch slot assignment (R298, R299). -/
structure BatchSlot where
  stream : BitVec 16 := 0xFFFF#16
  box : BitVec 16 := 0
  picture : Word := 0
  flags : BitVec 8 := 0
  cx : Nat := 0
  cy : Nat := 0
  cw : Nat := 0
  ch : Nat := 0
  time : BitVec 64 := 0
  /-- its source box in sixteenths and the picture's size, for R316 -/
  x0 : Int := 0
  y0 : Int := 0
  bw : Int := 0
  bh : Int := 0
  width : Nat := 0
  height : Nat := 0
  done : Bool := false
  /-- the request it belongs to, and whether a stage of the pipeline submitted it (R313) -/
  request : Nat := 0
  own : Bool := false
deriving DecidableEq, Repr

/-- A preparation request in a queue (R289, R300). -/
structure PrepReq where
  number : Nat := 0
  pipe : Nat := 0
  /-- submitted by a stage of the pipeline (R313) -/
  own : Bool := false
  bytes : Bytes := []
  boxes : List (Int × Int × Int × Int) := []
  /-- boxes already given a slot -/
  assigned : Nat := 0
  since : Nat := 0
deriving DecidableEq, Repr

/-- A batch (R298, R299). -/
structure Batch where
  seq : Nat := 0
  handle : Word := 0
  slots : List BatchSlot := []
  closed : Bool := false
  /-- complete and waiting for a result bobbin (R314), since -/
  complete : Bool := false
  since : Nat := 0
  live : Bool := false
  /-- its job has started (R314) -/
  started : Bool := false
  /-- its result bobbin, and the status its job ended with (R314) -/
  result : Option Word := none
  ended : Option Status := none
deriving DecidableEq, Repr

/-- A batch queue (R297 to R301). -/
structure BatchQueue where
  pipe : Nat := 0
  decl : Bytes := []
  nextSeq : Nat := 0
  batches : List Batch := []
  waiting : List PrepReq := []
  /-- next SEQ to pass on (R314), and results held back -/
  passNext : Nat := 0
deriving DecidableEq, Repr

/-- A work item of the scaler and crop units (R291). -/
structure WorkItem where
  part : Fin 8
  queue : Nat
  seq : Nat
  slot : Nat
  number : Nat
  pipe : Nat
  live : Bool
  request : Bytes
  box : Int × Int × Int × Int
deriving DecidableEq, Repr

/-- A message sent whose end-to-end credit has not come back (R350, R353). -/
structure SkOut where
  dest : BitVec 4 := 0
  dstPart : BitVec 3 := 0
  queue : BitVec 4 := 0
  expert : BitVec 12 := 0
  epoch : BitVec 16 := 0
deriving DecidableEq, Repr

/-- A partition (R24, R389). -/
structure Partition where
  ecc : Bool := false
  quota : BitVec 11 := 0
  granules : List Nat := []
  /-- the draw of its memory keys (R223) -/
  keyTag : Nat := 0
  region : Store 8 := {}
  images : List ModelImage := []
  pools : Table Pool := []
  descs : List JobDesc := []
  clients : Table Client := []
  experts : Table Expert := []
  skQueues : Table SkQueue := []
  batchQueues : Table BatchQueue := []
  /-- messages whose credit is out (R353), and SKN_PART_DISCARD (R360) -/
  outstanding : List SkOut := []
  staleCount : BitVec 16 := 0
  earlyCount : BitVec 8 := 0
  idleCount : BitVec 8 := 0
  /-- aligned 128-byte halves in uncorrectable error, by number (R505) -/
  badHalves : List Nat := []
deriving DecidableEq, Repr

/-! ### Mailboxes -/

/-- A mailbox (R390 to R409). -/
structure Mailbox where
  present : Bool := false
  cmdBase : BitVec 64 := 0
  cplBase : BitVec 64 := 0
  evtBase : BitVec 64 := 0
  statBase : BitVec 64 := 0
  enable : Bool := false
  evtLog2 : BitVec 4 := 0
  cplLog2 : BitVec 4 := 0
  cmdLog2 : BitVec 4 := 0
  cmdProduced : Word := 0
  cmdConsumed : Word := 0
  cplProduced : Word := 0
  cplConsumed : Word := 0
  evtProduced : Word := 0
  evtConsumed : Word := 0
  state : BitVec 4 := 0
  opcode : BitVec 16 := 0
  evtLost : BitVec 16 := 0
  badDoorbell : BitVec 16 := 0
  /-- SEQ of the next event meant for the ring (R405) -/
  evtSeq : Word := 0
  /-- job-end reports held while disabled, oldest first, with their interrupt flags (R396, R401) -/
  held : List (Bytes × Bool) := []
  /-- ENABLE was cleared while a command ran (R393) -/
  stopping : Bool := false
deriving DecidableEq, Repr

/-- The command a slot carries out (R395). -/
structure Running where
  desc : Bytes := []
  /-- passed R398 -/
  checked : Bool := false
  /-- its effect has begun and its completion waits for an event -/
  waiting : Bool := false
  /-- its completion is discarded: the host was lost (R496) -/
  discard : Bool := false
deriving DecidableEq, Repr

/-! ### Media unit and intake -/

/-- An access unit (R278). -/
structure AccessUnit where
  handle : Word := 0
  bytes : Nat := 0
  incomplete : Bool := false
  time : BitVec 64 := 0
  arrival : BitVec 64 := 0
  /-- order in which it completed intake (R261) -/
  order : Nat := 0
deriving DecidableEq, Repr

/-- A picture waiting, decoding or held (R253 to R263). -/
structure Picture where
  number : Nat := 0
  info : Option PicInfo := none
  au : AccessUnit := {}
  frame : Option Word := none
  slot : Option Word := none
  start : Nat := 0
  finish : Nat := 0
  symbols : Nat := 0
  /-- since when it waits for bobbins (R257) -/
  since : Nat := 0
  /-- block row at which its context was saved (R262) -/
  row : BitVec 12 := 0
deriving DecidableEq, Repr

/-- An RTP packet held for order (R287). -/
structure HeldPacket where
  seq : BitVec 16 := 0
  ts : Word := 0
  marker : Bool := false
  payload : Option Bytes := none
  stamp : BitVec 64 := 0
  /-- packets of the flow that arrived later -/
  later : Nat := 0
deriving DecidableEq, Repr

/-- A stream (R255, R273 to R288, R306). -/
structure Stream where
  part : Fin 8 := 0
  source : Nat := 0
  auPool : Fin 8 := 0
  decode : Bytes := []
  ringBase : Nat := 0
  ringStatus : Nat := 0
  ringEntries : Nat := 0
  /-- function through which the opening command arrived (R488) -/
  fn : Nat := 0
  flow : Bytes := []
  state : BitVec 4 := 0
  lastStatus : Status := 0
  delivered : Word := 0
  discarded : BitVec 16 := 0
  abandoned : BitVec 8 := 0
  rejected : BitVec 8 := 0
  avgIntra : Word := 0
  avgInter : Word := 0
  incomplete : BitVec 16 := 0
  badEntry : BitVec 16 := 0
  produced : Word := 0
  consumed : Word := 0
  aus : Word := 0
  /-- entries read since the last count write (R282) -/
  sinceWrite : Nat := 0
  /-- the ring no longer reads: closing or host lost -/
  ringStopped : Bool := false
  /-- the entry read and waiting for its chunk, and the chunk's bytes copied -/
  entry : Option Bytes := none
  copied : Nat := 0
  assembling : Option AccessUnit := none
  /-- the unit that arrives is discarded whole (R279) -/
  skipUnit : Bool := false
  /-- RTP timestamp of the unit in assembly, and the last extended time (R280) -/
  lastTs : Option Word := none
  extTime : BitVec 64 := 0
  nextSeq : Option (BitVec 16) := none
  held : List HeldPacket := []
  /-- a gap spans the next unit (R287) -/
  nextIncomplete : Bool := false
  gaps : BitVec 16 := 0
  late : BitVec 8 := 0
  dup : BitVec 8 := 0
  arrival : BitVec 64 := 0
  srNtp : BitVec 64 := 0
  srRtp : Word := 0
  srStamp : Word := 0
  /-- complete access units not begun, oldest first -/
  ready : List AccessUnit := []
  /-- the picture that waits for bobbins (WAIT_BUF) -/
  waitingPic : Option Picture := none
  /-- decoded pictures not yet output (R259) -/
  reorder : List Picture := []
  /-- reference pictures held: number and slot handle (R263) -/
  refs : List (Nat × Word) := []
  pictures : Nat := 0
  dropped : Nat := 0
  /-- the close asked for a flush (R277) -/
  flush : Bool := false
  /-- entered SEEK since the last random-access point (R248) -/
  seekEntered : Bool := true
  consumer : Option Nat := none
  nextTrackId : Word := 1
deriving DecidableEq, Repr

/-- A decoder engine (R273). -/
structure Decoder where
  state : BitVec 4 := 0
  row : BitVec 12 := 0
  valid : Bool := false
  stream : BitVec 8 := 0
  pics : Word := 0
  picture : Option Picture := none
deriving DecidableEq, Repr

/-- A motion-search engine (R268 to R273). -/
structure MotionUnit where
  state : BitVec 4 := 0
  remaining : BitVec 13 := 0
  part : Fin 8 := 0
  owner : BitVec 16 := 0
  request : Bytes := []
  /-- the track step it serves: pipeline and stream -/
  step : Option (Nat × Nat) := none
deriving DecidableEq, Repr

/-- A scaler and crop unit (R306). -/
structure PrepUnit where
  state : BitVec 4 := 0
  part : BitVec 3 := 0
  queue : BitVec 4 := 0
  item : Option WorkItem := none
deriving DecidableEq, Repr

/-- An Ethernet port (R285, R306). -/
structure NetPort where
  link : Bool := false
  enabled : Bool := false
  fec : BitVec 2 := 0
  vlan : Option (BitVec 12) := none
  mac : BitVec 48 := 0
  ipv4 : BitVec 32 := 0
  ipv6 : BitVec 128 := 0
  rx : Word := 0
  fcs : BitVec 16 := 0
  malformed : BitVec 16 := 0
  unmatched : Word := 0
  /-- the port's local counter as last seen (R44) -/
  counter : BitVec 64 := 0
deriving DecidableEq, Repr

/-! ### Pipelines, tracks, output rings -/

/-- A detection mapped to its picture (R316, R323). -/
structure Detection where
  x0 : Int := 0
  y0 : Int := 0
  x1 : Int := 0
  y1 : Int := 0
  score : Word := 0
  cls : BitVec 16 := 0
  clipped : Bool := false
  outside : Bool := false
  embedding : List (BitVec 16) := []
deriving DecidableEq, Repr

/-- A picture inside a pipeline (R312). -/
structure PipePicture where
  stream : Nat := 0
  number : Nat := 0
  handle : Word := 0
  time : BitVec 64 := 0
  arrival : BitVec 64 := 0
  /-- detections by NET stage -/
  detections : Table (List Detection) := []
  /-- slots not yet answered, by stage -/
  awaiting : Table Nat := []
  /-- preparation requests of the picture: stage and request number (R313) -/
  requests : List (Nat × Nat) := []
  /-- stages it has entered, and stages it has left (R312) -/
  entered : List Nat := []
  left : List Nat := []
  overflow : Nat := 0
  status : Status := 0
  /-- the counts of its track step (R323) -/
  matched : Nat := 0
  joined : Nat := 0
  leaves : Nat := 0
  deferred : Nat := 0
  discarded : Nat := 0
  /-- bodies of its TRACK records, and of its TRACK_END records, as its step left them (R322, R323) -/
  trackRecords : List Bytes := []
  endRecords : List Bytes := []
  /-- its records have been formed -/
  emitted : Bool := false
  /-- passed every stage; kept as the previous picture of TRACK -/
  done : Bool := false
deriving DecidableEq, Repr

/-- A track (R317). -/
structure Track where
  pipe : Nat := 0
  stream : Nat := 0
  id : Word := 0
  handle : Word := 0
  box : Detection := {}
  mvx : Int := 0
  mvy : Int := 0
  misses : Nat := 0
  steps : Nat := 0
deriving DecidableEq, Repr

/-- A deferred join (R320). -/
structure DeferredJoin where
  stream : Nat := 0
  box : Detection := {}
  waited : Nat := 0
deriving DecidableEq, Repr

/-- A pipeline (R307 to R331). -/
structure Pipe where
  valid : Bool := false
  live : Bool := false
  removing : Bool := false
  /-- the removal asked for a flush (R330) -/
  flush : Bool := false
  part : Fin 8 := 0
  ring : Nat := 0
  stages : List Bytes := []
  pictures : List PipePicture := []
  dropped : BitVec 16 := 0
  done : BitVec 16 := 0
  /-- pictures delivered by each stream, for DECIMATE (R309) -/
  seen : Table Nat := []
  deferred : List DeferredJoin := []
  /-- streams whose detach or close ends their tracks after the step, with the reason -/
  leaving : List (Nat × Nat) := []
deriving DecidableEq, Repr

/-- A record that waits on a ring, with its EMITTED time (R322, R329). -/
structure Record where
  bytes : Bytes := []
  emitted : Nat := 0
deriving DecidableEq, Repr

/-- An output ring (R327 to R331). -/
structure ORing where
  valid : Bool := false
  part : Fin 8 := 0
  fn : Nat := 0
  block : Bool := false
  base : Nat := 0
  units : Nat := 0
  status : Nat := 0
  produced : Word := 0
  consumed : Word := 0
  badDoorbell : BitVec 16 := 0
  lost : BitVec 16 := 0
  /-- records discarded since the last LOSS record, and the first one's time (R324) -/
  lostRun : Nat := 0
  lostFirst : Nat := 0
  waiting : List Record := []
  /-- the host was lost (R496) -/
  gone : Bool := false
deriving DecidableEq, Repr

/-! ### Skein -/

/-- A flit that waits to leave: the port it came in by (4 for the module's own), the hop credit it holds
there, and the flit (R337, R343). -/
structure TxFlit where
  input : Nat := 4
  key : Nat := 0
  flit : Flit
deriving DecidableEq, Repr

/-- A Burava port (R332 to R339, R360). -/
structure LinkPort where
  state : BitVec 4 := 0
  enabled : Bool := true
  neighbour : BitVec 4 := 0
  crc : BitVec 16 := 0
  fec : BitVec 16 := 0
  retry : Word := 0
  lastEvent : Option Nat := none
  /-- flits kept for replay, oldest first, and how often the oldest was replayed -/
  replay : List Flit := []
  replays : Nat := 0
  nextSend : BitVec 8 := 0
  expected : BitVec 8 := 0
  /-- hop credits held, by 2 × VC + subclass (R337) -/
  credits : Table Nat := []
  /-- hop credits to return, by 2 × VC + subclass -/
  owed : Table Nat := []
  /-- flits that wait to leave on this port, oldest first (R336, R343) -/
  tx : List TxFlit := []
  /-- where the message in progress on a VC comes from (R336) -/
  current : Table Nat := []
  /-- VC 3 has the next turn against VC 2 (R336) -/
  turn : Bool := false
  /-- identity of the module at the far end (R423) -/
  peer : Bytes := []
  /-- link keys agreed (R423) -/
  keyed : Bool := false
  keys : Bytes := []
deriving DecidableEq, Repr

/-- A formation in progress (R342). -/
structure Formation where
  slot : Fin 10 := 0
  members : List Bytes := []
  routes : List (BitVec 64) := []
  next : Nat := 1
  pace : Bool := false
deriving DecidableEq, Repr

/-- A relay in progress on the manager (R345). -/
structure Relay where
  slot : Fin 10 := 0
  member : Nat := 0
  cpl : Nat := 0
deriving DecidableEq, Repr

/-- An end-to-end credit pool (R350). -/
structure CreditPool where
  part : Fin 8 := 0
  dest : BitVec 4 := 0
  dstPart : BitVec 3 := 0
  queue : BitVec 4 := 0
  slotBytes : Nat := 256
  credits : Nat := 0
deriving DecidableEq, Repr

/-- A bound skein barrier (R354). -/
structure SkBarrier where
  part : Fin 8 := 0
  sem : Nat := 0
  spire : Nat := 0
  need : Nat := 0
  members : BitVec 16 := 0
  /-- manager: modules that have arrived in this generation -/
  arrived : BitVec 16 := 0
deriving DecidableEq, Repr

/-- The skein state of the module (R15, R340 to R360). -/
structure Skein where
  state : BitVec 4 := 0
  manager : Bool := false
  size : BitVec 4 := 0
  index : BitVec 4 := 0
  pace : Bool := false
  live : BitVec 16 := 0
  ceiling : BitVec 16 := 0xFFFF#16
  own : BitVec 16 := 0
  routes : BitVec 64 := 0
  ports : Table LinkPort := []
  forming : Option Formation := none
  relays : List Relay := []
  /-- the manager's heartbeats unanswered, by worker -/
  unanswered : Table Nat := []
  /-- last E of each member (R359) -/
  reported : Table (BitVec 16) := []
  pools : List CreditPool := []
  barriers : Table SkBarrier := []
deriving DecidableEq, Repr

/-! ### Keys, fuses, audit log -/

/-- A partition's command key (R398, R419). -/
structure CommandKey where
  key : Bytes := []
  last : Nat := 0
deriving DecidableEq, Repr

/-- An audit entry before its 64 bytes are formed (R428). -/
structure AuditEntry where
  seq : Nat := 0
  kind : BitVec 8 := 0
  state : BitVec 8 := 3
  part : BitVec 8 := 0xFF#8
  value : BitVec 8 := 0
  boot : Word := 0
  time : BitVec 64 := 0
  counter : BitVec 64 := 0
  detail : Bytes := []
  chain : Bytes := []
deriving DecidableEq, Repr

/-- Key engine, key and counter store, fuse bank, audit log (R410 to R431). -/
structure Security where
  /-- fuse secret F; blank until burnt (R411) -/
  secret : Bytes := []
  dieId : BitVec 64 := 0
  endorsement : Bytes := []
  ownerKey : Option Bytes := none
  ownerCounter : Nat := 0
  keys : Table CommandKey := []
  reports : List Bytes := []
  svFused : Nat := 0
  svRunning : Nat := 0
  fwHash : Bytes := []
  fwVersion : Word := 0
  ceilSteps : Nat := 0
  skeinSteps : Nat := 0
  skeinId : Bytes := []
  debugDisabled : Bool := false
  permanent : List AuditEntry := []
  ring : List AuditEntry := []
  ringSeq : Nat := 0
  /-- configuration MRAM: Belfry seal generation and tamper state at the previous run (R520) -/
  lastSeal : BitVec 6 := 0
  lastTamper : Bool := false
deriving DecidableEq, Repr

/-! ### Belfry -/

/-- The sealed parameter set's fields (R450). -/
structure BlfParams where
  n : Nat := 0
  dpc : Nat := 0
  density : Nat := 0
  triggerCounts : Nat := 0
  maxInterval : Nat := 0
  deadline : Nat := 0
  direction : Bool := false
  bytes : Bytes := []
deriving DecidableEq, Repr

/-- What a totaliser slot commits (R454). -/
structure Totals where
  volTotal : Int := 0
  massTotal : Int := 0
  partialMass : Int := 0
  vrem : Int := 0
  mrem : Int := 0
  high : Int := 0
  boundary : Int := 0
  count : Int := 0
  seq : Nat := 0
  countEnd : Int := 0
deriving DecidableEq, Repr

/-- The record in progress (R440, R443). -/
structure OpenRecord where
  units : Int := 0
  gapCounts : Nat := 0
  tamper : Bool := false
  encError : Bool := false
  reverse : Bool := false
  overrange : Bool := false
  first : Bool := true
  pairs : Nat := 0
deriving DecidableEq, Repr

/-- A Belfry event-log entry (R453). -/
structure BlfLogEntry where
  events : BitVec 16 := 0
  kind : BitVec 8 := 0
  gen : BitVec 8 := 0
  state : BitVec 8 := 2
  what : BitVec 8 := 0
  seq : Nat := 0
  id : Bytes := []
  paramId : Bytes := []
  keyHash : Bytes := []
deriving DecidableEq, Repr

/-- The Belfry (R432 to R461). -/
structure Belfry where
  powered : Bool := false
  state : BitVec 4 := 0
  secret : Bytes := []
  endorsement : Bytes := []
  verKey : Option Bytes := none
  /-- seal steps burnt (R452) -/
  sealGen : Nat := 0
  sealBroken : Bool := false
  events : BitVec 16 := 0
  log : List BlfLogEntry := []
  firmware : Bytes := []
  fwValid : Bool := false
  blfId : Bytes := []
  params : BlfParams := {}
  paramsValid : Bool := false
  paramId : Bytes := []
  stagedFw : Store 8 := {}
  stagedParam : Store 8 := {}
  stagedFwLen : Nat := 0
  stagedParamLen : Nat := 0
  encA : Bool := false
  encB : Bool := false
  /-- the encoder count (R436) -/
  count : Int := 0
  lastTrigger : Int := 0
  /-- trigger pending its pair: the latched count (R435) -/
  triggered : Option Int := none
  frames : List (Fin 2) := []
  /-- windows of the pair in reception or in the call, by input (R435) -/
  windows : Table Bytes := []
  badPairs : Nat := 0
  /-- encoder errors (R436) -/
  encErrors : Nat := 0
  pairs : Nat := 0
  /-- the call in progress: count of its pair (R438) -/
  calling : Option Int := none
  /-- counts of accepted pairs that wait for their calls, oldest first (R438) -/
  waiting : List Int := []
  /-- an interval has been opened, and its first count (R440) -/
  interval : Option Int := none
  openRec : OpenRecord := {}
  totals : Totals := {}
  /-- committed slots A and B (R454) -/
  slotA : Option Totals := none
  slotB : Option Totals := none
  slotNextB : Bool := false
  records : List Bytes := []
  partialReset : Bool := false
  tamperOpen : Bool := false
  /-- last raw samples of the loop, newest first (R533) -/
  samples : List Bool := []
  /-- relay inbox, its reply and the slot that waits (R458) -/
  inbox : Bytes := []
  inboxFull : Bool := false
  /-- mirrors of BLF_ registers (R461) -/
  mirState : BitVec 4 := 0
  mirTamper : Bool := false
  mirBroken : Bool := false
  mirGen : BitVec 6 := 0
  mirEvents : BitVec 16 := 0
  mirSeq : BitVec 64 := 0
  mirId : BitVec 64 := 0
deriving DecidableEq, Repr

/-! ### Power, host interface, life log, start -/

/-- Supply and power controller (R462 to R480). -/
structure Power where
  target : BitVec 4 := 1
  /-- the points spanned while VCMP slews, the settled point alone once it settles (R36) -/
  spanned : List (BitVec 4) := [1]
  measuredOnly : Bool := false
  thermal : Bool := false
  dip : Bool := false
  stopping : Bool := false
  holdOk : Bool := false
  /-- the input is below 12 V: the arrays issue nothing (R462) -/
  low : Bool := false
  limit : BitVec 17 := 120000
  voltage : BitVec 16 := 0
  current : BitVec 16 := 0
  measured : BitVec 16 := 0
  estimate : BitVec 16 := 0
  energy : BitVec 64 := 0
  /-- last 100 samples of measured and estimated power, mW, newest first -/
  samples : List (Nat × Nat) := []
  /-- consecutive samples that disagree (R476) -/
  disagree : Nat := 0
  /-- points removed by throttling (R477) -/
  thermalDrop : Nat := 0
  /-- arrays admitted by wave gates since the last sample: the feed-forward demand (R474) -/
  admitted : Nat := 0
  /-- slots whose CMD_POWER_RECAL runs, oldest first -/
  recal : List (Fin 10) := []
  /-- no job has held resources for 1 ms (R470): samples since the last -/
  quietSamples : Nat := 0
deriving DecidableEq, Repr

/-- Which agent waits for a host read (R490). -/
inductive HostReader where
  | intake (stream : Nat)
  | hostSlot (unit : Nat)
  | lantern (slot : Nat)
  | recovery
deriving DecidableEq, Repr

/-- An outstanding host read (R490). -/
structure HostRead where
  tag : Nat := 0
  fn : Nat := 0
  addr : Nat := 0
  bytes : Nat := 0
  reader : HostReader
  /-- issued on the link; before, it waits for Bus Master Enable or its translation (R492, R495) -/
  sent : Bool := false
  /-- its completion has come and its data waits for the reader (R490) -/
  answered : Bool := false
deriving DecidableEq, Repr

/-- One MSI-X vector (R491). -/
structure MsixVec where
  addrLo : Word := 0
  addrHi : Word := 0
  data : Word := 0
  masked : Bool := true
  pendingBit : Bool := false
  window : Bool := false
  heldCause : Bool := false
deriving DecidableEq, Repr

/-- What a function's configuration space sets (R483, R490 to R495). -/
structure FnConfig where
  busMaster : Bool := false
  ats : Bool := false
  msixEnable : Bool := false
  msixMask : Bool := false
  timeoutUs : Nat := 0
  /-- power state D3hot (R494) -/
  d3hot : Bool := false
  /-- dwords as the host last wrote them, by offset (log entry 7) -/
  words : Table (BitVec 32) := []
deriving DecidableEq, Repr

/-- A translation cache entry (R492). -/
structure Translation where
  fn : Nat := 0
  page : Nat := 0
  target : Nat := 0
  readOk : Bool := false
  writeOk : Bool := false
deriving DecidableEq, Repr

/-- HI latches of one function (R45, R306). -/
structure Latches where
  timeHi : Word := 0
  arrivalHi : Table Word := []
  srNtpHi : Table Word := []
  srRtp : Table Word := []
  srStamp : Table Word := []
  energyHi : Word := 0
  blfSeqHi : Word := 0
  blfIdHi : Word := 0
deriving DecidableEq, Repr

/-- The PCI Express endpoint (R481 to R498). -/
structure HostIf where
  speed : BitVec 4 := 0
  width : BitVec 4 := 0
  pm : BitVec 4 := 0
  l1Entries : BitVec 16 := 0
  cplTimeout : BitVec 8 := 0
  poisoned : BitVec 8 := 0
  unexpected : BitVec 8 := 0
  xlateFail : BitVec 8 := 0
  lastCause : BitVec 4 := 0
  lastFunction : BitVec 4 := 0
  hostLosses : BitVec 16 := 0
  invalidations : BitVec 16 := 0
  cache : List Translation := []
  /-- translation requests sent, with whether an invalidation came later (R493) -/
  xlateSent : List (Nat × Nat × Bool) := []
  /-- invalidations not yet answered: function and the tags of reads they wait for, oldest first (R493) -/
  invWaiting : List (Nat × List Nat) := []
  linkUp : Bool := false
  /-- configuration requests are answered (step 6 of R513) -/
  configReady : Bool := false
  vfEnable : Bool := false
  numVfs : Nat := 0
  aspm : Bool := false
  l11 : Bool := false
  l12 : Bool := false
  cfg : Table FnConfig := []
  msix : Table MsixVec := []
  reads : List HostRead := []
  nextTag : Nat := 0
  /-- tags of reads abandoned at host loss (R496) -/
  abandoned : List Nat := []
  /-- writes held while Bus Master Enable is clear, oldest first (R495) -/
  heldWrites : List Output := []
  /-- advisory and uncorrectable errors logged by AER (R485, R489) -/
  advisory : Nat := 0
  correctable : Nat := 0
  nonFatal : Nat := 0
  fatal : Nat := 0
  /-- a fatal error waits for the host's reset (R489) -/
  fatalWait : Bool := false
  latches : Table Latches := []
deriving DecidableEq, Repr

/-- The life log's counters (R508 to R510), 32 bits each. -/
structure LifeLog where
  boots : Word := 0
  powerOnS : Word := 0
  commits : Word := 0
  orderlyStops : Word := 0
  fatalRestarts : Word := 0
  decodeAbandon : Word := 0
  decodeReject : Word := 0
  powerDisagree : Word := 0
  powerRecal : Word := 0
  fixedBreach : Word := 0
  thermalThrottle : Word := 0
  op : Table Word := []
  dips : Table Word := []
  portRetry : Table Word := []
  portDown : Table Word := []
  /-- 32 d + bin -/
  temp : Table Word := []
  /-- 8 d + point - 1 -/
  droop : Table Word := []
  droopHold : Table Word := []
  /-- dome d, 4 for SRAM outside the domes -/
  sramCorr : Table Word := []
  sramUncorr : Table Word := []
  linkCorr : Table Word := []
  inlineCorr : Table Word := []
  uncorr : Table Word := []
  retrain : Table Word := []
  columns : List Bytes := []
  columnsLost : Word := 0
deriving DecidableEq, Repr

/-- Start, recovery and MRAM copies of the life log (R507, R513 to R523). -/
structure Boot where
  stage : BitVec 4 := 0
  cause : BitVec 4 := 0
  requested : Bool := false
  trainFailed : BitVec 7 := 0
  offline : BitVec 9 := 0
  recAddr : BitVec 64 := 0
  recLength : Word := 0
  recState : BitVec 4 := 0
  recStatus : Status := 0
  /-- rails at power-good, 0 to 8 (R468) -/
  rails : Nat := 0
  started : Bool := false
  romRunning : Bool := false
  perst : Bool := true
  /-- Lantern and the fabric are held in reset until PERST# is released (R514) -/
  held : Bool := false
  /-- EV_SEAL_CHANGE and EV_TAMPER wait for mailbox 8 to be enabled (R520) -/
  owedSeal : Bool := false
  owedTamper : Bool := false
  pg : Bool := false
  stopPin : Bool := false
  firmwareEnded : Bool := false
  bootsCounted : Bool := false
  flash : Option FwImage := none
  staged : Option FwImage := none
  /-- the running image (R516) -/
  image : Option FwImage := none
  life : LifeLog := {}
  slotA : Option LifeLog := none
  slotB : Option LifeLog := none
  lastSlot : Bool := false
  rebuilt : Bool := false
  age : BitVec 16 := 0
  lanSramUncorr : BitVec 16 := 0
  lanSramCorr : BitVec 16 := 0
deriving DecidableEq, Repr

/-! ### The whole module -/

/-- The state of the module. -/
structure State where
  /-- commands that wait, first in first out -/
  pending : List Instr := []
  /-- LAN_LOCAL_TIME (R44) -/
  time : BitVec 64 := 0
  /-- the model's own field: draws of free values made so far (log entry 3) -/
  draws : Nat := 0
  /-- the model's own field: what the module has sent, newest first (log entry 9) -/
  out : List Output := []
  /-- the model's own field: order numbers given so far -/
  orders : Nat := 0
  spindles : Table Spindle := []
  spires : Table Spire := []
  domes : Table Dome := []
  channels : Table Channel := []
  parts : Table Partition := []
  jobs : Table Job := []
  mailboxes : Table Mailbox := []
  /-- the command each slot carries out (R395, R345) -/
  running : Table Running := []
  /-- last mailbox served (R395) -/
  lastServed : Nat := 8
  streams : Table Stream := []
  decoders : Table Decoder := []
  /-- review pictures whose context is saved (R262) -/
  suspended : List (Nat × Picture) := []
  motion : Table MotionUnit := []
  prepUnits : Table PrepUnit := []
  workItems : List WorkItem := []
  /-- busy ticks of the scaler and crop units in the window in progress, and MED_PREP_LOAD.LOAD (R306) -/
  prepBusy : Nat := 0
  prepLoad : BitVec 10 := 0
  prepSat : BitVec 16 := 0
  prepUfl : BitVec 16 := 0
  netPorts : Table NetPort := []
  pipes : Table Pipe := []
  tracks : Table Track := []
  orings : Table ORing := []
  skein : Skein := {}
  sec : Security := {}
  belfry : Belfry := {}
  power : Power := {}
  hif : HostIf := {}
  boot : Boot := {}
deriving DecidableEq, Repr

/-- The module right after reset: every field at its default. -/
def State.reset : State := {}

end Sys2Proof.Machine
end

