-- ==== Sys2Proof/Machine/Bits.lean ====
section
/-! DEFINITION. Bit fields, little-endian numbers, counters that stop, tables and storage: the plain
operations every meaning is built from (R9, R10). -/

namespace Sys2Proof.Machine

/-! ### Numbers and bytes -/

/-- Bits [lo+n-1:lo] of a number. -/
def field (x lo n : Nat) : Nat := x / 2 ^ lo % 2 ^ n

/-- Bit i of a number. -/
def bitOf (x i : Nat) : Bool := x / 2 ^ i % 2 == 1

/-- An n-bit two's complement number. -/
def signedOf (n x : Nat) : Int :=
  if x % 2 ^ n < 2 ^ (n - 1) then (x % 2 ^ n : Nat) else ((x % 2 ^ n : Nat) : Int) - (2 ^ n : Nat)

/-- The n-bit two's complement pattern of an integer. -/
def unsignedOf (n : Nat) (x : Int) : Nat := (x % (2 ^ n : Nat)).toNat

/-- The value of bytes, least significant first (R9). -/
def leNat : Bytes → Nat
  | [] => 0
  | b :: r => b.toNat + 256 * leNat r

/-- The n bytes of a number, least significant first (R9). -/
def toLE : Nat → Nat → Bytes
  | 0, _ => []
  | n + 1, x => BitVec.ofNat 8 x :: toLE n (x / 256)

/-- n bytes from byte lo on. -/
def slice (b : Bytes) (lo n : Nat) : Bytes := (b.drop lo).take n

/-- Byte i. -/
def byteAt (b : Bytes) (i : Nat) : Nat := (b.getD i 0).toNat

/-- The number in bytes [lo+n-1:lo]. -/
def le (b : Bytes) (lo n : Nat) : Nat := leNat (slice b lo n)

/-- Bytes [lo+n-1:lo] are all zero. -/
def zeros (b : Bytes) (lo n : Nat) : Bool := (slice b lo n).all (· == 0)

/-- n zero bytes. -/
def zeroBytes (n : Nat) : Bytes := List.replicate n 0

/-- Exactly n bytes: cut or filled with zeros. -/
def fit (n : Nat) (b : Bytes) : Bytes := b.take n ++ zeroBytes (n - b.length)

/-- A flag as a bit. -/
def flag (b : Bool) : Nat := if b then 1 else 0

/-- A number of bits from a list of (place, value). -/
def packBits (l : List (Nat × Nat)) : Nat := l.foldl (fun a p => a + p.2 * 2 ^ p.1) 0

/-- The numbers 0 to n - 1 whose bit is set in m. -/
def bitsSet (n m : Nat) : List Nat := (List.range n).filter (bitOf m)

/-- A mask from a list of bit numbers. -/
def maskOf (l : List Nat) : Nat := l.foldl (fun a i => a ||| 2 ^ i) 0

/-- a rounded up to a multiple of m. -/
def alignUp (a m : Nat) : Nat := (a + m - 1) / m * m

/-- Ceiling of a / b. -/
def ceilDiv (a b : Nat) : Nat := (a + b - 1) / b

/-- Floor square root, by binary digits: k digits of the result. -/
def isqrtAux (n : Nat) : Nat → Nat → Nat
  | 0, r => r
  | k + 1, r => isqrtAux n k (if (r + 2 ^ k) * (r + 2 ^ k) ≤ n then r + 2 ^ k else r)

/-- Floor square root of n. -/
def isqrt (n : Nat) : Nat := isqrtAux n (Nat.log2 n / 2 + 1) 0

/-! ### Counters that stop at their largest value -/

/-- A counter advanced by n that stops at its largest value. -/
def satAdd {w : Nat} (x : BitVec w) (n : Nat) : BitVec w :=
  if x.toNat + n < 2 ^ w then x + BitVec.ofNat w n else BitVec.allOnes w

/-- A counter advanced by one that stops at its largest value. -/
def satInc {w : Nat} (x : BitVec w) : BitVec w := satAdd x 1

/-- A number as a field of w bits that stops at its largest value. -/
def satOf (w n : Nat) : Nat := min n (2 ^ w - 1)

/-! ### Tables -/

/-- The entry of number k, if listed. -/
def tfind {α : Type} : Table α → Nat → Option α
  | [], _ => none
  | (i, v) :: r, k => if i = k then some v else tfind r k

/-- The entry of number k, or its reset state. -/
def tget {α : Type} (t : Table α) (k : Nat) (d : α) : α := (tfind t k).getD d

/-- The table with entry k set; numbers rise. -/
def tset {α : Type} : Table α → Nat → α → Table α
  | [], k, v => [(k, v)]
  | (i, u) :: r, k, v =>
    if i = k then (k, v) :: r else if k < i then (k, v) :: (i, u) :: r else (i, u) :: tset r k v

/-- The table without entry k. -/
def tdel {α : Type} (t : Table α) (k : Nat) : Table α := t.filter (fun e => e.1 != k)

/-- Entry k changed by f. -/
def tmod {α : Type} (t : Table α) (k : Nat) (d : α) (f : α → α) : Table α := tset t k (f (tget t k d))

/-- A 32-bit counter of a table advanced by one. -/
def tbump (t : Table Word) (k : Nat) : Table Word := tmod t k 0 satInc

/-! ### Storage -/

/-- What an unlisted address reads as: the free bits of the newest undefined range that holds it, else
zero (log entry 2). -/
def undefRead (w : Nat) : List UndefRange → Nat → BitVec w
  | [], _ => 0
  | u :: r, a => if u.lo ≤ a ∧ a < u.lo + u.len then Config.freeBits w u.tag a else undefRead w r a

/-- The listed value of an address. -/
def cellFind {w : Nat} : List (Nat × BitVec w) → Nat → Option (BitVec w)
  | [], _ => none
  | (i, v) :: r, a => if i = a then some v else cellFind r a

/-- One cell read. -/
def storeGet {w : Nat} (st : Store w) (a : Nat) : BitVec w :=
  (cellFind st.cells a).getD (undefRead w st.undef a)

/-- A listed cell put in at its place. -/
def cellPut {w : Nat} : List (Nat × BitVec w) → Nat → BitVec w → List (Nat × BitVec w)
  | [], a, v => [(a, v)]
  | (i, u) :: r, a, v =>
    if i = a then (a, v) :: r else if a < i then (a, v) :: (i, u) :: r else (i, u) :: cellPut r a v

/-- One cell written; a value that the unlisted address reads as is not listed. -/
def storeSet {w : Nat} (st : Store w) (a : Nat) (v : BitVec w) : Store w :=
  if v = undefRead w st.undef a then { st with cells := st.cells.filter (fun c => c.1 != a) }
  else { st with cells := cellPut st.cells a v }

/-- n cells read from address a on. -/
def storeRead {w : Nat} (st : Store w) (a n : Nat) : List (BitVec w) :=
  (List.range n).map (fun k => storeGet st (a + k))

/-- Cells written from address a on. -/
def storeWrite {w : Nat} : Store w → Nat → List (BitVec w) → Store w
  | st, _, [] => st
  | st, a, v :: r => storeWrite (storeSet st a v) (a + 1) r

/-- What is left of an undefined range outside [lo, lo + n). -/
def undefCut (lo n : Nat) (u : UndefRange) : List UndefRange :=
  [{ u with len := min u.len (lo - u.lo) },
   { u with lo := max u.lo (lo + n), len := (u.lo + u.len) - max u.lo (lo + n) }].filter (fun r => r.len != 0)

/-- Cells [lo, lo + n) set to zero. -/
def storeZero {w : Nat} (st : Store w) (lo n : Nat) : Store w :=
  { cells := st.cells.filter (fun c => c.1 < lo || lo + n ≤ c.1)
    undef := st.undef.flatMap (undefCut lo n) }

/-- Cells [lo, lo + n) made undefined under a draw. -/
def storeUndef {w : Nat} (st : Store w) (lo n tag : Nat) : Store w :=
  { cells := st.cells.filter (fun c => c.1 < lo || lo + n ≤ c.1)
    undef := ⟨lo, n, tag⟩ :: st.undef }

/-- Addresses strictly rise. -/
def cellsRise {w : Nat} : List (Nat × BitVec w) → Bool
  | [] => true
  | [_] => true
  | (i, _) :: (j, v) :: r => decide (i < j) && cellsRise ((j, v) :: r)

/-- The canonical form of storage: addresses strictly rise and no cell holds what its address would read
unlisted. -/
def storeWf {w : Nat} (st : Store w) : Bool :=
  cellsRise st.cells && st.cells.all (fun c => decide (c.2 ≠ undefRead w st.undef c.1))

end Sys2Proof.Machine
end

