-- ==== Sys2Proof/Machine/Operands.lean ====
section
/-! DEFINITION. The twelve number formats, exact values, the one rounding rule and block packing
(R49 to R73). A finite value is held exactly as sign, magnitude and power of two. -/

namespace Sys2Proof.Machine

/-- A value: NaN, an infinity, or (-1)^neg × m × 2^e exactly. -/
inductive FpVal where
  | nan
  | inf (neg : Bool)
  | fin (neg : Bool) (m : Nat) (e : Int)
deriving DecidableEq, Repr

/-- +0. -/
def FpVal.zero : FpVal := .fin false 0 0

/-- What one rounding gives: the stored bits, and whether it counts as a saturation or an underflow
(R74). -/
structure Rounded where
  bits : Nat
  sat : Nat := 0
  ufl : Nat := 0
deriving DecidableEq, Repr

/-! ### Format codes (R49) -/

def fmtInt8 : Nat := 0x0
def fmtUint8 : Nat := 0x1
def fmtEn4 : Nat := 0x2
def fmtInt4 : Nat := 0x3
def fmtMxInt8 : Nat := 0x4
def fmtE4m3 : Nat := 0x5
def fmtE5m2 : Nat := 0x6
def fmtE2m1 : Nat := 0x7
def fmtBf16 : Nat := 0x8
def fmtFp16 : Nat := 0x9
def fmtFp32 : Nat := 0xA
def fmtInt32 : Nat := 0xB

/-- Element width in bits. -/
def fmtBits (f : Nat) : Nat :=
  if f = fmtEn4 ∨ f = fmtInt4 ∨ f = fmtE2m1 then 4
  else if f = fmtBf16 ∨ f = fmtFp16 then 16
  else if f = fmtFp32 ∨ f = fmtInt32 then 32 else 8

/-- The integer class (R49). -/
def fmtInteger (f : Nat) : Bool := f = fmtInt8 || f = fmtUint8 || f = fmtInt4

/-- The block class (R49). -/
def fmtBlock (f : Nat) : Bool := f = fmtEn4 || f = fmtMxInt8 || f = fmtE4m3 || f = fmtE5m2 || f = fmtE2m1

/-- The 4-bit formats (R53). -/
def fmt4bit (f : Nat) : Bool := fmtBits f = 4

/-- Layout of a floating format: fraction bits, exponent bits, bias, largest finite magnitude code
(R54). -/
structure FloatFmt where
  frac : Nat
  expBits : Nat
  bias : Nat
  maxCode : Nat
  /-- the top exponent encodes infinity (fraction 0) and NaN -/
  ieee : Bool
deriving DecidableEq, Repr

def ffFp32 : FloatFmt := ⟨23, 8, 127, 0x7F7FFFFF, true⟩
def ffBf16 : FloatFmt := ⟨7, 8, 127, 0x7F7F, true⟩
def ffFp16 : FloatFmt := ⟨10, 5, 15, 0x7BFF, true⟩
def ffE4m3 : FloatFmt := ⟨3, 4, 7, 0x7E, false⟩
def ffE5m2 : FloatFmt := ⟨2, 5, 15, 0x7B, true⟩
def ffE2m1 : FloatFmt := ⟨1, 2, 1, 0x7, false⟩

/-- The layout of a format code that is floating. -/
def floatFmt (f : Nat) : Option FloatFmt :=
  if f = fmtFp32 then some ffFp32 else if f = fmtBf16 then some ffBf16
  else if f = fmtFp16 then some ffFp16 else if f = fmtE4m3 then some ffE4m3
  else if f = fmtE5m2 then some ffE5m2 else if f = fmtE2m1 then some ffE2m1 else none

/-- Magnitude bits of a floating format. -/
def FloatFmt.magBits (f : FloatFmt) : Nat := f.frac + f.expBits

/-- The value of a code (R54, R55). -/
def decodeFloat (f : FloatFmt) (code : Nat) : FpVal :=
  let neg := bitOf code f.magBits
  let mag := code % 2 ^ f.magBits
  let ex := mag / 2 ^ f.frac
  let fr := mag % 2 ^ f.frac
  if f.ieee && ex == 2 ^ f.expBits - 1 then (if fr = 0 then .inf neg else .nan)
  else if !f.ieee && mag > f.maxCode then .nan
  else if ex = 0 then .fin neg fr (1 - (f.bias : Int) - f.frac)
  else .fin neg (2 ^ f.frac + fr) ((ex : Int) - f.bias - f.frac)

/-- The canonical NaN of a format: all ones in the 8-bit formats, the quiet bit alone elsewhere (R55). -/
def canonicalNaN (f : FloatFmt) : Nat :=
  if 7 < f.magBits then (2 ^ f.expBits - 1) * 2 ^ f.frac + 2 ^ (f.frac - 1) else 2 ^ f.magBits - 1

/-- m × 2^e rounded to a multiple of 2^q: nearest, a tie to the greater magnitude (R65). -/
def roundMag (m : Nat) (e q : Int) : Nat :=
  if q ≤ e then m * 2 ^ (e - q).toNat
  else (m + 2 ^ ((q - e).toNat - 1)) / 2 ^ (q - e).toNat

/-- The magnitude code that m × 2^e rounds to, without an upper limit (R65, R68). -/
def encodeMag (f : FloatFmt) (m : Nat) (e : Int) : Nat :=
  if m = 0 then 0
  else
    let low : Int := 1 - (f.bias : Int) - f.frac
    let q : Int := max (e + Nat.log2 m - f.frac) low
    let r := roundMag m e q
    if r < 2 ^ f.frac then r
    else if r < 2 ^ (f.frac + 1) then (q - low + 1).toNat * 2 ^ f.frac + (r - 2 ^ f.frac)
    else (q - low + 2).toNat * 2 ^ f.frac

/-- Rounding to FP32 (R65, R66, R68): a result beyond the range is an infinity and counts. -/
def roundFp32 : FpVal → Rounded
  | .nan => { bits := 0x7FC00000 }
  | .inf n => { bits := flag n * 2 ^ 31 + 0x7F800000 }
  | .fin n m e =>
    let c := encodeMag ffFp32 m e
    if c > 0x7F7FFFFF then { bits := flag n * 2 ^ 31 + 0x7F800000, sat := 1 }
    else { bits := flag n * 2 ^ 31 + c, ufl := flag (c == 0 && m != 0) }

/-- An FP32 pattern's value. -/
def fp32 (x : Word) : FpVal := decodeFloat ffFp32 x.toNat

/-- Conversion to a narrow floating format (R66, R67, R68). -/
def roundNarrow (f : FloatFmt) : FpVal → Rounded
  | .nan => if f.maxCode = 0x7 then { bits := 0, sat := 1 } else { bits := canonicalNaN f }
  | .inf n => { bits := flag n * 2 ^ f.magBits + f.maxCode, sat := 1 }
  | .fin n m e =>
    let c := encodeMag f m e
    if c > f.maxCode then { bits := flag n * 2 ^ f.magBits + f.maxCode, sat := 1 }
    else { bits := flag n * 2 ^ f.magBits + c, ufl := flag (c == 0 && m != 0) }

/-- Conversion to an integer between lo and hi, at least 0 and at most 0 inside, of w bits (R66 to
R68). -/
def roundInt (w : Nat) (lo hi : Int) : FpVal → Rounded
  | .nan => { bits := 0, sat := 1 }
  | .inf n => { bits := unsignedOf w (if n then lo else hi), sat := 1 }
  | .fin n m e =>
    let r : Int := roundMag m e 0
    let v := if n then -r else r
    if v < lo then { bits := unsignedOf w lo, sat := 1 }
    else if hi < v then { bits := unsignedOf w hi, sat := 1 }
    else { bits := unsignedOf w v, ufl := flag (r == 0 && m != 0) }

/-- Conversion of a value to an element of a format without a block scale (R65 to R68, R73). MXINT8's
element is an 8-bit integer times 2^-6, so its source is taken times 2^6 (R60). -/
def toElement (f : Nat) (v : FpVal) : Rounded :=
  if f = fmtInt8 then roundInt 8 (-128) 127 v
  else if f = fmtUint8 then roundInt 8 0 255 v
  else if f = fmtInt4 then roundInt 4 (-8) 7 v
  else if f = fmtMxInt8 then
    roundInt 8 (-128) 127 (match v with | .fin n m e => .fin n m (e + 6) | x => x)
  else if f = fmtInt32 then roundInt 32 (-(2 ^ 31)) (2 ^ 31 - 1) v
  else if f = fmtFp32 then roundFp32 v
  else match floatFmt f with
    | some ff => roundNarrow ff v
    | none => { bits := 0 }

/-- An integer as a value. -/
def numOfInt (i : Int) : FpVal := .fin (decide (i < 0)) i.natAbs 0

/-- The value of an element code of a format, its block scale aside (R52 to R54, R60). -/
def ofElement (f code : Nat) : FpVal :=
  if f = fmtInt8 then numOfInt (signedOf 8 code)
  else if f = fmtUint8 then numOfInt (code % 256 : Nat)
  else if f = fmtInt4 ∨ f = fmtEn4 then numOfInt (signedOf 4 code)
  else if f = fmtMxInt8 then
    (match numOfInt (signedOf 8 code) with | .fin n m e => .fin n m (e - 6) | x => x)
  else if f = fmtInt32 then numOfInt (signedOf 32 code)
  else match floatFmt f with
    | some ff => decodeFloat ff code
    | none => .zero

/-! ### Exact arithmetic -/

/-- A finite value as an integer times 2^q, for q at most its exponent. -/
def finInt (neg : Bool) (m : Nat) (e q : Int) : Int :=
  let x : Int := m * 2 ^ (e - q).toNat
  if neg then -x else x

/-- Exact sum; an exact zero takes the sign of R68. -/
def addNum : FpVal → FpVal → FpVal
  | .nan, _ => .nan
  | _, .nan => .nan
  | .inf a, .inf b => if a = b then .inf a else .nan
  | .inf a, .fin _ _ _ => .inf a
  | .fin _ _ _, .inf b => .inf b
  | .fin a m e, .fin b n f =>
    let q := min e f
    let x := finInt a m e q + finInt b n f q
    if x = 0 then .fin (a && b) 0 0 else .fin (decide (x < 0)) x.natAbs q

/-- Exact product (R67, R68). -/
def mulNum : FpVal → FpVal → FpVal
  | .nan, _ => .nan
  | _, .nan => .nan
  | .inf a, .inf b => .inf (a != b)
  | .inf a, .fin b n _ => if n = 0 then .nan else .inf (a != b)
  | .fin a m _, .inf b => if m = 0 then .nan else .inf (a != b)
  | .fin a m e, .fin b n f => .fin (a != b) (m * n) (e + f)

/-- The negated value. -/
def negNum : FpVal → FpVal
  | .nan => .nan
  | .inf n => .inf (!n)
  | .fin n m e => .fin (!n) m e

/-- The value times 2^k. -/
def scaleNum (k : Int) : FpVal → FpVal
  | .fin n m e => .fin n m (e + k)
  | x => x

/-- Sum of a group: NaN where it holds one or infinities of both signs; an exact zero is +0 (R71, R82). -/
def groupSum (l : List FpVal) : FpVal :=
  match l.foldl addNum .zero with
  | .fin _ 0 _ => .zero
  | x => x

/-- Comparison of magnitudes m × 2^e < n × 2^f. -/
def magLt (m : Nat) (e : Int) (n : Nat) (f : Int) : Bool :=
  let q := min e f
  decide (m * 2 ^ (e - q).toNat < n * 2 ^ (f - q).toNat)

/-- a < b as numbers; false where either is NaN. -/
def numLt : FpVal → FpVal → Bool
  | .nan, _ => false
  | _, .nan => false
  | .inf a, .inf b => a && !b
  | .inf a, .fin _ _ _ => a
  | .fin _ _ _, .inf b => !b
  | .fin a m e, .fin b n f =>
    let q := min e f
    decide (finInt a m e q < finInt b n f q)

/-- a = b as numbers (the zeros are equal); false where either is NaN. -/
def numEq : FpVal → FpVal → Bool
  | .nan, _ => false
  | _, .nan => false
  | .inf a, .inf b => a == b
  | .fin a m e, .fin b n f =>
    let q := min e f
    decide (finInt a m e q = finInt b n f q)
  | _, _ => false

/-- The value is finite. -/
def isFinite : FpVal → Bool
  | .fin _ _ _ => true
  | _ => false

/-- The value is a zero. -/
def isZero : FpVal → Bool
  | .fin _ 0 _ => true
  | _ => false

def isNaN : FpVal → Bool
  | .nan => true
  | _ => false

/-! ### Blocks (R56 to R64, R69) -/

/-- KNOTS, TAG and EXP of a scale entry (R57). -/
def entryKnots (e : Nat) : Nat := field e 12 4
def entryTag (e : Nat) : Nat := field e 8 4
def entryExp (e : Nat) : Nat := field e 0 8

/-- Code i of an element stream of a format (R53, R56). -/
def elemCode (f : Nat) (data : Bytes) (i : Nat) : Nat :=
  if fmt4bit f then field (byteAt data (i / 2)) (4 * (i % 2)) 4
  else if fmtBits f = 8 then byteAt data i
  else le data (i * (fmtBits f / 8)) (fmtBits f / 8)

/-- Bytes of n elements. -/
def elemBytes (f n : Nat) : Nat := n * fmtBits f / 8

/-- Bytes of one block of 32 (R56). -/
def blockBytes (f : Nat) : Nat := elemBytes f 32

/-- Codes packed into bytes (R53). -/
def packCodes (f : Nat) (codes : List Nat) : Bytes :=
  if fmt4bit f then
    (List.range ((codes.length + 1) / 2)).map (fun k =>
      BitVec.ofNat 8 (codes.getD (2 * k) 0 % 16 + 16 * (codes.getD (2 * k + 1) 0 % 16)))
  else codes.flatMap (toLE (fmtBits f / 8))

/-- The check of a scale entry against the count of its stream, in the order of R98: the CAUSE of the
first that fails. -/
def skewCause (f : Nat) (count entry : Nat) (data : Bytes) : Option Nat :=
  let knots := (List.range 32).countP (fun i => elemCode f data i == 8)
  if entryTag entry ≠ count % 16 then some 0
  else if f ≠ fmtEn4 ∧ entryKnots entry ≠ 0 then some 1
  else if f = fmtEn4 ∧ entryKnots entry > 4 then some 1
  else if f = fmtEn4 ∧ knots > 4 then some 3
  else if f = fmtEn4 ∧ knots ≠ entryKnots entry then some 2
  else none

/-- Decoding of an EN4 block from element i on, k knots met (R63). The flag marks a knot. -/
def decodeEn4 (entry : Nat) (data knots : Bytes) (k : Nat) : List Nat → List (FpVal × Bool)
  | [] => []
  | i :: r =>
    let c := elemCode fmtEn4 data i
    if c = 8 then (decodeFloat ffBf16 (le knots (2 * k) 2), true) :: decodeEn4 entry data knots (k + 1) r
    else
      (if entryExp entry = 0xFF then .nan else scaleNum ((entryExp entry : Int) - 127) (ofElement fmtEn4 c), false)
        :: decodeEn4 entry data knots k r

/-- The 32 values of a block, each with whether it is a knot (R58, R61, R63). -/
def decodeBlock (f entry : Nat) (data knots : Bytes) : List (FpVal × Bool) :=
  if f = fmtEn4 then decodeEn4 entry data knots 0 (List.range 32)
  else (List.range 32).map (fun i =>
    (if entryExp entry = 0xFF then .nan
     else scaleNum ((entryExp entry : Int) - 127) (ofElement f (elemCode f data i)), false))

/-- The values of 32 elements of any format; a format without a block scale ignores the entry. -/
def decodeUnit (f entry : Nat) (data knots : Bytes) : List (FpVal × Bool) :=
  if fmtBlock f then decodeBlock f entry data knots
  else (List.range 32).map (fun i => (ofElement f (elemCode f data i), false))

/-- The order of R64 over values: true where a comes strictly before b by its key. -/
def keyBefore (a b : FpVal) : Bool :=
  match a, b with
  | .nan, .nan => false
  | .nan, _ => true
  | _, .nan => false
  | .inf _, .inf _ => false
  | .inf _, _ => true
  | .fin _ _ _, .inf _ => false
  | .fin _ m e, .fin _ n f => magLt n f m e

/-- An index put behind every one whose key is at least its own (equal keys: lower index first). -/
def rankInsert (x : Nat → FpVal) (i : Nat) : List Nat → List Nat
  | [] => [i]
  | j :: r => if keyBefore (x i) (x j) then i :: j :: r else j :: rankInsert x i r

/-- rank of R64: indices by key descending. -/
def rankOf (xs : List FpVal) : List Nat :=
  (List.range xs.length).foldl (fun l i => rankInsert (fun k => xs.getD k .zero) i l) []

/-- floor(log2 v) of a magnitude that is not zero. -/
def floorLog2 (m : Nat) (e : Int) : Int := e + Nat.log2 m

/-- A packed block: codes, scale entry, knot record, counts. -/
structure Packed where
  codes : List Nat
  entry : Nat
  knots : Bytes
  sat : Nat
  ufl : Nat
deriving DecidableEq, Repr

/-- The exponent e of R64 for a magnitude. -/
def en4Exponent : FpVal → Int
  | .fin _ 0 _ => -127
  | .fin _ m k =>
    let top := floorLog2 m k
    let e := if magLt m k 15 (top - 3) then top - 2 else top - 1
    min 127 (max (-127) e)
  | _ => 127

/-- One element of an EN4 block that is not a knot (R64, R67, R68). -/
def en4Element (e : Int) : FpVal → Rounded
  | .nan => { bits := 0, sat := 1 }
  | v => roundInt 4 (-7) 7 (scaleNum (-e) v)

/-- Packing of 32 values into an EN4 block with exponent e under knot limit L (R64). -/
def packEn4At (e : Int) (xs : List FpVal) (limit tag : Nat) : Packed :=
  let rank := rankOf xs
  let val := fun i => xs.getD i .zero
  let isKnot := fun i => (rank.take limit).contains i &&
    (match val i with
     | .nan => true
     | .inf _ => true
     | .fin _ m k => !magLt m k 15 (e - 1))
  let knotIdx := (List.range 32).filter isKnot
  let kb := knotIdx.map (fun i => roundNarrow ffBf16 (val i))
  let el := (List.range 32).map (fun i => if isKnot i then { bits := 8 } else en4Element e (val i))
  { codes := el.map (·.bits)
    entry := knotIdx.length * 4096 + tag % 16 * 256 + (e + 127).toNat
    knots := fit 8 (kb.flatMap (fun r => toLE 2 r.bits))
    sat := ((kb ++ el).map (·.sat)).sum
    ufl := ((kb ++ el).map (·.ufl)).sum }

/-- Packing of 32 values into an EN4 block under knot limit L (R64). -/
def packEn4 (xs : List FpVal) (limit tag : Nat) : Packed :=
  packEn4At (en4Exponent (xs.getD ((rankOf xs).getD limit 0) .zero)) xs limit tag

/-- The larger of two magnitudes, the values not finite aside. -/
def maxFinite (a v : FpVal) : FpVal :=
  match a, v with
  | .fin _ m e, .fin _ n f => if magLt m e n f then .fin false n f else a
  | _, _ => a

/-- The shared scale X of an MX block (R69). -/
def mxScale (f : Nat) (xs : List FpVal) : Int :=
  let emax : Int := if f = fmtE4m3 then 8 else if f = fmtE5m2 then 15 else if f = fmtE2m1 then 2 else 0
  if xs.any (fun v => match v with | .inf _ => true | _ => false) then 127
  else match xs.foldl maxFinite .zero with
    | .fin _ 0 _ => -127
    | .fin _ m e => min 127 (max (-127) (floorLog2 m e - emax))
    | _ => -127

/-- Packing of 32 values into an MX block with scale 2^x and a given EXP (R69, R154). -/
def packMxAt (f : Nat) (x : Int) (exp : Nat) (xs : List FpVal) (tag : Nat) : Packed :=
  let el := (List.range 32).map (fun i => toElement f (scaleNum (-x) (xs.getD i .zero)))
  { codes := el.map (·.bits)
    entry := tag % 16 * 256 + exp
    knots := zeroBytes 8
    sat := (el.map (·.sat)).sum
    ufl := (el.map (·.ufl)).sum }

/-- Packing of 32 values into an MX block (R69). A NaN makes EXP 0xFF in E2M1 and MXINT8; the elements
still use X of the other values (DEDUCED, log entry 14). -/
def packMx (f : Nat) (xs : List FpVal) (tag : Nat) : Packed :=
  let x := mxScale f xs
  let nanScale := (f = fmtE2m1 || f = fmtMxInt8) && xs.any isNaN
  packMxAt f x (if nanScale then 0xFF else (x + 127).toNat) xs tag

/-- Packing of 32 values into a block of a block format, its scale derived (R64, R69). -/
def packBlock (f : Nat) (xs : List FpVal) (limit tag : Nat) : Packed :=
  if f = fmtEn4 then packEn4 xs limit tag else packMx f xs tag

/-- The same with a supplied EXP; 0xFF is written as 0xFE (R154). -/
def packSupplied (f : Nat) (exp : Nat) (xs : List FpVal) (limit tag : Nat) : Packed :=
  let exp := if exp = 0xFF then 0xFE else exp
  if f = fmtEn4 then packEn4At ((exp : Int) - 127) xs limit tag
  else packMxAt f ((exp : Int) - 127) exp xs tag

/-! ### FP32 and INT32 arithmetic (R65 to R68) -/

/-- FP32 sum, one rounding. -/
def fpAdd (a b : Word) : Rounded := roundFp32 (addNum (fp32 a) (fp32 b))
/-- FP32 difference. -/
def fpSub (a b : Word) : Rounded := roundFp32 (addNum (fp32 a) (negNum (fp32 b)))
/-- FP32 product. -/
def fpMul (a b : Word) : Rounded := roundFp32 (mulNum (fp32 a) (fp32 b))
/-- FP32 fused d + a × b, one rounding. -/
def fpFma (d a b : Word) : Rounded := roundFp32 (addNum (fp32 d) (mulNum (fp32 a) (fp32 b)))
/-- An integer stopped at the INT32 limits; passing them counts (R66). -/
def int32Of (x : Int) : Rounded :=
  if x < -(2 ^ 31) then { bits := 0x80000000, sat := 1 }
  else if 2 ^ 31 - 1 < x then { bits := 0x7FFFFFFF, sat := 1 }
  else { bits := unsignedOf 32 x }

end Sys2Proof.Machine
end

