-- ==== Sys2Proof/Machine/Ops.lean ====
section
/-! DEFINITION. The named operations every family uses: the units of the module by number, draws, what
leaves the module, host writes and interrupts, completions and events, and the arbiter of a job's
outcome. -/

namespace Sys2Proof.Machine

/-- The outcome of a command's effect `t` on the state `s`: everything but the queue is `t`'s. -/
def finish (s t : State) : Host.Outcome State Fault Refusal := .next { t with pending := s.pending }

/-- An effect that takes place only when the rule's conditions hold; otherwise nothing happens
(log entry 11). -/
def guarded (c : Bool) (s t : State) : State := if c then t else s

/-! ### Units by number -/

def spindleOf (s : State) (p : Nat) : Spindle := tget s.spindles p {}
def setSpindle (s : State) (p : Nat) (x : Spindle) : State := { s with spindles := tset s.spindles p x }
def spireOf (s : State) (i : Nat) : Spire := tget s.spires i {}
def setSpire (s : State) (i : Nat) (x : Spire) : State := { s with spires := tset s.spires i x }
def domeOf (s : State) (d : Nat) : Dome := tget s.domes d {}
def setDome (s : State) (d : Nat) (x : Dome) : State := { s with domes := tset s.domes d x }
def channelOf (s : State) (c : Nat) : Channel := tget s.channels c {}
def setChannel (s : State) (c : Nat) (x : Channel) : State := { s with channels := tset s.channels c x }
/-- Partition n, if it exists (R24). -/
def partOf (s : State) (n : Nat) : Option Partition := tfind s.parts n
def setPart (s : State) (n : Nat) (x : Partition) : State := { s with parts := tset s.parts n x }
/-- Partition n changed by f, where it exists. -/
def modPart (s : State) (n : Nat) (f : Partition → Partition) : State :=
  match partOf s n with
  | none => s
  | some x => setPart s n (f x)
def jobOf (s : State) (j : Nat) : Job := tget s.jobs j {}
def setJob (s : State) (j : Nat) (x : Job) : State := { s with jobs := tset s.jobs j x }
def mailboxOf (s : State) (m : Nat) : Mailbox := tget s.mailboxes m {}
def setMailbox (s : State) (m : Nat) (x : Mailbox) : State := { s with mailboxes := tset s.mailboxes m x }
def streamOf (s : State) (i : Nat) : Stream := tget s.streams i {}
def setStream (s : State) (i : Nat) (x : Stream) : State := { s with streams := tset s.streams i x }
def decoderOf (s : State) (e : Nat) : Decoder := tget s.decoders e {}
def setDecoder (s : State) (e : Nat) (x : Decoder) : State := { s with decoders := tset s.decoders e x }
def motionOf (s : State) (u : Nat) : MotionUnit := tget s.motion u {}
def setMotion (s : State) (u : Nat) (x : MotionUnit) : State := { s with motion := tset s.motion u x }
def prepUnitOf (s : State) (u : Nat) : PrepUnit := tget s.prepUnits u {}
def setPrepUnit (s : State) (u : Nat) (x : PrepUnit) : State := { s with prepUnits := tset s.prepUnits u x }
def netPortOf (s : State) (e : Nat) : NetPort := tget s.netPorts e {}
def setNetPort (s : State) (e : Nat) (x : NetPort) : State := { s with netPorts := tset s.netPorts e x }
def pipeOf (s : State) (i : Nat) : Pipe := tget s.pipes i {}
def setPipe (s : State) (i : Nat) (x : Pipe) : State := { s with pipes := tset s.pipes i x }
def oringOf (s : State) (r : Nat) : ORing := tget s.orings r {}
def setOring (s : State) (r : Nat) (x : ORing) : State := { s with orings := tset s.orings r x }
def linkPortOf (s : State) (p : Nat) : LinkPort := tget s.skein.ports p {}
def setLinkPort (s : State) (p : Nat) (x : LinkPort) : State :=
  { s with skein := { s.skein with ports := tset s.skein.ports p x } }
def cfgOf (s : State) (fn : Nat) : FnConfig := tget s.hif.cfg fn {}
def setHif (s : State) (h : HostIf) : State := { s with hif := h }
def setCfg (s : State) (fn : Nat) (c : FnConfig) : State :=
  setHif s { s.hif with cfg := tset s.hif.cfg fn c }
def setSkein (s : State) (x : Skein) : State := { s with skein := x }
def setSec (s : State) (x : Security) : State := { s with sec := x }
def setBelfry (s : State) (x : Belfry) : State := { s with belfry := x }
def setPower (s : State) (x : Power) : State := { s with power := x }
def setBoot (s : State) (x : Boot) : State := { s with boot := x }
def setLife (s : State) (x : LifeLog) : State := { s with boot := { s.boot with life := x } }

/-- The spire of a spindle and the dome of a spire (R12, R13): eight spindles a spire, eight spires a
dome. -/
def spireOfSpindle (p : Nat) : Nat := p / 8
def domeOfSpire (i : Nat) : Nat := i / 8
def domeOfSpindle (p : Nat) : Nat := p / 64

/-- A draw of a free value is used up. -/
def drawn (s : State) : State := { s with draws := s.draws + 1 }

/-- The next order number is used up. -/
def ordered (s : State) : State := { s with orders := s.orders + 1 }

/-- Something leaves the module. -/
def emit (s : State) (o : Output) : State := { s with out := o :: s.out }

/-! ### Host writes and interrupts -/

/-- The function of mailbox m (R390). -/
def fnOfMailbox (m : Nat) : Nat := if m = 8 then 0 else m + 1

/-- The translation cached for a page of a function (R492). -/
def translationOf (s : State) (fn page : Nat) : Option Translation :=
  s.hif.cache.find? (fun t => t.fn == fn && t.page == page)

/-- A write or message is held back for the function (R495, R492). -/
def outputFn : Output → Option Nat
  | .hostWrite fn _ _ => some fn
  | .msix fn _ => some fn
  | _ => none

/-- A posted request joins the held ones, oldest first. -/
def holdWrite (s : State) (o : Output) : State :=
  setHif s { s.hif with heldWrites := s.hif.heldWrites ++ [o] }

/-- A translation is asked for, once while its request is outstanding (R492, R493). -/
def askTranslation (s : State) (fn page : Nat) : State :=
  if s.hif.xlateSent.any (fun t => t.1 == fn && t.2.1 == page) then s
  else emit (setHif s { s.hif with xlateSent := s.hif.xlateSent ++ [(fn, page, false)] })
    (.translationRequest fn page)

/-- A posted request of function fn is issued: held while Bus Master Enable is clear or an earlier one
of the function is held (R495), translated where ATS is enabled (R492). -/
def issuePosted (s : State) (o : Output) : State :=
  match outputFn o with
  | none => emit s o
  | some fn =>
    if !(cfgOf s fn).busMaster || s.hif.heldWrites.any (fun h => outputFn h == some fn) then holdWrite s o
    else match o with
      | .hostWrite _ addr bytes =>
        if (cfgOf s fn).ats then
          match translationOf s fn (addr / 4096) with
          | none => holdWrite (askTranslation s fn (addr / 4096)) o
          | some t =>
            if t.writeOk then emit s (.hostWrite fn (t.target * 4096 + addr % 4096) bytes)
            else setHif s { s.hif with xlateFail := satInc s.hif.xlateFail }
        else emit s o
      | _ => emit s o

/-- The held posted requests are tried again in their order (R495). -/
def releaseWrites (s : State) : State :=
  s.hif.heldWrites.foldl issuePosted (setHif s { s.hif with heldWrites := [] })

/-- Bytes cut at 4 KiB pages, with the fuel of their number. -/
def pagesOf : Nat → Nat → Bytes → List (Nat × Bytes)
  | 0, _, _ => []
  | n + 1, addr, bytes =>
    if bytes.isEmpty then []
    else
      let k := 4096 - addr % 4096
      (addr, bytes.take k) :: pagesOf n (addr + k) (bytes.drop k)

/-- Bytes written to host memory through a function (R488). -/
def hostWrite (s : State) (fn addr : Nat) (bytes : Bytes) : State :=
  (pagesOf (bytes.length / 4096 + 2) (addr % 2 ^ 64) bytes).foldl
    (fun t c => issuePosted t (.hostWrite fn c.1 c.2)) s

/-- The number of a vector of a function in the table of vectors. -/
def vecKey (fn vec : Nat) : Nat := 3 * fn + vec

def vecOf (s : State) (fn vec : Nat) : MsixVec := tget s.hif.msix (vecKey fn vec) {}
def setVec (s : State) (fn vec : Nat) (v : MsixVec) : State :=
  setHif s { s.hif with msix := tset s.hif.msix (vecKey fn vec) v }

/-- A cause of a vector arrives (R491): a masked vector sets its pending bit, one inside its 10 µs window
holds the cause, any other sends its message. A function whose MSI-X is disabled sends none (PRESUMED,
log entry 12). -/
def raiseVector (s : State) (fn vec : Nat) : State :=
  let c := cfgOf s fn
  let v := vecOf s fn vec
  if !c.msixEnable then s
  else if c.msixMask || v.masked then setVec s fn vec { v with pendingBit := true }
  else if v.window then setVec s fn vec { v with heldCause := true }
  else issuePosted (setVec s fn vec { v with window := true }) (.msix fn vec)

/-! ### Mailboxes: completions, job-end reports and events -/

def runningOf (s : State) (slot : Nat) : Option Running := tfind s.running slot

/-- Distance of two counts that run modulo 2^32 (R394). -/
def countDiff (a b : Word) : Nat := (a - b).toNat

/-- An entry goes into the completion ring of mailbox m (R394, R399), with its interrupt if asked. -/
def postCompletionEntry (s : State) (m : Nat) (bytes : Bytes) (irq : Bool) : State :=
  let b := mailboxOf s m
  let fn := fnOfMailbox m
  let at' := b.cplBase.toNat + 32 * (b.cplProduced.toNat % 2 ^ b.cplLog2.toNat)
  let s := hostWrite s fn at' bytes
  let b := { b with cplProduced := b.cplProduced + 1 }
  let s := setMailbox s m b
  let s := hostWrite s fn (b.statBase.toNat + 8) (toLE 8 b.cplProduced.toNat)
  if irq then raiseVector s fn 0 else s

/-- The 32 bytes of a command completion (R399). -/
def completionBytes (s : State) (r : Running) (opcode : Nat) (st : Status) (result : Bytes) : Bytes :=
  [0x01, BitVec.ofNat 8 (flag r.checked)] ++ toLE 2 st.toNat ++ fit 4 (slice r.desc 4 4) ++ toLE 2 opcode
    ++ [r.desc.getD 3 0] ++ zeroBytes 5 ++ fit 8 result ++ toLE 8 s.time.toNat

/-- The mailbox of a slot has no command any more: idle, or stopped where ENABLE was cleared (R393). -/
def mailboxRest (s : State) (m : Nat) : State :=
  let b := mailboxOf s m
  setMailbox s m { b with state := if b.enable then 1 else if b.state = 4 then 4 else 0, stopping := false }

/-- The reads of one agent are no longer outstanding; an invalidation that waited for the last of them
is answered (R493, log entry 13). -/
def answerInvalidations (s : State) : List (Nat × List Nat) → State
  | [] => setHif s { s.hif with invWaiting := [] }
  | (fn, tags) :: r =>
    let left := tags.filter (fun t => s.hif.reads.any (fun x => x.tag == t))
    if left.isEmpty then
      answerInvalidations
        (emit (setHif s { s.hif with invalidations := satInc s.hif.invalidations }) (.invalidationDone fn)) r
    else setHif s { s.hif with invWaiting := (fn, left) :: r }

/-- Outstanding reads that satisfy `p` end. -/
def endReads (s : State) (p : HostRead → Bool) : State :=
  let s := setHif s { s.hif with reads := s.hif.reads.filter (fun r => !p r) }
  answerInvalidations s s.hif.invWaiting

/-- A reader has a read outstanding. -/
def readOf (s : State) (reader : HostReader) : Option HostRead :=
  s.hif.reads.find? (fun r => r.reader == reader)

/-- A command that completes asks for no host bytes any more. -/
def endSlotReads (s : State) (slot : Nat) : State :=
  if (readOf s (.lantern slot)).isSome then endReads s (fun r => r.reader == .lantern slot) else s

/-- Command completion is formed and sent (R399, R345): on its mailbox's ring, or for a relayed command
back to the manager; a completion discarded by host loss is not written (R496). `opcode` is the value
of its OPCODE field. -/
def completeAs (s : State) (slot opcode : Nat) (st : Status) (result : Bytes) : State :=
  match runningOf s slot with
  | none => s
  | some r =>
    let bytes := completionBytes s r opcode st result
    let s := endSlotReads { s with running := tdel s.running slot } slot
    if slot = 9 then emit s (.skControl "COMPLETION" 0 [s.skein.index.toNat] bytes)
    else if r.discard then mailboxRest s slot
    else mailboxRest (postCompletionEntry s slot bytes (bitOf (byteAt r.desc 2) 1)) slot

/-- The command of a slot completes with a status and its RESULT bytes. -/
def complete (s : State) (slot : Nat) (st : Status) (result : Bytes) : State :=
  match runningOf s slot with
  | none => s
  | some r => completeAs s slot (le r.desc 0 2) st result

/-- The command of a slot has had its effect begun and waits for an event. -/
def deferCompletion (s : State) (slot : Nat) : State :=
  match runningOf s slot with
  | none => s
  | some r => { s with running := tset s.running slot { r with waiting := true } }

/-- The descriptor of a slot that runs this opcode and has not begun its effect. -/
def descOf (s : State) (slot opcode : Nat) : Option Bytes :=
  match runningOf s slot with
  | none => none
  | some r => if le r.desc 0 2 = opcode && !r.waiting then some r.desc else none

/-- The effect of a command row: of a slot that runs the opcode, on its descriptor; any other slot sees
nothing (log entry 11). -/
def onCommand (s : State) (slot opcode : Nat) (f : Bytes → State) : State :=
  match descOf s slot opcode with
  | none => s
  | some d => f d

/-- The slots whose command waits and satisfies `p` of its descriptor, in slot order. -/
def waitingSlots (s : State) (opcode : Nat) (p : Bytes → Bool) : List Nat :=
  (List.range 10).filter (fun i =>
    match runningOf s i with
    | none => false
    | some r => r.waiting && le r.desc 0 2 == opcode && p r.desc)

/-- Every such slot completes with a status. -/
def completeWaiting (s : State) (opcode : Nat) (p : Bytes → Bool) (st : Status) (result : Bytes) : State :=
  (waitingSlots s opcode p).foldl (fun t i => complete t i st result) s

/-- Entries of mailbox m's completion ring that the driver has not taken. -/
def completionsOut (s : State) (m : Nat) : Nat := countDiff (mailboxOf s m).cplProduced (mailboxOf s m).cplConsumed

/-- Mailbox m's completion ring has a free entry. -/
def completionRoom (s : State) (m : Nat) : Bool := decide (completionsOut s m < 2 ^ (mailboxOf s m).cplLog2.toNat)

/-- Held job-end reports are written, oldest first, while the mailbox is enabled and its ring has room (R396),
with fuel of their number. -/
def writeHeld (m : Nat) : Nat → State → State
  | 0, s => s
  | fuel + 1, s =>
    match (mailboxOf s m).held with
    | [] => s
    | e :: rest =>
      if (mailboxOf s m).enable && completionRoom s m then
        writeHeld m fuel (postCompletionEntry (setMailbox s m { mailboxOf s m with held := rest }) m e.1 e.2)
      else s

/-- A job-end report goes to mailbox m's ring, or is held while the mailbox is disabled, at most 1,024
(R396). -/
def postJobEnd (s : State) (m : Nat) (bytes : Bytes) (irq : Bool) : State :=
  let b := mailboxOf s m
  if b.enable && b.held.isEmpty && completionRoom s m then postCompletionEntry s m bytes irq
  else if b.held.length < 1024 then setMailbox s m { b with held := b.held ++ [(bytes, irq)] } else s

/-- The 32 bytes of an event record (R405); `data` are bytes [31:16]. -/
def eventBytes (s : State) (code : Nat) (part : Option Nat) (seq : Word) (data : Bytes) : Bytes :=
  toLE 2 code ++ [BitVec.ofNat 8 (part.getD 0xFF), 0] ++ toLE 4 seq.toNat ++ toLE 8 s.time.toNat
    ++ fit 16 data

/-- An event meant for the ring of mailbox m (R405): written, or lost and counted. -/
def eventTo (s : State) (m code : Nat) (part : Option Nat) (data : Bytes) : State :=
  let b := mailboxOf s m
  if !b.present then s
  else
    let bytes := eventBytes s code part b.evtSeq data
    let b := { b with evtSeq := b.evtSeq + 1 }
    if !b.enable || 2 ^ b.evtLog2.toNat ≤ countDiff b.evtProduced b.evtConsumed then
      setMailbox s m { b with evtLost := satInc b.evtLost }
    else
      let fn := fnOfMailbox m
      let s := hostWrite s fn (b.evtBase.toNat + 32 * (b.evtProduced.toNat % 2 ^ b.evtLog2.toNat)) bytes
      let b := { b with evtProduced := b.evtProduced + 1 }
      let s := setMailbox s m b
      let s := hostWrite s fn (b.statBase.toNat + 16) (toLE 8 b.evtProduced.toNat)
      raiseVector s fn 1

/-- An event is raised (R405): meant for mailbox 8 and, where it names a partition, for that
partition's mailbox. -/
def raiseEvent (s : State) (code : Nat) (part : Option Nat) (data : Bytes) : State :=
  let s := eventTo s 8 code part data
  match part with
  | none => s
  | some n => eventTo s n code part data

/-- Event data from (place, bytes) with places counted from byte [16] (R406). -/
def eventData (l : List (Nat × Bytes)) : Bytes :=
  l.foldl (fun a p => fit p.1 a ++ p.2 ++ a.drop (p.1 + p.2.length)) (zeroBytes 16)

/-- EV_HOST_TIMEOUT (R406, R490): agent 0 mailbox, 1 intake, 2 other. -/
def raiseHostTimeout (s : State) (part : Option Nat) (agent addr : Nat) : State :=
  raiseEvent s 0x0701 part (eventData [(0, toLE 1 agent), (8, toLE 8 addr)])

/-! ### Host reads -/

/-- A read goes out on the link, at its translated address where ATS is enabled. -/
def putRead (s : State) (r : HostRead) (addr : Nat) : State :=
  emit (setHif s { s.hif with reads := s.hif.reads.map (fun x => if x.tag = r.tag then { x with sent := true } else x) })
    (.hostRead r.fn addr r.bytes r.tag)

/-- An outstanding read is issued once its function's Bus Master Enable is set (R495) and, with ATS enabled, the
translation of its page allows it (R492). -/
def sendRead (s : State) (r : HostRead) : State :=
  if r.sent || !(cfgOf s r.fn).busMaster then s
  else if (cfgOf s r.fn).ats then
    match translationOf s r.fn (r.addr / 4096) with
    | some t => if t.readOk then putRead s r (t.target * 4096 + r.addr % 4096) else askTranslation s r.fn (r.addr / 4096)
    | none => askTranslation s r.fn (r.addr / 4096)
  else putRead s r r.addr

/-- A host read is asked for and stays outstanding under its tag (R488, R490). -/
def issueRead (s : State) (fn addr bytes : Nat) (reader : HostReader) : State :=
  let r : HostRead := { tag := s.hif.nextTag, fn := fn, addr := addr, bytes := bytes, reader := reader }
  sendRead (setHif s { s.hif with reads := s.hif.reads ++ [r], nextTag := s.hif.nextTag + 1 }) r

/-- Requests that waited are tried again: posted ones in their order, and reads (R492, R495). -/
def releaseHeld (s : State) : State := (releaseWrites s).hif.reads.foldl sendRead (releaseWrites s)

/-! ### Command bodies and Lantern's host reads -/

/-- Body bytes [95:8] outside the named (place, length) ranges are zero (R10, R392). -/
def reservedZero (d : Bytes) (named : List (Nat × Nat)) : Bool :=
  (List.range 88).all (fun k =>
    named.any (fun r => decide (r.1 ≤ k + 8) && decide (k + 8 < r.1 + r.2)) || byteAt d (k + 8) == 0)

/-- A command of an opcode with the body fields it names: reserved bytes are checked first (R10). -/
def command (s : State) (slot opcode : Nat) (named : List (Nat × Nat)) (f : Bytes → State) : State :=
  onCommand s slot opcode (fun d => if reservedZero d named then f d else complete s slot stBadArgument [])

/-- Byte [3] of a descriptor: the partition on whose behalf a command acts (R391). -/
def descPart (d : Bytes) : Nat := byteAt d 3

/-- The function through which a slot's host transfers go (R488): its mailbox's, and for a relayed command
that of the partition (R345). -/
def slotFn (s : State) (slot : Nat) : Nat :=
  if slot = 9 then (match runningOf s 9 with | none => 0 | some r => descPart r.desc + 1) else fnOfMailbox slot

/-- The host bytes a command reads have come, or have not: then it completes with ST_HOST_TIMEOUT and the
event of R408 is raised. -/
def withHost (s : State) (slot addr : Nat) (data : Option Bytes) (f : State → Bytes → State) : State :=
  let t := endReads s (fun r => r.reader == .lantern slot)
  match data with
  | some b => f t b
  | none =>
    let part := match runningOf s slot with | none => none | some r => some (descPart r.desc)
    complete (raiseHostTimeout t part 2 addr) slot stHostTimeout []

/-- ASCII bytes of a string, without a terminator (R411). -/
def ascii (x : String) : Bytes := x.toList.map (fun c => BitVec.ofNat 8 c.toNat)

/-! ### The arbiter of a job's outcome -/

/-- States 1 to 7 of R372. -/
def nonTerminal (j : Job) : Bool := 1 ≤ j.state.toNat && j.state.toNat ≤ 7

/-- The first request the arbiter grants decides (R373): a job not yet ENDING or terminal enters ENDING
with the outcome, its cause and the place of its first error; a pre-emption of it that waits completes
with ST_ALREADY_DONE (R374). -/
def endJobWith (s : State) (j : Nat) (st : Status) (cause : Nat) (errP errOff : Nat) : State :=
  let x := jobOf s j
  if 1 ≤ x.state.toNat && x.state.toNat ≤ 6 then
    let s := setJob s j { x with
      state := 7, outcome := st, cause := BitVec.ofNat 8 cause,
      errSpindle := BitVec.ofNat 16 errP, errOffset := BitVec.ofNat 16 errOff }
    completeWaiting s 0x0412 (fun d => le d 8 4 % 1024 == j) stAlreadyDone []
  else s

/-- An error on spindle p at a program offset ends its job (R373). -/
def spindleError (s : State) (p : Nat) (st : Status) (off : Nat) : State :=
  match (spindleOf s p).job with
  | none => s
  | some j => endJobWith s j st 0 p off

/-- An error that names no spindle ends the job. -/
def jobError (s : State) (j : Nat) (st : Status) : State := endJobWith s j st 0 0xFFFF 0xFFFF

/-- Spindle p is held by a job that is RUNNING; then its index (R371). -/
def runningJob (s : State) (p : Nat) : Option Nat :=
  match (spindleOf s p).job with
  | none => none
  | some j => if (jobOf s j).state = 2 then some j else none

/-- The partition of a job exists: its region (R24). -/
def jobRegion (s : State) (j : Nat) : Store 8 :=
  match partOf s (jobOf s j).part.toNat with
  | none => {}
  | some x => x.region

/-- The region size of a partition in bytes: 1 GiB a granule, 31/32 of it where protected (R25). -/
def regionBytes (x : Partition) : Nat := x.granules.length * (if x.ecc then 31 * 2 ^ 25 else 2 ^ 30)

end Sys2Proof.Machine
end

