-- ==== Sys2Proof/Machine/Flags.lean ====
section
/-! DEFINITION. The counts and status bits that computations leave behind: saturations and underflows
(R74, R75), the engine's NAN, PERM_RANGE and EMPTY bits (R152), and the records of scale-check stops
(R98, R102). -/

namespace Sys2Proof.Machine

/-- Saturations and underflows of a spindle's conversions are counted (R74, R75). -/
def countInto (x : Spindle) (sat ufl : Nat) : Spindle :=
  { x with arr := { x.arr with satCount := satAdd x.arr.satCount sat, uflCount := satAdd x.arr.uflCount ufl } }

/-- The same for spindle p of the module; a stem engine counts into spindle 0 of its spire (R74). -/
def countAt (s : State) (p sat ufl : Nat) : State := setSpindle s p (countInto (spindleOf s p) sat ufl)

/-- Sums of the counts of several roundings. -/
def satSum (l : List Rounded) : Nat := (l.map (·.sat)).sum
def uflSum (l : List Rounded) : Nat := (l.map (·.ufl)).sum

/-- The status bits an instruction raises stay for the block and for the job (R152). -/
def raiseVecFlags (v : VecEngine) (nan perm empty : Bool) : VecEngine :=
  { v with
    nan := v.nan || nan, perm := v.perm || perm, empty := v.empty || empty
    nanJob := v.nanJob || nan, permJob := v.permJob || perm, emptyJob := v.emptyJob || empty }

/-- An operation passes its limits (R156). -/
def overLimit (h : HeadDesc) (sat ufl : Word) : Bool :=
  decide (h.satLimit < sat.toNat) || decide (h.uflLimit < ufl.toNat)

/-- Presented width: 32 less the bypassed columns, 0 with more than 8 (R96, R97). -/
def widthOf (a : ArrayUnit) : Nat :=
  let n := (bitsSet 32 a.bypass.toNat).length
  if 8 < n then 0 else 32 - n

/-- JOB_ID: SERIAL over INDEX (R369). -/
def jobId (s : State) (j : Nat) : Nat := (jobOf s j).serial.toNat * 65536 + j

/-- EV_SCALE_SKEW (R98, R406): source 0 west, 1 north, 2 vector engine. -/
def raiseSkew (s : State) (p off source cause entry : Nat) : State :=
  match (spindleOf s p).job with
  | none => s
  | some j =>
    raiseEvent s 0x0102 (some (jobOf s j).part.toNat)
      (eventData [(0, toLE 2 p), (2, toLE 2 off), (4, toLE 1 source), (5, toLE 1 cause), (6, toLE 2 entry),
        (8, toLE 4 (jobId s j))])

end Sys2Proof.Machine
end

