-- ==== Sys2Proof/Machine/JobDesc.lean ====
section
/-! DEFINITION. Job descriptions, descriptor programs and COPY fields as they lie in partition memory
(R104 to R107, R188, R365, R366). -/

namespace Sys2Proof.Machine

/-- A spindle entry of a job description (R366). -/
structure SpindleEntry where
  program : Nat
  spindle : Nat
  ocStart : Nat
  ocLength : Nat
deriving DecidableEq, Repr

/-- A spire entry of a job description (R366); ranges in units of 256 bytes. -/
structure SpireEntry where
  spire : Nat
  stem : Bool
  stemOffset : Nat
  ranges : List (Nat × Nat)
deriving DecidableEq, Repr

/-- A relocation entry (R366). -/
structure Reloc where
  entry : Nat
  offset : Nat
  dst : Bool
  arg : Nat
deriving DecidableEq, Repr

/-- The header of a job description from its 64 bytes (R365). -/
def decodeJobHeader (b : Bytes) : JobHeader where
  spindles := le b 0 2
  spires := byteAt b 2
  relocs := byteAt b 3
  preemptible := bitOf (byteAt b 4) 0
  answer := bitOf (byteAt b 4) 1
  sequences := bitOf (byteAt b 4) 2
  power := BitVec.ofNat 8 (byteAt b 5)
  timeLimit := if le b 8 8 = 0 then 2 ^ 32 else le b 8 8
  answerRing := field (byteAt b 16) 0 6
  answerSem := field (byteAt b 17) 0 5
  answerSpire := field (byteAt b 18) 0 5
  answerArg := field (byteAt b 19) 0 3
  answerTag := BitVec.ofNat 32 (le b 20 4)
  skeinQueues := BitVec.ofNat 16 (le b 24 2)
  skeinBarriers := BitVec.ofNat 16 (le b 26 2)
  stepSem := field (byteAt b 28) 0 5
  stepSpire := field (byteAt b 29) 0 5
  goSem := field (byteAt b 30) 0 5
  goSpire := field (byteAt b 31) 0 5
  seqMax := le b 32 2
  seqTableArg := field (byteAt b 34) 0 3

/-- Bytes of a description: the header and its packed entries (R365). -/
def descBytes (h : JobHeader) : Nat := 64 + 16 * h.spindles + 128 * h.spires + 8 * h.relocs

def decodeSpindleEntry (b : Bytes) : SpindleEntry := ⟨le b 0 8, le b 8 2, le b 10 2, le b 12 2⟩

def decodeSpireEntry (b : Bytes) : SpireEntry where
  spire := field (byteAt b 0) 0 5
  stem := bitOf (byteAt b 2) 0
  stemOffset := le b 8 8
  ranges := (List.range (min 16 (byteAt b 1))).map (fun k => (le b (16 + 4 * k) 2, le b (18 + 4 * k) 2))

def decodeReloc (b : Bytes) : Reloc := ⟨le b 0 2, le b 2 2, byteAt b 4 == 1, field (byteAt b 5) 0 3⟩

/-- The entries of the description at an offset of a region. -/
def spindleEntries (r : Store 8) (desc : Nat) (h : JobHeader) : List SpindleEntry :=
  (List.range h.spindles).map (fun k => decodeSpindleEntry (storeRead r (desc + 64 + 16 * k) 16))
def spireEntries (r : Store 8) (desc : Nat) (h : JobHeader) : List SpireEntry :=
  (List.range h.spires).map (fun k =>
    decodeSpireEntry (storeRead r (desc + 64 + 16 * h.spindles + 128 * k) 128))
def relocEntries (r : Store 8) (desc : Nat) (h : JobHeader) : List Reloc :=
  (List.range h.relocs).map (fun k =>
    decodeReloc (storeRead r (desc + 64 + 16 * h.spindles + 128 * h.spires + 8 * k) 8))

/-- The descriptor at a program offset (R103). -/
def programDesc (r : Store 8) (program off : Nat) : Bytes := storeRead r (program + 64 * off) 64

/-- Kind of a descriptor (R104). -/
def kindOf (d : Bytes) : Nat := byteAt d 0

/-- The extent of a program (R540): its last offset, or the offset and status at which the scan fails.
`fuel` counts the offsets left, `best` is the greatest EXIT met. -/
def scanExtent (r : Store 8) (size program : Nat) : Nat → Nat → Nat → Except (Nat × Status) Nat
  | 0, _, _ => .error (0xFFFF, stBadArgument)
  | fuel + 1, off, best =>
    if size < program + 64 * off + 64 then .error (off, stNotPermitted)
    else
      let d := programDesc r program off
      let best := if kindOf d = 1 then max best (le d 14 2) else best
      if kindOf d = 0 ∧ best ≤ off then .ok off else scanExtent r size program fuel (off + 1) best

/-- The extent of the program at a region offset. -/
def programExtent (r : Store 8) (size program : Nat) : Except (Nat × Status) Nat :=
  scanExtent r size program 65536 0 0

/-- A HEAD descriptor (R106, R159). -/
def decodeHead (d : Bytes) : HeadDesc where
  outStat := bitOf (byteAt d 1) 0
  accInit := bitOf (byteAt d 1) 1
  hilbert := bitOf (byteAt d 1) 2
  work := bitOf (byteAt d 1) 3
  mode := field (byteAt d 1) 4 2
  slot := field (byteAt d 1) 6 2
  fmtA := field (byteAt d 2) 0 4
  fmtB := field (byteAt d 2) 4 4
  width := byteAt d 3
  accBase := field (byteAt d 4) 0 4
  accTiles := byteAt d 5
  reduceMask := field (byteAt d 6) 0 6
  wlevel := byteAt d 7
  hilbLevel := byteAt d 8
  colLevel := field (byteAt d 9) 0 3
  cols := byteAt d 10
  colsLast := byteAt d 11
  wc := field (byteAt d 12) 0 4
  wcSpire := field (byteAt d 13) 0 5
  exit := le d 14 2
  counts := (List.range 6).map (fun l => le d (16 + 2 * l) 2 + 1)
  satLimit := le d 32 4
  uflLimit := le d 36 4

/-- A STREAM descriptor (R107). -/
def decodeStream (d : Bytes) : StreamDesc where
  role := byteAt d 1
  base := le d 4 4
  extent := le d 8 4
  scaleBase := le d 12 4
  knotBase := le d 16 4
  stride := (List.range 6).map (fun l => signedOf 32 (le d (24 + 4 * l) 4))
  sstride := (List.range 6).map (fun l => signedOf 16 (le d (48 + 2 * l) 2))

/-- Descriptors from which a block's instructions come (R130, R131). -/
def vectorDescs (count : Nat) : Nat := 1 + ceilDiv (count - 6) 7

/-- Descriptors of a VECTOR block: the run in which every descriptor but the last has CONT set (R131), with
fuel. -/
def blockLength (get : Nat → Bytes) : Nat → Nat → Nat
  | 0, _ => 0
  | fuel + 1, k => if bitOf (byteAt (get k) 1) 0 then 1 + blockLength get fuel (k + 1) else 1

/-- The instructions of a block of n descriptors given by offset. -/
def blockInsns (get : Nat → Bytes) (n : Nat) : List (BitVec 64) :=
  (List.range n).flatMap (fun k =>
    let d := get k
    if k = 0 then (List.range 6).map (fun j => BitVec.ofNat 64 (le d (16 + 8 * j) 8))
    else (List.range 7).map (fun j => BitVec.ofNat 64 (le d (8 + 8 * j) 8)))

/-- A VECTOR block from its descriptors (R130, R131). -/
def decodeBlockDesc (get : Nat → Bytes) (pc : Nat) (epilogue : Bool) : VBlock :=
  let d := get 0
  { pc := pc
    vl := byteAt d 2, vlLast := byteAt d 3, vlLevel := byteAt d 4
    count0 := le d 6 2 + 1, count1 := le d 8 2 + 1, count2 := le d 10 2 + 1
    insns := (blockInsns get (vectorDescs (byteAt d 5))).take (byteAt d 5)
    epilogue := epilogue }

/-- The run of VECTOR blocks from a program offset on (R157), with fuel. -/
def epilogueBlocks (r : Store 8) (program : Nat) : Nat → Nat → List VBlock
  | 0, _ => []
  | fuel + 1, off =>
    let get := fun k => programDesc r program (off + k)
    if kindOf (get 0) = 7 then
      decodeBlockDesc get off true :: epilogueBlocks r program fuel (off + blockLength get 16 0)
    else []

/-- The fields of a COPY descriptor (R188). -/
structure CopyDesc where
  swap : Nat
  codec : Nat
  decompress : Bool
  srcSpace : Nat
  dstSpace : Nat
  cfmt : Nat
  srcSpire : Nat
  dstSpire : Nat
  target : Nat
  tgtSem : Nat
  tgtSpire : Nat
  src : Nat
  dst : Nat
  rowBytes : Nat
  rows : Nat
  srcPitch : Int
  dstPitch : Int
  srcWstride : Int
  dstWstride : Int
deriving DecidableEq, Repr

def decodeCopy (d : Bytes) : CopyDesc where
  swap := field (byteAt d 1) 0 2
  codec := field (byteAt d 1) 2 2
  decompress := bitOf (byteAt d 1) 4
  srcSpace := field (byteAt d 2) 0 2
  dstSpace := field (byteAt d 2) 2 2
  cfmt := field (byteAt d 2) 4 4
  srcSpire := field (byteAt d 3) 0 5
  dstSpire := field (byteAt d 4) 0 5
  target := field (byteAt d 5) 0 2
  tgtSem := field (byteAt d 6) 0 5
  tgtSpire := field (byteAt d 7) 0 5
  src := le d 8 8
  dst := le d 16 8
  rowBytes := le d 24 4
  rows := le d 28 2 + 1
  srcPitch := signedOf 32 (le d 32 4)
  dstPitch := signedOf 32 (le d 36 4)
  srcWstride := signedOf 32 (le d 40 4)
  dstWstride := signedOf 32 (le d 44 4)

/-- A descriptor with n bytes at a place replaced. -/
def patch (d : Bytes) (at' n x : Nat) : Bytes := d.take at' ++ toLE n x ++ d.drop (at' + n)

/-- A COPY descriptor with the job's relocated arguments added (R370): `entry` is the index of the
spindle entry, `off` its program offset. -/
def relocate (rel : List Reloc) (args : List Nat) (entry off : Nat) (d : Bytes) : Bytes :=
  rel.foldl (fun d x =>
    if x.entry = entry ∧ x.offset = off then
      let at' := if x.dst then 16 else 8
      patch d at' 8 (le d at' 8 + args.getD x.arg 0)
    else d) d

/-- The images of a partition as read-only ranges: the image outside its adapter banks (R172). -/
def imageRanges (x : Partition) : List (Nat × Nat) :=
  x.images.flatMap (fun i =>
    if i.bankLength = 0 then [(i.base, i.length)]
    else
      let lo := min i.bank0 i.bank1
      let hi := max i.bank0 i.bank1
      [(i.base, lo - i.base), (lo + i.bankLength, hi - (lo + i.bankLength)),
       (hi + i.bankLength, i.base + i.length - (hi + i.bankLength))])

/-- Two ranges of bytes meet. -/
def meets (a n b m : Nat) : Bool := decide (0 < n) && decide (0 < m) && decide (a < b + m) && decide (b < a + n)

/-- A range touches a read-only part of an image. -/
def touchesImage (x : Partition) (a n : Nat) : Bool := (imageRanges x).any (fun r => meets a n r.1 r.2)

/-- A range touches any byte of an image, adapter banks included. -/
def touchesAnyImage (x : Partition) (a n : Nat) : Bool := x.images.any (fun i => meets a n i.base i.length)

/-- Bytes of a pool's control area (R229). -/
def ctrlBytes (count : Nat) : Nat := alignUp (12 * count) 256

/-- A range touches the control area of a pool. -/
def touchesCtrl (x : Partition) (a n : Nat) : Bool :=
  x.pools.any (fun e => meets a n e.2.ctrl (ctrlBytes e.2.count.toNat))

end Sys2Proof.Machine
end

