-- ==== Sys2Proof/Machine/Sync.lean ====
section
/-! DEFINITION. The address generator's progress and the semaphores: descriptor fetch, work counters,
ARM, JUMP, END and SYNC (R19, R20, R103, R122 to R126, R196 to R203). -/

namespace Sys2Proof.Machine

/-! ### Semaphores (R198 to R203) -/

def semOf (s : State) (spire n : Nat) : Sem := tget (spireOf s spire).sems n {}
def setSem (s : State) (spire n : Nat) (x : Sem) : State :=
  setSpire s spire { spireOf s spire with sems := tset (spireOf s spire).sems n x }

/-- Number of a semaphore in the table of a job's counts. -/
def semKey (spire n : Nat) : Nat := 32 * spire + n

/-- The count of R203 of a job changes by d. -/
def holdUnits (s : State) (j key : Nat) (d : Int) : State :=
  let x := jobOf s j
  setJob s j { x with held := tset x.held key (tget x.held key 0 + d) }

/-- The job a waiter belongs to. -/
def waiterJob (s : State) : Waiter → Option Nat
  | .spindle p => (spindleOf s p).job
  | .stem i => (spireOf s i).stem.job
  | .restoring j => some j

/-- A spindle goes on behind the SYNC it waited in. -/
def agenResume (x : Spindle) : Spindle :=
  { x with agen := { x.agen with next := x.agen.next + 1, syncWaiting := false, state := 1 } }

/-- A restored spindle takes its job again: an array in an operation re-enters through the wave gate
(R379), the scale slots stay the spindle's own (R164), and so does its bypass map. -/
def restoreSpindle (cur saved : Spindle) (j : Nat) : Spindle :=
  { saved with
    job := some j
    scale := { saved.scale with slots := cur.scale.slots }
    arr := { saved.arr with
      bypass := cur.arr.bypass, idle := true, waiting := saved.arr.op.isSome
      state := if saved.arr.op.isSome then 1 else 0 }
    vec := { saved.vec with state := if saved.vec.blocks.isEmpty then 0 else 1 }
    dma := { saved.dma with state := 0 } }

/-- Every recorded count is held: the units of a RESTORING job resume (R379). -/
def resumeUnits (s : State) (j : Nat) : State :=
  match (jobOf s j).saved with
  | none => s
  | some sv =>
    let s := sv.spindles.foldl (fun t e => setSpindle t e.1 (restoreSpindle (spindleOf t e.1) e.2 j)) s
    let s := sv.stems.foldl (fun t e =>
      setSpire t e.1 { spireOf t e.1 with stem := { e.2 with job := some j } }) s
    setJob s j { jobOf s j with state := 2, saved := none }

/-- A granted ACQUIRE of so many units lets its waiter go on (R199, R379). -/
def resumeWaiter (s : State) (key : Nat) : Waiter → State
  | .spindle p => setSpindle s p (agenResume (spindleOf s p))
  | .stem i =>
    let x := spireOf s i
    setSpire s i { x with stem := { x.stem with granted := true, state := 1 } }
  | .restoring j =>
    let x := jobOf s j
    match x.saved with
    | none => s
    | some sv =>
      let left := sv.counts.filter (fun c => c.1 != key)
      let s := setJob s j { x with saved := some { sv with counts := left } }
      if left.isEmpty then resumeUnits s j else s

/-- The head of the queue is granted while it can be (R199), with fuel of the queue's length. A
semaphore in barrier use grants none (R200). -/
def grantHeads (spire n : Nat) : Nat → State → State
  | 0, s => s
  | fuel + 1, s =>
    let x := semOf s spire n
    match x.queue with
    | [] => s
    | (w, c) :: r =>
      if x.barrier || x.value.toNat < c then s
      else
        let s := setSem s spire n { x with value := x.value - BitVec.ofNat 16 c, queue := r }
        let s := match waiterJob s w with
          | none => s
          | some j => holdUnits s j (semKey spire n) c
        grantHeads spire n fuel (resumeWaiter s (semKey spire n) w)

/-- Grants that a change of the semaphore allows. -/
def grantAll (s : State) (spire n : Nat) : State := grantHeads spire n (semOf s spire n).queue.length s

/-- RELEASE of c units (R198, R200): refused in barrier use and above 65,535. `none` is the refusal. -/
def releaseUnits (s : State) (spire n c : Nat) (j : Option Nat) : Option State :=
  let x := semOf s spire n
  if x.barrier || 65535 < x.value.toNat + c then none
  else
    let s := setSem s spire n { x with value := x.value + BitVec.ofNat 16 c }
    let s := match j with
      | none => s
      | some j => holdUnits s j (semKey spire n) (-(c : Int))
    some (grantAll s spire n)

/-- ACQUIRE of c units by a waiter (R198, R199): it joins the queue, whose head is granted. `none` is the
refusal of R200. -/
def acquireUnits (s : State) (spire n c : Nat) (w : Waiter) : Option State :=
  let x := semOf s spire n
  if x.barrier then none
  else some (grantAll (setSem s spire n { x with queue := x.queue ++ [(w, c)] }) spire n)

/-- The units of a positive count go back at pre-emption or ending (R377, R380): into VALUE, or in
barrier use into the pending return (R203). -/
def returnUnits (s : State) (spire n c : Nat) : State :=
  let x := semOf s spire n
  if x.barrier then setSem s spire n { x with pendingReturn := x.pendingReturn + c }
  else grantAll (setSem s spire n { x with value := BitVec.ofNat 16 (min 65535 (x.value.toNat + c)) }) spire n

/-- A barrier generation ends: VALUE 0, GEN on, pending returns enter VALUE (R198, R203). -/
def closeBarrier (s : State) (spire n : Nat) (x : Sem) (gen : BitVec 4) : State :=
  grantAll (setSem s spire n { x with
    value := BitVec.ofNat 16 x.pendingReturn, gen := gen, barrier := false, need := 0, arrivals := []
    pendingReturn := 0 }) spire n

/-- BARRIER arrival (R198, R200): `none` is the refusal. The last arrival releases every waiting one. -/
def barrierArrive (s : State) (spire n need : Nat) (w : Waiter) : Option State :=
  let x := semOf s spire n
  if (!x.barrier && x.value ≠ 0) || (x.barrier && x.need ≠ need) then none
  else
    let x := { x with barrier := true, need := need, value := x.value + 1, arrivals := x.arrivals ++ [w] }
    if x.value.toNat = need then
      let s := closeBarrier s spire n x (x.gen + 1)
      some (x.arrivals.foldl (fun t w => resumeWaiter t (semKey spire n) w) s)
    else some (setSem s spire n x)

/-- Withdrawal of a job's waiting requests from a semaphore (R377, R380): its ACQUIREs leave the queue,
its barrier arrivals are subtracted, and a generation without arrival leaves barrier use. -/
def withdrawFrom (s : State) (j spire n : Nat) : State :=
  let x := semOf s spire n
  let mine := fun w => decide (waiterJob s w = some j)
  let left := x.arrivals.filter (fun w => !mine w)
  let gone := x.arrivals.length - left.length
  let x := { x with
    queue := x.queue.filter (fun e => !mine e.1), arrivals := left
    value := if x.barrier then x.value - BitVec.ofNat 16 gone else x.value }
  if x.barrier && gone ≠ 0 && x.arrivals.isEmpty && x.value = 0 then closeBarrier s spire n x x.gen
  else grantAll (setSem s spire n x) spire n

/-- Withdrawal from every semaphore. -/
def withdrawAll (s : State) (j : Nat) : State :=
  (List.range 1024).foldl (fun t k => withdrawFrom t j (k / 32) (k % 32)) s

/-- A waiting SYNC of a withdrawn request is issued again on resume (R377). -/
def reissueSync (x : Spindle) : Spindle := { x with agen := { x.agen with syncWaiting := false } }

/-! ### The address generator -/

/-- The descriptor held in the table for a program offset (R103). The slot of an offset is the offset
modulo 64 (DEDUCED, log entry 15). -/
def tableDesc (x : Spindle) (off : Nat) : Option Bytes :=
  match tfind x.agen.slots (off % 64) with
  | none => none
  | some e => if e.1 = off then some e.2 else none

/-- The descriptor that executes next, where it is in the table. -/
def nextDesc (x : Spindle) : Option Bytes := tableDesc x x.agen.next

/-- The spindle's generator may go on: job RUNNING, program not ended or stopped. -/
def agenLive (s : State) (p : Nat) : Bool :=
  let a := (spindleOf s p).agen
  (runningJob s p).isSome && a.state ≠ 0 && a.state ≠ 7 && a.state ≠ 8

/-- A HEAD, COPY, SYNC or END waits for every vector block handed over before it and, after an
operation in MODE 1 or 2, for its judgement (R133, R193). -/
def blocksDone (x : Spindle) : Bool :=
  x.vec.blocks.isEmpty && (match x.scale.judging with
    | none => true
    | some jd => jd.head.mode == 0)

/-- No array operation is unreported and none awaits judgement. -/
def arrayDone (x : Spindle) : Bool := x.arr.op.isNone && x.scale.judging.isNone

/-- The descriptor at `off` is the one executing (R126). -/
def executing (x : Spindle) (off kind state : Nat) : Spindle :=
  { x with agen := { x.agen with
      pc := BitVec.ofNat 16 off, slot := BitVec.ofNat 6 off, kind := BitVec.ofNat 4 kind
      state := BitVec.ofNat 4 state } }

/-- The generator stops by an error (R126). -/
def agenStop (s : State) (p : Nat) : State :=
  let x := spindleOf s p
  setSpindle s p { x with agen := { x.agen with state := 8 } }

/-- An error of the descriptor executing on spindle p: the generator stops and the job ends (R20, R200). -/
def agenError (s : State) (p : Nat) (st : Status) (off : Nat) : State :=
  spindleError (agenStop s p) p st off

/-- Execution goes on at a program offset. -/
def goTo (x : Spindle) (off : Nat) : Spindle := { x with agen := { x.agen with next := off, workReady := false } }

/-- A spire belongs to partition n (R24). -/
def partOwnsSpire (s : State) (n i : Nat) : Bool := (spireOf s i).owner.any (fun k => k.val == n)

/-- A spire belongs to the partition of job j (R20). -/
def ownsSpire (s : State) (j spire : Nat) : Bool :=
  (spireOf s spire).owner.any (fun n => n.val == (jobOf s j).part.toNat)

/-- First program offset from `off` on that is not in the table, among n. -/
def firstMissing (x : Spindle) : Nat → Nat → Option Nat
  | 0, _ => none
  | n + 1, off => if (tableDesc x off).isSome then firstMissing x n (off + 1) else some off

/-- Index of spindle p's entry in its job's description. -/
def entryIndex (s : State) (j p : Nat) : Nat :=
  (spindleEntries (jobRegion s j) (jobOf s j).desc (jobOf s j).header).findIdx (fun e => e.spindle == p)

/-- The descriptor at the front of spindle p's program is of a kind and may begin: what follows is done
with the job, the spindle and the descriptor. -/
def onDesc (s : State) (p kind : Nat) (ready : Spindle → Bool) (f : Nat → Spindle → Bytes → State) : State :=
  match runningJob s p with
  | none => s
  | some j =>
    let x := spindleOf s p
    match nextDesc x with
    | none => s
    | some d => if agenLive s p && kindOf d == kind && ready x then f j x d else s

/-- A work counter of a spire. -/
def workOf (s : State) (spire n : Nat) : WorkCounter := tget (spireOf s spire).work n {}
def setWork (s : State) (spire n : Nat) (w : WorkCounter) : State :=
  setSpire s spire { spireOf s spire with work := tset (spireOf s spire).work n w }

/-- A fetch (R122): the value handed out, if any, and the counter after it. -/
def fetchWork (w : WorkCounter) : Option Word × WorkCounter :=
  if w.value < w.limit then (some w.value, { w with value := w.value + 1 }) else (none, w)

/-- WORK_FETCH (R122, R125, R126): the HEAD with WORK that is reached fetches its item; an exhausted
counter, or a value past COUNT5, sends execution to EXIT. -/
def workFetch (s : State) (p : Nat) : State :=
  onDesc s p 1 (fun x => blocksDone x && arrayDone x && !x.agen.workReady) (fun j x d =>
    let h := decodeHead d
    if !h.work then s
    else if !ownsSpire s j h.wcSpire then agenError s p stNotPermitted x.agen.next
    else
      let r := fetchWork (workOf s h.wcSpire h.wc)
      let s := setWork s h.wcSpire h.wc r.2
      let x := executing x x.agen.next 1 3
      let v := r.1.getD 0xFFFFFFFF#32
      let x := { x with agen := { x.agen with workItem := v } }
      if v.toNat < h.counts.getD 5 1 then
        setSpindle s p { x with agen := { x.agen with workReady := true } }
      else setSpindle s p (goTo x h.exit))

def execWorkFetch (p : Fin 256) (s : State) : Host.Outcome State Fault Refusal := finish s (workFetch s p)

/-- ARM (R123): VALUE and LIMIT of a counter are set as one request. -/
def armCounter (s : State) (p : Nat) : State :=
  onDesc s p 3 (fun _ => true) (fun j x d =>
    let spire := field (byteAt d 2) 0 5
    if !ownsSpire s j spire then agenError s p stNotPermitted x.agen.next
    else
      let s := setWork s spire (field (byteAt d 1) 0 4)
        { value := BitVec.ofNat 32 (le d 4 4), limit := BitVec.ofNat 32 (le d 8 4) }
      setSpindle s p (goTo (executing x x.agen.next 3 1) (x.agen.next + 1)))

def execArm (p : Fin 256) (s : State) : Host.Outcome State Fault Refusal := finish s (armCounter s p)

/-- JUMP (R124): execution returns to the HEAD at TARGET. -/
def jumpBack (s : State) (p : Nat) : State :=
  onDesc s p 4 (fun _ => true) (fun _ x d =>
    setSpindle s p (goTo (executing x x.agen.next 4 1) (le d 2 2)))

def execJump (p : Fin 256) (s : State) : Host.Outcome State Fault Refusal := finish s (jumpBack s p)

/-- Every listed program has ended and every stem list too: the job reaches its last END (R373). -/
def jobEnded (s : State) (j : Nat) : Bool :=
  s.spindles.all (fun e => e.2.job ≠ some j || e.2.agen.state = 7) &&
  s.spires.all (fun e => e.2.stem.job ≠ some j || e.2.stem.state = 5)

/-- The last END requests DONE of the arbiter (R373). -/
def tryDone (s : State) (j : Nat) : State :=
  if (jobOf s j).state = 2 && jobEnded s j then endJobWith s j stOk 0 0xFFFF 0xFFFF else s

/-- END (R104, R133, R196): the program ends once every block, the operation and every copy of the
spindle is complete; the last END of a job ends it. -/
def endProgram (s : State) (p : Nat) : State :=
  onDesc s p 0 (fun x => blocksDone x && arrayDone x && x.dma.copies.isEmpty) (fun j x _ =>
    tryDone (setSpindle s p (executing x x.agen.next 0 7)) j)

def execEndProgram (p : Fin 256) (s : State) : Host.Outcome State Fault Refusal := finish s (endProgram s p)

/-! ### SYNC (R197 to R202) -/

/-- A SYNC with operation `op` begins (R201): every earlier array operation reported, every earlier block
complete, its request not yet made. -/
def onSync (s : State) (p op : Nat) (f : Nat → Spindle → Bytes → State) : State :=
  onDesc s p 5 (fun x => blocksDone x && arrayDone x && !x.agen.syncWaiting) (fun j x d =>
    if byteAt d 1 = op then f j x d else s)

/-- The SYNC at `next` makes its request and waits (R126, R198). -/
def syncWait (s : State) (p : Nat) : State :=
  let x := spindleOf s p
  let y := executing x x.agen.next 5 4
  setSpindle s p { y with agen := { y.agen with syncWaiting := true } }

/-- The SYNC at `next` has taken effect. -/
def syncPass (s : State) (p : Nat) : State :=
  let x := spindleOf s p
  setSpindle s p (agenResume (executing x x.agen.next 5 4))

/-- A SYNC at a semaphore: refused outside the partition (R20), else its request, a refusal of which
ends the job with ST_BAD_ARGUMENT (R200). -/
def atSem (s : State) (p j : Nat) (x : Spindle) (d : Bytes) (f : Nat → Nat → Nat → Option State) : State :=
  let spire := field (byteAt d 3) 0 5
  if !ownsSpire s j spire then agenError s p stNotPermitted x.agen.next
  else match f spire (field (byteAt d 2) 0 5) (le d 4 2) with
    | some t => t
    | none => agenError s p stBadArgument x.agen.next

/-- ACQUIRE. -/
def syncAcquire (s : State) (p : Nat) : State :=
  onSync s p 0 (fun j x d => atSem s p j x d (fun spire n c => acquireUnits (syncWait s p) spire n c (.spindle p)))

def execAcquire (p : Fin 256) (s : State) : Host.Outcome State Fault Refusal := finish s (syncAcquire s p)

/-- RELEASE. -/
def syncRelease (s : State) (p : Nat) : State :=
  onSync s p 1 (fun j x d => atSem s p j x d (fun spire n c =>
    (releaseUnits s spire n c (some j)).map (fun t => syncPass t p)))

def execRelease (p : Fin 256) (s : State) : Host.Outcome State Fault Refusal := finish s (syncRelease s p)

/-- BARRIER. -/
def syncBarrier (s : State) (p : Nat) : State :=
  onSync s p 2 (fun j x d => atSem s p j x d (fun spire n c => barrierArrive (syncWait s p) spire n c (.spindle p)))

def execBarrier (p : Fin 256) (s : State) : Host.Outcome State Fault Refusal := finish s (syncBarrier s p)

/-- WAIT_LOCAL: passes with N taken off the local count, else waits until a pulse brings it there. -/
def passWaitLocal (s : State) (p : Nat) : State :=
  onDesc s p 5 (fun x => blocksDone x && arrayDone x) (fun _ x d =>
    if byteAt d 1 ≠ 3 then s
    else if le d 4 2 ≤ x.dma.localCount.toNat then
      syncPass (setSpindle s p { x with dma := { x.dma with
        localCount := x.dma.localCount - BitVec.ofNat 16 (le d 4 2) } }) p
    else syncWait s p)

def execWaitLocal (p : Fin 256) (s : State) : Host.Outcome State Fault Refusal := finish s (passWaitLocal s p)

/-- DRAIN: passes once every copy of the spindle is complete and its pulse has taken effect. -/
def passDrain (s : State) (p : Nat) : State :=
  onDesc s p 5 (fun x => blocksDone x && arrayDone x) (fun _ x d =>
    if byteAt d 1 ≠ 4 then s else if x.dma.copies.isEmpty then syncPass s p else syncWait s p)

def execDrain (p : Fin 256) (s : State) : Host.Outcome State Fault Refusal := finish s (passDrain s p)

/-- A pulse has taken effect: a WAIT_LOCAL or DRAIN that waits may pass. -/
def afterPulse (s : State) (p : Nat) : State :=
  let x := spindleOf s p
  if !x.agen.syncWaiting then s
  else match nextDesc x with
    | none => s
    | some d => if byteAt d 1 = 3 then passWaitLocal s p else if byteAt d 1 = 4 then passDrain s p else s

end Sys2Proof.Machine
end

