-- ==== Sys2Proof/Machine/Dram.lean ====
section
/-! DEFINITION. LPDDR5: where an offset lies, the bank queues and their picking, refresh, retraining, and
the errors that no code corrects (R205 to R226, R502 to R505). -/

namespace Sys2Proof.Machine

/-! ### From a partition offset to a bank (R207 to R209) -/

/-- Region block of the data at an offset: in a protected region 31 usable blocks in 32 (R208). -/
def dataBlock (x : Partition) (u : Nat) : Nat :=
  let ub := u / 256
  if x.ecc then 32 * (ub / 31) + ub % 31 else ub

/-- Region block of the check bytes of an offset in a protected region (R208). -/
def checkBlock (u : Nat) : Nat := 32 * (u / 256 / 31) + 31

/-- Granule that holds a region block: the partition's granules in ascending order (R207). -/
def granuleOf (x : Partition) (r : Nat) : Nat := x.granules.getD (r / 4194304) 0

/-- Module block of a region block (R207). -/
def moduleBlock (x : Partition) (r : Nat) : Nat := granuleOf x r * 4194304 + r % 4194304

/-- Channel of a module block (R209). -/
def blockChannel (b : Nat) : Nat := (b + b / 24) % 24

/-- Row of a module block (R209). -/
def blockRow (b : Nat) : Nat := field (b / 24) 7 17

/-- Bank of a module block, as bank group × 4 + bank (R209, R211). -/
def blockBank (b : Nat) : Nat :=
  let q := b / 24
  let row := blockRow b
  4 * (field q 0 2 ^^^ field row 0 2) + (field q 2 2 ^^^ field row 2 2)

/-- Channel of the data at an offset of a partition. -/
def offsetChannel (x : Partition) (u : Nat) : Nat := blockChannel (moduleBlock x (dataBlock x u))

/-! ### Halves and words in error (R505) -/

/-- A read of [a, a + n) meets a half in error. -/
def badRead (x : Partition) (a n : Nat) : Bool := x.badHalves.any (fun h => meets a n (128 * h) 128)

/-- A write of [a, a + n) covers a half in error only in part. -/
def badWrite (x : Partition) (a n : Nat) : Bool :=
  x.badHalves.any (fun h => meets a n (128 * h) 128 && !(decide (a ≤ 128 * h) && decide (128 * h + 128 ≤ a + n)))

/-- Bytes written into a region; a half covered whole is no longer in error. -/
def regionPut (x : Partition) (a : Nat) (bytes : Bytes) : Partition :=
  { x with
    region := storeWrite x.region a bytes
    badHalves := x.badHalves.filter (fun h => !(decide (a ≤ 128 * h) && decide (128 * h + 128 ≤ a + bytes.length))) }

/-- Bytes written into a region by the DMA engine or the media unit: requests of at most 64 bytes that cross no
64-byte boundary (R193, R210), so each is a partial write of its half (R213); one that meets a half in error
writes nothing, and none takes a half out of error (R505). -/
def unitPut (x : Partition) (a : Nat) (bytes : Bytes) : Partition :=
  if badRead x a bytes.length then
    (List.range (bytes.length / 64 + 2)).foldl (fun x k =>
      let lo := max a (64 * (a / 64 + k))
      let hi := min (a + bytes.length) (64 * (a / 64 + k + 1))
      if decide (hi ≤ lo) || badRead x lo (hi - lo) then x
      else { x with region := storeWrite x.region lo (slice bytes (lo - a) (hi - lo)) }) x
  else { x with region := storeWrite x.region a bytes }

/-- Bytes read from partition n's region. -/
def regionRead (s : State) (n a k : Nat) : Bytes :=
  match partOf s n with
  | none => zeroBytes k
  | some x => storeRead x.region a k

/-- Bytes written into partition n's region. -/
def regionWrite (s : State) (n a : Nat) (bytes : Bytes) : State := modPart s n (fun x => regionPut x a bytes)

/-- The same for SRAM words of 8 bytes. -/
def badWordRead (bad : List Nat) (a n : Nat) : Bool := bad.any (fun w => meets a n (8 * w) 8)
def badWordWrite (bad : List Nat) (a n : Nat) : Bool :=
  bad.any (fun w => meets a n (8 * w) 8 && !(decide (a ≤ 8 * w) && decide (8 * w + 8 ≤ a + n)))
def clearWords (bad : List Nat) (a n : Nat) : List Nat :=
  bad.filter (fun w => !(decide (a ≤ 8 * w) && decide (8 * w + 8 ≤ a + n)))

/-- EV_ECC_UNCORRECTABLE (R406, R503). -/
def raiseUncorrectable (s : State) (chan : Nat) (part : Option Nat) (granule job p : Nat) : State :=
  raiseEvent s 0x0402 part (eventData [(0, toLE 1 chan), (1, toLE 1 (part.getD 0xFF)), (2, toLE 1 granule),
    (4, toLE 4 job), (8, toLE 2 p)])

/-- The parts of a write of [a, a + n) that cover a half only in part. -/
def partialEnds (a n : Nat) : List (Nat × Nat) :=
  (if a % 128 = 0 && 128 ≤ n then [] else [(a, 1)]) ++ (if (a + n) % 128 = 0 && 128 ≤ n then [] else [(a + n - 1, 1)])

/-- Where the first of these ranges, as (offset, bytes), meets a half in error. -/
def badPlace (x : Partition) (l : List (Nat × Nat)) : Nat :=
  match l.find? (fun e => badRead x e.1 e.2) with
  | none => (l.headD (0, 0)).1
  | some e => max e.1 ((x.badHalves.filter (fun h => meets e.1 e.2 (128 * h) 128)).foldl (fun m h => min m (128 * h)) (e.1 + e.2))

/-- An uncorrectable LPDDR5 error in one of these ranges of partition n is counted and raised (R221, R503). -/
def dramUncorrectable (s : State) (n : Nat) (ranges : List (Nat × Nat)) (job p : Nat) : State :=
  match partOf s n with
  | none => s
  | some x =>
    let u := badPlace x ranges
    let c := offsetChannel x u
    let g := granuleOf x (dataBlock x u)
    let ch := channelOf s c
    let s := setChannel s c { ch with
      uncorr := satInc ch.uncorr, uncorrValid := true, uncorrPart := BitVec.ofNat 3 n
      uncorrGranule := BitVec.ofNat 7 g }
    let s := setLife s { s.boot.life with uncorr := tbump s.boot.life.uncorr c }
    raiseUncorrectable s c (some n) g job p

/-- An uncorrectable SRAM error in dome d is counted and raised (R503). -/
def sramUncorrectable (s : State) (d : Nat) (part : Option Nat) (job p : Nat) : State :=
  let x := domeOf s d
  let s := setDome s d { x with sramUncorr := satInc x.sramUncorr }
  let s := setLife s { s.boot.life with sramUncorr := tbump s.boot.life.sramUncorr d }
  raiseUncorrectable s 0xFF part 0xFF job p

/-- DESCRIPTOR_FETCH (R103, R20, R370): the generator reads the next descriptor of its program, in offset
order ahead of execution, into the 64-slot table; a read that meets a half in error ends the job (R503, R504). -/
def descriptorFetch (s : State) (p : Nat) : State :=
  match runningJob s p with
  | none => s
  | some j =>
    let x := spindleOf s p
    match firstMissing x 64 x.agen.next with
    | none => s
    | some off =>
      if !agenLive s p || x.agen.last < off then s
      else
        let place := x.agen.program + 64 * off
        let part := (jobOf s j).part.toNat
        let size := match partOf s part with | none => 0 | some q => regionBytes q
        let bad := match partOf s part with | none => false | some q => badRead q place 64
        if size < place + 64 then agenError s p stNotPermitted off
        else if bad then agenError (dramUncorrectable s part [(place, 64)] (jobId s j) p) p stUncorrectable off
        else
          let r := jobRegion s j
          let rel := relocEntries r (jobOf s j).desc (jobOf s j).header
          let d := relocate rel (jobOf s j).args (entryIndex s j p) off (storeRead r place 64)
          setSpindle s p { x with agen := { x.agen with slots := tset x.agen.slots (off % 64) (off, d) } }

def execDescriptorFetch (p : Fin 256) (s : State) : Host.Outcome State Fault Refusal :=
  finish s (descriptorFetch s p)

/-- A unit of spindle p meets a failed SRAM read (R503, R504): its job ends with ST_UNCORRECTABLE. -/
def spindleSramFail (s : State) (p off : Nat) : State :=
  match (spindleOf s p).job with
  | none => s
  | some j =>
    let s := sramUncorrectable s (domeOfSpindle p) (some (jobOf s j).part.toNat) (jobId s j) p
    agenError s p stUncorrectable off

/-! ### Bank queues (R210 to R214) -/

/-- Bytes of a request. -/
def reqBytes (r : MemReq) : Nat := match r.op with | .read n => n | .write d => d.length

def reqWrite (r : MemReq) : Bool := match r.op with | .read _ => false | .write _ => true

/-- Two requests touch the same bytes. -/
def reqMeets (a b : MemReq) : Bool :=
  decide (a.part = b.part) && meets a.offset (reqBytes a) b.offset (reqBytes b)

/-- A request waits for an earlier one it may not pass (R211, R212). -/
def passes (earlier : List MemReq) (r : MemReq) : Bool :=
  earlier.all (fun e => !(reqMeets e r && (reqWrite e || reqWrite r)))

/-- Requests of a bank with their places, oldest first: its queue of 8 (R210). -/
def bankQueue (q : List MemReq) (b : Nat) : List (MemReq × Nat) :=
  (q.zipIdx.filter (fun e => e.1.bank == b)).take 8

/-- The request a bank offers of one kind (R211): a hit on the open row at most 8 times in a row, else its
oldest; one that may not pass an earlier one is not offered. -/
def bankOffers (c : Channel) (write : Bool) (b : Nat) : Option (MemReq × Nat) :=
  let l := (bankQueue c.queue b).filter (fun e => reqWrite e.1 == write && passes (c.queue.take e.2) e.1)
  let hit := l.find? (fun e => decide (tfind c.openRow b = some e.1.row))
  if tget c.hits b 0 < 8 then hit.or l.head? else l.head?

/-- Banks in rotating order after the last picked (R211). -/
def bankOrder (c : Channel) : List Nat := (List.range 16).map (fun k => (c.lastBank + 1 + k) % 16)

/-- The next request of one kind. -/
def pickOf (c : Channel) (write : Bool) : Option (MemReq × Nat) := (bankOrder c).findSome? (bankOffers c write)

/-- The channel after a pick. -/
def afterPick (c : Channel) (e : MemReq × Nat) : Channel :=
  let hit := decide (tfind c.openRow e.1.bank = some e.1.row)
  { c with
    queue := c.queue.eraseIdx e.2, lastBank := e.1.bank
    hits := tset c.hits e.1.bank (if hit then tget c.hits e.1.bank 0 + 1 else 0)
    openRow := tset c.openRow e.1.bank e.1.row }

/-- Writes and reads pending. -/
def writesPending (c : Channel) : Nat := c.queue.countP reqWrite
def readsPending (c : Channel) : Nat := c.queue.countP (fun r => !reqWrite r)

/-- A write takes effect: its bytes enter the region, or it fails on a half in error (R505). -/
def performWrite (s : State) (r : MemReq) (data : Bytes) : State :=
  match partOf s r.part.val with
  | none => s
  | some x =>
    if badWrite x r.offset data.length then
      match r.agent with
      | .dma p =>
        let j := (spindleOf s p.val).job
        let s := dramUncorrectable s r.part.val [(r.offset, data.length)] ((j.map (jobId s)).getD 0xFFFFFFFF) p.val
        spindleError s p.val stUncorrectable 0xFFFF
      | _ => dramUncorrectable s r.part.val [(r.offset, data.length)] 0xFFFFFFFF 0xFFFF
    else setPart s r.part.val (regionPut x r.offset data)

/-- Writes drain while they may (R211): until 8 remain, and all of them while no read can be issued, with
fuel of the queue's length. -/
def drainWrites (c : Nat) : Nat → State → State
  | 0, s => s
  | n + 1, s =>
    let ch := channelOf s c
    let drain := ch.state = 2 && (pickOf ch false |>.isNone) || (ch.draining && 8 < writesPending ch)
      || 32 ≤ writesPending ch
    match pickOf ch true with
    | none => s
    | some e =>
      if !drain || ch.state ≠ 2 then setChannel s c { ch with draining := false }
      else
        let s := setChannel s c { afterPick ch e with draining := true }
        drainWrites c n (match e.1.op with
          | .write d => performWrite s e.1 d
          | .read _ => s)

/-- Outstanding requests of an agent's pool, and its limit (R214). -/
def sameLimit : MemAgent → MemAgent → Bool
  | .dma p, .dma q => p == q
  | .host, .host => true
  | .link a, .link b => a == b
  | a, b =>
    let media := fun x => match x with
      | MemAgent.decoder _ => true
      | MemAgent.motion _ => true
      | MemAgent.scaler _ => true
      | _ => false
    media a && media b

def agentLimit : MemAgent → Nat
  | .dma _ => 64
  | .host => 128
  | .link _ => 64
  | _ => 640

def outstanding (s : State) (a : MemAgent) : Nat :=
  (s.channels.map (fun e => e.2.queue.countP (fun r => sameLimit r.agent a))).sum

/-- A request is one queue entry: 1 to 64 bytes within a 64-byte piece (R210). -/
def oneEntry (offset n : Nat) : Bool := decide (0 < n) && decide (offset % 64 + n ≤ 64)

/-- MEMORY_REQUEST (R18, R20, R207 to R214): a request joins its bank's queue. -/
def memoryRequest (s : State) (agent : MemAgent) (part offset : Nat) (op : MemOp) : State :=
  match partOf s part with
  | none => s
  | some x =>
    let n := match op with | .read k => k | .write d => d.length
    if !oneEntry offset n || agentLimit agent ≤ outstanding s agent then s
    else if regionBytes x < offset + n then
      match agent with
      | .dma p => agenError s p.val stNotPermitted (spindleOf s p.val).agen.next
      | _ => s
    else
      let b := moduleBlock x (dataBlock x offset)
      let c := blockChannel b
      let ch := channelOf s c
      if ch.state ≠ 2 ∧ ch.state ≠ 3 then s
      else
        let r : MemReq := ⟨agent, Fin.ofNat 8 part, offset, blockBank b, blockRow b, op⟩
        let s := setChannel s c { ch with queue := ch.queue ++ [r] }
        drainWrites c (ch.queue.length + 1) s

def execMemoryRequest (agent : MemAgent) (part : Fin 8) (offset : Nat) (op : MemOp) (s : State) :
    Host.Outcome State Fault Refusal :=
  finish s (memoryRequest s agent part.val offset op)

/-! ### Refresh and retraining (R215, R217) -/

/-- Requests queued at a bank. -/
def bankDepth (c : Channel) (b : Nat) : Nat := c.queue.countP (fun r => r.bank == b)

/-- The busy bank with the fewest queued requests, the lowest number among equals. -/
def leastBusy (c : Channel) : Nat :=
  (List.range 16).foldl (fun best b => if bankDepth c b < bankDepth c best then b else best) 0

/-- REFRESH_DUE (R215). `bank` is the channel's choice among the idle banks; a refresh made while some
are postponed makes one of them up too (log entry 18). -/
def refreshDue (s : State) (c bank : Nat) : State :=
  let ch := channelOf s c
  if ch.state ≠ 2 then s
  else
    let idle := (List.range 16).filter (fun b => bankDepth ch b == 0)
    match (if idle.contains bank then some bank else idle.head?) with
    | some b => emit (setChannel s c { ch with postponed := BitVec.ofNat 4 (ch.postponed.toNat - 1) }) (.refresh c b)
    | none =>
      if ch.postponed.toNat < 8 then setChannel s c { ch with postponed := ch.postponed + 1 }
      else emit s (.refresh c (leastBusy ch))

def execRefreshDue (c : Fin 24) (bank : Fin 16) (s : State) : Host.Outcome State Fault Refusal :=
  finish s (refreshDue s c.val bank.val)

/-- MR4_READ (R215): the refresh rate by device temperature. -/
def execMr4Read (c : Fin 24) (celsius : Int) (s : State) : Host.Outcome State Fault Refusal :=
  finish s (setChannel s c.val { channelOf s c.val with
    refRate := if 95 < celsius then 2 else if 85 < celsius then 1 else 0 })

/-- WCK_OSCILLATOR_RUN (R217): a lane that has drifted 4 codes asks for a pause. -/
def execWckOscillatorRun (c : Fin 24) (drift0 drift1 : Nat) (s : State) : Host.Outcome State Fault Refusal :=
  let ch := channelOf s c.val
  finish s (setChannel s c.val { ch with
    due0 := ch.due0 || decide (4 ≤ drift0), due1 := ch.due1 || decide (4 ≤ drift1) })

/-- RETRAIN_PAUSE (R217): the lanes due get their new write delay; the pause is counted. -/
def retrainPause (s : State) (c : Nat) (delay0 delay1 : BitVec 8) : State :=
  let ch := channelOf s c
  if ch.state ≠ 2 || !(ch.due0 || ch.due1) then s
  else
    let t := ch.train.toNat
    let d0 := if ch.due0 then delay0.toNat else field t 8 8
    let d1 := if ch.due1 then delay1.toNat else field t 24 8
    let s := setChannel s c { ch with
      state := 3, due0 := false, due1 := false, retrain := satInc ch.retrain
      train := BitVec.ofNat 32 (packBits [(0, field t 0 8), (8, d0), (16, field t 16 8), (24, d1)]) }
    setLife s { s.boot.life with retrain := tbump s.boot.life.retrain c }

def execRetrainPause (c : Fin 24) (delay0 delay1 : BitVec 8) (s : State) :
    Host.Outcome State Fault Refusal :=
  finish s (retrainPause s c.val delay0 delay1)

/-- RETRAIN_PAUSE_END (R217): the channel issues again. -/
def retrainPauseEnd (s : State) (c : Nat) : State :=
  let ch := channelOf s c
  if ch.state ≠ 3 then s
  else drainWrites c (ch.queue.length + 1) (setChannel s c { ch with state := 2 })

def execRetrainPauseEnd (c : Fin 24) (s : State) : Host.Outcome State Fault Refusal :=
  finish s (retrainPauseEnd s c.val)

end Sys2Proof.Machine
end

