-- ==== Sys2Proof/Machine/Array.lean ====
section
/-! DEFINITION. The array: the loop nest, feeders and scale checks, exact group sums, the drain, the wave
gates, droop and hold, and the judgement of an operation (R39 to R41, R76 to R102, R105 to R116, R156 to
R167). -/

namespace Sys2Proof.Machine

/-! ### The loop nest (R108 to R116) -/

/-- One step of d2xy: (x, y, t, s) (R115). -/
def hilbertStep (q : Nat × Nat × Nat × Nat) : Nat × Nat × Nat × Nat :=
  let x := q.1
  let y := q.2.1
  let t := q.2.2.1
  let s := q.2.2.2
  let rx := t / 2 % 2
  let ry := (t ^^^ rx) % 2
  let x1 := if ry = 0 ∧ rx = 1 then s - 1 - x else x
  let y1 := if ry = 0 ∧ rx = 1 then s - 1 - y else y
  let x2 := if ry = 0 then y1 else x1
  let y2 := if ry = 0 then x1 else y1
  (x2 + s * rx, y2 + s * ry, t / 4, 2 * s)

/-- d2xy after its steps while s < n, with fuel. -/
def hilbertRun (n : Nat) : Nat → Nat × Nat × Nat × Nat → Nat × Nat
  | 0, q => (q.1, q.2.1)
  | k + 1, q => if q.2.2.2 < n then hilbertRun n k (hilbertStep q) else (q.1, q.2.1)

/-- Curve position d of the grid of side n (R115). -/
def hilbertPoint (n d : Nat) : Nat × Nat := hilbertRun n 17 (0, 0, d, 1)

/-- Smallest power of two not below g. -/
def powerAbove (g : Nat) : Nat := 2 ^ Nat.clog 2 g

/-- The points of a pair with counts gx and gy in the order visited (R115). -/
def hilbertOrder (gx gy : Nat) : List (Nat × Nat) :=
  let n := powerAbove (max gx gy)
  ((List.range (n * n)).map (hilbertPoint n)).filter (fun q => decide (q.1 < gx) && decide (q.2 < gy))

/-- Count of a level as the odometer runs it: level 5 of a WORK set stands still (R108). -/
def levelCount (h : HeadDesc) (l : Nat) : Nat := if l = 5 ∧ h.work then 1 else h.counts.getD l 1

/-- Index vector of the v-th visit from level l on, `n` levels left (R108, R115). -/
def nestFrom (h : HeadDesc) (item : Nat) : Nat → Nat → Nat → List Nat
  | 0, _, _ => []
  | n + 1, l, v =>
    if h.hilbert ∧ h.hilbLevel = l then
      let g := levelCount h l * levelCount h (l + 1)
      let q := (hilbertOrder (levelCount h l) (levelCount h (l + 1))).getD (v % g) (0, 0)
      q.1 :: q.2 :: (nestFrom h item n (l + 2) (v / g)).take (4 - l)
    else
      let c := levelCount h l
      (if l = 5 ∧ h.work then item else v % c) :: nestFrom h item n (l + 1) (v / c)

/-- Index vector (i0, …, i5) of the v-th visit. -/
def nestIndex (h : HeadDesc) (item v : Nat) : List Nat := (nestFrom h item 6 0 v).take 6

/-- Visits of the nest. -/
def nestTotal (h : HeadDesc) : Nat := ((List.range 6).map (levelCount h)).prod

/-- Both operands 4-bit (R86). -/
def bothFour (h : HeadDesc) : Bool := fmt4bit h.fmtA && fmt4bit h.fmtB

/-- Wavefronts of one group in output-stationary mode (R110). -/
def groupWaves (h : HeadDesc) : Nat := if bothFour h then 16 else 32

/-- Wavefronts of an operation. -/
def waveTotal (h : HeadDesc) : Nat := if h.outStat then nestTotal h * groupWaves h else nestTotal h

/-- Every level marked in REDUCE_MASK stands at 0 (R113). -/
def firstPass (h : HeadDesc) (i : List Nat) : Bool :=
  (bitsSet 6 h.reduceMask).all (fun l => i.getD l 0 == 0)

/-- Every level marked in REDUCE_MASK stands at its last index (R161). -/
def finalPass (h : HeadDesc) (i : List Nat) : Bool :=
  (bitsSet 6 h.reduceMask).all (fun l => i.getD l 0 + 1 == h.counts.getD l 1)

/-- Columns used (R114). -/
def columnsUsed (h : HeadDesc) (i : List Nat) : Nat :=
  if h.colLevel < 6 ∧ i.getD h.colLevel 0 + 1 = h.counts.getD h.colLevel 1 then h.colsLast else h.cols

/-- Σ il × stride l. -/
def dotIndex (i : List Nat) (st : List Int) : Int :=
  ((List.range 6).map (fun l => (i.getD l 0 : Int) * st.getD l 0)).sum

/-- A stream's address at an index vector (R109). -/
def streamAddr (st : StreamDesc) (i : List Nat) : Nat := ((st.base : Int) + dotIndex i st.stride).toNat

/-- Unit u of a presentation of a stream: data, scale entry and knot record (R110, R111). -/
def readUnit (cache : Store 8) (f : Nat) (st : StreamDesc) (i : List Nat) (u : Nat) : OperandUnit :=
  let j := (dotIndex i st.sstride + u).toNat
  { data := storeRead cache (streamAddr st i + u * blockBytes f) (blockBytes f)
    entry := if fmtBlock f then BitVec.ofNat 16 (leNat (storeRead cache (st.scaleBase + 2 * j) 2)) else 0
    knots := if f = fmtEn4 then storeRead cache (st.knotBase + 8 * j) 8 else [] }

/-- A unit's read meets an operand-cache word in error (R503). -/
def unitBad (bad : List Nat) (f : Nat) (st : StreamDesc) (i : List Nat) (u : Nat) : Bool :=
  let j := (dotIndex i st.sstride + u).toNat
  badWordRead bad (streamAddr st i + u * blockBytes f) (blockBytes f)
    || (fmtBlock f && badWordRead bad (st.scaleBase + 2 * j) 2)
    || (f == fmtEn4 && badWordRead bad (st.knotBase + 8 * j) 8)

/-- The first unit that fails the check of R98 from block count `blk` on: cause, count, entry. -/
def checkUnits (f : Nat) : Nat → List OperandUnit → Option (Nat × Nat × Nat)
  | _, [] => none
  | blk, u :: r =>
    if fmtBlock f then
      match skewCause f blk u.entry.toNat u.data with
      | some c => some (c, blk % 16, u.entry.toNat)
      | none => checkUnits f (blk + 1) r
    else none

/-- Values of a unit. -/
def unitValues (f : Nat) (u : OperandUnit) : List (FpVal × Bool) := decodeUnit f u.entry.toNat u.data u.knots

/-! ### Weight sets (R80, R112) -/

/-- The visits served by one weight set when no Hilbert pair straddles WLEVEL. -/
def setSpan (h : HeadDesc) : Nat := ((List.range h.wlevel).map (levelCount h)).prod

/-- A Hilbert pair straddles WLEVEL. -/
def straddles (h : HeadDesc) : Bool := h.hilbert && h.hilbLevel + 1 == h.wlevel

/-- What selects the weight set of visit v: the indices of the levels at or above WLEVEL. -/
def setKeyOf (h : HeadDesc) (item v : Nat) : List Nat := (nestIndex h item v).drop h.wlevel

/-- First visit of the run of equal keys that ends with v, with fuel. -/
def runStart (h : HeadDesc) (item : Nat) : Nat → Nat → Nat
  | 0, v => v
  | k + 1, v =>
    if v = 0 then 0
    else if setKeyOf h item (v - 1) = setKeyOf h item v then runStart h item k (v - 1) else v

/-- First visit the weight set in use at visit v serves. -/
def setStart (h : HeadDesc) (item v : Nat) : Nat :=
  if straddles h then runStart h item v v else v / setSpan h * setSpan h

/-- First visit of the weight set after the one that starts at a; none past the end. -/
def nextSetStart (h : HeadDesc) (item a : Nat) : Option Nat :=
  let total := nestTotal h
  if straddles h then
    ((List.range (total - a)).find? (fun k => setKeyOf h item (a + k) ≠ setKeyOf h item a)).map (a + ·)
  else if a + setSpan h < total then some (a + setSpan h) else none

/-- Units of the weight set that takes effect at visit v (R110). -/
def northUnits (op : ArrayOp) (v : Nat) : List Nat :=
  List.range (columnsUsed op.head (nestIndex op.head op.item v) * (if bothFour op.head then 2 else 1))

/-- The weight set that takes effect at visit v, column by column (R110). -/
def northSet (cache : Store 8) (op : ArrayOp) (v : Nat) : List OperandUnit :=
  (northUnits op v).map (readUnit cache op.head.fmtB op.sb (nestIndex op.head op.item v))

/-- The weight set that visit v needs is loaded; it is then the first of the list. -/
def setsFor (op : ArrayOp) (v : Nat) : List (Nat × List OperandUnit) :=
  op.sets.dropWhile (fun e => e.1 != setStart op.head op.item v)

/-! ### The drain (R70, R82, R113) -/

/-- Sum of the products of two units, exactly. -/
def unitProduct (a b : List (FpVal × Bool)) : FpVal :=
  groupSum (List.zipWith (fun x y => mulNum x.1 y.1) a b)

/-- An exact value as an integer. -/
def numInt : FpVal → Int
  | .fin n m e => finInt n m e (min e 0) / 2 ^ (0 - min e 0).toNat
  | _ => 0

/-- One group sum enters an accumulator entry: written in place or added (R82). -/
def drainOne (integer inPlace : Bool) (old : Word) (g : FpVal) : Rounded :=
  if integer then int32Of (if inPlace then numInt g else old.toInt + numInt g)
  else
    let r := roundFp32 g
    if inPlace then r
    else
      let t := fpAdd old (BitVec.ofNat 32 r.bits)
      { t with sat := t.sat + r.sat, ufl := t.ufl + r.ufl }

/-- The group sums of one wavefront for one entry, in order; only the first may be written in place. -/
def drainAll (integer : Bool) : Bool → Word → List FpVal → Rounded
  | _, old, [] => { bits := old.toNat }
  | inPlace, old, g :: r =>
    let a := drainOne integer inPlace old g
    let b := drainAll integer false (BitVec.ofNat 32 a.bits) r
    { b with sat := a.sat + b.sat, ufl := a.ufl + b.ufl }

/-- An accumulator entry's magnitude as FP32 bits, where finite (R161). -/
def finiteMag (integer : Bool) (bits : Nat) : Nat :=
  let w := if integer then (roundFp32 (numOfInt (signedOf 32 bits))).bits else bits
  let m := w % 2 ^ 31
  if m < 0x7F800000 then m else 0

/-- What a drain leaves: accumulator, largest magnitude, counts. -/
structure Drained where
  acc : Store 32
  amax : Word
  sat : Nat
  ufl : Nat

/-- One entry of a row is drained; a final pass is measured and, in MODE 2, written to the shadow tile
too (R160, R161, R166). -/
def drainEntry (h : HeadDesc) (i : List Nat) (d : Drained) (row col : Nat) (gs : List FpVal) : Drained :=
  let integer := fmtInteger h.fmtA
  let a := 32 * row + col
  let r := drainAll integer (h.accInit && firstPass h i) (storeGet d.acc a) gs
  let w := BitVec.ofNat 32 r.bits
  let fin := finalPass h i
  let acc := storeSet d.acc a w
  { acc := if fin ∧ h.mode = 2 then storeSet acc (a + 1024 * h.accTiles) w else acc
    amax := if fin then BitVec.ofNat 32 (max d.amax.toNat (finiteMag integer r.bits)) else d.amax
    sat := d.sat + r.sat, ufl := d.ufl + r.ufl }

/-- A product is gated: its streamed element is a zero that is no knot, the other finite (R87). -/
def gatedBy (x y : FpVal × Bool) : Bool := isZero x.1 && !x.2 && isFinite y.1

/-- One weight-stationary wavefront at an index vector (R79): per column the group sums, into one row. -/
def weightWave (x : Spindle) (op : ArrayOp) (i : List Nat) (west north : List OperandUnit) :
    Drained × Nat :=
  let h := op.head
  let per := if bothFour h then 2 else 1
  let row := 32 * h.accBase + streamAddr op.sc i
  let av := west.map (unitValues h.fmtA)
  let cols := columnsUsed h i
  let bv := fun c k => unitValues h.fmtB (north.getD (c * per + k) {})
  let d := (List.range cols).foldl (fun d c =>
    drainEntry h i d row c ((List.range per).map (fun k => unitProduct (av.getD k []) (bv c k))))
    { acc := x.acc, amax := op.amax, sat := 0, ufl := 0 }
  let gated := ((List.range cols).map (fun c => ((List.range per).map (fun k =>
    (List.zipWith gatedBy (av.getD k []) (bv c k)).countP id)).sum)).sum
  (d, gated)

/-- The group sums of an output-stationary group, tile entry by tile entry (R81). -/
def stationaryGroup (x : Spindle) (op : ArrayOp) (i : List Nat) : Drained :=
  let h := op.head
  let tile := 32 * h.accBase + streamAddr op.sc i
  (List.range 32).foldl (fun d m => (List.range (columnsUsed h i)).foldl (fun d n =>
    drainEntry h i d (tile + m) n
      [unitProduct (unitValues h.fmtA (op.groupA.getD m {})) (unitValues h.fmtB (op.groupB.getD n {}))]) d)
    { acc := x.acc, amax := op.amax, sat := 0, ufl := 0 }

/-- Gated products of wavefront w of an output-stationary group: reduction index w, or 2w and 2w + 1. -/
def stationaryGated (op : ArrayOp) (cols w : Nat) : Nat :=
  let h := op.head
  let ks := if bothFour h then [2 * w, 2 * w + 1] else [w]
  ((List.range 32).map (fun m => ((List.range cols).map (fun n => ks.countP (fun k =>
    let a := (unitValues h.fmtA (op.groupA.getD m {})).getD k (.zero, false)
    let b := (unitValues h.fmtB (op.groupB.getD n {})).getD k (.zero, false)
    gatedBy a b || gatedBy b a))).sum)).sum

/-! ### Operation start, wavefronts and completion -/

/-- Busy marks of the tiles an operation writes, the shadow tiles of MODE 2 among them (R93, R160). -/
def operationTiles (h : HeadDesc) : BitVec 16 :=
  BitVec.ofNat 16 (maskOf ((List.range (if h.mode = 2 then 2 * h.accTiles else h.accTiles)).map (h.accBase + ·)))

/-- HEAD (R75, R105, R125): the set at the front opens one operation. -/
def startOperation (s : State) (p : Nat) : State :=
  onDesc s p 1 (fun x => blocksDone x && arrayDone x) (fun j x d =>
    let h := decodeHead d
    let off := x.agen.next
    match tableDesc x (off + 1), tableDesc x (off + 2), tableDesc x (off + 3) with
    | some a, some b, some c =>
      if h.work && !x.agen.workReady then s
      else
        let op : ArrayOp := {
          head := h, sa := decodeStream a, sb := decodeStream b, sc := decodeStream c
          pc := off, item := x.agen.workItem.toNat }
        let jd : Judgement := {
          head := h, pc := off
          blocks := epilogueBlocks (jobRegion s j) x.agen.program (x.agen.last - off) (off + 4) }
        let stopped := widthOf x.arr = 0
        let arr := { x.arr with
          satCount := 0, uflCount := 0, wavefronts := 0, stallDrain := 0, stallFeed := 0, gated := 0
          fmtA := BitVec.ofNat 4 h.fmtA, fmtB := BitVec.ofNat 4 h.fmtB, mode := h.outStat
          skew := { x.arr.skew with valid := false }
          waiting := x.arr.idle, op := some op
          state := if stopped then 8 else if x.arr.idle then 1 else 2 }
        let x := { x with arr := arr, scale := { x.scale with judging := some jd, attempt := false } }
        setSpindle s p (goTo (executing x off 1 2) (off + 4))
    | _, _, _ => s)

def execHead (p : Fin 256) (s : State) : Host.Outcome State Fault Refusal := finish s (startOperation s p)

/-- The array may load and issue: job RUNNING, an operation, not stopped. -/
def arrayLive (s : State) (p : Nat) : Option ArrayOp :=
  let a := (spindleOf s p).arr
  if (runningJob s p).isSome && a.state.toNat < 6 then a.op else none

/-- A scale check stops the operation (R98, R99). -/
def skewStop (s : State) (p : Nat) (op : ArrayOp) (north : Bool) (c : Nat × Nat × Nat) : State :=
  let x := spindleOf s p
  let info : SkewInfo := {
    valid := true, side := north, cause := BitVec.ofNat 2 c.1, expected := BitVec.ofNat 4 c.2.1
    found := BitVec.ofNat 4 (entryTag c.2.2), entry := BitVec.ofNat 16 c.2.2 }
  let s := setSpindle s p { x with arr := { x.arr with state := 6, skew := info, waiting := false } }
  let s := raiseSkew s p op.pc (flag north) c.1 c.2.2
  agenError s p stScaleSkew op.pc

/-- WEIGHT_SET_LOADED (R80, R98, R112): the north feeder has loaded the next weight set. -/
def weightSetLoaded (s : State) (p : Nat) : State :=
  match arrayLive s p with
  | none => s
  | some op =>
    if op.head.outStat || 2 ≤ op.sets.length then s
    else
      let start := match op.sets.getLast? with
        | none => some (setStart op.head op.item op.issued)
        | some e => nextSetStart op.head op.item e.1
      match start with
      | none => s
      | some v =>
        let x := spindleOf s p
        let units := northSet x.cache op v
        if (northUnits op v).any (unitBad x.bad op.head.fmtB op.sb (nestIndex op.head op.item v)) then
          spindleSramFail s p op.pc
        else match checkUnits op.head.fmtB op.blkB units with
        | some c => skewStop s p op true c
        | none =>
          setSpindle s p { x with arr := { x.arr with op := some { op with
            sets := op.sets ++ [(v, units)], blkB := op.blkB + units.length } } }

def execWeightSetLoaded (p : Fin 256) (s : State) : Host.Outcome State Fault Refusal :=
  finish s (weightSetLoaded s p)

/-- Issue may go on in the dome: no hold (R40), no input below 12 V (R462), no orderly stop (R467). -/
def issueAllowed (s : State) (d : Nat) : Bool :=
  !(domeOf s d).hold && !s.power.low && !s.power.stopping

/-- The job's arrays take no tokens: fixed-rate and not breached (R471, R475). -/
def noTokens (s : State) (j : Nat) : Bool := bitOf (jobOf s j).power.toNat 3 && !(jobOf s j).breached

/-- Tokens of a wavefront: 4 with a BF16 or FP16 operand, else 1 (R471). -/
def waveTokens (h : HeadDesc) : Nat := if fmtBits h.fmtA = 16 ∨ fmtBits h.fmtB = 16 then 4 else 1

/-- The bucket after a wavefront takes its tokens; none where it must wait (R471). A fraction of 255 never
delays. -/
def takeTokens (s : State) (p j : Nat) (h : HeadDesc) : Option Nat :=
  let t := (spindleOf s p).arr.tokens
  if noTokens s j || (domeOf s (domeOfSpindle p)).fraction = 0xFF#8 then some t
  else if 255 * waveTokens h ≤ t then some (t - 255 * waveTokens h) else none

/-- The operands of the wavefront to be issued are at the feeders: the weight set loaded (R80). -/
def feederReady (op : ArrayOp) : Bool := op.head.outStat || !(setsFor op op.issued).isEmpty

/-- The operation after a wavefront. -/
def afterWave (x : Spindle) (op : ArrayOp) (d : Drained) (gated tokens : Nat) : Spindle :=
  countInto { x with
    acc := d.acc
    busy := x.busy ||| operationTiles op.head
    arr := { x.arr with
      op := some { op with issued := op.issued + 1, amax := d.amax }
      wavefronts := satInc x.arr.wavefronts, gated := x.arr.gated + gated
      tokens := tokens, state := 2, idle := false, waiting := false } } d.sat d.ufl

/-- A weight-stationary wavefront of operation `op` issues (R77, R79, R98). -/
def issueWeightWave (s : State) (p tokens : Nat) (op : ArrayOp) : State :=
  let x := spindleOf s p
  let h := op.head
  let i := nestIndex h op.item op.issued
  let per := List.range (if bothFour h then 2 else 1)
  let west := per.map (readUnit x.cache h.fmtA op.sa i)
  if per.any (unitBad x.bad h.fmtA op.sa i) then spindleSramFail s p op.pc
  else match checkUnits h.fmtA op.blkA west with
  | some c => skewStop s p op false c
  | none =>
    let sets := setsFor op op.issued
    let r := weightWave x op i west ((sets.head?.map (·.2)).getD [])
    setSpindle s p (afterWave x { op with sets := sets, blkA := op.blkA + west.length } r.1 r.2 tokens)

/-- The operands of an output-stationary group are presented at its first wavefront (R110). -/
def presentGroup (x : Spindle) (op : ArrayOp) (i : List Nat) : ArrayOp :=
  let h := op.head
  let a := (List.range 32).map (readUnit x.cache h.fmtA op.sa i)
  let b := (List.range (columnsUsed h i)).map (readUnit x.cache h.fmtB op.sb i)
  { op with groupA := a, groupB := b }

/-- An output-stationary wavefront of operation `op` issues (R81, R98, R99): the group's units are checked
at its first wavefront, its sums enter the tile at its last. Of two detections in one wavefront either
may be the first (R99): a free choice (log entry 3). -/
def issueStationaryWave (s : State) (p tokens : Nat) (op : ArrayOp) : State :=
  let x := spindleOf s p
  let h := op.head
  let n := groupWaves h
  let i := nestIndex h op.item (op.issued / n)
  let w := op.issued % n
  let failed := w == 0 && ((List.range 32).any (unitBad x.bad h.fmtA op.sa i)
    || (List.range (columnsUsed h i)).any (unitBad x.bad h.fmtB op.sb i))
  let op := if w = 0 then presentGroup x op i else op
  let bad := if w = 0 then (checkUnits h.fmtA op.blkA op.groupA, checkUnits h.fmtB op.blkB op.groupB)
    else (none, none)
  if failed then spindleSramFail s p op.pc
  else match bad with
  | (some a, some b) =>
    if Config.freeNat s.draws % 2 = 0 then skewStop (drawn s) p op false a else skewStop (drawn s) p op true b
  | (some a, none) => skewStop s p op false a
  | (none, some b) => skewStop s p op true b
  | (none, none) =>
    let op := if w = 0 then
      { op with blkA := op.blkA + op.groupA.length, blkB := op.blkB + op.groupB.length } else op
    let d := if w + 1 = n then stationaryGroup x op i
      else { acc := x.acc, amax := op.amax, sat := 0, ufl := 0 }
    setSpindle s p (afterWave x op d (stationaryGated op (columnsUsed h i) w) tokens)

/-- WAVEFRONT_ISSUE (R77, R80, R90, R100, R471). A weight set not loaded in time is a feeder stall, an idle
array first waits at the wave gate, an empty bucket waits for a token. -/
def wavefrontIssue (s : State) (p : Nat) : State :=
  match arrayLive s p, runningJob s p with
  | some op, some j =>
    let x := spindleOf s p
    if waveTotal op.head ≤ op.issued || x.arr.waiting || !issueAllowed s (domeOfSpindle p) then s
    else if !feederReady op then
      if op.issued = 0 ∨ x.arr.state = 3 then s
      else setSpindle s p { x with arr := { x.arr with state := 3, stallFeed := satInc x.arr.stallFeed } }
    else if x.arr.idle then setSpindle s p { x with arr := { x.arr with waiting := true, state := 1 } }
    else match takeTokens s p j op.head with
      | none => s
      | some t => if op.head.outStat then issueStationaryWave s p t op else issueWeightWave s p t op
  | _, _ => s

def execWavefrontIssue (p : Fin 256) (s : State) : Host.Outcome State Fault Refusal :=
  finish s (wavefrontIssue s p)

/-- ARRAY_IDLE (R100): no wavefront for 1 µs; the next issue waits for a wave slot. -/
def arrayIdle (s : State) (p : Nat) : State :=
  let x := spindleOf s p
  let wants := match arrayLive s p with
    | none => false
    | some op => decide (op.issued < waveTotal op.head) && feederReady op && x.arr.state ≠ 5
  setSpindle s p { x with arr := { x.arr with
    idle := true, waiting := x.arr.waiting || wants, state := if wants then 1 else x.arr.state } }

def execArrayIdle (p : Fin 256) (s : State) : Host.Outcome State Fault Refusal := finish s (arrayIdle s p)

/-! ### Wave gates, droop and hold -/

/-- The spindles of dome d that wait, in the gate's order from NEXT_START (R100), at most 16. -/
def waveTakes (s : State) (d : Nat) : List Nat :=
  let start := (domeOf s d).nextStart.toNat
  (((List.range 64).map (fun k => 64 * d + (start + k) % 64)).filter
    (fun p => (spindleOf s p).arr.waiting)).take 16

/-- The gate admits an array. -/
def admitArray (s : State) (p : Nat) : State :=
  let x := spindleOf s p
  setSpindle s p { x with arr := { x.arr with waiting := false, idle := false, state := 2 } }

/-- FEED_FORWARD (R474): the admitted arrays' current enters the regulator demand, and outside
measured-only mode the issue fractions may fall, to a free value (log entry 8). -/
def feedForward (s : State) (n : Nat) : State :=
  let s := setPower s { s.power with admitted := s.power.admitted + n }
  if s.power.measuredOnly then s
  else (List.range 4).foldl (fun t d =>
    let x := domeOf t d
    let f := Config.issueFraction t.draws d t.power.limit.toNat t.power.estimate.toNat t.power.measured.toNat
    setDome (drawn t) d { x with fraction := if f < x.fraction then f else x.fraction }) s

/-- WAVE_ADMIT (R21, R100, R102, R474): one wave of at most 16 waiting arrays; none in a hold or an orderly
stop. -/
def waveAdmit (s : State) (d : Nat) : State :=
  let ps := waveTakes s d
  match ps.getLast? with
  | none => s
  | some last =>
    if !issueAllowed s d then s
    else
      let x := domeOf s d
      let s := setDome s d { x with
        waveCount := satInc x.waveCount, lastSize := BitVec.ofNat 5 ps.length
        nextStart := BitVec.ofNat 6 ((last + 1) % 64) }
      feedForward (ps.foldl admitArray s) ps.length

def execWaveAdmit (d : Fin 4) (s : State) : Host.Outcome State Fault Refusal := finish s (waveAdmit s d)

/-- The operating point's number less one as a bin, by the target point (R39, R508). -/
def pointBin (s : State) : Nat := s.power.target.toNat - 1

/-- DROOP_EVENT (R39): counted once per excursion, and binned in the life log. -/
def droopEvent (s : State) (d : Nat) : State :=
  let x := domeOf s d
  if !x.droopArmed then s
  else
    let s := setDome s d { x with droopCount := satInc x.droopCount, droopArmed := false }
    setLife s { s.boot.life with droop := tbump s.boot.life.droop (8 * d + pointBin s) }

def execDroopEvent (d : Fin 4) (s : State) : Host.Outcome State Fault Refusal := finish s (droopEvent s d)

/-- DROOP_RECOVERED (R39): VCMP is within 20 mV of its set value again. -/
def droopRecovered (s : State) (d : Nat) : State := setDome s d { domeOf s d with droopArmed := true }

def execDroopRecovered (d : Fin 4) (s : State) : Host.Outcome State Fault Refusal :=
  finish s (droopRecovered s d)

/-- An array of the dome shows the hold (R91). -/
def holdArray (x : Spindle) : Spindle :=
  if x.arr.op.isSome && 1 ≤ x.arr.state.toNat && x.arr.state.toNat ≤ 4 then
    { x with arr := { x.arr with state := 5 } } else x

/-- An array of the dome shows what it does once the hold has ended. -/
def releaseArray (x : Spindle) : Spindle :=
  if x.arr.state = 5 then { x with arr := { x.arr with state := if x.arr.waiting then 1 else 2 } } else x

/-- Every spindle of a dome changed. -/
def modDome (s : State) (d : Nat) (f : Spindle → Spindle) : State :=
  { s with spindles := s.spindles.map (fun e => if domeOfSpindle e.1 = d then (e.1, f e.2) else e) }

/-- DROOP_HOLD (R40, R91). -/
def droopHold (s : State) (d : Nat) : State :=
  let x := domeOf s d
  if x.hold then s
  else
    let s := setDome s d { x with hold := true, holdCount := satInc x.holdCount }
    let s := setLife s { s.boot.life with droopHold := tbump s.boot.life.droopHold d }
    modDome s d holdArray

def execDroopHold (d : Fin 4) (s : State) : Host.Outcome State Fault Refusal := finish s (droopHold s d)

/-- HOLD_RESUME (R40, R91). -/
def holdResume (s : State) (d : Nat) : State :=
  modDome (setDome s d { domeOf s d with hold := false }) d releaseArray

def execHoldResume (d : Fin 4) (s : State) : Host.Outcome State Fault Refusal := finish s (holdResume s d)

/-- RATE_WINDOW (R41): the replica chain's rate over the window that ends. -/
def execRateWindow (d : Fin 4) (rate : BitVec 16) (s : State) : Host.Outcome State Fault Refusal :=
  finish s (setDome s d { domeOf s d with rate := rate })

/-- OP_SLEW_SETTLED (R36): VCMP has settled at the target; no other point is spanned. -/
def execOpSlewSettled (s : State) : Host.Outcome State Fault Refusal :=
  finish s (setPower s { s.power with spanned := [s.power.target] })

/-! ### Judgement (R156 to R167) -/

/-- The slot's estimate (R162): the largest entry, or +0. -/
def slotEstimate (x : ScaleSlot) : Word := BitVec.ofNat 32 ((x.entries.map (·.toNat)).foldl max 0)

/-- An entry made in a slot (R162). -/
def slotEnter (x : ScaleSlot) (v : Word) : ScaleSlot :=
  { entries := (v :: x.entries).take 16, ops := satInc x.ops }

/-- EV_SAT_LIMIT (R158, R406). -/
def raiseSatLimit (s : State) (p pc attempt : Nat) (sat ufl : Word) : State :=
  match (spindleOf s p).job with
  | none => s
  | some j => raiseEvent s 0x0101 (some (jobOf s j).part.toNat)
      (eventData [(0, toLE 2 p), (2, toLE 2 pc), (4, toLE 4 sat.toNat), (8, toLE 4 ufl.toNat), (12, toLE 1 attempt)])

/-- Tiles ACC_BASE on are set from their shadow tiles (R166). -/
def restoreTiles (acc : Store 32) (h : HeadDesc) : Store 32 :=
  (List.range (1024 * h.accTiles)).foldl (fun a k =>
    storeSet a (1024 * h.accBase + k) (storeGet a (1024 * (h.accBase + h.accTiles) + k))) acc

/-- RESCALE_AND_REPEAT (R166, R167): footprint, counters and registers go back, and the epilogue runs once
more. -/
def repeatEpilogue (x : Spindle) (jd : Judgement) : Spindle :=
  { x with
    acc := restoreTiles x.acc jd.head
    arr := { x.arr with satCount := jd.snapSat, uflCount := jd.snapUfl }
    vec := { x.vec with
      x := jd.savedX, packTag := jd.savedPack, unpackTag := jd.savedUnpack
      blocks := jd.blocks.take 2, started := false }
    scale := { x.scale with
      attempt := true
      repeatCount := satInc x.scale.repeatCount
      judging := some { jd with handed := min 2 jd.blocks.length, done := 0 } } }

/-- The final judgement of an operation (R158, R161, R162). -/
def judgeFinal (s : State) (p : Nat) (jd : Judgement) : State :=
  let x := spindleOf s p
  let passed := overLimit jd.head x.arr.satCount x.arr.uflCount
  let sc := x.scale
  let slots := if jd.head.mode = 1 ∨ jd.head.mode = 2 then
    sc.slots.set jd.head.slot (slotEnter (sc.slots.getD jd.head.slot {}) jd.amax) else sc.slots
  let event := passed && decide (sc.events < 16)
  let s := setSpindle s p { x with scale := { sc with
    amax := jd.amax, overrun := passed, limitCount := if passed then satInc sc.limitCount else sc.limitCount
    events := if event then sc.events + 1 else sc.events, slots := slots, judging := none } }
  if event then raiseSatLimit s p jd.pc (flag sc.attempt) x.arr.satCount x.arr.uflCount else s

/-- OPERATION_JUDGEMENT (R157, R166), due once the array has reported and the last epilogue block has
completed. -/
def judge (s : State) (p : Nat) : State :=
  let x := spindleOf s p
  match x.scale.judging with
  | none => s
  | some jd =>
    if !jd.arrayDone || jd.done < jd.blocks.length then s
    else if jd.head.mode = 2 && !x.scale.attempt && !jd.blocks.isEmpty
        && overLimit jd.head x.arr.satCount x.arr.uflCount && !overLimit jd.head jd.snapSat jd.snapUfl then
      setSpindle s p (repeatEpilogue x jd)
    else judgeFinal s p jd

/-- The array reports the operation complete: the snapshot and saved registers of MODE 2 are taken
(R89, R166). -/
def operationReport (x : Spindle) (op : ArrayOp) : Spindle :=
  { x with
    busy := x.busy &&& ~~~(operationTiles op.head)
    arr := { x.arr with op := none, state := 0, waiting := false }
    scale := { x.scale with judging := x.scale.judging.map (fun jd => { jd with
      arrayDone := true, amax := op.amax, snapSat := x.arr.satCount, snapUfl := x.arr.uflCount
      savedX := x.vec.x, savedPack := x.vec.packTag, savedUnpack := x.vec.unpackTag }) } }

/-- OPERATION_COMPLETE (R89, R93, R157): the last output row is written and the busy marks clear. -/
def operationComplete (s : State) (p : Nat) : State :=
  match arrayLive s p with
  | none => s
  | some op =>
    if op.issued < waveTotal op.head then s
    else judge (setSpindle s p (operationReport (spindleOf s p) op)) p

def execOperationComplete (p : Fin 256) (s : State) : Host.Outcome State Fault Refusal :=
  finish s (operationComplete s p)

end Sys2Proof.Machine
end

