-- ==== Sys2Proof/Machine/Secure.lean ====
section
/-! DEFINITION. Keys, attestation, sessions, the audit log and the limited-change settings (R410 to R431). -/

namespace Sys2Proof.Machine

/-! ### The module's own keys (R411) -/

/-- The Ed25519 seed. -/
def identitySeed (s : State) : Bytes := (Config.sha512 (ascii "QBN-ID" ++ s.sec.secret)).take 32

/-- The identity public key. -/
def identityKey (s : State) : Bytes := Config.ed25519Public (identitySeed s)

/-- RFC 7748 clamping of a private key. -/
def clamp (k : Bytes) : Bytes :=
  k.zipIdx.map (fun e =>
    if e.2 = 0 then e.1 &&& 0xF8#8 else if e.2 = 31 then (e.1 &&& 0x7F#8) ||| 0x40#8 else e.1)

/-- The X25519 private key and its public half. -/
def encryptionSecret (s : State) : Bytes := clamp ((Config.sha512 (ascii "QBN-ENC" ++ s.sec.secret)).take 32)
def encryptionKey (s : State) : Bytes := Config.x25519Public (encryptionSecret s)

/-- A signature under the identity key. -/
def signed (s : State) (msg : Bytes) : Bytes := fit 64 (Config.ed25519Sign (identitySeed s) msg)

/-! ### Owners of spires and granules as registers show them (R29, R389) -/

def ownerNibble : Option Nat → Nat
  | none => 0
  | some n => 8 + n % 8

def granuleOwner (s : State) (g : Nat) : Option Nat :=
  (s.parts.find? (fun e => e.2.granules.contains g)).map (·.1)

def spireOwnerReg (s : State) (k : Nat) : Nat :=
  packBits ((List.range 8).map (fun i => (4 * i, ownerNibble ((spireOf s (8 * k + i)).owner.map (·.val)))))
def granuleOwnerReg (s : State) (k : Nat) : Nat :=
  packBits ((List.range 8).map (fun i => (4 * i, ownerNibble (granuleOwner s (8 * k + i)))))

/-- Bit p set where partition p holds a command key. -/
def keyMask (s : State) : Nat := maskOf ((List.range 8).filter (fun p => (tfind s.sec.keys p).isSome))

/-! ### The audit log (R428) -/

/-- The 64 bytes of an entry. -/
def auditBytes (e : AuditEntry) : Bytes :=
  toLE 4 e.seq ++ [e.kind, e.state, e.part, e.value] ++ toLE 4 e.boot.toNat ++ toLE 8 e.time.toNat
    ++ toLE 8 e.counter.toNat ++ fit 20 e.detail ++ fit 16 e.chain

/-- CHAIN of the entry behind the last of an area. -/
def chainOf (l : List AuditEntry) : Bytes :=
  match l.getLast? with
  | none => zeroBytes 16
  | some e => (Config.sha512 (auditBytes e)).take 16

/-- A new entry of an area whose last entries are `l`. -/
def auditEntry (s : State) (l : List AuditEntry) (seq kind state part value counter : Nat) (detail : Bytes) :
    AuditEntry :=
  { seq := seq, kind := BitVec.ofNat 8 kind, state := BitVec.ofNat 8 state, part := BitVec.ofNat 8 part
    value := BitVec.ofNat 8 value, boot := s.boot.life.boots, time := s.time
    counter := BitVec.ofNat 64 counter, detail := detail, chain := chainOf l }

/-- An entry joins the ring, which holds the newest 8,064. -/
def appendRingWith (s : State) (kind part value counter : Nat) (detail : Bytes) : State :=
  let e := auditEntry s s.sec.ring s.sec.ringSeq kind 3 part value counter detail
  let l := s.sec.ring ++ [e]
  setSec s { s.sec with ring := l.drop (l.length - 8064), ringSeq := s.sec.ringSeq + 1 }
def appendRing (s : State) (kind part counter : Nat) (detail : Bytes) : State :=
  appendRingWith s kind part 0 counter detail

/-- A fuse change leaves its entry DONE in the permanent area with the steps burnt (R426). -/
def appendFuse (s : State) (kind part steps counter : Nat) (detail : Bytes) : State :=
  let e := auditEntry s s.sec.permanent s.sec.permanent.length kind 1 part steps counter detail
  setSec s { s.sec with permanent := s.sec.permanent ++ [e] }

/-- First 20 bytes of a SHA-512. -/
def detailOf (b : Bytes) : Bytes := (Config.sha512 b).take 20

/-! ### Attestation (R416) -/

/-- Report bytes [319:0]. -/
def reportBody (s : State) (nonce : Bytes) : Bytes :=
  toLE 4 0x54515441 ++ toLE 4 384 ++ fit 32 (identityKey s) ++ fit 32 nonce ++ fit 64 s.sec.fwHash
    ++ toLE 1 s.sec.svFused ++ toLE 1 s.sec.svRunning
    ++ toLE 1 (packBits [(0, flag s.sec.debugDisabled), (1, flag s.sec.ownerKey.isSome),
        (2, flag (s.skein.state = 2))])
    ++ toLE 1 s.belfry.mirGen.toNat ++ toLE 1 s.sec.skeinSteps ++ toLE 1 s.sec.ceilSteps ++ zeroBytes 2
    ++ toLE 8 s.belfry.mirId.toNat ++ toLE 8 s.time.toNat
    ++ (match s.sec.ownerKey with
        | none => zeroBytes 32
        | some k => fit 32 (Config.sha512 k))
    ++ fit 32 s.sec.skeinId
    ++ (List.range 4).flatMap (fun k => toLE 4 (spireOwnerReg s k))
    ++ (List.range 12).flatMap (fun k => toLE 4 (granuleOwnerReg s k))
    ++ toLE 1 (maskOf ((s.parts.filter (fun e => e.2.ecc)).map (·.1)))
    ++ toLE 1 (keyMask s) ++ zeroBytes 30

/-- The whole report. -/
def reportBytes (s : State) (nonce : Bytes) : Bytes := reportBody s nonce ++ signed s (reportBody s nonce)

/-- A manager's report is sound for this member (R423). -/
def reportSound (s : State) (report identity0 : Bytes) : Bool :=
  Config.ed25519Verify identity0 (report.take 320) (slice report 320 64)
    && decide (s.sec.svFused ≤ byteAt report 136)
    && slice report 192 32 == fit 32 s.sec.skeinId && !(fit 32 s.sec.skeinId).all (· == 0)

/-! ### Commands -/

/-- CMD_IDENTITY_GET (R412, R430). -/
def cmdIdentityGet (s : State) (slot : Nat) : State :=
  command s slot 0x0801 [(8, 8)] (fun d =>
    if le d 8 8 % 64 ≠ 0 then complete s slot stBadArgument []
    else complete (hostWrite s (slotFn s slot) (le d 8 8) (fit 256 s.sec.endorsement)) slot stOk [])

def execCmdIdentityGet (slot : Fin 10) (s : State) : Host.Outcome State Fault Refusal :=
  finish s (cmdIdentityGet s slot)

/-- CMD_ATTEST (R416, R430). -/
def cmdAttest (s : State) (slot : Nat) : State :=
  command s slot 0x0802 [(8, 40)] (fun d =>
    if le d 8 8 % 64 ≠ 0 then complete s slot stBadArgument []
    else
      let r := reportBytes s (slice d 16 32)
      let t := setSec s { s.sec with reports := (Config.sha512 r :: s.sec.reports).take 4 }
      complete (hostWrite t (slotFn s slot) (le d 8 8) r) slot stOk [])

def execCmdAttest (slot : Fin 10) (s : State) : Host.Outcome State Fault Refusal := finish s (cmdAttest s slot)

/-- The bytes of an export before its signature (R429). -/
def auditExport (s : State) : Bytes :=
  toLE 4 s.sec.permanent.length ++ toLE 4 s.sec.ring.length
    ++ toLE 4 (match s.sec.ring with | [] => 0 | e :: _ => e.seq) ++ fit 32 (identityKey s) ++ zeroBytes 20
    ++ s.sec.permanent.flatMap auditBytes ++ s.sec.ring.flatMap auditBytes

/-- CMD_AUDIT_EXPORT (R429). -/
def cmdAuditExport (s : State) (slot : Nat) : State :=
  command s slot 0x0803 [(8, 8)] (fun d =>
    if le d 8 8 % 64 ≠ 0 then complete s slot stBadArgument []
    else
      let b := auditExport s
      complete (hostWrite s (slotFn s slot) (le d 8 8) (b ++ signed s b)) slot stOk [])

def execCmdAuditExport (slot : Fin 10) (s : State) : Host.Outcome State Fault Refusal :=
  finish s (cmdAuditExport s slot)

/-- The first failure of an owner record (R414, R415). -/
def ownerFailure (s : State) (d r : Bytes) : Option Status :=
  if !zeros r 104 152 || le r 32 8 ≠ le d 96 8 then some stBadArgument
  else match s.sec.ownerKey with
    | none =>
      if !zeros r 40 64 then some stBadArgument
      else if le r 32 8 ≤ s.sec.ownerCounter then some stStaleCounter else none
    | some k =>
      if !Config.ed25519Verify k (ascii "MOAJO-OWNER" ++ r.take 40) (slice r 40 64) then some stBadCheck
      else if le r 32 8 ≤ s.sec.ownerCounter then some stStaleCounter
      else none

/-- CMD_OWNER_ENROLL (R414, R415). -/
def cmdOwnerEnroll (s : State) (slot : Nat) (record : Option Bytes) : State :=
  command s slot 0x0804 [(8, 8)] (fun d =>
    withHost s slot (le d 8 8) record (fun t b =>
      let r := fit 256 b
      match ownerFailure t d r with
      | some st => complete t slot st []
      | none =>
        let kind := if t.sec.ownerKey.isSome then 2 else 1
        let t := setSec t { t.sec with ownerCounter := le r 32 8, ownerKey := some (r.take 32) }
        complete (appendRing t kind 0xFF (le d 96 8) (detailOf (r.take 32))) slot stOk []))

def execCmdOwnerEnroll (slot : Fin 10) (record : Option Bytes) (s : State) :
    Host.Outcome State Fault Refusal :=
  finish s (cmdOwnerEnroll s slot record)

/-- The first failure of a session request, its shared secret aside (R418). -/
def sessionFailure (s : State) (d r : Bytes) : Option Status :=
  match partOf s (descPart d), s.sec.ownerKey with
  | some _, some k =>
    if !zeros r 33 7 || !zeros r 176 80 || byteAt r 32 ≠ descPart d || le r 40 8 ≠ le d 96 8
        || !s.sec.reports.contains (slice r 48 64) then some stBadArgument
    else if !Config.ed25519Verify k (ascii "MOAJO-SESSION" ++ r.take 112) (slice r 112 64) then some stBadCheck
    else if le r 40 8 ≤ s.sec.ownerCounter then some stStaleCounter
    else none
  | _, _ => some stNotPermitted

/-- The command key of a session (R419). -/
def sessionKey (r shared : Bytes) : Bytes :=
  Config.hkdfSha512 (slice r 48 64) shared (ascii "MOAJO-CMD" ++ slice r 32 1 ++ slice r 40 8) 64

/-- CMD_SESSION_OPEN (R418 to R420). -/
def cmdSessionOpen (s : State) (slot : Nat) (request : Option Bytes) : State :=
  command s slot 0x0805 [(8, 16)] (fun d =>
    if le d 8 8 % 64 ≠ 0 || le d 16 8 % 64 ≠ 0 then
      complete (endReads s (fun r => r.reader == .lantern slot)) slot stBadArgument []
    else withHost s slot (le d 8 8) request (fun t b =>
      let r := fit 256 b
      match sessionFailure t d r with
      | some st => complete t slot st []
      | none =>
        let eph := clamp (Config.entropy t.draws 32)
        let shared := Config.x25519 eph (r.take 32)
        let t := drawn t
        if shared.all (· == 0) then complete t slot stBadArgument []
        else
          let head := fit 32 (Config.x25519Public eph) ++ fit 64 (Config.sha512 r)
          let reply := head ++ signed t (ascii "MOAJO-REPLY" ++ head) ++ zeroBytes 96
          let n := descPart d
          let t := setSec t { t.sec with
            ownerCounter := le r 40 8
            keys := tset t.sec.keys n ⟨sessionKey r shared, 0⟩ }
          let t := appendRing t 3 n (le d 96 8) []
          complete (hostWrite t (slotFn t slot) (le d 16 8) reply) slot stOk []))

def execCmdSessionOpen (slot : Fin 10) (request : Option Bytes) (s : State) :
    Host.Outcome State Fault Refusal :=
  finish s (cmdSessionOpen s slot request)

/-- CMD_SESSION_CLOSE (R420). -/
def cmdSessionClose (s : State) (slot : Nat) : State :=
  command s slot 0x0806 [] (fun d =>
    let n := descPart d
    let t := setSec s { s.sec with keys := tdel s.sec.keys n }
    complete (appendRing t 4 n (le d 96 8) []) slot stOk [])

def execCmdSessionClose (slot : Fin 10) (s : State) : Host.Outcome State Fault Refusal :=
  finish s (cmdSessionClose s slot)

/-- CMD_SV_ADVANCE (R425, R426). -/
def cmdSvAdvance (s : State) (slot : Nat) : State :=
  command s slot 0x0810 [(8, 1)] (fun d =>
    let n := byteAt d 8
    if 64 < n then complete s slot stFuseExhausted []
    else if s.sec.svRunning < n || n ≤ s.sec.svFused then complete s slot stBadArgument []
    else
      let steps := n - s.sec.svFused
      let t := setSec s { s.sec with svFused := n }
      complete (appendFuse t 0x10 (descPart d) steps (le d 96 8) []) slot stOk [])

def execCmdSvAdvance (slot : Fin 10) (s : State) : Host.Outcome State Fault Refusal :=
  finish s (cmdSvAdvance s slot)

/-- CMD_SKEIN_BIND (R425 to R427). -/
def cmdSkeinBind (s : State) (slot : Nat) : State :=
  command s slot 0x0812 [(8, 32)] (fun d =>
    let id := slice d 8 32
    if id.all (· == 0) then complete s slot stBadArgument []
    else if s.skein.state = 2 then complete s slot stNotPermitted []
    else if 8 ≤ s.sec.skeinSteps then complete s slot stFuseExhausted []
    else
      let t := setSec s { s.sec with skeinSteps := s.sec.skeinSteps + 1, skeinId := id }
      complete (appendFuse t 0x12 (descPart d) 1 (le d 96 8) (detailOf id)) slot stOk [])

def execCmdSkeinBind (slot : Fin 10) (s : State) : Host.Outcome State Fault Refusal :=
  finish s (cmdSkeinBind s slot)

/-- CMD_DEBUG_DISABLE (R425, R426). -/
def cmdDebugDisable (s : State) (slot : Nat) : State :=
  command s slot 0x0813 [] (fun d =>
    if s.sec.debugDisabled then complete s slot stFuseExhausted []
    else
      let t := setSec s { s.sec with debugDisabled := true }
      complete (appendFuse t 0x13 (descPart d) 1 (le d 96 8) []) slot stOk [])

def execCmdDebugDisable (slot : Fin 10) (s : State) : Host.Outcome State Fault Refusal :=
  finish s (cmdDebugDisable s slot)

end Sys2Proof.Machine
end

