-- ==== Sys2Proof/Machine/Belfry.lean ====
section
/-! DEFINITION. The Belfry: its inputs, the valuing of the belt, records and totals, seal and commits, requests and
notices (R432 to R461, R533). -/

namespace Sys2Proof.Machine

/-! ### Mirrors, keys and lines -/

/-- SEQ of the last record; zero before the first. -/
def lastSeq (b : Belfry) : Nat := b.totals.seq - 1

/-- The Belfry pushes its values to the BLF_ registers (R461). -/
def blfMirror (b : Belfry) : Belfry :=
  { b with
    mirState := b.state, mirTamper := b.tamperOpen, mirBroken := b.sealBroken, mirGen := BitVec.ofNat 6 b.sealGen
    mirEvents := b.events, mirSeq := BitVec.ofNat 64 (lastSeq b), mirId := BitVec.ofNat 64 (le b.blfId 0 8) }

/-- The Belfry changes and pushes its values. -/
def putBelfry (s : State) (b : Belfry) : State := setBelfry s (blfMirror b)

/-- The Belfry key's seed and its public key (R444). -/
def blfSeed (b : Belfry) : Bytes := (Config.sha512 (ascii "QBN-BELFRY" ++ b.secret)).take 32
def blfKey (b : Belfry) : Bytes := fit 32 (Config.ed25519Public (blfSeed b))

/-- One upper-case hexadecimal digit, and the digits of bytes, most significant byte first (R449). -/
def hexDigit (n : Nat) : String := String.ofList ["0123456789ABCDEF".toList.getD (n % 16) '0']
def hexBytes (b : Bytes) : String := b.reverse.foldl (fun t x => t ++ hexDigit (x.toNat / 16) ++ hexDigit x.toNat) ""

/-- A number of grams in tonnes to three decimals, taken in whole kilograms by floor division (R457). -/
def tonnes (g : Int) : String :=
  let kg := g.fdiv 1000
  let n := kg.natAbs
  (if kg < 0 then "-" else "") ++ toString (n / 1000) ++ "." ++ toString (n / 100 % 10) ++ toString (n / 10 % 10)
    ++ toString (n % 10)

/-- A line on the indicator UART. -/
def sendLine (s : State) (l : String) : State := emit s (.indicator (l ++ "\r\n"))

/-- The identity line and the fault line (R457). -/
def identityText (b : Belfry) : String :=
  "I," ++ hexBytes (fit 8 b.blfId) ++ "," ++ hexBytes (fit 8 b.paramId) ++ "," ++ toString b.sealGen ++ ","
    ++ toString b.events.toNat
def faultText (b : Belfry) : String := "F," ++ toString b.state.toNat

/-! ### Records (R440 to R446) -/

/-- FLAGS of the record in progress. -/
def openFlags (b : Belfry) (partial' : Bool) : Nat :=
  let o := b.openRec
  packBits [(0, flag partial'), (1, flag (o.gapCounts ≠ 0)), (2, flag (o.tamper || b.tamperOpen)),
    (3, flag b.sealBroken), (4, flag o.encError), (5, flag o.reverse), (6, flag o.overrange), (7, flag o.first)]

/-- The totals after the record in progress closes at a count (R442). -/
def closedTotals (b : Belfry) (countEnd : Int) : Totals × Int × Int :=
  let t := b.totals
  let v := t.vrem + b.openRec.units
  let volume := v.fdiv (10 ^ 9)
  let m := t.mrem + volume * b.params.density
  let mass := m.fdiv (10 ^ 6)
  ({ t with
      volTotal := t.volTotal + volume, vrem := v.fmod (10 ^ 9), massTotal := t.massTotal + mass
      mrem := m.fmod (10 ^ 6), partialMass := t.partialMass + mass, seq := t.seq + 1, count := b.count
      countEnd := countEnd }, volume, mass)

/-- The first 96 bytes of a record (R443). -/
def recordBody (b : Belfry) (t : Totals) (volume mass countEnd : Int) (partial' : Bool) : Bytes :=
  [1, BitVec.ofNat 8 (openFlags b partial'), BitVec.ofNat 8 b.sealGen] ++ zeroBytes 5 ++ toLE 8 b.totals.seq
    ++ toLE 8 (unsignedOf 64 countEnd) ++ toLE 4 (unsignedOf 32 (countEnd - b.totals.countEnd))
    ++ toLE 4 (unsignedOf 32 volume) ++ toLE 4 (unsignedOf 32 mass) ++ toLE 4 b.openRec.gapCounts
    ++ toLE 8 (unsignedOf 64 t.volTotal) ++ toLE 8 (unsignedOf 64 t.massTotal) ++ toLE 8 (unsignedOf 64 t.partialMass)
    ++ fit 8 b.blfId ++ fit 8 b.paramId ++ toLE 2 b.events.toNat ++ toLE 2 b.openRec.pairs ++ zeroBytes 12

/-- Totals are committed to the slot whose turn it is (R454). -/
def commitTotals (b : Belfry) (t : Totals) : Belfry :=
  if b.slotNextB then { b with slotB := some t, slotNextB := false }
  else { b with slotA := some t, slotNextB := true }

/-- The record in progress closes at a count: signed, kept, committed and printed (R442 to R446, R454, R457). A
partial reset asked for takes effect after it (R442). -/
def closeRecord (s : State) (countEnd : Int) (partial' : Bool) : State :=
  let b := s.belfry
  let (t, volume, mass) := closedTotals b countEnd
  let body := recordBody b t volume mass countEnd partial'
  let record := body ++ fit 64 (Config.ed25519Sign (blfSeed b) (ascii "BELFRY-REC" ++ body))
  let all := b.records ++ [record]
  let line := "R," ++ toString b.totals.seq ++ "," ++ tonnes t.massTotal ++ "," ++ tonnes t.partialMass ++ ","
    ++ hexBytes [BitVec.ofNat 8 (openFlags b partial')] ++ "," ++ toString b.sealGen ++ "," ++ toString b.events.toNat
  let t := if b.partialReset then { t with partialMass := 0 } else t
  let b := commitTotals { b with
    totals := t, records := all.drop (all.length - 3276), partialReset := false
    openRec := { first := false, tamper := b.tamperOpen } } t
  sendLine (putBelfry s b) line

/-- The record in progress changes. -/
def modOpen (s : State) (f : OpenRecord → OpenRecord) : State :=
  setBelfry s { s.belfry with openRec := f s.belfry.openRec }

/-- A boundary has been reached: the record closes there and the next boundary lies N on (R441). -/
def passBoundary (s : State) : State :=
  let b := s.belfry.totals.boundary
  let s := setBelfry s { s.belfry with totals := { s.belfry.totals with boundary := b + s.belfry.params.n } }
  closeRecord s b false

/-- An AREA's material over `d` counts goes to the record in progress (R440). -/
def giveUnits (s : State) (area : Nat) (d : Int) (ov : Bool) : State :=
  modOpen s (fun o => { o with units := o.units + area * d * s.belfry.params.dpc, overrange := o.overrange || ov })

/-- The boundaries strictly inside a valued interval, in order of motion, with fuel; then the remainder. -/
def valueAcross (area : Nat) (ov : Bool) (c1 : Int) : Nat → Int → State → State
  | 0, c, s => giveUnits s area (c1 - c) ov
  | fuel + 1, c, s =>
    let b := s.belfry.totals.boundary
    if c < b ∧ b < c1 then valueAcross area ov c1 fuel b (passBoundary (giveUnits s area (b - c) ov))
    else giveUnits s area (c1 - c) ov

/-- Records whose boundary the count has reached close, with fuel. -/
def closeReached (c1 : Int) : Nat → State → State
  | 0, s => s
  | fuel + 1, s => if s.belfry.totals.boundary ≤ c1 then closeReached c1 fuel (passBoundary s) else s

/-- The most boundaries an interval of d counts can meet. -/
def boundaryFuel (s : State) (d : Int) : Nat := d.natAbs / max 1 s.belfry.params.n + 2

/-- A pair's AREA and STATUS close its interval (R440, R441). -/
def valuePair (s : State) (c1 : Int) (area status : Nat) : State :=
  match s.belfry.interval with
  | none => setBelfry s { s.belfry with interval := some c1 }
  | some c0 =>
    let d := c1 - c0
    let fuel := boundaryFuel s d
    let s := modOpen s (fun o => { o with reverse := o.reverse || decide (d < 0) })
    let s :=
      if 2 ≤ status || s.belfry.params.maxInterval < d.natAbs then
        modOpen s (fun o => { o with gapCounts := o.gapCounts + d.natAbs })
      else
        modOpen (valueAcross area (status == 1) c1 fuel c0 s) (fun o => { o with pairs := o.pairs + 1 })
    let s := closeReached c1 fuel s
    setBelfry s { s.belfry with interval := some c1 }

/-- The counts since the last pair whose interval is closed join the gap of the record in progress. -/
def gapSinceLast (s : State) : State :=
  let b := s.belfry
  let d := (b.count - b.interval.getD b.totals.countEnd).natAbs
  modOpen s (fun o => { o with gapCounts := o.gapCounts + d })

/-- The record in progress closes as PARTIAL (R452, R454). -/
def closePartial (s : State) : State := closeRecord (gapSinceLast s) s.belfry.count true

/-! ### The event log (R453) -/

/-- An entry of the log; entries other than commits take at most 864 places. -/
def appendLog (b : Belfry) (kind state what : Nat) : Belfry :=
  if kind ≠ 1 && 864 ≤ b.log.countP (fun e => e.kind ≠ 1) then b
  else
    let e : BlfLogEntry :=
      { events := b.events, kind := BitVec.ofNat 8 kind, gen := BitVec.ofNat 8 b.sealGen
        state := BitVec.ofNat 8 state, what := BitVec.ofNat 8 what, seq := lastSeq b, id := fit 8 b.blfId
        paramId := fit 8 b.paramId
        keyHash := match b.verKey with
          | none => zeroBytes 32
          | some k => fit 32 (Config.sha512 k) }
    { b with log := b.log ++ [e] }

/-- The 64 bytes of an entry. -/
def blfLogBytes (e : BlfLogEntry) : Bytes :=
  toLE 2 e.events.toNat ++ [e.kind, e.gen, e.state, e.what, 0, 0] ++ toLE 8 e.seq ++ fit 8 e.id ++ fit 8 e.paramId
    ++ fit 32 e.keyHash

/-! ### Sealed contents and the start (R448 to R455) -/

/-- First 8 bytes of a SHA-512: a firmware or parameter identifier. -/
def identifier (b : Bytes) : Bytes := fit 8 (Config.sha512 b)

/-- MAGIC, length, reserved bytes and signature of a firmware image under a key (R449, R451). -/
def blfImageSound (key image : Bytes) : Bool :=
  le image 0 4 == 0x42464C42 && decide (le image 4 4 ≤ 392960) && image.length == 256 + le image 4 4
    && zeros image 144 112 && Config.ed25519Verify key (image.take 80) (slice image 80 64)

/-- BODY_HASH matches the body (R449). -/
def blfImageWhole (image : Bytes) : Bool := slice image 16 64 == fit 64 (Config.sha512 (image.drop 256))

/-- The fields of a parameter set (R450). -/
def decodeParams (p : Bytes) : BlfParams :=
  { n := le p 4 4, dpc := le p 8 4, density := le p 12 4, triggerCounts := le p 16 4, maxInterval := le p 20 4
    deadline := le p 24 4, direction := bitOf (byteAt p 38) 0, bytes := p }

/-- The ranges of a parameter set (R450). -/
def paramsSound (p : Bytes) : Bool :=
  let within := fun x lo hi => decide (lo ≤ x) && decide (x ≤ hi)
  p.length == 65536 && le p 0 4 == 0x50464C42 && within (le p 4 4) 1000 16777215
    && within (le p 8 4) 1 10000000 && within (le p 12 4) 1 4294967295 && within (le p 16 4) 1 1000000
    && within (le p 20 4) (le p 16 4) (2 ^ 31 - 1) && within (le p 24 4) 1000 1000000
    && decide (le p 32 2 ≤ 2048) && decide (le p 34 2 ≤ 512) && within (byteAt p 36) 0x2A 0x2C
    && [1, 2, 4].contains (byteAt p 37) && decide (byteAt p 38 < 2) && zeros p 39 217

/-- The slot with the higher SEQ (R455). -/
def latestTotals (b : Belfry) : Totals :=
  match b.slotA, b.slotB with
  | some a, some c => if a.seq < c.seq then c else a
  | some a, none => a
  | none, some c => c
  | none, none => {}

/-- The kernel starts (R455): totals from the later slot, stored contents verified, staged ones discarded, and
MEASURING, UNCONFIGURED or FAULT entered. `resume` is a start after VBLF loss, at which the count resumes from its
committed value (R456). -/
def kernelStart (s : State) (resume : Bool) : State :=
  let b := s.belfry
  let t := latestTotals b
  let count := if resume then t.count else b.count
  let high := max t.high count
  let fwOk := match b.verKey with
    | none => false
    | some k => blfImageSound k b.firmware && blfImageWhole b.firmware && identifier (b.firmware.take 80) == fit 8 b.blfId
  let paramsOk := paramsSound b.params.bytes && identifier b.params.bytes == fit 8 b.paramId
  let state : BitVec 4 := if b.verKey.isNone || b.sealGen = 0 then 1 else if fwOk && paramsOk then 2 else 5
  let b := { b with
    powered := true, state := state, fwValid := fwOk, paramsValid := paramsOk, count := count, lastTrigger := count
    triggered := none, frames := [], windows := [], calling := none, waiting := [], interval := none, pairs := 0
    totals := { t with high := high, boundary := high + b.params.n }
    openRec := { tamper := b.tamperOpen }
    stagedFw := {}, stagedParam := {}, stagedFwLen := 0, stagedParamLen := 0 }
  let s := putBelfry s b
  if state = 2 then s else sendLine s (faultText b)

/-- At the Belfry's first start its fuse secret and endorsement are taken as Fjowehus left them (R444, log
entry 34). -/
def blfProvision (s : State) : State :=
  let b := s.belfry
  if !b.secret.isEmpty then s
  else
    let b := { b with secret := Config.entropy s.draws 32 }
    let head := toLE 8 s.sec.dieId.toNat ++ blfKey b ++ zeroBytes 32
      ++ [BitVec.ofNat 8 (Config.freeNat (s.draws + 1) % 4)] ++ zeroBytes 55
    drawn (drawn (drawn (setBelfry s { b with
      endorsement := head ++ fit 64 (Config.entropy (s.draws + 2) 64) ++ zeroBytes 64 })))

/-- VBLF_IN_RANGE (R455). -/
def vblfInRange (s : State) : State :=
  if s.belfry.powered then s
  else
    let again := !s.belfry.secret.isEmpty
    let s := kernelStart (blfProvision s) true
    if again then putBelfry s (appendLog s.belfry 5 2 0) else s

def execVblfInRange (s : State) : Host.Outcome State Fault Refusal := finish s (vblfInRange s)

/-- VBLF_FALLING (R454). -/
def vblfFalling (s : State) : State :=
  if !s.belfry.powered then s
  else
    let s := setBelfry s { s.belfry with calling := none, waiting := [], triggered := none, frames := [] }
    let s := if s.belfry.state = 2 then closePartial s else s
    putBelfry s { s.belfry with state := 4, powered := false }

def execVblfFalling (s : State) : Host.Outcome State Fault Refusal := finish s (vblfFalling s)

/-! ### Inputs (R435 to R437) -/

/-- Place of quadrature levels in forward order (R436). -/
def quadPlace (a b : Bool) : Nat := if a then (if b then 2 else 1) else (if b then 3 else 0)

/-- ENCODER_EDGE: the new levels of A and B; `fast` when it comes faster than 1,000,000 edges per second. -/
def encoderEdge (s : State) (a b fast : Bool) : State :=
  let x := s.belfry
  if !x.powered || (a == x.encA && b == x.encB) then s
  else if fast || (a != x.encA && b != x.encB) then
    setBelfry s { x with
      encA := a, encB := b, encErrors := x.encErrors + 1, openRec := { x.openRec with encError := true } }
  else
    let forward := (quadPlace a b + 4 - quadPlace x.encA x.encB) % 4 == 1
    let c := if forward != x.params.direction then x.count + 1 else x.count - 1
    setBelfry s { x with
      encA := a, encB := b, count := c, totals := { x.totals with high := max x.totals.high c } }

def execEncoderEdge (a b fast : Bool) (s : State) : Host.Outcome State Fault Refusal := finish s (encoderEdge s a b fast)

/-- A pair that has not become whole is discarded and counted (R435). -/
def dropPair (b : Belfry) : Belfry :=
  if b.triggered.isSome then { b with triggered := none, frames := [], badPairs := b.badPairs + 1 } else b

/-- TRIGGER. -/
def triggerPair (s : State) : State :=
  let b := s.belfry
  if !b.powered || b.state ≠ 2 || (b.count - b.lastTrigger).natAbs < b.params.triggerCounts then s
  else emit (setBelfry s { dropPair b with triggered := some b.count, lastTrigger := b.count, frames := [] }) .fsync

def execTrigger (s : State) : Host.Outcome State Fault Refusal := finish s (triggerPair s)

/-- The next accepted pair is passed to the firmware (R438). -/
def startCall (b : Belfry) : Belfry :=
  match b.calling, b.waiting with
  | none, c :: rest => { b with calling := some c, waiting := rest }
  | _, _ => b

/-- CSI_FRAME: the second good frame of a pair makes it accepted. -/
def csiFrame (s : State) (input : Fin 2) (channel : Nat) (intact inWindow : Bool) (window : Bytes) : State :=
  let b := s.belfry
  match b.triggered with
  | none => s
  | some c =>
    if !b.powered || channel ≠ 0 || !intact || !inWindow || b.frames.contains input then s
    else
      let b := { b with frames := input :: b.frames, windows := tset b.windows input.val window }
      if b.frames.length < 2 then setBelfry s b
      else setBelfry s (startCall { b with
        triggered := none, frames := [], pairs := b.pairs + 1, waiting := b.waiting ++ [c] })

def execCsiFrame (input : Fin 2) (channel : BitVec 2) (intact inWindow : Bool) (window : Bytes) (s : State) :
    Host.Outcome State Fault Refusal :=
  finish s (csiFrame s input channel.toNat intact inWindow window)

/-- PAIR_TIMEOUT. -/
def execPairTimeout (s : State) : Host.Outcome State Fault Refusal :=
  finish s (guarded s.belfry.powered s (setBelfry s (dropPair s.belfry)))

/-- The call in progress ends with an AREA and STATUS. -/
def endCall (s : State) (area status : Nat) : State :=
  match s.belfry.calling with
  | none => s
  | some c =>
    let s := setBelfry s { s.belfry with calling := none }
    let s := valuePair s c area status
    setBelfry s (startCall s.belfry)

/-- CALL_RETURN. -/
def execCallReturn (area : BitVec 32) (status : BitVec 2) (s : State) : Host.Outcome State Fault Refusal :=
  finish s (endCall s area.toNat status.toNat)

/-- CALL_DEADLINE: a later return counts as invalid (R438). -/
def execCallDeadline (s : State) : Host.Outcome State Fault Refusal := finish s (endCall s 0 2)

/-- CORE_WATCHDOG (R455): the core is restarted, the counts of the restart are a gap, and the next record is a
FIRST. -/
def coreWatchdog (s : State) : State :=
  if !s.belfry.powered || s.belfry.state ≠ 2 then s
  else
    let s := modOpen (gapSinceLast s) (fun o => { o with first := true })
    let b := { s.belfry with interval := none, calling := none, waiting := [], triggered := none, frames := [] }
    putBelfry s (appendLog b 4 2 0)

def execCoreWatchdog (s : State) : Host.Outcome State Fault Refusal := finish s (coreWatchdog s)

/-- The loop reads closed between 1.8 kΩ and 2.7 kΩ (R533). -/
def loopClosed (ohms : Nat) : Bool := decide (1800 ≤ ohms) && decide (ohms ≤ 2700)

/-- TAMPER_SAMPLE: three agreeing samples change the loop's state (R437, R533). -/
def tamperSample (s : State) (ohms : Nat) : State :=
  let b := s.belfry
  if !b.powered then s
  else
    let l := (loopClosed ohms :: b.samples).take 3
    let b := { b with samples := l }
    let now := !loopClosed ohms
    if l.length < 3 || !l.all (· == loopClosed ohms) || now == b.tamperOpen then setBelfry s b
    else if now then
      putBelfry s (appendLog { b with
        tamperOpen := true, sealBroken := true, events := b.events + 1, openRec := { b.openRec with tamper := true } } 2 2 0)
    else putBelfry s (appendLog { b with tamperOpen := false } 3 2 0)

def execTamperSample (ohms : Nat) (s : State) : Host.Outcome State Fault Refusal := finish s (tamperSample s ohms)

/-- IDENTITY_LINE. -/
def execIdentityLine (s : State) : Host.Outcome State Fault Refusal :=
  finish s (guarded s.belfry.powered s (sendLine s (identityText s.belfry)))

/-- FAULT_LINE. -/
def execFaultLine (s : State) : Host.Outcome State Fault Refusal :=
  finish s (guarded (s.belfry.powered && (s.belfry.state = 5 || s.belfry.state = 1)) s
    (sendLine s (faultText s.belfry)))

/-! ### The relay (R458 to R460) -/

/-- The Belfry's operations. -/
def blfOperations : List Nat := [0x0001, 0x0002, 0x0003, 0x0010, 0x0011, 0x0020, 0x0021, 0x0030]

/-- The Belfry replies: Lantern writes the reply up to its capacity and completes the request. -/
def blfReply (s : State) (st : Status) (reply : Bytes) : State :=
  let s := setBelfry s { s.belfry with inboxFull := false, inbox := [] }
  match (waitingSlots s 0x0B01 (fun _ => true)).head? with
  | none => s
  | some slot =>
    match runningOf s slot with
    | none => s
    | some r =>
      let b := reply.take (le r.desc 28 4)
      complete (hostWrite s (slotFn s slot) (le r.desc 20 8) b) slot st (toLE 4 b.length)

/-- CMD_BLF_REQUEST: the request bytes go into the relay inbox; one that names no operation is refused. -/
def cmdBlfRequest (s : State) (slot : Nat) (request : Option Bytes) : State :=
  if !s.belfry.powered || s.belfry.inboxFull then s
  else command s slot 0x0B01 [(8, 24)] (fun d =>
    let length := le d 16 4
    if le d 8 8 % 64 ≠ 0 || length < 16 || 65536 < length || le d 20 8 % 64 ≠ 0 || le d 28 4 < 64 || 65536 < le d 28 4 then
      complete s slot stBadArgument []
    else withHost s slot (le d 8 8) request (fun t b =>
      let t := deferCompletion (setBelfry t { t.belfry with inbox := fit length b, inboxFull := true }) slot
      if blfOperations.contains (le b 0 2) then t else blfReply t stBadArgument []))

def execCmdBlfRequest (slot : Fin 10) (request : Option Bytes) (s : State) : Host.Outcome State Fault Refusal :=
  finish s (cmdBlfRequest s slot request)

/-- Records held from the first at or after a SEQ. -/
def recordsFrom (b : Belfry) (seq n : Nat) : List Bytes := (b.records.filter (fun r => decide (seq ≤ le r 8 8))).take n

/-- CMD_BLF_RECORDS. -/
def cmdBlfRecords (s : State) (slot : Nat) : State :=
  if !s.belfry.powered then s
  else command s slot 0x0B02 [(8, 18)] (fun d =>
    if le d 8 8 % 64 ≠ 0 || le d 24 2 < 1 || 256 < le d 24 2 then complete s slot stBadArgument []
    else
      let l := recordsFrom s.belfry (le d 16 8) (le d 24 2)
      complete (hostWrite s (slotFn s slot) (le d 8 8) l.flatten) slot stOk (toLE 4 l.length))

def execCmdBlfRecords (slot : Fin 10) (s : State) : Host.Outcome State Fault Refusal := finish s (cmdBlfRecords s slot)

/-- The Belfry takes the request in its inbox for an operation whose request has a payload of the length `len`
accepts; any other length is refused (R459). -/
def onRequest (s : State) (bop : Nat) (len : Nat → Bool) (f : Bytes → State) : State :=
  let q := s.belfry.inbox
  if !s.belfry.powered || !s.belfry.inboxFull || le q 0 2 ≠ bop then s
  else if !zeros q 2 2 || le q 4 4 ≠ q.length || !len q.length then blfReply s stBadArgument []
  else f q

/-- BELFRY_STATUS. -/
def statusReply (b : Belfry) : Bytes :=
  fit 64 (toLE 1 b.state.toNat ++ toLE 1 (openFlags b false) ++ toLE 1 b.sealGen ++ toLE 1 (flag b.tamperOpen)
    ++ toLE 2 b.events.toNat ++ toLE 8 (lastSeq b) ++ toLE 8 (unsignedOf 64 b.count) ++ fit 8 b.blfId ++ fit 8 b.paramId)

def execBelfryStatus (s : State) : Host.Outcome State Fault Refusal :=
  finish s (onRequest s 0x0001 (· == 16) (fun _ => blfReply s stOk (statusReply s.belfry)))

/-- BELFRY_IDENTITY. -/
def execBelfryIdentity (s : State) : Host.Outcome State Fault Refusal :=
  finish s (onRequest s 0x0002 (· == 16) (fun _ => blfReply s stOk (fit 256 s.belfry.endorsement)))

/-- BELFRY_LOG. -/
def belfryLog (s : State) : State :=
  onRequest s 0x0003 (· == 20) (fun q =>
    if le q 18 2 < 1 || 896 < le q 18 2 || 896 ≤ le q 16 2 then blfReply s stBadArgument []
    else blfReply s stOk (((s.belfry.log.drop (le q 16 2)).take (le q 18 2)).flatMap blfLogBytes))

def execBelfryLog (s : State) : Host.Outcome State Fault Refusal := finish s (belfryLog s)

/-- STAGE_FW: data into the staging area of the firmware image. -/
def stageFw (s : State) : State :=
  onRequest s 0x0010 (fun n => decide (20 ≤ n)) (fun q =>
    let b := s.belfry
    let at' := le q 16 4
    let data := q.drop 20
    if 393216 < at' + data.length then blfReply s stBadArgument []
    else blfReply (setBelfry s { b with
      stagedFw := storeWrite b.stagedFw at' data, stagedFwLen := max b.stagedFwLen (at' + data.length) }) stOk [])

def execStageFw (s : State) : Host.Outcome State Fault Refusal := finish s (stageFw s)

/-- STAGE_PARAM: the same for the parameter set. -/
def stageParam (s : State) : State :=
  onRequest s 0x0011 (fun n => decide (20 ≤ n)) (fun q =>
    let b := s.belfry
    let at' := le q 16 4
    let data := q.drop 20
    if 65536 < at' + data.length then blfReply s stBadArgument []
    else blfReply (setBelfry s { b with
      stagedParam := storeWrite b.stagedParam at' data
      stagedParamLen := max b.stagedParamLen (at' + data.length) }) stOk [])

def execStageParam (s : State) : Host.Outcome State Fault Refusal := finish s (stageParam s)

/-- What is staged. -/
def stagedImage (b : Belfry) : Bytes := storeRead b.stagedFw 0 b.stagedFwLen
def stagedParams (b : Belfry) : Bytes := storeRead b.stagedParam 0 b.stagedParamLen

/-- The key in force after a commit (R451). -/
def keyAfter (b : Belfry) (q : Bytes) : Option Bytes :=
  if bitOf (byteAt q 16) 2 then some (slice q 17 32) else b.verKey

/-- Bytes of a commit before its signature. -/
def commitBytes (q : Bytes) : Nat := if bitOf (byteAt q 16) 2 then 49 else 17

/-- The first failure of a commit (R451). -/
def commitFailure (b : Belfry) (q : Bytes) : Option Status :=
  let what := byteAt q 16
  let n := commitBytes q
  let key := (keyAfter b q).getD []
  if what = 0 || 8 ≤ what || (b.sealGen = 0 && !bitOf what 2) || q.length ≠ n + (if b.sealGen = 0 then 0 else 64)
      || (bitOf what 0 && !blfImageSound key (stagedImage b)) || (bitOf what 1 && !paramsSound (stagedParams b)) then
    some stBadArgument
  else if b.sealGen ≠ 0 && !Config.ed25519Verify (b.verKey.getD []) (ascii "BELFRY-SEAL" ++ blfKey b ++ q.take n)
      (slice q n 64) then some stBadCheck
  else if le q 8 8 ≠ b.events.toNat then some stStaleCounter
  else if b.state = 3 || b.state = 4 then some stNotPermitted
  else if 32 ≤ b.sealGen then some stFuseExhausted
  else none

/-- The sealed contents after a commit: a seal step burnt, the named areas written, the event counter on, the
entry DONE (R452). -/
def sealContents (b : Belfry) (q : Bytes) : Belfry :=
  let what := byteAt q 16
  let b := { b with
    sealGen := b.sealGen + 1, verKey := keyAfter b q, sealBroken := false, events := b.events + 1
    firmware := if bitOf what 0 then stagedImage b else b.firmware
    blfId := if bitOf what 0 then identifier ((stagedImage b).take 80) else b.blfId
    params := if bitOf what 1 then decodeParams (stagedParams b) else b.params
    paramId := if bitOf what 1 then identifier (stagedParams b) else b.paramId }
  appendLog b 1 1 what

/-- COMMIT. -/
def commitSeal (s : State) : State :=
  onRequest s 0x0020 (fun n => decide (17 ≤ n)) (fun q =>
    match commitFailure s.belfry q with
    | some st => blfReply s st []
    | none =>
      let s := if s.belfry.state = 2 then closePartial s else s
      blfReply (kernelStart (setBelfry s (sealContents s.belfry q)) false) stOk [])

def execCommit (s : State) : Host.Outcome State Fault Refusal := finish s (commitSeal s)

/-- PARTIAL_RESET: PARTIAL is zeroed at the next close. -/
def execPartialReset (s : State) : Host.Outcome State Fault Refusal :=
  finish s (onRequest s 0x0021 (· == 16) (fun _ => blfReply (setBelfry s { s.belfry with partialReset := true }) stOk []))

/-- INDICATOR_ID. -/
def execIndicatorId (s : State) : Host.Outcome State Fault Refusal :=
  finish s (onRequest s 0x0030 (· == 16) (fun _ => blfReply (sendLine s (identityText s.belfry)) stOk []))

/-! ### Notices (R432, R437, R452) -/

/-- NEW_RECORD_NOTICE: Lantern learns of a record and does no more; CMD_BLF_RECORDS fetches it. -/
def execNewRecordNotice (s : State) : Host.Outcome State Fault Refusal := finish s s

/-- EV_TAMPER and EV_SEAL_CHANGE (R406). -/
def raiseTamper (s : State) : State :=
  raiseEvent s 0x0601 none (eventData [(0, toLE 1 (flag s.belfry.mirTamper)), (4, toLE 4 s.belfry.mirEvents.toNat)])
def raiseSealChange (s : State) : State :=
  raiseEvent s 0x0602 none (eventData [(0, toLE 1 s.belfry.mirGen.toNat), (4, toLE 4 s.belfry.mirEvents.toNat),
    (8, toLE 8 s.belfry.mirId.toNat)])

/-- Lantern's firmware runs. -/
def lanternRuns (s : State) : Bool := s.boot.stage = 3

/-- TAMPER_NOTICE: the loop's state is recorded in configuration MRAM too (R520). -/
def execTamperNotice (s : State) : Host.Outcome State Fault Refusal :=
  finish s (guarded (lanternRuns s) s (raiseTamper (setSec s { s.sec with lastTamper := s.belfry.mirTamper })))

/-- SEAL_NOTICE: the event, the audit entry of kind 0x14, and the generation recorded (R428, R452, R520). -/
def execSealNotice (s : State) : Host.Outcome State Fault Refusal :=
  finish s (guarded (lanternRuns s) s
    (appendRingWith (raiseSealChange (setSec s { s.sec with lastSeal := s.belfry.mirGen })) 0x14 0xFF
      s.belfry.mirGen.toNat 0 []))

/-- STATE_NOTICE: Lantern learns of a state change; the mirror shows it. -/
def execStateNotice (s : State) : Host.Outcome State Fault Refusal := finish s s

end Sys2Proof.Machine
end

