-- ==== Sys2Proof/Machine/Copy.lean ====
section
/-! DEFINITION. Planned copies: the checks of a COPY descriptor, the spill codecs, the bytes a copy moves
and its pulse (R183 to R196, R541), and the arrival at a skein barrier (R354). -/

namespace Sys2Proof.Machine

/-! ### Checks (R190 to R192) -/

/-- Swap unit in bytes (R191). -/
def swapUnit (swap : Nat) : Nat := if swap = 0 then 1 else if swap = 1 then 2 else 4

/-- Bytes of a row at the compressed side by codec (R189). -/
def compressedRow (c : CopyDesc) : Nat := c.rowBytes / (if c.codec = 1 then 2 else 4)

/-- Bytes of a row at the source and at the destination (R189). -/
def srcRow (c : CopyDesc) : Nat := if c.codec ≠ 0 && c.decompress then compressedRow c else c.rowBytes
def dstRow (c : CopyDesc) : Nat := if c.codec ≠ 0 && !c.decompress then compressedRow c else c.rowBytes

def intMultiple (m : Nat) (x : Int) : Bool := x % (m : Int) == 0

/-- The alignment an address, pitch and work stride of the source or destination needs (R190, R191). -/
def srcUnit (c : CopyDesc) : Nat := if c.codec = 0 then swapUnit c.swap else if c.decompress then 8 else 32
def dstUnit (c : CopyDesc) : Nat := if c.codec = 0 then swapUnit c.swap else if c.decompress then 32 else 8

/-- The rules of R188, R190 and R191 that do not depend on SRC and DST. -/
def copyFields (d : Bytes) : Bool :=
  let c := decodeCopy d
  let fill := c.srcSpace == 3
  let sided := fun (mem cache : Nat) => mem == 0 && (cache == 1 || cache == 2)
  byteAt d 1 < 32 && c.codec ≠ 3 && c.dstSpace ≠ 3 && c.target ≠ 3 && byteAt d 5 < 4
    && byteAt d 3 < 32 && byteAt d 4 < 32 && byteAt d 6 < 32 && byteAt d 7 < 32
    && zeros d 30 2 && zeros d 48 16
    && decide (1 ≤ c.rowBytes) && decide (c.rowBytes ≤ 16777216)
    && (if c.codec = 0 then c.cfmt == 0 else [0, 1, 8, 9].contains c.cfmt)
    && (!fill || (c.srcWstride == 0 && zeros d 12 4))
    && (c.codec = 0 || (c.swap == 0 && decide (c.rowBytes % 256 = 0)
        && (if c.decompress then sided c.srcSpace c.dstSpace else sided c.dstSpace c.srcSpace)
        && (c.codec ≠ 2 || c.cfmt == 8 || c.cfmt == 9)))
    && decide (c.rowBytes % swapUnit c.swap = 0)
    && (fill || (intMultiple (srcUnit c) c.srcPitch && intMultiple (srcUnit c) c.srcWstride))
    && intMultiple (dstUnit c) c.dstPitch && intMultiple (dstUnit c) c.dstWstride

/-- The alignment of SRC, where the source has an address. -/
def copySrcAligned (d : Bytes) : Bool :=
  let c := decodeCopy d
  c.srcSpace == 3 || c.src % srcUnit c == 0

/-- The alignment of DST. -/
def copyDstAligned (d : Bytes) : Bool :=
  let c := decodeCopy d
  c.dst % dstUnit c == 0

/-- The spires a copy names, where used (R192). -/
def copySpires (c : CopyDesc) : List Nat :=
  (if c.srcSpace = 1 then [c.srcSpire] else []) ++ (if c.dstSpace = 1 then [c.dstSpire] else [])
    ++ (if c.target = 2 then [c.tgtSpire] else [])

/-- Size of a space for a job of partition x (R177, R180, R25). -/
def spaceSize (x : Partition) (space : Nat) : Nat :=
  if space = 0 then regionBytes x else if space = 1 then 4194304 else 393216

/-- Rows of n bytes from `start` on, a pitch apart, lie within a space. -/
def rowsWithin (size : Nat) (start pitch : Int) (rows n : Nat) : Bool :=
  let span := pitch * ((rows : Int) - 1)
  decide (0 ≤ start + min 0 span) && decide (start + max 0 span + n ≤ size)

/-- Starts of the rows at the source and destination for work item w (R189). -/
def srcStart (c : CopyDesc) (w : Nat) : Int := (c.src : Int) + w * c.srcWstride
def dstStart (c : CopyDesc) (w : Nat) : Int := (c.dst : Int) + w * c.dstWstride

/-- The reach of a side leaves its space: the status of R192. -/
def leavesSpace (space : Nat) : Status := if space = 0 then stNotPermitted else stBadArgument

/-- Offsets of the destination rows. -/
def dstRows (c : CopyDesc) (w : Nat) : List Nat :=
  (List.range c.rows).map (fun (r : Nat) => (dstStart c w + r * c.dstPitch).toNat)
def srcRows (c : CopyDesc) (w : Nat) : List Nat :=
  (List.range c.rows).map (fun (r : Nat) => (srcStart c w + r * c.srcPitch).toNat)

/-- The destination touches a model image outside its banks (R172) or a control area (R229). -/
def dstForbidden (x : Partition) (c : CopyDesc) (w : Nat) : Bool :=
  c.dstSpace == 0 && (!x.images.isEmpty || !x.pools.isEmpty) &&
    (dstRows c w).any (fun a => touchesImage x a (dstRow c) || touchesCtrl x a (dstRow c))

/-- The reach of the source leaves its space (R192). -/
def srcReach (x : Partition) (c : CopyDesc) (w : Nat) : Option Status :=
  if c.srcSpace ≠ 3 && !rowsWithin (spaceSize x c.srcSpace) (srcStart c w) c.srcPitch c.rows (srcRow c) then
    some (leavesSpace c.srcSpace)
  else none

/-- The reach of the destination leaves its space or is read-only (R192). -/
def dstReach (x : Partition) (c : CopyDesc) (w : Nat) : Option Status :=
  if !rowsWithin (spaceSize x c.dstSpace) (dstStart c w) c.dstPitch c.rows (dstRow c) then
    some (leavesSpace c.dstSpace)
  else if dstForbidden x c w then some stNotPermitted
  else none

/-- The reach checks of R192 for work item w. -/
def copyReach (x : Partition) (c : CopyDesc) (w : Nat) : Option Status := (srcReach x c w).or (dstReach x c w)

/-! ### The codecs (R184 to R186) -/

/-- d / 2^s rounded to nearest, ties up. -/
def roundHalfUp (d s : Nat) : Nat := if s = 0 then d else (d + 2 ^ (s - 1)) / 2 ^ s

/-- One 8-bit group of 16 elements to its 8-byte record (R185). -/
def encode8 (signed : Bool) (g : Bytes) : Bytes :=
  let x : List Int := g.map (fun b => if signed then signedOf 8 b.toNat else (b.toNat : Int))
  let m := x.foldl min (x.headD 0)
  let d := x.map (fun v => (v - m).toNat)
  let most := d.foldl max 0
  let s := (List.range 6).foldr (fun s best => if roundHalfUp most s ≤ 7 then s else best) 6
  let codes := d.map (fun v => roundHalfUp v s)
  toLE 8 (packBits ([(0, unsignedOf 8 m), (8, s)] ++ codes.zipIdx.map (fun e => (16 + 3 * e.2, e.1))))

/-- A record to its 16 elements (R185). -/
def decode8 (signed : Bool) (rec : Bytes) : Bytes :=
  let n := leNat rec
  let m : Int := if signed then signedOf 8 (field n 0 8) else ((field n 0 8 : Nat) : Int)
  let lo : Int := if signed then -128 else 0
  let hi : Int := if signed then 127 else 255
  (List.range 16).map (fun i =>
    let y := m + ((field n (16 + 3 * i) 3 * 2 ^ field n 8 3 : Nat) : Int)
    BitVec.ofNat 8 (unsignedOf 8 (max lo (min hi y))))

/-- A magnitude m × 2^e over 2^x, rounded to nearest with ties away. -/
def roundAway (m : Nat) (e x : Int) : Nat :=
  if x ≤ e then m * 2 ^ (e - x).toNat else roundHalfUp m (x - e).toNat

/-- Smallest x from `from'` on whose rounded quotient is at most cmax, with fuel. -/
def codecStep (m : Nat) (e : Int) (cmax : Nat) : Nat → Int → Int
  | 0, x => x
  | fuel + 1, x => if roundAway m e x ≤ cmax then x else codecStep m e cmax fuel (x + 1)

/-- Bits of a code of a 16-bit codec at 2:1 and 4:1 (R186). -/
def codeBits (codec : Nat) : Nat := if codec = 1 then 7 else 3
def codeMax (codec : Nat) : Nat := if codec = 1 then 63 else 3
/-- Bytes of a record of a 16-bit group. -/
def recBytes (codec : Nat) : Nat := if codec = 1 then 16 else 8

def magOf : FpVal → Nat × Int
  | .fin _ m e => (m, e)
  | _ => (0, 0)

/-- One 16-bit group to its record, with whether it holds a non-finite element (R186). -/
def encode16 (f codec : Nat) (g : Bytes) : Bytes × Bool :=
  let x := (List.range 16).map (fun i => ofElement f (le g (2 * i) 2))
  if !x.all isFinite then (toLE (recBytes codec) 0xFF, true)
  else
    let a := x.foldl (fun (best v : FpVal) =>
      if magLt (magOf best).1 (magOf best).2 (magOf v).1 (magOf v).2 then v else best) .zero
    let exp : Int :=
      if isZero a then -127
      else codecStep (magOf a).1 (magOf a).2 (codeMax codec) 512
        (max (-127) (floorLog2 (magOf a).1 (magOf a).2 - (codeBits codec : Int)))
    let code := x.map (fun v => match v with
      | .fin neg m e => if neg then -((roundAway m e exp : Nat) : Int) else ((roundAway m e exp : Nat) : Int)
      | _ => 0)
    (toLE (recBytes codec) (packBits ((0, unsignedOf 8 (exp + 127)) ::
      code.zipIdx.map (fun e => (8 + codeBits codec * e.2, unsignedOf (codeBits codec) e.1)))), false)

/-- A record to its 16 elements of a 16-bit format (R186); a code of 0 decodes to +0. -/
def decode16 (f codec : Nat) (rec : Bytes) : Bytes :=
  let n := leNat rec
  let exp := field n 0 8
  (List.range 16).flatMap (fun i =>
    let k := signedOf (codeBits codec) (field n (8 + codeBits codec * i) (codeBits codec))
    let v : FpVal := if exp = 255 then .nan else scaleNum ((exp : Int) - 127) (numOfInt k)
    toLE 2 (toElement f v).bits)

/-- Bytes cut into groups of n, with fuel. -/
def groupsOf (n : Nat) : Nat → Bytes → List Bytes
  | 0, _ => []
  | fuel + 1, b => if b.isEmpty then [] else b.take n :: groupsOf n fuel (b.drop n)

def chunks (n : Nat) (b : Bytes) : List Bytes := groupsOf n (b.length / n + 1) b

/-- One row through SWAP (R191). -/
def swapRow (swap : Nat) (b : Bytes) : Bytes :=
  if swap = 0 then b
  else if swap = 1 then (chunks 2 b).flatMap List.reverse
  else if swap = 2 then (chunks 4 b).flatMap List.reverse
  else (chunks 4 b).flatMap (fun w => w.drop 2 ++ w.take 2)

/-- One row from source bytes to destination bytes, with its non-finite groups. -/
def copyRow (c : CopyDesc) (b : Bytes) : Bytes × Nat :=
  if c.codec = 0 then (swapRow c.swap b, 0)
  else if c.cfmt = 0 || c.cfmt = 1 then
    if c.decompress then ((chunks 8 b).flatMap (decode8 (c.cfmt = 0)), 0)
    else ((chunks 16 b).flatMap (encode8 (c.cfmt = 0)), 0)
  else if c.decompress then ((chunks (recBytes c.codec) b).flatMap (decode16 c.cfmt c.codec), 0)
  else
    let r := (chunks 32 b).map (encode16 c.cfmt c.codec)
    (r.flatMap (·.1), r.countP (·.2))

/-- A row of a fill: the pattern repeated (R189), swapped as data (R191). -/
def fillRow (c : CopyDesc) : Bytes :=
  swapRow c.swap ((List.range c.rowBytes).map (fun j => BitVec.ofNat 8 (c.src / 256 ^ (j % 4))))

/-! ### Spaces -/

/-- Bytes of a space that spindle p's copy may name. -/
def spaceStore (s : State) (p part space spire : Nat) : Store 8 :=
  if space = 0 then (match partOf s part with | none => {} | some x => x.region)
  else if space = 1 then (spireOf s spire).cache
  else (spindleOf s p).cache

/-- Numbers of what is in error in a space, and the bytes of each: 128-byte halves or 64-bit words. -/
def spaceBad (s : State) (p part space spire a n : Nat) : Bool :=
  if space = 0 then (match partOf s part with | none => false | some x => badRead x a n)
  else if space = 1 then badWordRead (spireOf s spire).bad a n
  else badWordRead (spindleOf s p).bad a n

/-- A write of [a, a + n) meets what is in error: every request to LPDDR5 is a partial write (R193, R213). -/
def spaceBadWrite (s : State) (p part space spire a n : Nat) : Bool :=
  if space = 0 then (match partOf s part with | none => false | some x => badRead x a n)
  else if space = 1 then badWordWrite (spireOf s spire).bad a n
  else badWordWrite (spindleOf s p).bad a n

/-- Bytes written into a space. -/
def spacePut (s : State) (p part space spire a : Nat) (b : Bytes) : State :=
  if space = 0 then regionWrite s part a b
  else if space = 1 then
    let x := spireOf s spire
    setSpire s spire { x with cache := storeWrite x.cache a b, bad := clearWords x.bad a b.length }
  else
    let x := spindleOf s p
    setSpindle s p { x with cache := storeWrite x.cache a b, bad := clearWords x.bad a b.length }

/-- Bytes of a space made undefined (R190, R196). -/
def spaceUndef (s : State) (p part space spire a n : Nat) : State :=
  let t := s.draws
  let s := drawn s
  if space = 0 then modPart s part (fun x => { x with region := storeUndef x.region a n t })
  else if space = 1 then
    let x := spireOf s spire
    setSpire s spire { x with cache := storeUndef x.cache a n t }
  else
    let x := spindleOf s p
    setSpindle s p { x with cache := storeUndef x.cache a n t }

/-- Source and destination bytes of a copy overlap, or rows of its destination do: undefined contents
(R190, log entry 19). -/
def copyOverlaps (c : CopyDesc) (w : Nat) : Bool :=
  (decide (1 < c.rows) && decide (c.dstPitch.natAbs < dstRow c)) ||
  (c.srcSpace == c.dstSpace && (c.srcSpace ≠ 1 || c.srcSpire == c.dstSpire) &&
    (srcRows c w).any (fun a => (dstRows c w).any (fun b => meets a (srcRow c) b (dstRow c))))

/-- The destination of a cut copy is undefined (R196). -/
def undefDest (s : State) (p part : Nat) (c : CopyDesc) (w : Nat) : State :=
  (dstRows c w).foldl (fun t a => spaceUndef t p part c.dstSpace c.dstSpire a (dstRow c)) s

/-- The rows of a copy as destination bytes, with the non-finite groups. -/
def copyData (s : State) (p part : Nat) (c : CopyDesc) (w : Nat) : List (Bytes × Nat) :=
  if c.srcSpace = 3 then List.replicate c.rows (fillRow c, 0)
  else
    let st := spaceStore s p part c.srcSpace c.srcSpire
    (srcRows c w).map (fun a => copyRow c (storeRead st a (srcRow c)))

/-- All rows move, or the destination is undefined where bytes overlap. -/
def moveRows (s : State) (p part : Nat) (c : CopyDesc) (w : Nat) : State :=
  if copyOverlaps c w then undefDest s p part c w
  else
    let rows := copyData s p part c w
    let s := ((dstRows c w).zip rows).foldl
      (fun t e => spacePut t p part c.dstSpace c.dstSpire e.1 e.2.1) s
    let x := spindleOf s p
    setSpindle s p { x with dma := { x.dma with
      nonfinite := satAdd x.dma.nonfinite (rows.map (·.2)).sum } }

/-- The first row in which a copy meets an error no code corrects, in its source or under a partial write of its
destination (R503, R505): the space and spire it lies in, its offset and its bytes. -/
def copyFailure (s : State) (p part : Nat) (c : CopyDesc) (w : Nat) : Option (Nat × Nat × Nat × Nat) :=
  let src := if c.srcSpace = 3 then none
    else (srcRows c w).find? (fun a => spaceBad s p part c.srcSpace c.srcSpire a (srcRow c))
  match src with
  | some a => some (c.srcSpace, c.srcSpire, a, srcRow c)
  | none =>
    ((dstRows c w).find? (fun a => spaceBadWrite s p part c.dstSpace c.dstSpire a (dstRow c))).map
      (fun a => (c.dstSpace, c.dstSpire, a, dstRow c))

/-! ### COPY and COPY_COMPLETE -/

/-- SPN_WORK_ITEM as a copy takes it (R189). -/
def copyItem (x : Spindle) : Nat := if x.agen.workItem = 0xFFFFFFFF#32 then 0 else x.agen.workItem.toNat

/-- The engine stops by an error; copies that began before go on (R192). -/
def dmaStop (s : State) (p : Nat) : State :=
  let x := spindleOf s p
  setSpindle s p { x with dma := { x.dma with state := 3 } }

/-- A copy fails its checks as it begins: nothing is written and the job ends (R192). -/
def copyRefused (s : State) (p : Nat) (st : Status) (pc : Nat) : State := agenError (dmaStop s p) p st pc

/-- The checks a copy meets as it begins: with a work stride all of R190 to R192, else the read-only areas
of R172 and R229. -/
def copyBegins (s : State) (j : Nat) (d : Bytes) (w : Nat) : Option Status :=
  let c := decodeCopy d
  match partOf s (jobOf s j).part.toNat with
  | none => none
  | some x =>
    if !(copySpires c).all (ownsSpire s j) then some stNotPermitted
    else if c.srcWstride ≠ 0 || c.dstWstride ≠ 0 then
      if !copyFields d || !copySrcAligned d || !copyDstAligned d then some stBadArgument
      else copyReach x c w
    else if dstForbidden x c w then some stNotPermitted
    else none

/-- COPY (R133, R192, R193): the generator hands the copy over and it begins; while the engine holds 8
the generator waits. -/
def handCopy (s : State) (p : Nat) : State :=
  onDesc s p 6 blocksDone (fun j x d =>
    if 8 ≤ x.dma.copies.length then setSpindle s p (executing x x.agen.next 6 5)
    else
      let pc := x.agen.next
      let w := copyItem x
      let s := setSpindle s p (executing x pc 6 1)
      match copyBegins s j d w with
      | some st => copyRefused s p st pc
      | none =>
        let x := executing x pc 6 1
        setSpindle s p (goTo { x with dma := { x.dma with
          copies := x.dma.copies ++ [⟨pc, d, w⟩], state := 1 } } (pc + 1)))

def execCopy (p : Fin 256) (s : State) : Host.Outcome State Fault Refusal := finish s (handCopy s p)

/-- The first copy leaves the engine. -/
def dropCopy (s : State) (p : Nat) : State :=
  let x := spindleOf s p
  let rest := x.dma.copies.tail
  setSpindle s p { x with dma := { x.dma with
    copies := rest, state := if rest.isEmpty && x.dma.state = 1 then 0 else x.dma.state } }

/-- The pulse of a complete copy (R194); a semaphore that refuses it ends the job (R200). -/
def copyPulse (s : State) (p j pc : Nat) (c : CopyDesc) : State :=
  if c.target = 1 then
    let x := spindleOf s p
    afterPulse (setSpindle s p { x with dma := { x.dma with localCount := satInc x.dma.localCount } }) p
  else if c.target = 2 then
    match releaseUnits s c.tgtSpire c.tgtSem 1 (some j) with
    | some t => afterPulse t p
    | none => copyRefused s p stBadArgument pc
  else afterPulse s p

/-- What is in error in a space: the address and length of each. -/
def badSpans (s : State) (p part space spire : Nat) : List (Nat × Nat) :=
  if space = 0 then (match partOf s part with | none => [] | some x => x.badHalves.map (fun h => (128 * h, 128)))
  else if space = 1 then (spireOf s spire).bad.map (fun w => (8 * w, 8))
  else (spindleOf s p).bad.map (fun w => (8 * w, 8))

/-- Source and destination bytes that a row moves as one: a swap unit, or a record and its group (R185, R186, R191). -/
def moveUnits (c : CopyDesc) : Nat × Nat :=
  let g := if c.cfmt = 0 || c.cfmt = 1 then (8, 16) else (recBytes c.codec, 32)
  if c.codec = 0 then (swapUnit c.swap, swapUnit c.swap) else if c.decompress then g else (g.2, g.1)

/-- Destination bytes of a failed copy that no value reaches: those derived from what is in error, and what is
in error itself (R502, R505). -/
def keptSpans (s : State) (p part : Nat) (c : CopyDesc) (w : Nat) : List (Nat × Nat) :=
  let src := if c.srcSpace = 3 then [] else badSpans s p part c.srcSpace c.srcSpire
  let dst := badSpans s p part c.dstSpace c.dstSpire
  let u := moveUnits c
  ((srcRows c w).zip (dstRows c w)).flatMap (fun r =>
    (src.filter (fun e => meets r.1 (srcRow c) e.1 e.2)).map (fun e =>
      let lo := (e.1 - r.1) / u.1 * u.2
      let hi := ceilDiv (min (e.1 + e.2) (r.1 + srcRow c) - r.1) u.1 * u.2
      (r.2 + lo, hi - lo))) ++
  (dstRows c w).flatMap (fun b => dst.filter (fun e => meets b (dstRow c) e.1 e.2))

/-- Bytes of a space put back as they stood; what is in error stays so. -/
def spaceRestore (s : State) (p part space spire : Nat) (e : Nat × Bytes) : State :=
  if space = 0 then modPart s part (fun x => { x with region := storeWrite x.region e.1 e.2 })
  else if space = 1 then
    let x := spireOf s spire
    setSpire s spire { x with cache := storeWrite x.cache e.1 e.2 }
  else
    let x := spindleOf s p
    setSpindle s p { x with cache := storeWrite x.cache e.1 e.2 }

/-- The destination of a copy whose read failed, or that was cut behind it: undefined, since any of its
requests may have been carried out (R196, R504, log entry 19), but for the bytes that no value reaches. -/
def failedDest (s : State) (p part : Nat) (c : CopyDesc) (w : Nat) : State :=
  let store := spaceStore s p part c.dstSpace c.dstSpire
  let kept := (keptSpans s p part c w).map (fun e => (e.1, storeRead store e.1 e.2))
  kept.foldl (fun t e => spaceRestore t p part c.dstSpace c.dstSpire e) (undefDest s p part c w)

/-- A copy that met a failed read: nothing derived from it is written (R502), the destinations of the copies
in flight are undefined, and the job ends with ST_UNCORRECTABLE (R502 to R504). -/
def copyFails (s : State) (p j : Nat) (e : CopyReq) (f : Nat × Nat × Nat × Nat) : State :=
  let part := (jobOf s j).part.toNat
  let s := if f.1 = 0 then dramUncorrectable s part [f.2.2] (jobId s j) p
    else sramUncorrectable s (if f.1 = 1 then domeOfSpire f.2.1 else domeOfSpindle p) (some part) (jobId s j) p
  let held := (spindleOf s p).dma.copies
  let s := held.foldl (fun t k => failedDest t p part (decodeCopy k.desc) k.item) s
  let x := spindleOf s p
  let s := setSpindle s p { x with dma := { x.dma with copies := [], state := 3 } }
  agenError s p stUncorrectable e.pc

/-- A copy of spindle p may complete: its job is RUNNING or SAVING, or ENDING behind a copy that failed
its checks (R192, R196). -/
def copyMayEnd (s : State) (p : Nat) : Option Nat :=
  match (spindleOf s p).job with
  | none => none
  | some j =>
    let st := (jobOf s j).state
    if st = 2 || st = 3 || (st = 7 && (spindleOf s p).dma.state = 3) then some j else none

/-- COPY_COMPLETE (R189, R194): the oldest copy's bytes are visible and its pulse is sent. -/
def copyComplete (s : State) (p : Nat) : State :=
  match copyMayEnd s p, (spindleOf s p).dma.copies with
  | some j, e :: _ =>
    let c := decodeCopy e.desc
    let part := (jobOf s j).part.toNat
    match copyFailure s p part c e.item with
    | some f => copyFails s p j e f
    | none =>
      let s := dropCopy (moveRows s p part c e.item) p
      let x := spindleOf s p
      let s := setSpindle s p { x with dma := { x.dma with count := satInc x.dma.count } }
      copyPulse s p j e.pc c
  | _, _ => s

def execCopyComplete (p : Fin 256) (s : State) : Host.Outcome State Fault Refusal :=
  finish s (copyComplete s p)

end Sys2Proof.Machine
end

