-- ==== Sys2Proof/Machine/Errors.lean ====
section
/-! DEFINITION. Reads of LPDDR5 that return, and the patrol scrubbers (R218 to R221, R499 to R505). -/

namespace Sys2Proof.Machine

/-! ### Reads that return (R218 to R221) -/

/-- EV_ECC_CORRECTED (R221): at a channel's first correction, then at most once per 2^28 ticks. `kind`: 0 link, 1
inline. -/
def raiseCorrected (s : State) (c kind : Nat) (count : Word) : State :=
  let ch := channelOf s c
  let due := match ch.lastEvent with
    | none => true
    | some t => decide (t + 2 ^ 28 ≤ s.time.toNat)
  if due then
    raiseEvent (setChannel s c { ch with lastEvent := some s.time.toNat }) 0x0401 none
      (eventData [(0, toLE 1 c), (1, toLE 1 kind), (4, toLE 4 count.toNat)])
  else s

/-- A link error that was corrected. -/
def countLink (s : State) (c : Nat) : State :=
  let ch := channelOf s c
  let n := satInc ch.linkCorr
  let s := setChannel s c { ch with linkCorr := n }
  raiseCorrected (setLife s { s.boot.life with linkCorr := tbump s.boot.life.linkCorr c }) c 0 n

/-- An error that inline ECC corrected. -/
def countInline (s : State) (c : Nat) : State :=
  let ch := channelOf s c
  let n := satInc ch.inlineCorr
  let s := setChannel s c { ch with inlineCorr := n }
  raiseCorrected (setLife s { s.boot.life with inlineCorr := tbump s.boot.life.inlineCorr c }) c 1 n

/-- The data of a request is returned. -/
def deliverRead (s : State) (r : MemReq) : State :=
  emit s (.memoryReply r.agent (some (regionRead s r.part.val r.offset (reqBytes r))))

/-- No data is returned: the error is counted and raised, and a job that consumes it ends (R221, R503, R504). -/
def failMemoryRead (s : State) (r : MemReq) : State :=
  let s := emit s (.memoryReply r.agent none)
  match r.agent with
  | .dma p =>
    let j := (spindleOf s p.val).job
    let s := dramUncorrectable s r.part.val [(r.offset, reqBytes r)] ((j.map (jobId s)).getD 0xFFFFFFFF) p.val
    spindleError s p.val stUncorrectable 0xFFFF
  | _ => dramUncorrectable s r.part.val [(r.offset, reqBytes r)] 0xFFFFFFFF 0xFFFF

/-- The halves that a request's bytes lie in. -/
def halvesOf (r : MemReq) : List Nat := [r.offset / 128]

/-- Wrong bytes in the device array (R219): a protected region corrects or detects them, an unprotected one returns
them unseen. -/
def arrayError (s : State) (c : Nat) (x : Partition) (r : MemReq) (correctable : Bool) : State :=
  if !x.ecc then
    deliverRead (setPart (drawn s) r.part.val { x with region := storeUndef x.region r.offset (reqBytes r) s.draws }) r
  else if correctable then deliverRead (countInline s c) r
  else failMemoryRead (setPart s r.part.val { x with badHalves := halvesOf r ++ x.badHalves }) r

/-- A read returns as its outcome says; a half already in error fails again (R505). -/
def returnRead (s : State) (c : Nat) (r : MemReq) (outcome : ReadOutcome) : State :=
  match partOf s r.part.val with
  | none => s
  | some x =>
    if badRead x r.offset (reqBytes r) then failMemoryRead s r
    else match outcome with
      | .clean => deliverRead s r
      | .linkCorrected => deliverRead (countLink s c) r
      | .linkFailed => failMemoryRead s r
      | .inlineCorrected => arrayError s c x r true
      | .inlineFailed => arrayError s c x r false

/-- MEMORY_READ_COMPLETE: the read the channel picks next (R211). -/
def memoryReadComplete (s : State) (c : Nat) (outcome : ReadOutcome) : State :=
  let ch := channelOf s c
  if ch.state ≠ 2 then s
  else match pickOf ch false with
    | none => s
    | some e =>
      let s := returnRead (setChannel s c (afterPick ch e)) c e.1 outcome
      drainWrites c (ch.queue.length + 1) s

def execMemoryReadComplete (c : Fin 24) (outcome : ReadOutcome) (s : State) : Host.Outcome State Fault Refusal :=
  finish s (memoryReadComplete s c.val outcome)

/-! ### Patrol scrubbers (R500, R501, R503, R505) -/

/-- A corrected error in the SRAM of dome d. -/
def domeCorrected (s : State) (d : Nat) : State :=
  let x := domeOf s d
  let s := setDome s d { x with sramCorr := satInc x.sramCorr }
  setLife s { s.boot.life with sramCorr := tbump s.boot.life.sramCorr d }

/-- The same outside the domes. -/
def moduleCorrected (s : State) : State :=
  let s := setBoot s { s.boot with lanSramCorr := satInc s.boot.lanSramCorr }
  setLife s { s.boot.life with sramCorr := tbump s.boot.life.sramCorr 4 }

/-- An uncorrectable error outside the domes is counted and raised. -/
def moduleUncorrectable (s : State) (part : Option Nat) : State :=
  let s := setBoot s { s.boot with lanSramUncorr := satInc s.boot.lanSramUncorr }
  let s := setLife s { s.boot.life with sramUncorr := tbump s.boot.life.sramUncorr 4 }
  raiseUncorrectable s 0xFF part 0xFF 0xFFFFFFFF 0xFFFF

/-- The spire a place in a dome belongs to. -/
def placeSpire : ScrubPlace → Option Nat
  | .operandWord p _ => some (spireOfSpindle p.val)
  | .spindle p => some (spireOfSpindle p.val)
  | .spireWord i _ => some i.val
  | .spire i => some i.val
  | .module _ => none

/-- The word stays in error (R505). -/
def markBad (s : State) (place : ScrubPlace) : State :=
  match place with
  | .operandWord p w => setSpindle s p.val { spindleOf s p.val with bad := w.val :: (spindleOf s p.val).bad.filter (· ≠ w.val) }
  | .spireWord i w => setSpire s i.val { spireOf s i.val with bad := w.val :: (spireOf s i.val).bad.filter (· ≠ w.val) }
  | _ => s

/-- PATROL_SCRUB: one word with so many bits wrong. -/
def patrolScrub (s : State) (place : ScrubPlace) (wrong : Nat) : State :=
  if wrong = 0 then s
  else match placeSpire place with
    | some i =>
      if wrong = 1 then domeCorrected s (domeOfSpire i)
      else sramUncorrectable (markBad s place) (domeOfSpire i) ((spireOf s i).owner.map (·.val)) 0xFFFFFFFF 0xFFFF
    | none =>
      if wrong = 1 then moduleCorrected s
      else moduleUncorrectable s (match place with | .module p => p.map (·.val) | _ => none)

def execPatrolScrub (place : ScrubPlace) (wrongBits : Nat) (s : State) : Host.Outcome State Fault Refusal :=
  finish s (patrolScrub s place wrongBits)

end Sys2Proof.Machine
end

