-- ==== Sys2Proof/Machine/Stem.lean ====
section
/-! DEFINITION. The stem engines: their lists, the convolutions and heads they compute, and their waits and
posts (R303 to R305). -/

namespace Sys2Proof.Machine

/-- An entry of a stem list (R303). -/
structure StemEntry where
  kind : Nat
  relu : Bool
  outUint : Bool
  inInt : Bool
  wait : Bool
  post : Bool
  cin : Nat
  cout : Nat
  k : Nat
  stride : Nat
  ow : Nat
  oh : Nat
  input : Nat
  inPitch : Nat
  wgt : Nat
  bias : Nat
  out : Nat
  outPitch : Nat
  waitSem : Nat
  waitSpire : Nat
  waitN : Nat
  postSem : Nat
  postSpire : Nat
deriving DecidableEq, Repr

def decodeStem (b : Bytes) : StemEntry where
  kind := byteAt b 0
  relu := bitOf (byteAt b 1) 0
  outUint := bitOf (byteAt b 1) 1
  inInt := bitOf (byteAt b 1) 2
  wait := bitOf (byteAt b 1) 3
  post := bitOf (byteAt b 1) 4
  cin := byteAt b 2
  cout := byteAt b 3
  k := byteAt b 4
  stride := byteAt b 5
  ow := le b 6 2
  oh := le b 8 2
  input := le b 12 4
  inPitch := le b 16 4
  wgt := le b 20 4
  bias := le b 24 4
  out := le b 28 4
  outPitch := le b 32 4
  waitSem := field (byteAt b 36) 0 5
  waitSpire := field (byteAt b 37) 0 5
  waitN := le b 38 2
  postSem := field (byteAt b 40) 0 5
  postSpire := field (byteAt b 41) 0 5

/-- Bytes of one output element. -/
def stemOutBytes (e : StemEntry) : Nat := if e.kind = 2 then 4 else 1

/-- Bytes of an input row, the weights, the biases and an output row. -/
def stemInRow (e : StemEntry) : Nat := ((e.ow - 1) * e.stride + e.k) * e.cin
def stemWeights (e : StemEntry) : Nat := e.cout * e.k * e.k * e.cin
def stemOutRow (e : StemEntry) : Nat := e.ow * e.cout * stemOutBytes e

/-- Input rows read. -/
def stemInRows (e : StemEntry) : Nat := (e.oh - 1) * e.stride + e.k

/-- Field ranges of an entry (R303). -/
def stemFields (b : Bytes) : Bool :=
  let e := decodeStem b
  decide (byteAt b 1 < 32) && zeros b 10 2 && zeros b 42 22 && decide (byteAt b 36 < 32) && decide (byteAt b 37 < 32)
    && decide (byteAt b 40 < 32) && decide (byteAt b 41 < 32)
    && decide (1 ≤ e.ow) && decide (e.ow ≤ 2048) && decide (1 ≤ e.oh) && decide (e.oh ≤ 2048)
    && (!e.wait || decide (1 ≤ e.waitN))
    && (if e.kind = 1 then
          decide (1 ≤ e.cin) && decide (e.cin ≤ 4) && decide (1 ≤ e.cout) && decide (e.cout ≤ 64)
            && decide (1 ≤ e.k) && decide (e.k ≤ 7) && decide (1 ≤ e.stride) && decide (e.stride ≤ 4)
        else
          e.kind == 2 && decide (1 ≤ e.cin) && decide (1 ≤ e.cout) && decide (e.cout ≤ 8) && e.k == 1
            && e.stride == 1)

/-- The reach of an entry lies within the spire cache (R304). -/
def stemReach (e : StemEntry) : Bool :=
  decide (e.input + (stemInRows e - 1) * e.inPitch + stemInRow e ≤ 4194304)
    && decide (e.wgt + stemWeights e ≤ 4194304) && decide (e.bias + 8 * e.cout ≤ 4194304)
    && decide (e.out + (e.oh - 1) * e.outPitch + stemOutRow e ≤ 4194304)

/-- The spires of the semaphores an entry names. -/
def stemSpires (e : StemEntry) : List Nat :=
  (if e.wait then [e.waitSpire] else []) ++ (if e.post then [e.postSpire] else [])

/-! ### What an entry computes (R304) -/

/-- A byte as INT8 or UINT8. -/
def byteInt (signed : Bool) (b : Byte) : Int := if signed then signedOf 8 b.toNat else (b.toNat : Int)

/-- The exact sum of one output. -/
def stemSum (c : Store 8) (e : StemEntry) (oy ox co : Nat) : Int :=
  ((List.range e.k).flatMap (fun ky => (List.range e.k).flatMap (fun kx => (List.range e.cin).map (fun ci =>
    byteInt true (storeGet c (e.wgt + ((co * e.k + ky) * e.k + kx) * e.cin + ci)) *
    byteInt e.inInt
      (storeGet c (e.input + (oy * e.stride + ky) * e.inPitch + (ox * e.stride + kx) * e.cin + ci)))))).sum

/-- One output: its bytes, with what its conversions count. -/
def stemOutput (c : Store 8) (e : StemEntry) (oy ox co : Nat) : Bytes × Nat × Nat :=
  let bias := signedOf 32 (leNat (storeRead c (e.bias + 8 * co) 4))
  let scale := decodeFloat ffFp32 (leNat (storeRead c (e.bias + 8 * co + 4) 4))
  let acc := int32Of (stemSum c e oy ox co + bias)
  let prod := mulNum (numOfInt (signedOf 32 acc.bits)) scale
  if e.kind = 2 then
    if !isFinite scale then (toLE 4 (canonicalNaN ffFp32), acc.sat + 1, acc.ufl)
    else
      let r := roundFp32 prod
      (toLE 4 r.bits, acc.sat + r.sat, acc.ufl + r.ufl)
  else if !isFinite scale then (toLE 1 0, acc.sat + 1, acc.ufl)
  else
    let r := if e.outUint then roundInt 8 0 255 prod else roundInt 8 (-128) 127 prod
    let v := if e.relu && !e.outUint && 128 ≤ r.bits then 0 else r.bits
    (toLE 1 v, acc.sat + r.sat, acc.ufl + r.ufl)

/-- One output row. -/
def stemRow (c : Store 8) (e : StemEntry) (oy : Nat) : List (Bytes × Nat × Nat) :=
  (List.range e.ow).flatMap (fun ox => (List.range e.cout).map (fun co => stemOutput c e oy ox co))

/-- All outputs of an entry written to the spire cache and counted by spindle 0 of the spire (R303). -/
def stemCompute (s : State) (i : Nat) (e : StemEntry) : State :=
  let x := spireOf s i
  let rows := (List.range e.oh).map (fun oy => (oy, stemRow x.cache e oy))
  let put := fun (y : Spire) (r : Nat × List (Bytes × Nat × Nat)) =>
    let b := r.2.flatMap (·.1)
    { y with
      cache := storeWrite y.cache (e.out + r.1 * e.outPitch) b
      bad := clearWords y.bad (e.out + r.1 * e.outPitch) b.length }
  let s := setSpire s i (rows.foldl put x)
  countAt s (8 * i) ((rows.map (fun r => (r.2.map (·.2.1)).sum)).sum) ((rows.map (fun r => (r.2.map (·.2.2)).sum)).sum)

/-- A word in error under what an entry reads, or under a partial write (R503, R505). -/
def stemBad (x : Spire) (e : StemEntry) : Bool :=
  (List.range (stemInRows e)).any (fun r => badWordRead x.bad (e.input + r * e.inPitch) (stemInRow e))
    || badWordRead x.bad e.wgt (stemWeights e) || badWordRead x.bad e.bias (8 * e.cout)
    || (List.range e.oh).any (fun r => badWordWrite x.bad (e.out + r * e.outPitch) (stemOutRow e))

/-! ### Rows -/

/-- The stem unit of spire i with fields changed. -/
def setStem (s : State) (i : Nat) (u : StemUnit) : State := setSpire s i { spireOf s i with stem := u }

/-- The engine stops by an error and its job ends. -/
def stemError (s : State) (i j : Nat) (st : Status) : State :=
  jobError (setStem s i { (spireOf s i).stem with state := 3 }) j st

/-- The stem engine of spire i runs its present entry, of kind `kind`: what follows is done with the job and
the entry. -/
def onStem (s : State) (i kind : Nat) (f : Nat → StemEntry → State) : State :=
  let u := (spireOf s i).stem
  match u.job with
  | none => s
  | some j =>
    if (jobOf s j).state ≠ 2 || u.state ≠ 1 then s
    else
      let at' := u.list + 64 * u.entry.toNat
      let e := decodeStem (storeRead (jobRegion s j) at' 64)
      if e.kind ≠ kind then s
      else
        let bad := match partOf s (jobOf s j).part.toNat with | none => false | some x => badRead x at' 64
        if bad then
          stemError (dramUncorrectable s (jobOf s j).part.toNat [(at', 64)] (jobId s j) 0xFFFF) i j stUncorrectable
        else f j e

/-- The entry is done: the next one is taken. -/
def stemNext (s : State) (i : Nat) : State :=
  let u := (spireOf s i).stem
  setStem s i { u with entry := u.entry + 1, granted := false }

/-- An entry whose wait is over: outputs, then its post (R304). -/
def stemRun (s : State) (i j : Nat) (e : StemEntry) : State :=
  if stemBad (spireOf s i) e then
    stemError (sramUncorrectable s (domeOfSpire i) (some (jobOf s j).part.toNat) (jobId s j) 0xFFFF)
      i j stUncorrectable
  else
    let s := stemCompute s i e
    if !e.post then stemNext s i
    else if !ownsSpire s j e.postSpire then stemError s i j stNotPermitted
    else match releaseUnits s e.postSpire e.postSem 1 (some j) with
      | none => stemError s i j stBadArgument
      | some t => stemNext t i

/-- CONV and STEM_HEAD: the entry makes its ACQUIRE first; once granted it computes. -/
def stemEntryRow (s : State) (i kind : Nat) : State :=
  onStem s i kind (fun j e =>
    let u := (spireOf s i).stem
    if !e.wait || u.granted then stemRun s i j e
    else if !ownsSpire s j e.waitSpire then stemError s i j stNotPermitted
    else match acquireUnits (setStem s i { u with state := 2 }) e.waitSpire e.waitSem e.waitN (.stem i) with
      | none => stemError s i j stBadArgument
      | some t => if (spireOf t i).stem.granted then stemRun t i j e else t)

def execConv (spire : Fin 32) (s : State) : Host.Outcome State Fault Refusal :=
  finish s (stemEntryRow s spire 1)

def execStemHead (spire : Fin 32) (s : State) : Host.Outcome State Fault Refusal :=
  finish s (stemEntryRow s spire 2)

/-- STEM_END (R305): the list has reached END. -/
def execStemEnd (spire : Fin 32) (s : State) : Host.Outcome State Fault Refusal :=
  finish s (onStem s spire 0 (fun j _ =>
    tryDone (setStem s spire { (spireOf s spire).stem with state := 5 }) j))

end Sys2Proof.Machine
end

