-- ==== Sys2Proof/Machine/JobLoad.lean ====
section
/-! DEFINITION. The checks of job load: descriptor sets, work descriptors, vector blocks, copies, stem lists,
and the fields of a job description (R120, R121, R124, R135, R160, R192, R304, R347, R354, R367, R383). -/

namespace Sys2Proof.Machine

/-- How a job load fails (R367): status, CHECK, spindle, offset and spire of the failing part. -/
structure LoadFail where
  status : Status
  check : Nat
  spindle : Nat := 0xFFFF
  offset : Nat := 0
  spire : Nat := 0xFF
deriving DecidableEq, Repr

/-- A check by its number: `none` when it holds. -/
def require (c : Bool) (st : Status) (check : Nat) : Option (Status × Nat) := if c then none else some (st, check)

/-- The first failure of a list of checks. -/
def firstOf {α : Type} : List (Option α) → Option α
  | [] => none
  | some x :: _ => some x
  | none :: r => firstOf r

/-! ### Reaches (R120) -/

/-- The lowest and the highest value of base + Σ i × stride over a nest. -/
def spanOf (h : HeadDesc) (base : Int) (st : List Int) : Int × Int :=
  (List.range 6).foldl (fun a l =>
    let d := ((h.counts.getD l 1 : Int) - 1) * st.getD l 0
    (a.1 + min 0 d, a.2 + max 0 d)) (base, base)

/-- Columns a north presentation may cover. -/
def mostColumns (h : HeadDesc) : Nat := if h.colLevel = 7 then h.cols else max h.cols h.colsLast

/-- Units of one presentation of the west and the north feeder (R110). -/
def westUnits (h : HeadDesc) : Nat := if h.outStat then 32 else if bothFour h then 2 else 1
def northUnitsMost (h : HeadDesc) : Nat :=
  if h.outStat then mostColumns h else mostColumns h * (if bothFour h then 2 else 1)

/-- A closed span lies within [lo, hi). -/
def spanWithin (r : Int × Int) (more lo hi : Int) : Bool := decide (lo ≤ r.1) && decide (r.2 + more ≤ hi)

/-- Check 7 for one operand stream of format f with n units a presentation. -/
def streamWithin (h : HeadDesc) (f n : Nat) (st : StreamDesc) : Bool :=
  let r := spanOf h st.base st.stride
  let j := spanOf h 0 st.sstride
  let scale := ((st.scaleBase : Int) + 2 * j.1, (st.scaleBase : Int) + 2 * j.2)
  let knot := ((st.knotBase : Int) + 8 * j.1, (st.knotBase : Int) + 8 * j.2)
  spanWithin r (n * blockBytes f) st.base ((st.base : Int) + st.extent) && spanWithin r (n * blockBytes f) 0 393216
    && (!fmtBlock f || spanWithin scale (2 * n) 0 393216)
    && (f ≠ fmtEn4 || spanWithin knot (8 * n) 0 393216)

/-! ### Descriptor sets (R120) -/

/-- Layout of a HEAD and of a STREAM (R106, R107, R160). -/
def headLayout (d : Bytes) : Bool :=
  let h := decodeHead d
  decide (byteAt d 4 < 16) && decide (byteAt d 6 < 64) && decide (byteAt d 9 < 8) && h.colLevel ≠ 6
    && decide (byteAt d 12 < 16) && decide (byteAt d 13 < 32) && zeros d 28 4 && zeros d 40 24
    && h.mode ≠ 3 && (h.mode ≠ 0 || h.slot == 0)
def streamLayout (d : Bytes) (role : Nat) : Bool :=
  kindOf d == 2 && byteAt d 1 == role && zeros d 2 2 && zeros d 20 4 && zeros d 60 4

/-- Scale and knot fields are zero where the format has none (R107). -/
def scaleFields (f : Option Nat) (st : StreamDesc) : Bool :=
  let block := f.any fmtBlock
  (block || (st.scaleBase == 0 && st.sstride.all (· == 0))) && (f == some fmtEn4 || st.knotBase == 0)

/-- Alignment of an operand stream (R109, R59). -/
def streamAligned (f : Nat) (st : StreamDesc) : Bool :=
  let u := blockBytes f
  st.base % u == 0 && st.stride.all (intMultiple u) && (!fmtBlock f || st.scaleBase % 2 == 0)
    && (f ≠ fmtEn4 || st.knotBase % 8 == 0)

/-- The checks of one set, in their order. `n` is the job's partition, `last` the program's last offset. -/
def setFailure (s : State) (n width last : Nat) (d a b c : Bytes) : Option (Status × Nat) :=
  let h := decodeHead d
  let sa := decodeStream a
  let sb := decodeStream b
  let sc := decodeStream c
  let rowSpan := spanOf h sc.base sc.stride
  let shadow := if h.mode = 2 then 2 else 1
  firstOf [
    require (headLayout d && streamLayout a 0 && streamLayout b 1 && streamLayout c 2) stBadArgument 1,
    require (decide (h.fmtA < 10) && decide (h.fmtB < 10) && fmtInteger h.fmtA == fmtInteger h.fmtB
      && scaleFields (some h.fmtA) sa && scaleFields (some h.fmtB) sb && scaleFields none sc && sc.extent == 0)
      stBadArgument 2,
    require (width ≠ 0 && h.width == width && decide (1 ≤ h.cols) && decide (h.cols ≤ width)
      && decide (1 ≤ h.colsLast) && decide (h.colsLast ≤ width)) stBadArgument 3,
    require ((if h.outStat then bitOf h.reduceMask 0 && h.wlevel == 0
        else !bitOf h.reduceMask 0 && decide (1 ≤ h.wlevel) && decide (h.wlevel ≤ 5)
          && (List.range h.wlevel).all (fun l => sb.stride.getD l 0 == 0 && sb.sstride.getD l 0 == 0)
          && (h.colLevel == 7 || decide (h.wlevel ≤ h.colLevel)))
      && (bitsSet 6 h.reduceMask).all (fun l => sc.stride.getD l 0 == 0)) stBadArgument 4,
    require (if h.hilbert then decide (1 ≤ h.hilbLevel) && decide (h.hilbLevel + 1 ≤ (if h.work then 4 else 5))
        && !bitOf h.reduceMask h.hilbLevel && !bitOf h.reduceMask (h.hilbLevel + 1)
      else h.hilbLevel == 0) stBadArgument 5,
    require (streamAligned h.fmtA sa && streamAligned h.fmtB sb
      && (!h.outStat || (sc.base % 32 == 0 && sc.stride.all (intMultiple 32)))) stBadArgument 6,
    require (streamWithin h h.fmtA (westUnits h) sa && streamWithin h h.fmtB (northUnitsMost h) sb) stBadArgument 7,
    require (!h.work || (spireOf s h.wcSpire).owner.any (fun k => k.val == n)) stNotPermitted 8,
    require (!h.work || decide (h.exit ≤ last)) stBadArgument 8,
    require (decide (1 ≤ h.accTiles) && decide (h.accTiles ≤ 16) && decide (h.accBase + shadow * h.accTiles ≤ 16)
      && spanWithin rowSpan (if h.outStat then 32 else 1) 0 (32 * h.accTiles)) stAccOvercommit 9]

/-! ### Work and SYNC descriptors -/

/-- A semaphore is bound to a skein barrier; then its LOCAL (R354). -/
def skeinBarrierNeed (s : State) (n spire sem : Nat) : Option Nat :=
  (s.skein.barriers.find? (fun e => e.2.part.val == n && e.2.spire == spire && e.2.sem == sem)).map (·.2.need)

/-- The link agent takes units from a semaphore (R347). -/
def agentTakes (s : State) (n spire sem : Nat) : Bool :=
  match partOf s n with
  | none => false
  | some x => x.skQueues.any (fun e =>
      if e.2.receive then e.2.freeSem == sem && e.2.freeSpire == spire
      else e.2.sem == sem && e.2.semSpire == spire)

/-- ARM (R123). -/
def armFailure (s : State) (n : Nat) (d : Bytes) : Option (Status × Nat) :=
  firstOf [
    require (decide (byteAt d 1 < 16) && decide (byteAt d 2 < 32) && zeros d 3 1 && le d 8 4 ≠ 0xFFFFFFFF
      && zeros d 12 52) stBadArgument 1,
    require (partOwnsSpire s n (byteAt d 2)) stNotPermitted 8]

/-- JUMP (R124): its target is an earlier HEAD with WORK. -/
def jumpFailure (get : Nat → Bytes) (off : Nat) (d : Bytes) : Option (Status × Nat) :=
  let t := le d 2 2
  require (zeros d 1 1 && zeros d 4 60 && decide (t < off) && kindOf (get t) == 1 && (decodeHead (get t)).work)
    stBadArgument 1

/-- The OPs of SYNC that name a semaphore. -/
def syncNames (op : Nat) : Bool := op < 3 || op == 5

/-- SYNC (R197, R347, R354). -/
def syncFailure (s : State) (n : Nat) (d : Bytes) : Option (Status × Nat) :=
  let op := byteAt d 1
  let sem := byteAt d 2
  let spire := byteAt d 3
  let c := le d 4 2
  firstOf [
    require (decide (op ≤ 5) && decide (sem < 32) && decide (spire < 32) && zeros d 6 58
      && (op == 4 || decide (1 ≤ c)) && (op ≠ 2 || decide (c ≤ 288)) && (op ≠ 4 || c == 0)
      && (syncNames op || (sem == 0 && spire == 0))) stBadArgument 1,
    require (!syncNames op || partOwnsSpire s n spire) stNotPermitted 8,
    require (!syncNames op || (match skeinBarrierNeed s n spire sem with
      | some k => op == 5 && k == c
      | none => !((op == 0 || op == 2) && agentTakes s n spire sem))) stBadArgument 8]

/-! ### VECTOR blocks (R130, R131, R135 to R137, R155) -/

/-- The TY bits an opcode allows for a format code (R137): bit 0 for TY 0, bit 1 for TY 1; 0 for an opcode
that is not defined. -/
def tyAllowed (op fmt : Nat) : Nat :=
  let lanes := if fmtInteger fmt || fmt == fmtInt32 then 2 else 1
  if op ≤ 0x03 then 1
  else if 0x10 ≤ op ∧ op ≤ 0x18 then 3
  else if op = 0x19 then 2
  else if 0x1A ≤ op ∧ op ≤ 0x1E then 1
  else if 0x20 ≤ op ∧ op ≤ 0x23 then 1
  else if 0x30 ≤ op ∧ op ≤ 0x32 then 3
  else if 0x33 ≤ op ∧ op ≤ 0x35 then 1
  else if 0x40 ≤ op ∧ op ≤ 0x45 then 3
  else if 0x50 ≤ op ∧ op ≤ 0x53 then 1
  else if op = 0x60 ∨ op = 0x66 ∨ op = 0x67 then lanes
  else if op = 0x61 ∨ op = 0x62 ∨ op = 0x63 then 3
  else if op = 0x64 ∨ op = 0x65 then 1
  else 0

/-- Opcodes whose VA is a format code. -/
def insnHasFormat (op : Nat) : Bool := op == 0x60 || op == 0x61 || op == 0x66 || op == 0x67

/-- The bits of IMM an opcode uses (R137, R146 to R148). -/
def immUsed (op fmt : Nat) : Nat :=
  if op = 0x01 ∨ op = 0x02 ∨ op = 0x1B then 0xFFFFFFFF
  else if op = 0x03 then 0x1FFFF
  else if op = 0x51 ∨ op = 0x52 then 0x3F
  else if op = 0x53 then 0x1F
  else if op = 0x61 then
    if fmt = fmtEn4 then 0xFFFFF else if fmtBlock fmt then 0x8FFFF else 0xFFFF
  else if 0x60 ≤ op ∧ op ≤ 0x67 then 0xFFFF
  else 0

/-- One instruction passes R135 on a spindle of a width, in a block of greatest vector length vmax. -/
def insnSound (width vmax : Nat) (w : BitVec 64) : Bool :=
  let x := w.toNat
  let op := field x 56 8
  let vd := field x 50 4
  let va := field x 46 4
  let vb := field x 42 4
  let xn := field x 35 3
  let imm := field x 0 32
  bitOf (tyAllowed op va) (field x 38 1) && field x 32 3 == 0
    && (!insnHasFormat op || decide (va < 12))
    && imm &&& immUsed op va == imm
    && (!(op == 0x51 || op == 0x52) || decide (imm ≤ 32))
    && (!(op == 0x61 && va == fmtEn4) || decide (field imm 16 3 ≤ 4))
    && (!(decide (0x30 ≤ op) && decide (op ≤ 0x35)) || (decide (vd < 8) && vd ≠ 0))
    && (!(decide (0x33 ≤ op) && decide (op ≤ 0x35)) || decide (va < 8))
    && (!(op == 0x33 || op == 0x34) || decide (vb < 8))
    && (!(insnHasFormat op && fmtBlock va) || decide (xn + (if va = fmtEn4 then 2 else 1) ≤ 7))
    && (!(op == 0x62 || op == 0x63) || (width ≠ 0 && decide (vmax ≤ width)))

/-- The block at a place passes R135; `left` descriptors of the program stand from its first on. -/
def blockSound (width left : Nat) (get : Nat → Bytes) : Bool :=
  let d := get 0
  let n := blockLength get 16 0
  let c := byteAt d 5
  let slots := blockInsns get n
  decide (n ≤ left) && !bitOf (byteAt (get (n - 1)) 1) 0
    && (List.range n).all (fun k => kindOf (get k) == 7 && byteAt (get k) 1 / 2 == (if k = 0 then 1 else 0)
      && (k == 0 || zeros (get k) 2 6))
    && decide (byteAt d 2 ≤ 32) && decide (byteAt d 3 ≤ 32) && decide (byteAt d 4 ≤ 3)
    && (byteAt d 4 ≠ 3 || byteAt d 3 == 0) && zeros d 12 4
    && decide (1 ≤ c) && decide (c ≤ 111) && decide (c ≤ slots.length)
    && (slots.drop c).all (· == 0)
    && (slots.take c).all (insnSound width (max (byteAt d 2) (byteAt d 3)))

/-! ### COPY (R192) -/

/-- The fields of a COPY that relocations of the description name: SRC, DST. -/
def relocated (rel : List Reloc) (entry off : Nat) : Bool × Bool :=
  (rel.any (fun r => r.entry == entry && r.offset == off && !r.dst),
   rel.any (fun r => r.entry == entry && r.offset == off && r.dst))

/-- The checks of a COPY at load; a relocated field is left to the start (R369). -/
def copyFailureAtLoad (s : State) (n : Nat) (x : Partition) (rel : Bool × Bool) (d : Bytes) : Option (Status × Nat) :=
  let c := decodeCopy d
  let still := c.srcWstride == 0 && c.dstWstride == 0
  firstOf [
    require (copyFields d && (rel.1 || copySrcAligned d) && (rel.2 || copyDstAligned d)) stBadArgument 0x11,
    require ((copySpires c).all (partOwnsSpire s n)) stNotPermitted 0x11,
    require (c.target ≠ 2 || (skeinBarrierNeed s n c.tgtSpire c.tgtSem).isNone) stBadArgument 0x11,
    if still && !rel.1 then (srcReach x c 0).map (fun st => (st, 0x11)) else none,
    if still && !rel.2 then (dstReach x c 0).map (fun st => (st, 0x11)) else none]

/-! ### Programs -/

/-- The failure of the descriptor at an offset and how many descriptors it takes. -/
def descFailure (s : State) (n width last : Nat) (x : Partition) (rel : List Reloc) (entry : Nat)
    (get : Nat → Bytes) (off : Nat) : Option (Status × Nat) × Nat :=
  let d := get off
  let k := kindOf d
  if k = 0 then (require (zeros d 1 63) stBadArgument 1, 1)
  else if k = 1 then
    (if last < off + 3 then some (stBadArgument, 1)
     else setFailure s n width last d (get (off + 1)) (get (off + 2)) (get (off + 3)), 4)
  else if k = 3 then (armFailure s n d, 1)
  else if k = 4 then (jumpFailure get off d, 1)
  else if k = 5 then (syncFailure s n d, 1)
  else if k = 6 then (copyFailureAtLoad s n x (relocated rel entry off) d, 1)
  else if k = 7 then
    (require (blockSound width (last + 1 - off) (fun i => get (off + i))) stBadArgument 0x10,
     blockLength (fun i => get (off + i)) 16 0)
  else (some (stBadArgument, 1), 1)

/-- The descriptors of a program in order, with fuel of their number: the first failure and its offset. -/
def walkProgram (f : Nat → Option (Status × Nat) × Nat) (last : Nat) : Nat → Nat → Option (Status × Nat × Nat)
  | 0, _ => none
  | fuel + 1, off =>
    if last < off then none
    else match f off with
      | (some e, _) => some (e.1, e.2, off)
      | (none, k) => walkProgram f last fuel (off + k)

/-- The program of one spindle entry (R120, R121, R540). -/
def programFailure (s : State) (n : Nat) (x : Partition) (rel : List Reloc) (entry : Nat) (e : SpindleEntry) :
    Option LoadFail :=
  match programExtent x.region (regionBytes x) e.program with
  | .error (off, st) => some ⟨st, 1, e.spindle, off, 0xFF⟩
  | .ok last =>
    let get := programDesc x.region e.program
    let width := widthOf (spindleOf s e.spindle).arr
    match walkProgram (descFailure s n width last x rel entry get) last (last + 1) 0 with
    | none => none
    | some (st, check, off) => some ⟨st, check, e.spindle, off, 0xFF⟩

/-! ### Stem lists (R303, R304) -/

/-- The entries of a stem list in order, with fuel: the first failure and its place, or the length. -/
def walkStem (s : State) (n : Nat) (x : Partition) (list : Nat) : Nat → Nat → Except (Status × Nat) Nat
  | 0, k => .error (stBadArgument, k)
  | fuel + 1, k =>
    let at' := list + 64 * k
    if regionBytes x < at' + 64 then .error (stNotPermitted, k)
    else
      let b := storeRead x.region at' 64
      if byteAt b 0 = 0 then
        if zeros b 1 63 then .ok k else .error (stBadArgument, k)
      else
        let e := decodeStem b
        if !stemFields b || !stemReach e then .error (stBadArgument, k)
        else if !(stemSpires e).all (partOwnsSpire s n) then .error (stNotPermitted, k)
        else if (e.wait && (agentTakes s n e.waitSpire e.waitSem || (skeinBarrierNeed s n e.waitSpire e.waitSem).isSome))
            || (e.post && (skeinBarrierNeed s n e.postSpire e.postSem).isSome) then .error (stBadArgument, k)
        else walkStem s n x list fuel (k + 1)

/-- Entries a stem list may have, END included (R303). -/
def stemMost : Nat := 4096

/-- The stem list of a spire entry. -/
def stemFailure (s : State) (n : Nat) (x : Partition) (e : SpireEntry) : Option LoadFail :=
  if !e.stem then none
  else match walkStem s n x e.stemOffset stemMost 0 with
    | .ok _ => none
    | .error (st, k) => some ⟨st, 0x12, 0xFFFF, k, e.spire⟩

/-! ### Header and entries (R365, R366) -/

/-- Field ranges and reserved bytes of a header. -/
def headerSound (b : Bytes) : Bool :=
  let h := decodeJobHeader b
  decide (1 ≤ h.spindles) && decide (h.spindles ≤ 256) && decide (1 ≤ h.spires) && decide (h.spires ≤ 32)
    && decide (h.relocs ≤ 64) && decide (byteAt b 4 < 8) && decide (byteAt b 5 < 16) && zeros b 6 2
    && decide (byteAt b 16 < 64) && decide (byteAt b 17 < 32) && decide (byteAt b 18 < 32) && decide (byteAt b 19 < 8)
    && decide (byteAt b 28 < 32) && decide (byteAt b 29 < 32) && decide (byteAt b 30 < 32) && decide (byteAt b 31 < 32)
    && decide (byteAt b 34 < 8) && zeros b 35 29

/-- A spindle entry's bytes. -/
def spindleSound (b : Bytes) : Bool :=
  let e := decodeSpindleEntry b
  e.program % 64 == 0 && decide (e.spindle < 256) && decide (e.ocLength ≤ 1536)
    && decide (e.ocStart + e.ocLength ≤ 1536) && zeros b 14 2

/-- Two live ranges of a spire meet (R182). -/
def rangesMeet : List (Nat × Nat) → Bool
  | [] => false
  | r :: l => l.any (fun q => meets r.1 r.2 q.1 q.2) || rangesMeet l

/-- A spire entry's bytes. -/
def spireSound (b : Bytes) : Bool :=
  let e := decodeSpireEntry b
  decide (byteAt b 0 < 32) && decide (byteAt b 1 ≤ 16) && decide (byteAt b 2 < 2) && zeros b 3 5
    && (if e.stem then e.stemOffset % 64 == 0 else e.stemOffset == 0)
    && e.ranges.all (fun r => decide (r.1 + r.2 ≤ 16384)) && !rangesMeet e.ranges
    && zeros b (16 + 4 * byteAt b 1) (112 - 4 * byteAt b 1)

/-- A relocation entry's bytes. -/
def relocSound (spindles : Nat) (b : Bytes) : Bool :=
  decide (le b 0 2 < spindles) && decide (byteAt b 4 < 2) && decide (byteAt b 5 < 8) && zeros b 6 2

/-- Numbers without repetition. -/
def distinct (l : List Nat) : Bool := decide l.Nodup

/-- Step 1 of R367 behind the offset. -/
def entriesFailure (s : State) (n : Nat) (x : Partition) (desc : Nat) : Option Status :=
  let r := x.region
  let hb := storeRead r desc 64
  let h := decodeJobHeader hb
  if !headerSound hb then some stBadArgument
  else if regionBytes x < desc + descBytes h then some stNotPermitted
  else
    let sp := spindleEntries r desc h
    let si := spireEntries r desc h
    let at1 := desc + 64 + 16 * h.spindles
    let sound := (List.range h.spindles).all (fun k => spindleSound (storeRead r (desc + 64 + 16 * k) 16))
      && (List.range h.spires).all (fun k => spireSound (storeRead r (at1 + 128 * k) 128))
      && (List.range h.relocs).all (fun k =>
        relocSound h.spindles (storeRead r (at1 + 128 * h.spires + 8 * k) 8))
      && distinct (sp.map (·.spindle)) && distinct (si.map (·.spire))
      && sp.all (fun e => si.any (fun q => q.spire == spireOfSpindle e.spindle))
    if !sound then some stBadArgument
    else if !(sp.all (fun e => partOwnsSpire s n (spireOfSpindle e.spindle)) && si.all (fun e => partOwnsSpire s n e.spire)) then
      some stNotPermitted
    else none

/-! ### What a description names -/

/-- The descriptors of a program. -/
def programDescs (r : Store 8) (size program : Nat) : List Bytes :=
  match programExtent r size program with
  | .error _ => []
  | .ok last => (List.range (last + 1)).map (programDesc r program)

/-- The entries of a stem list up to its END. -/
def stemEntries (r : Store 8) (list : Nat) : Nat → Nat → List StemEntry
  | 0, _ => []
  | fuel + 1, k =>
    let b := storeRead r (list + 64 * k) 64
    if byteAt b 0 = 0 then [] else decodeStem b :: stemEntries r list fuel (k + 1)

/-- Semaphores, as 32 × spire + semaphore, that a descriptor acquires, and those it names at all. -/
def descAcquires (d : Bytes) : List Nat :=
  if kindOf d = 5 && (byteAt d 1 == 0 || byteAt d 1 == 2) then [semKey (byteAt d 3) (byteAt d 2)] else []
def descSems (d : Bytes) : List Nat :=
  if kindOf d = 5 && syncNames (byteAt d 1) then [semKey (byteAt d 3) (byteAt d 2)]
  else if kindOf d = 6 && (decodeCopy d).target == 2 then [semKey (byteAt d 7) (byteAt d 6)]
  else []

/-- Spires whose work counters a descriptor names. -/
def descCounters (d : Bytes) : List Nat :=
  if kindOf d = 1 && (decodeHead d).work then [(decodeHead d).wcSpire]
  else if kindOf d = 3 then [byteAt d 2] else []

/-- What the description at an offset names: descriptors of its programs, entries of its stem lists. -/
structure Named where
  header : JobHeader
  programs : List (SpindleEntry × List Bytes)
  stems : List StemEntry
deriving DecidableEq, Repr

def namedBy (x : Partition) (desc : Nat) : Named :=
  let h := decodeJobHeader (storeRead x.region desc 64)
  { header := h
    programs := (spindleEntries x.region desc h).map (fun e =>
      (e, programDescs x.region (regionBytes x) e.program))
    stems := (spireEntries x.region desc h).flatMap (fun e =>
      if e.stem then stemEntries x.region e.stemOffset stemMost 0 else []) }

/-- Semaphores the description's job acquires. -/
def namedAcquires (m : Named) : List Nat :=
  m.programs.flatMap (fun p => p.2.flatMap descAcquires)
    ++ m.stems.flatMap (fun e => if e.wait then [semKey e.waitSpire e.waitSem] else [])

/-- Every semaphore a description names. -/
def namedSems (m : Named) : List Nat :=
  m.programs.flatMap (fun p => p.2.flatMap descSems)
    ++ m.stems.flatMap (fun e => (if e.wait then [semKey e.waitSpire e.waitSem] else [])
      ++ (if e.post then [semKey e.postSpire e.postSem] else []))
    ++ (if m.header.answer then [semKey m.header.answerSpire m.header.answerSem] else [])
    ++ (if m.header.sequences then [semKey m.header.stepSpire m.header.stepSem, semKey m.header.goSpire m.header.goSem]
      else [])

/-- Every spire on which a description names a semaphore or a work counter. -/
def namedSpires (m : Named) : List Nat :=
  (namedSems m).map (· / 32) ++ m.programs.flatMap (fun p => p.2.flatMap descCounters)

/-! ### Steps 4 and 5 of R367 -/

/-- Ring r is an output ring of partition n. -/
def partRing (s : State) (n r : Nat) : Bool := (oringOf s r).valid && (oringOf s r).part.val == n

/-- The semaphore Lantern takes for a job is free for it: no ACQUIRE or BARRIER of the job names it and no
skein barrier is bound to it (R347, R354, R367). -/
def takenFree (s : State) (n : Nat) (acq : List Nat) (spire sem : Nat) : Bool :=
  !acq.contains (semKey spire sem) && (skeinBarrierNeed s n spire sem).isNone && !agentTakes s n spire sem

/-- The answer, skein and sequence fields (R367, R383). -/
def fieldsFailure (s : State) (n : Nat) (x : Partition) (desc : Nat) (acq : List Nat) : Option Status :=
  let b := storeRead x.region desc 64
  let h := decodeJobHeader b
  let no := fun (c : Bool) (st : Status) => if c then none else some st
  firstOf [
    no (!h.answer || partRing s n h.answerRing) stBadArgument,
    no (!h.answer || partOwnsSpire s n h.answerSpire) stNotPermitted,
    no (!h.answer || takenFree s n acq h.answerSpire h.answerSem) stBadArgument,
    no ((bitsSet 16 h.skeinQueues.toNat).all (fun q => (tfind x.skQueues q).isSome)) stBadArgument,
    no ((bitsSet 16 h.skeinBarriers.toNat).all (fun k => (tfind s.skein.barriers k).any (fun v => v.part.val == n)))
      stBadArgument,
    no (h.sequences || zeros b 28 7) stBadArgument,
    no (!h.sequences || (decide (1 ≤ h.seqMax) && decide (h.seqMax ≤ 1024) && partRing s n h.answerRing
      && takenFree s n acq h.stepSpire h.stepSem && (skeinBarrierNeed s n h.goSpire h.goSem).isNone)) stBadArgument,
    no (!h.sequences || (partOwnsSpire s n h.stepSpire && partOwnsSpire s n h.goSpire)) stNotPermitted]

/-- A relocation names a COPY whose relocated field has space 0. -/
def relocFailure (x : Partition) (sp : List SpindleEntry) (r : Reloc) : Option LoadFail :=
  match sp[r.entry]? with
  | none => none
  | some e =>
    let inside := match programExtent x.region (regionBytes x) e.program with
      | .error _ => false
      | .ok last => decide (r.offset ≤ last)
    let d := programDesc x.region e.program r.offset
    let c := decodeCopy d
    if inside && kindOf d == 6 && (if r.dst then c.dstSpace else c.srcSpace) == 0 then none
    else some ⟨stBadArgument, 0x14, e.spindle, r.offset, 0xFF⟩

/-! ### SAVE_BYTES (R376) -/

/-- Accumulator tiles a HEAD's footprint covers, shadow tiles included. -/
def headTiles (h : HeadDesc) : List Nat :=
  (List.range ((if h.mode = 2 then 2 else 1) * h.accTiles)).map (· + h.accBase)

/-- Tiles the HEADs of a program name. -/
def programTiles (l : List Bytes) : List Nat :=
  (List.range 16).filter (fun t => l.any (fun d => kindOf d == 1 && (headTiles (decodeHead d)).contains t))

/-- SAVE_BYTES of a description. -/
def saveBytesOf (s : State) (x : Partition) (desc : Nat) : Nat :=
  let m := namedBy x desc
  4096 + (m.programs.map (fun p =>
      20480 + (programTiles p.2).length * 128 * widthOf (spindleOf s p.1.spindle).arr + 256 * p.1.ocLength)).sum
    + ((spireEntries x.region desc m.header).map (fun e => 1024 + 256 * (e.ranges.map (·.2)).sum)).sum

/-! ### CMD_JOB_DEFINE and CMD_JOB_UNDEFINE -/

/-- All checks of a job load in the order of R367. -/
def loadFailure (s : State) (n : Nat) (x : Partition) (desc : Nat) : Option LoadFail :=
  if x.descs.any (fun e => e.offset == desc) then some { status := stBadArgument, check := 0x20 }
  else if regionBytes x < desc + 64 then some { status := stNotPermitted, check := 0x20 }
  else match entriesFailure s n x desc with
    | some st => some { status := st, check := 0x20 }
    | none =>
      let h := decodeJobHeader (storeRead x.region desc 64)
      let sp := spindleEntries x.region desc h
      let rel := relocEntries x.region desc h
      match firstOf (sp.zipIdx.map (fun e => programFailure s n x rel e.2 e.1)) with
      | some f => some f
      | none =>
        match firstOf ((spireEntries x.region desc h).map (stemFailure s n x)) with
        | some f => some f
        | none =>
          match fieldsFailure s n x desc (namedAcquires (namedBy x desc)) with
          | some st => some { status := st, check := 0x13 }
          | none => firstOf (rel.map (relocFailure x sp))

/-- An error no code corrects under what the load reads (R503): the range that meets it. -/
def loadBad (x : Partition) (desc : Nat) : Option (Nat × Nat) :=
  if x.badHalves.isEmpty then none
  else
    let h := decodeJobHeader (storeRead x.region desc 64)
    let m := namedBy x desc
    let ranges := (desc, descBytes h) :: m.programs.map (fun p => (p.1.program, 64 * p.2.length))
      ++ (spireEntries x.region desc h).map (fun e =>
        (e.stemOffset, if e.stem then 64 * (1 + (stemEntries x.region e.stemOffset stemMost 0).length) else 0))
    ranges.find? (fun r => badRead x r.1 r.2)

/-- The RESULT bytes of a failed load (R367). -/
def loadResult (f : LoadFail) : Bytes :=
  toLE 2 f.spindle ++ toLE 2 f.offset ++ toLE 1 f.check ++ toLE 1 f.spire ++ toLE 2 0

/-- CMD_JOB_DEFINE (R367). -/
def cmdJobDefine (s : State) (slot : Nat) : State :=
  command s slot 0x0401 [(8, 8)] (fun d =>
    let n := descPart d
    let desc := le d 8 8
    match partOf s n with
    | none => complete s slot stNotPermitted []
    | some x =>
      match loadBad x desc with
      | some a =>
        complete (dramUncorrectable s n [a] 0xFFFFFFFF 0xFFFF) slot stUncorrectable
          (loadResult { status := stUncorrectable, check := 0x20 })
      | none =>
        match loadFailure s n x desc with
        | some f => complete s slot f.status (loadResult f)
        | none =>
          let b := saveBytesOf s x desc
          complete (setPart s n { x with descs := x.descs ++ [{ offset := desc, saveBytes := b }] }) slot stOk
            (toLE 4 b ++ zeroBytes 4))

def execCmdJobDefine (slot : Fin 10) (s : State) : Host.Outcome State Fault Refusal :=
  finish s (cmdJobDefine s slot)

/-- A pipeline of partition n names the description as the JOB of a NET stage (R309, R310). -/
def pipeNames (s : State) (n desc : Nat) : Bool :=
  s.pipes.any (fun e => e.2.valid && e.2.part.val == n
    && e.2.stages.any (fun b => byteAt b 0 == 2 && le b 8 8 == desc))

/-- A job of partition n runs a description and is not terminal. -/
def jobNames (s : State) (n desc : Nat) : Bool :=
  s.jobs.any (fun e => nonTerminal e.2 && e.2.part.toNat == n && e.2.desc == desc)

/-- CMD_JOB_UNDEFINE (R367). -/
def cmdJobUndefine (s : State) (slot : Nat) : State :=
  command s slot 0x0402 [(8, 8)] (fun d =>
    let n := descPart d
    let desc := le d 8 8
    match partOf s n with
    | none => complete s slot stNotPermitted []
    | some x =>
      if !x.descs.any (fun e => e.offset == desc) then complete s slot stBadArgument []
      else if jobNames s n desc || pipeNames s n desc then complete s slot stNotPermitted []
      else complete (setPart s n { x with descs := x.descs.filter (fun e => e.offset != desc) }) slot stOk [])

def execCmdJobUndefine (slot : Fin 10) (s : State) : Host.Outcome State Fault Refusal :=
  finish s (cmdJobUndefine s slot)

end Sys2Proof.Machine
end

