-- ==== Sys2Proof/Machine/Pools.lean ====
section
/-! DEFINITION. Bobbin pools: handles, acquiring and releasing, the free ring and its cache, and the pool
commands (R227 to R241). -/

namespace Sys2Proof.Machine

/-! ### Owners and handles (R228, R232) -/

def ownerStream (i : Nat) : BitVec 16 := BitVec.ofNat 16 (0x1000 + i)
def ownerJob (i : Nat) : BitVec 16 := BitVec.ofNat 16 (0x2000 + i)
def ownerPipe (i : Nat) : BitVec 16 := BitVec.ofNat 16 (0x3000 + i)
def ownerTrack (i : Nat) : BitVec 16 := BitVec.ofNat 16 (0x4000 + i)
def ownerSeq (i : Nat) : BitVec 16 := BitVec.ofNat 16 (0x5000 + i)

/-- A handle of its pool, generation and index. -/
def handleOf (pool gen index : Nat) : Word := BitVec.ofNat 32 (packBits [(28, pool), (16, gen), (0, index)])
def handlePool (h : Word) : Nat := field h.toNat 28 3
def handleGen (h : Word) : Nat := field h.toNat 16 12
def handleIndex (h : Word) : Nat := field h.toNat 0 16

/-- Bobbin size and the place of a bobbin (R227). -/
def bobbinBytes (p : Pool) : Nat := 4096 * 2 ^ p.sizeClass.toNat
def bobbinAt (p : Pool) (i : Nat) : Nat := p.base + i * bobbinBytes p

def poolOf (x : Partition) (p : Nat) : Option Pool := tfind x.pools p
def setPool (x : Partition) (p : Nat) (v : Pool) : Partition := { x with pools := tset x.pools p v }

/-- The present handle of bobbin i of pool p. -/
def presentHandle (p : Nat) (v : Pool) (i : Nat) : Word := handleOf p (tget v.gens i 0).toNat i

/-- The pool and index of a valid handle (R228). -/
def validHandle (x : Partition) (h : Word) : Option (Pool × Nat) :=
  match poolOf x (handlePool h) with
  | none => none
  | some v =>
    let i := handleIndex h
    if !bitOf h.toNat 31 && decide (i < v.count.toNat) && decide ((tget v.gens i 0).toNat = handleGen h) then
      some (v, i)
    else none

/-- The owners of a bobbin. -/
def ownersOf (v : Pool) (i : Nat) : List (BitVec 16) := tget v.owners i []

/-- Owner o holds h. -/
def holds (x : Partition) (h : Word) (o : BitVec 16) : Bool :=
  match validHandle x h with
  | none => false
  | some (v, i) => (ownersOf v i).contains o

/-- Region offset and size of a handle's bobbin. -/
def bobbinRange (x : Partition) (h : Word) : Nat × Nat :=
  match poolOf x (handlePool h) with
  | none => (0, 0)
  | some v => (bobbinAt v (handleIndex h), bobbinBytes v)

/-! ### The control area (R229, R237) -/

/-- Region offset of free-ring entry k and of the owner record of bobbin i: ring first (log entry 21). -/
def ringAt (v : Pool) (k : Nat) : Nat := v.ctrl + 4 * (k % v.count.toNat)
def recordAt (v : Pool) (i : Nat) : Nat := v.ctrl + 4 * v.count.toNat + 8 * i

/-- The owner record of a bobbin written, and the list of the pool. -/
def putOwners (x : Partition) (p : Nat) (v : Pool) (i : Nat) (l : List (BitVec 16)) : Partition :=
  let v := { v with owners := if l.isEmpty then tdel v.owners i else tset v.owners i l }
  let b := (List.range 4).flatMap (fun k => toLE 2 (l.getD k 0).toNat)
  setPool { x with region := storeWrite x.region (recordAt v i) b } p v

/-- Free bobbins, cache and ring together. -/
def freeCount (v : Pool) : Nat := v.cached.length + v.ring.length

/-- Up to 16 handles read from the ring into the cache. -/
def refill (v : Pool) : Pool :=
  let k := min 16 v.ring.length
  { v with
    cached := v.cached ++ v.ring.take k, ring := v.ring.drop k, head := (v.head + k) % v.count.toNat }

/-- The ring entries of the next refill, and whether one of them is in error (R503). -/
def refillRanges (v : Pool) : List (Nat × Nat) :=
  (List.range (min 16 v.ring.length)).map (fun k => (ringAt v (v.head + k), 4))

def refillBad (x : Partition) (v : Pool) : Bool := (refillRanges v).any (fun e => badRead x e.1 e.2)

/-- A free that raises the cache above 24 writes 16 handles to the ring. -/
def spill (x : Partition) (p : Nat) (v : Pool) : Partition :=
  if v.cached.length ≤ 24 then setPool x p v
  else
    let out := v.cached.take 16
    let at' := v.head + v.ring.length
    let r := out.zipIdx.foldl (fun r e =>
      storeWrite r (ringAt v (at' + e.2)) (toLE 4 (presentHandle p v e.1).toNat)) x.region
    setPool { x with region := r } p { v with cached := v.cached.drop 16, ring := v.ring ++ out }

/-! ### ACQUIRE and GROUP (R234 to R236) -/

/-- The pool that grants, walking the fallback chain with fuel of the pools' number. -/
def grantingPool (x : Partition) : Nat → Nat → Bool → Option Nat
  | 0, _, _ => none
  | fuel + 1, q, lender =>
    match poolOf x q with
    | none => none
    | some v =>
      if (if lender then v.floor.toNat else 0) < freeCount v then some q
      else match v.fallback with
        | none => none
        | some f => grantingPool x fuel f true

/-- A free bobbin of pool q is taken for owner o: which one is a free value (R235). Its contents are
undefined to the new owner (R231). -/
def takeFrom (tag : Nat) (x : Partition) (q : Nat) (v : Pool) (o : BitVec 16) : Partition × Word :=
  let v := if v.cached.isEmpty then refill v else v
  let k := Config.freeNat tag % v.cached.length
  let i := v.cached.getD k 0
  let v := { v with cached := v.cached.eraseIdx k }
  let v := { v with low := BitVec.ofNat 17 (min v.low.toNat (freeCount v)) }
  let x := putOwners x q v i [o]
  ({ x with region := storeUndef x.region (bobbinAt v i) (bobbinBytes v) (tag + 1) }, presentHandle q v i)

/-- One counter of the starting pool advances. -/
def countFallback (x : Partition) (p : Nat) : Partition :=
  match poolOf x p with
  | none => x
  | some v => setPool x p { v with failFallback := satInc v.failFallback }
def countNoBuffer (x : Partition) (p : Nat) : Partition :=
  match poolOf x p with
  | none => x
  | some v => setPool x p { v with failNoBuffer := satInc v.failNoBuffer }

/-- One pair decided: the partition after it and the handle. -/
def acquirePair (tag : Nat) (x : Partition) (p : Nat) (o : BitVec 16) : Option (Partition × Word) :=
  match grantingPool x 8 p false with
  | none => none
  | some q =>
    match poolOf x q with
    | none => none
    | some v =>
      let r := takeFrom tag x q v o
      some (if q = p then r.1 else countFallback r.1 p, r.2)

/-- Pairs decided in order: all, or the starting pool of the first unmet. -/
def acquireList (tag : Nat) (x : Partition) : List (Nat × BitVec 16) → Except Nat (Partition × List Word)
  | [] => .ok (x, [])
  | (p, o) :: r =>
    match acquirePair tag x p o with
    | none => .error p
    | some (y, h) =>
      match acquireList (tag + 2) y r with
      | .error q => .error q
      | .ok (z, hs) => .ok (z, h :: hs)

/-- GROUP (R236): every pair or none. -/
def groupAcquire (s : State) (n : Nat) (l : List (Nat × BitVec 16)) : State × Option (List Word) :=
  match partOf s n with
  | none => (s, none)
  | some x =>
    match acquireList s.draws x l with
    | .error p => (setPart s n (countNoBuffer x p), none)
    | .ok (y, hs) => (setPart { s with draws := s.draws + 2 * l.length } n y, some hs)

/-- ACQUIRE by a unit of the module (R234). -/
def acquireBobbin (s : State) (n p : Nat) (o : BitVec 16) : State × Option Word :=
  let r := groupAcquire s n [(p, o)]
  (r.1, r.2.bind List.head?)

/-! ### SHARE and RELEASE (R233) -/

/-- An owner record that a request reads or writes is in error (R503). -/
def recordBad (x : Partition) (v : Pool) (i : Nat) : Bool := badRead x (recordAt v i) 8

/-- SHARE(h, o, o′). -/
def shareBobbin (s : State) (n : Nat) (h : Word) (o o' : BitVec 16) : State × Status :=
  match partOf s n with
  | none => (s, stNotOwner)
  | some x =>
    match validHandle x h with
    | none => (s, stNotOwner)
    | some (v, i) =>
      let l := ownersOf v i
      if recordBad x v i then (dramUncorrectable s n [(recordAt v i, 8)] 0xFFFFFFFF 0xFFFF, stUncorrectable)
      else if !l.contains o || l.contains o' then (s, stNotOwner)
      else if 4 ≤ l.length then (s, stBadArgument)
      else (setPart s n (putOwners x (handlePool h) v i (l ++ [o'])), stOk)

/-- The last owner let go: GEN advances and the bobbin is free. -/
def freeBobbin (x : Partition) (p : Nat) (v : Pool) (i : Nat) : Partition :=
  let x := putOwners x p v i []
  match poolOf x p with
  | none => x
  | some v =>
    spill x p { v with gens := tset v.gens i (tget v.gens i 0 + 1), cached := v.cached ++ [i] }

/-- Owner o removed from a bobbin that it holds. -/
def dropOwner (x : Partition) (p : Nat) (v : Pool) (i : Nat) (o : BitVec 16) : Partition :=
  let l := (ownersOf v i).filter (· ≠ o)
  if l.isEmpty then freeBobbin x p v i else putOwners x p v i l

/-- RELEASE(h, o). -/
def releaseBobbin (s : State) (n : Nat) (h : Word) (o : BitVec 16) : State × Status :=
  match partOf s n with
  | none => (s, stNotOwner)
  | some x =>
    match validHandle x h with
    | none => (s, stNotOwner)
    | some (v, i) =>
      if recordBad x v i then (dramUncorrectable s n [(recordAt v i, 8)] 0xFFFFFFFF 0xFFFF, stUncorrectable)
      else if !(ownersOf v i).contains o then (s, stNotOwner)
      else (setPart s n (dropOwner x (handlePool h) v i o), stOk)

/-- Every hold of an owner in every pool of the partition is released (R233). -/
def releaseHolds (s : State) (n : Nat) (o : BitVec 16) : State :=
  match partOf s n with
  | none => s
  | some x =>
    let mine := x.pools.flatMap (fun e =>
      (e.2.owners.filter (fun r => r.2.contains o)).map (fun r => (e.1, r.1)))
    setPart s n (mine.foldl (fun y k =>
      match poolOf y k.1 with
      | none => y
      | some v => dropOwner y k.1 v k.2 o) x)

/-! ### The requests as commands (R233, R237) -/

/-- POOL_ACQUIRE: a request that finds the granting pool's cache empty while its ring holds handles waits
for the refill. -/
def poolAcquire (s : State) (n p : Nat) (o : BitVec 16) : State :=
  match partOf s n with
  | none => s
  | some x =>
    if (poolOf x p).isNone then emit s (.poolReply n stNotOwner [])
    else match grantingPool x 8 p false with
      | none => emit (setPart s n (countNoBuffer x p)) (.poolReply n stNoBuffer [])
      | some q =>
        match poolOf x q with
        | none => s
        | some v =>
          if v.cached.isEmpty then
            setPart s n (setPool x q { v with waiting := v.waiting ++ [(o, Fin.ofNat 8 p)] })
          else
            let r := acquireBobbin s n p o
            emit r.1 (.poolReply n stOk r.2.toList)

def execPoolAcquire (part : Fin 8) (pool : Fin 8) (owner : BitVec 16) (s : State) :
    Host.Outcome State Fault Refusal :=
  finish s (poolAcquire s part pool owner)

/-- POOL_GROUP: up to 8 pairs, every pool configured. -/
def poolGroup (s : State) (n : Nat) (pairs : List (Nat × BitVec 16)) : State :=
  match partOf s n with
  | none => s
  | some x =>
    if 8 < pairs.length then s
    else if !pairs.all (fun e => (poolOf x e.1).isSome) then emit s (.poolReply n stNotOwner [])
    else
      let r := groupAcquire s n pairs
      match r.2 with
      | none => emit r.1 (.poolReply n stNoBuffer [])
      | some hs => emit r.1 (.poolReply n stOk hs)

def execPoolGroup (part : Fin 8) (pairs : List (Fin 8 × BitVec 16)) (s : State) :
    Host.Outcome State Fault Refusal :=
  finish s (poolGroup s part (pairs.map (fun e => (e.1.val, e.2))))

/-- The answer of a request without handles. -/
def replyStatus (n : Nat) (r : State × Status) : State := emit r.1 (.poolReply n r.2 [])

def execPoolShare (part : Fin 8) (handle : Word) (owner other : BitVec 16) (s : State) :
    Host.Outcome State Fault Refusal :=
  finish s (replyStatus part (shareBobbin s part handle owner other))

def execPoolRelease (part : Fin 8) (handle : Word) (owner : BitVec 16) (s : State) :
    Host.Outcome State Fault Refusal :=
  finish s (replyStatus part (releaseBobbin s part handle owner))

/-- A waiting request is tried again behind a refill. -/
def serveWaiting (s : State) (n : Nat) (w : BitVec 16 × Fin 8) : State :=
  let r := acquireBobbin s n w.2 w.1
  emit r.1 (.poolReply n (if r.2.isSome then stOk else stNoBuffer) r.2.toList)

/-- FREE_RING_REFILL: with fewer than 8 handles cached and some in the ring, 16 come in and the requests
that waited are served; an error in the ring fails them (R503). -/
def freeRingRefill (s : State) (n p : Nat) : State :=
  match partOf s n with
  | none => s
  | some x =>
    match poolOf x p with
    | none => s
    | some v =>
      if 8 ≤ v.cached.length || v.ring.isEmpty then s
      else
        let w := v.waiting
        if refillBad x v then
          let t := dramUncorrectable s n (refillRanges v) 0xFFFFFFFF 0xFFFF
          let t := modPart t n (fun x => setPool x p { v with waiting := [] })
          w.foldl (fun t _ => emit t (.poolReply n stUncorrectable [])) t
        else
          let t := setPart s n (setPool x p { refill v with waiting := [] })
          w.foldl (fun t k => serveWaiting t n k) t

def execFreeRingRefill (part : Fin 8) (pool : Fin 8) (s : State) : Host.Outcome State Fault Refusal :=
  finish s (freeRingRefill s part pool)

/-! ### Commands (R230, R231) -/

/-- Two ranges of a new pool, or one of it and one of another, meet. -/
def poolRanges (v : Pool) : List (Nat × Nat) :=
  [(v.base, v.count.toNat * bobbinBytes v), (v.ctrl, ctrlBytes v.count.toNat)]

def poolClashes (x : Partition) (v : Pool) : Bool :=
  let own := poolRanges v
  meets v.base (v.count.toNat * bobbinBytes v) v.ctrl (ctrlBytes v.count.toNat)
    || own.any (fun r => decide (regionBytes x < r.1 + r.2) || touchesAnyImage x r.1 r.2
      || x.pools.any (fun e => (poolRanges e.2).any (fun q => meets r.1 r.2 q.1 q.2)))

/-- The pool a body describes: every free bobbin in the ring in ascending order. -/
def poolRecord (d : Bytes) : Pool :=
  { sizeClass := BitVec.ofNat 4 (byteAt d 9), count := BitVec.ofNat 17 (le d 12 4)
    floor := BitVec.ofNat 17 (le d 16 4)
    fallback := if bitOf (byteAt d 10) 7 then some (Fin.ofNat 8 (byteAt d 10 % 8)) else none
    base := le d 20 8, ctrl := le d 28 8, ring := List.range (le d 12 4), low := BitVec.ofNat 17 (le d 12 4) }

/-- Field ranges of CMD_POOL_CREATE. -/
def poolFields (x : Partition) (d : Bytes) : Bool :=
  let fb := byteAt d 10
  decide (byteAt d 8 < 8) && decide (byteAt d 9 ≤ 14) && field fb 3 4 == 0 && decide (1 ≤ le d 12 4)
    && decide (le d 12 4 ≤ 65536) && decide (le d 16 4 ≤ le d 12 4) && le d 20 8 % 4096 == 0
    && le d 28 8 % 256 == 0 && (poolOf x (byteAt d 8)).isNone
    && (!bitOf fb 7 || (match poolOf x (fb % 8) with
        | none => false
        | some f => decide (byteAt d 8 < fb % 8) && decide (byteAt d 9 < f.sizeClass.toNat)))

/-- The bytes of a fresh control area: the ring, then empty owner records. -/
def freshControl (p : Nat) (v : Pool) : Bytes :=
  (List.range v.count.toNat).flatMap (fun i => toLE 4 (handleOf p 0 i).toNat) ++ zeroBytes (8 * v.count.toNat)

/-- CMD_POOL_CREATE. -/
def cmdPoolCreate (s : State) (slot : Nat) : State :=
  command s slot 0x0320 [(8, 3), (12, 24)] (fun d =>
    let n := descPart d
    match partOf s n with
    | none => complete s slot stNotPermitted []
    | some x =>
      if !poolFields x d then complete s slot stBadArgument []
      else
        let v := poolRecord d
        if poolClashes x v then complete s slot stNotPermitted []
        else
          let x := setPool { x with region := storeWrite x.region v.ctrl (freshControl (byteAt d 8) v) } (byteAt d 8) v
          complete (setPart s n x) slot stOk [])

def execCmdPoolCreate (slot : Fin 10) (s : State) : Host.Outcome State Fault Refusal :=
  finish s (cmdPoolCreate s slot)

/-- CMD_POOL_DESTROY. -/
def cmdPoolDestroy (s : State) (slot : Nat) : State :=
  command s slot 0x0321 [(8, 1)] (fun d =>
    let n := descPart d
    let p := byteAt d 8
    match partOf s n with
    | none => complete s slot stNotPermitted []
    | some x =>
      match (if p < 8 then poolOf x p else none) with
      | none => complete s slot stBadArgument []
      | some v =>
        if !v.owners.isEmpty || x.pools.any (fun e => e.2.fallback.any (fun f => f.val == p)) then
          complete s slot stNotPermitted []
        else complete (setPart s n { x with pools := tdel x.pools p }) slot stOk [])

def execCmdPoolDestroy (slot : Fin 10) (s : State) : Host.Outcome State Fault Refusal :=
  finish s (cmdPoolDestroy s slot)

end Sys2Proof.Machine
end

