-- ==== Sys2Proof/Machine/JobStart.lean ====
section
/-! DEFINITION. Job identifiers, clients, and the start of a job: its checks and its entry into the job
table (R368, R369, R382, R396). -/

namespace Sys2Proof.Machine

/-- The states in which a job holds its spindles and stem engines (R371). -/
def jobHolds (j : Job) : Bool := j.state = 2 || j.state = 3 || j.state = 6 || j.state = 7

/-- The mailbox whose completion ring takes a job's end report: the one the start came from; for a relayed
start the partition's own (R345, R381, R396). -/
def jobMailbox (j : Job) : Option Nat :=
  match j.slot with
  | none => none
  | some k => some (if k.val = 9 then j.part.toNat else k.val)

/-- Completion entries of mailbox m reserved for job-end reports, held reports among them (R396). -/
def reservations (s : State) (m : Nat) : Nat :=
  s.jobs.countP (fun e => nonTerminal e.2 && jobMailbox e.2 == some m) + (mailboxOf s m).held.length

/-- Completion entries of mailbox m in use or reserved. -/
def completionLoad (s : State) (m : Nat) : Nat :=
  completionsOut s m + reservations s m

/-- Non-terminal jobs of partition n (R389). -/
def activeJobs (s : State) (n : Nat) : Nat := s.jobs.countP (fun e => nonTerminal e.2 && e.2.part.toNat == n)

/-- The job a JOB_ID of partition n names: its index, or the status of R369. -/
def jobNamed (s : State) (n id : Nat) : Except Status Nat :=
  let j := id % 1024
  let x := jobOf s j
  if field id 10 6 ≠ 0 || id / 65536 ≠ x.serial.toNat || x.state = 0 then .error stBadArgument
  else if x.part.toNat ≠ n then .error stNotOwner
  else .ok j

/-- A job command: its JOB_ID at [11:8] is resolved first (R369, R374). -/
def onJob (s : State) (slot : Nat) (d : Bytes) (f : Nat → State) : State :=
  match jobNamed s (descPart d) (le d 8 4) with
  | .error st => complete s slot st []
  | .ok j => f j

/-! ### Clients (R382) -/

def clientOf (x : Partition) (c : Nat) : Client := tget x.clients c {}

/-- A client record of partition n changed. -/
def modClient (s : State) (n c : Nat) (f : Client → Client) : State :=
  modPart s n (fun x => { x with clients := tset x.clients c (f (clientOf x c)) })

/-! ### The job table (R369) -/

/-- The entry a start takes: the lowest FREE one, else the terminal one that became terminal first. -/
def jobEntry (s : State) : Nat :=
  match (List.range 1024).find? (fun j => (jobOf s j).state = 0) with
  | some j => j
  | none =>
    let ended := s.jobs.filter (fun e => !nonTerminal e.2)
    match ended with
    | [] => 0
    | e :: r => (r.foldl (fun best k => if k.2.order < best.2.order then k else best) e).1

/-! ### The checks of a start -/

/-- What a start asks for. -/
structure StartReq where
  part : Nat
  desc : Nat
  save : Nat
  client : Nat
  kinds : List Nat
  args : List Nat
  /-- the owner that shares handle arguments with the job; `none` for the driver -/
  sharer : Option (BitVec 16) := none
  slot : Option (Fin 10) := none
  hostSeq : Word := 0
  irq : Bool := false
  origin : Option JobOrigin := none
deriving DecidableEq, Repr

/-- The value of an argument: a handle's is its bobbin's region offset (R368). -/
def argValue (x : Partition) (kind v : Nat) : Nat :=
  if kind = 2 then (bobbinRange x (BitVec.ofNat 32 v)).1 else v
def argValues (x : Partition) (q : StartReq) : List Nat :=
  (List.range 8).map (fun i => argValue x (q.kinds.getD i 0) (q.args.getD i 0))

/-- The copies relocations name, with their arguments added. -/
def relocatedCopies (x : Partition) (desc : Nat) (h : JobHeader) (args : List Nat) : List CopyDesc × Bool :=
  let rel := relocEntries x.region desc h
  let sp := spindleEntries x.region desc h
  let places := (rel.map (fun r => (r.entry, r.offset))).eraseDups
  let ds := places.map (fun p =>
    let prog := ((sp[p.1]?).map (·.program)).getD 0
    relocate rel args p.1 p.2 (programDesc x.region prog p.2))
  (ds.map decodeCopy, ds.all (fun d => copySrcAligned d && copyDstAligned d))

/-- First row of the table of R369. -/
def startFields (x : Partition) (q : StartReq) (args : List Nat) : Bool :=
  match x.descs.find? (fun e => e.offset == q.desc) with
  | none => false
  | some _ =>
    let h := decodeJobHeader (storeRead x.region q.desc 64)
    let used := fun i => q.kinds.getD i 0 ≠ 0
    (q.origin.isSome || q.client ≠ 255) && q.kinds.all (fun k => k ≠ 3 && (q.sharer.isSome || k ≠ 2))
      && (if h.preemptible then q.save ≠ 0 && q.save % 256 == 0 else q.save == 0)
      && (relocEntries x.region q.desc h).all (fun r => used r.arg)
      && (!h.answer || used h.answerArg)
      && (!h.sequences || q.kinds.getD h.seqTableArg 0 == 1)
      && (relocatedCopies x q.desc h args).2

/-- A range a start names leaves the region or touches a read-only area (R369). -/
def rangeForbidden (x : Partition) (a n : Nat) : Bool :=
  decide (regionBytes x < a + n) || touchesImage x a n || touchesCtrl x a n

/-- Bytes of a batch table (R384). -/
def tableBytes (h : JobHeader) : Nat := 64 + 64 * h.seqMax

/-- Third row of the table of R369. -/
def startPermitted (s : State) (x : Partition) (q : StartReq) (args : List Nat) : Bool :=
  let m := namedBy x q.desc
  let h := m.header
  let save := ((x.descs.find? (fun e => e.offset == q.desc)).map (·.saveBytes)).getD 0
  (spindleEntries x.region q.desc h).all (fun e => partOwnsSpire s q.part (spireOfSpindle e.spindle))
    && (spireEntries x.region q.desc h).all (fun e => partOwnsSpire s q.part e.spire)
    && (namedSpires m).all (partOwnsSpire s q.part)
    && m.programs.all (fun p => p.2.all (fun d =>
        kindOf d ≠ 1 || (decodeHead d).width == widthOf (spindleOf s p.1.spindle).arr))
    && (relocatedCopies x q.desc h args).1.all (fun c => (copyReach x c 0).isNone)
    && (!h.preemptible || !rangeForbidden x q.save save)
    && (!h.sequences || !rangeForbidden x (args.getD h.seqTableArg 0) (tableBytes h))

/-- The partition's quota and the client's limit leave room. -/
def startRoom (s : State) (x : Partition) (q : StartReq) : Bool :=
  let c := clientOf x q.client
  decide (activeJobs s q.part < x.quota.toNat) && (c.limit = 0 || decide (c.active.toNat < c.limit.toNat))

/-- The handle arguments are shared with the job (R368): the state, or the status of the first that fails. -/
def shareArgs (s : State) (n j : Nat) (o : BitVec 16) : List Word → State × Status
  | [] => (s, stOk)
  | h :: r =>
    let t := shareBobbin s n h o (ownerJob j)
    if t.2 = stOk then shareArgs t.1 n j o r
    else if t.2 = stUncorrectable then t else (s, stNotOwner)

/-- The handle arguments of a start. -/
def handleArgs (q : StartReq) : List Word :=
  ((List.range 8).filter (fun i => q.kinds.getD i 0 == 2)).map (fun i => BitVec.ofNat 32 (q.args.getD i 0))

/-- The job-table entry of a start that passed its checks. -/
def newJob (s : State) (x : Partition) (q : StartReq) (j : Nat) (args : List Nat) : Job :=
  let old := jobOf s j
  let h := decodeJobHeader (storeRead x.region q.desc 64)
  let save := ((x.descs.find? (fun e => e.offset == q.desc)).map (·.saveBytes)).getD 0
  { serial := if old.state = 0 then old.serial else old.serial + 1
    client := BitVec.ofNat 8 q.client, part := BitVec.ofNat 3 q.part, state := 1
    desc := q.desc, header := h, save := q.save, saveBytes := save, argKinds := q.kinds, args := args
    shares := handleArgs q, slot := q.slot, hostSeq := q.hostSeq, irq := q.irq, origin := q.origin
    power := h.power, order := s.orders, seqs := if h.sequences then some {} else none }

/-- A start: the state, the status, and the index of the job where it is ST_OK. -/
def startJob (s : State) (q : StartReq) : State × Status × Nat :=
  match partOf s q.part with
  | none => (s, stNotPermitted, 0)
  | some x =>
    let args := argValues x q
    if !startFields x q args then (s, stBadArgument, 0)
    else
      let j := jobEntry s
      let t := match q.sharer with
        | none => (s, stOk)
        | some o => shareArgs s q.part j o (handleArgs q)
      if t.2 ≠ stOk then (if t.2 = stUncorrectable then t.1 else s, t.2, 0)
      else if !startPermitted s x q args then (s, stNotPermitted, 0)
      else if !startRoom s x q then (s, stNoBuffer, 0)
      else
        let u := modClient t.1 q.part q.client (fun c =>
          { c with started := satInc c.started, active := satInc c.active })
        (setJob (ordered u) j (newJob s x q j args), stOk, j)

/-- The body of CMD_JOB_START as a request. -/
def startRequest (slot : Nat) (d : Bytes) : StartReq where
  part := descPart d
  desc := le d 8 8
  save := le d 16 8
  client := byteAt d 24
  kinds := (List.range 8).map (fun i => field (le d 26 2) (2 * i) 2)
  args := (List.range 8).map (fun i => le d (32 + 8 * i) 8)
  slot := some (Fin.ofNat 10 slot)
  hostSeq := BitVec.ofNat 32 (le d 4 4)
  irq := bitOf (byteAt d 2) 1

/-- The mailbox that a slot's command counts against. -/
def slotMailbox (d : Bytes) (slot : Nat) : Nat := if slot = 9 then descPart d else slot

/-- A second completion entry is free for the report (R396). -/
def reportRoom (s : State) (m : Nat) : Bool :=
  !(mailboxOf s m).enable || decide (completionLoad s m + 2 ≤ 2 ^ (mailboxOf s m).cplLog2.toNat)

/-- CMD_JOB_START. -/
def cmdJobStart (s : State) (slot : Nat) : State :=
  command s slot 0x0410 [(8, 17), (26, 2), (32, 64)] (fun d =>
    let r := startJob s (startRequest slot d)
    if r.2.1 ≠ stOk then complete r.1 slot r.2.1 []
    else if !reportRoom s (slotMailbox d slot) then complete s slot stNoBuffer []
    else complete r.1 slot stOk (toLE 4 (jobId r.1 r.2.2)))

def execCmdJobStart (slot : Fin 10) (s : State) : Host.Outcome State Fault Refusal := finish s (cmdJobStart s slot)

end Sys2Proof.Machine
end

