-- ==== Sys2Proof/Machine/Prep.lean ====
section
/-! DEFINITION. Picture preparation: requests and their checks, batch slots, work items, sampling, colour
and normalisation (R289 to R302). -/

namespace Sys2Proof.Machine

/-! ### Declarations (R297) -/

/-- A batch queue declaration. -/
structure QueueDecl where
  ow : Nat
  oh : Nat
  c : Nat
  fmt : Nat
  chw : Bool
  pool : Nat
  slots : Nat
  norm : Bool
  waitLimit : Nat
  mean : List Word
  scale : List Word
  pad : List Nat
deriving DecidableEq, Repr

def decodeDecl (b : Bytes) : QueueDecl where
  ow := le b 0 2
  oh := le b 2 2
  c := byteAt b 4
  fmt := byteAt b 5
  chw := byteAt b 6 == 1
  pool := field (byteAt b 7) 0 3
  slots := le b 8 2
  norm := bitOf (byteAt b 10) 0
  waitLimit := if le b 12 4 = 0 then 3300000 else le b 12 4
  mean := (List.range 3).map (fun k => BitVec.ofNat 32 (le b (16 + 4 * k) 4))
  scale := (List.range 3).map (fun k => BitVec.ofNat 32 (le b (28 + 4 * k) 4))
  pad := (List.range 4).map (fun k => le b (40 + 2 * k) 2)

/-- Bytes of an element. -/
def declElem (q : QueueDecl) : Nat := if q.fmt < 2 then 1 else 2

/-- Row pitch, slot bytes and header bytes. -/
def rowPitch (q : QueueDecl) : Nat := alignUp (q.ow * (if q.chw then 1 else q.c) * declElem q) 32
def slotSize (q : QueueDecl) : Nat := alignUp (rowPitch q * q.oh * (if q.chw then q.c else 1)) 256
def headerSize (q : QueueDecl) : Nat := alignUp (64 + 32 * q.slots) 256

/-- Bytes a batch takes. -/
def batchBytes (q : QueueDecl) : Nat := headerSize q + q.slots * slotSize q

/-- A declaration is valid for partition x (R296, R297). -/
def declValid (x : Partition) (b : Bytes) : Bool :=
  let q := decodeDecl b
  decide (1 ≤ q.ow) && decide (q.ow ≤ 1024) && decide (1 ≤ q.oh) && decide (q.oh ≤ 1024)
    && (q.c == 1 || q.c == 3 || q.c == 4) && [0, 1, 8, 9].contains q.fmt && decide (byteAt b 6 < 2)
    && decide (byteAt b 7 < 8) && decide (1 ≤ q.slots) && decide (q.slots ≤ 256) && decide (byteAt b 10 < 2)
    && byteAt b 11 == 0 && zeros b 48 16 && (q.norm || q.fmt == 1)
    && (!q.norm || (q.mean.all (fun w => isFinite (fp32 w)) && q.scale.all (fun w => isFinite (fp32 w))))
    && (match poolOf x q.pool with
        | none => false
        | some p => decide (batchBytes q ≤ bobbinBytes p))

/-! ### Requests (R289, R290) -/

/-- A preparation request. -/
structure PrepDesc where
  src : Word
  host : Bool
  live : Bool
  close : Bool
  nearest : Bool
  letterbox : Bool
  edge : Bool
  out : Nat
  matrix : Nat
  padY : Nat
  padCb : Nat
  padCr : Nat
  boxCount : Nat
  queue : Nat
  boxes : Nat
  hostPitch : Nat
  hostTime : Nat
  hostTag : Nat
deriving DecidableEq, Repr

def decodePrep (b : Bytes) : PrepDesc where
  src := BitVec.ofNat 32 (le b 0 4)
  host := byteAt b 4 == 1
  live := bitOf (byteAt b 5) 0
  close := bitOf (byteAt b 5) 1
  nearest := bitOf (byteAt b 5) 2
  letterbox := bitOf (byteAt b 5) 3
  edge := bitOf (byteAt b 5) 4
  out := field (byteAt b 6) 0 3
  matrix := field (byteAt b 6) 3 2
  padY := byteAt b 7
  padCb := byteAt b 8
  padCr := byteAt b 9
  boxCount := le b 10 2
  queue := field (byteAt b 12) 0 4
  boxes := le b 16 8
  hostPitch := le b 24 4
  hostTime := le b 28 8
  hostTag := le b 36 4

/-- The frame-buffer header behind a handle (R253), where the bobbin exists. -/
structure FrameInfo where
  base : Nat
  stream : Nat
  picture : Nat
  time : Nat
  width : Nat
  height : Nat
  pitch : Nat
  chroma : Nat
deriving DecidableEq, Repr

def frameInfo (x : Partition) (h : Word) : FrameInfo :=
  let a := (bobbinRange x h).1
  let b := storeRead x.region a 64
  { base := a, stream := le b 0 2, picture := le b 4 4, time := le b 8 8, width := le b 16 2, height := le b 18 2
    pitch := le b 20 4, chroma := le b 24 4 }

/-- A signed 32-bit number of a box list. -/
def boxCoord (b : Bytes) (k : Nat) : Int := signedOf 32 (le b (4 * k) 4)

/-- The boxes of a list in the region (R292). -/
def readBoxes (x : Partition) (a n : Nat) : List (Int × Int × Int × Int) :=
  (List.range n).map (fun k =>
    let b := storeRead x.region (a + 16 * k) 16
    (boxCoord b 0, boxCoord b 1, boxCoord b 2, boxCoord b 3))

def coordOk (v : Int) : Bool := decide (-1048576 ≤ v) && decide (v ≤ 1048576)

/-- Queue q of a partition, if bound. -/
def boundQueue (x : Partition) (q : Nat) : Option BatchQueue := tfind x.batchQueues q

/-- The boxes of a crop request; the whole picture for BOX_COUNT 0. -/
def requestBoxes (x : Partition) (p : PrepDesc) : List (Int × Int × Int × Int) :=
  if p.host then [(0, 0, 0, 0)]
  else if p.boxCount = 0 then
    let f := frameInfo x p.src
    [(0, 0, 16 * (f.width : Int), 16 * (f.height : Int))]
  else readBoxes x p.boxes p.boxCount

/-- The checks of R290 for a request of pipeline `pipe`; `boxes` is the list the stage gives itself, or
`none` for a list in the region. -/
def prepFailure (x : Partition) (pipe : Nat) (b : Bytes) (boxes : Option (List (Int × Int × Int × Int))) :
    Option Status :=
  let p := decodePrep b
  match boundQueue x p.queue with
  | none => some stBadArgument
  | some q =>
    let decl := decodeDecl q.decl
    let listed := !p.host && 0 < p.boxCount && boxes.isNone
    if q.pipe ≠ pipe || 2 ≤ byteAt b 4 || 32 ≤ byteAt b 5 || 32 ≤ byteAt b 6 || 16 ≤ byteAt b 12
        || !zeros b 13 3 || !zeros b 40 24 || 1024 < p.boxCount || 4 ≤ p.out
        || (!p.host && (if p.out = 0 then decl.c ≠ 1 else decl.c = 1))
        || (!p.host && p.boxes % 16 ≠ 0) || (p.host && p.src ≠ 0) then some stBadArgument
    else if !p.host && !holds x p.src (ownerPipe pipe) then some stNotOwner
    else if listed && (regionBytes x < p.boxes + 16 * p.boxCount || touchesAnyImage x p.boxes (16 * p.boxCount)
        || touchesCtrl x p.boxes (16 * p.boxCount)) then some stNotPermitted
    else if listed && badRead x p.boxes (16 * p.boxCount) then some stUncorrectable
    else if (boxes.getD (requestBoxes x p)).any (fun r =>
        !(coordOk r.1 && coordOk r.2.1 && coordOk r.2.2.1 && coordOk r.2.2.2)) then some stBadArgument
    else none

/-! ### Content rectangle (R293) -/

/-- The content rectangle of a box in a slot. -/
def contentRect (q : QueueDecl) (letterbox : Bool) (bw bh : Nat) : Nat × Nat × Nat × Nat :=
  if !letterbox || bw = 0 || bh = 0 then (0, 0, q.ow, q.oh)
  else if bh * q.ow ≤ bw * q.oh then
    let ch := min q.oh (max 1 ((2 * q.ow * bh + bw) / (2 * bw)))
    (0, (q.oh - ch) / 2, q.ow, ch)
  else
    let cw := min q.ow (max 1 ((2 * q.oh * bw + bh) / (2 * bh)))
    ((q.ow - cw) / 2, 0, cw, q.oh)

/-! ### Slots and batches (R299) -/

def degenerate (b : Int × Int × Int × Int) : Bool := decide (b.2.2.1 ≤ b.1) || decide (b.2.2.2 ≤ b.2.1)

/-- A slot for box k of a request. -/
def slotOf (x : Partition) (q : QueueDecl) (r : PrepReq) (k : Nat) (b : Int × Int × Int × Int) : BatchSlot :=
  let p := decodePrep r.bytes
  if p.host then
    { stream := 0xFFFF#16, box := 0, picture := BitVec.ofNat 32 p.hostTag, flags := 0x21#8
      cx := 0, cy := 0, cw := q.ow, ch := q.oh, time := BitVec.ofNat 64 p.hostTime, request := r.number, own := r.own }
  else
    let f := frameInfo x p.src
    let rect := contentRect q p.letterbox (b.2.2.1 - b.1).toNat (b.2.2.2 - b.2.1).toNat
    let fl := packBits [(0, 1), (4, flag (degenerate b)), (6, flag p.letterbox)]
    { stream := BitVec.ofNat 16 f.stream, box := BitVec.ofNat 16 k, picture := BitVec.ofNat 32 f.picture
      flags := BitVec.ofNat 8 fl, cx := rect.1, cy := rect.2.1, cw := rect.2.2.1, ch := rect.2.2.2
      time := BitVec.ofNat 64 f.time, x0 := b.1, y0 := b.2.1, bw := b.2.2.1 - b.1, bh := b.2.2.2 - b.2.1
      width := f.width, height := f.height, request := r.number, own := r.own }

/-- One pad pixel row, and a whole slot of pad values (R297, R299). -/
def padElem (q : QueueDecl) (c : Nat) : Bytes := toLE (declElem q) (q.pad.getD c 0)

/-- Pixels of a slot, row by row, each a list of one element per channel, packed in the queue's layout. -/
def packSlot (q : QueueDecl) (px : List (List (List Bytes))) : Bytes :=
  let row := fun b : Bytes => fit (rowPitch q) b
  fit (slotSize q) (
    if q.chw then
      (List.range q.c).flatMap (fun c => px.flatMap (fun r => row (r.flatMap (fun e => e.getD c []))))
    else px.flatMap (fun r => row (r.flatMap List.flatten)))

def padPixel (q : QueueDecl) : List Bytes := (List.range q.c).map (padElem q)
def padSlot (q : QueueDecl) : Bytes :=
  packSlot q (List.replicate q.oh (List.replicate q.ow (padPixel q)))

/-- Place of slot k in a batch bobbin. -/
def slotPlace (x : Partition) (q : QueueDecl) (h : Word) (k : Nat) : Nat :=
  (bobbinRange x h).1 + headerSize q + k * slotSize q

/-- A batch closes: its unassigned slots become padding slots (R299). -/
def closeBatch (x : Partition) (q : QueueDecl) (b : Batch) : Partition × Batch :=
  let x := (List.range (q.slots - b.slots.length)).foldl (fun x k =>
    unitPut x (slotPlace x q b.handle (b.slots.length + k)) (padSlot q)) x
  (x, { b with closed := true })

/-- The open batch of a queue: the last one, while it is not closed. -/
def openBatch (v : BatchQueue) : Option Batch :=
  match v.batches.getLast? with
  | none => none
  | some b => if b.closed then none else some b

def replaceLast (l : List Batch) (b : Batch) : List Batch := l.dropLast ++ [b]

/-- A queue of partition n changed. -/
def setBatchQueue (s : State) (n q : Nat) (v : BatchQueue) : State :=
  modPart s n (fun x => { x with batchQueues := tset x.batchQueues q v })

/-- A batch is opened by an ACQUIRE from POOL: `none` where no bobbin is granted (R299, R300). -/
def openNewBatch (s : State) (n q : Nat) (v : BatchQueue) (live : Bool) : State × Option BatchQueue :=
  let d := decodeDecl v.decl
  let r := acquireBobbin s n d.pool (ownerPipe v.pipe)
  match r.2 with
  | none => (r.1, none)
  | some h =>
    let v := { v with
      nextSeq := v.nextSeq + 1, batches := v.batches ++ [{ seq := v.nextSeq, handle := h, live := live }] }
    (setBatchQueue r.1 n q v, some v)

/-- The first waiting request of a queue has all its slots: its CLOSE takes effect and it leaves. -/
def requestDone (s : State) (n q : Nat) (v : BatchQueue) (r : PrepReq) : State :=
  let v := { v with waiting := v.waiting.tail }
  match openBatch v, (decodePrep r.bytes).close with
  | some b, true =>
    modPart s n (fun x =>
      let c := closeBatch x (decodeDecl v.decl) b
      { c.1 with batchQueues := tset c.1.batchQueues q { v with batches := replaceLast v.batches c.2 } })
  | _, _ => setBatchQueue s n q v

/-- The next box of the first waiting request takes the next slot of the open batch (R299). -/
def assignBox (s : State) (n q : Nat) (v : BatchQueue) (r : PrepReq) (b : Batch) : State :=
  match partOf s n with
  | none => s
  | some x =>
    let d := decodeDecl v.decl
    let box := r.boxes.getD r.assigned (0, 0, 0, 0)
    let slot := slotOf x d r r.assigned box
    let item : WorkItem :=
      { part := Fin.ofNat 8 n, queue := q, seq := b.seq, slot := b.slots.length, number := r.number, pipe := r.pipe
        live := (decodePrep r.bytes).live, request := r.bytes, box := box }
    let b := { b with slots := b.slots ++ [slot] }
    let c := if b.slots.length = d.slots then closeBatch x d b else (x, b)
    let v := { v with
      batches := replaceLast v.batches c.2
      waiting := { r with assigned := r.assigned + 1 } :: v.waiting.tail }
    let t := setPart s n { c.1 with batchQueues := tset c.1.batchQueues q v }
    { t with workItems := t.workItems ++ [item] }

/-- Slots are assigned in submission order and box-list order while batches can be opened, with fuel. -/
def assignQueue (n q : Nat) : Nat → State → State
  | 0, s => s
  | fuel + 1, s =>
    match partOf s n with
    | none => s
    | some x =>
      match boundQueue x q with
      | none => s
      | some v =>
        match v.waiting with
        | [] => s
        | r :: _ =>
          if r.boxes.length ≤ r.assigned then assignQueue n q fuel (requestDone s n q v r)
          else match openBatch v with
            | some b => assignQueue n q fuel (assignBox s n q v r b)
            | none =>
              match openNewBatch s n q v (pipeOf s v.pipe).live with
              | (t, none) => t
              | (t, some _) => assignQueue n q fuel t

/-- Steps that the waiting requests of a queue can take. -/
def assignFuel (v : BatchQueue) : Nat := (v.waiting.map (fun r => 2 * (r.boxes.length - r.assigned) + 2)).sum

/-- Requests of a queue go on (R299, R300). -/
def runQueue (s : State) (n q : Nat) : State :=
  match partOf s n with
  | none => s
  | some x =>
    match boundQueue x q with
    | none => s
    | some v => assignQueue n q (assignFuel v) s

/-- A checked request enters its queue: `own` when a stage submits it, with the stage's own boxes. -/
def enterRequest (s : State) (n pipe : Nat) (b : Bytes) (own : Bool)
    (boxes : Option (List (Int × Int × Int × Int))) : State :=
  match partOf s n with
  | none => s
  | some x =>
    let p := decodePrep b
    match boundQueue x p.queue with
    | none => s
    | some v =>
      let r : PrepReq :=
        { number := s.orders, pipe := pipe, own := own, bytes := b, boxes := boxes.getD (requestBoxes x p)
          assigned := 0, since := s.time.toNat }
      runQueue (setBatchQueue (ordered s) n p.queue { v with waiting := v.waiting ++ [r] }) n p.queue

/-- A request submitted by pipeline `pipe`: its status (R290, R313). -/
def submitRequest (s : State) (pipe : Nat) (b : Bytes) (own : Bool)
    (boxes : Option (List (Int × Int × Int × Int))) : State × Status :=
  let n := (pipeOf s pipe).part.val
  match partOf s n with
  | none => (s, stBadArgument)
  | some x =>
    match prepFailure x pipe b boxes with
    | some st =>
      (if st = stUncorrectable then dramUncorrectable s n [((decodePrep b).boxes, 16 * (decodePrep b).boxCount)] 0xFFFFFFFF 0xFFFF else s, st)
    | none => (enterRequest s n pipe b own boxes, stOk)

/-- PREPARATION_REQUEST. -/
def execPreparationRequest (pipe : Fin 256) (request : Bytes) (s : State) :
    Host.Outcome State Fault Refusal :=
  finish s (if (pipeOf s pipe).valid then (submitRequest s pipe (fit 64 request) false none).1 else s)

/-! ### Work items (R291) -/

/-- The item whose request was submitted first, in box-list order among those of one request. -/
def earliestItem : List WorkItem → Option WorkItem
  | [] => none
  | w :: r => some (r.foldl (fun b e => if e.number < b.number then e else b) w)

/-- The next work item: LIVE ones first, each class in order of submission. -/
def nextItem (l : List WorkItem) : Option WorkItem := (earliestItem (l.filter (·.live))).or (earliestItem l)

/-- Work items submitted and not begun: those with a slot, and the boxes of waiting requests without one (R306). -/
def itemsWaiting (s : State) : Nat :=
  s.workItems.length + (s.parts.map (fun e => (e.2.batchQueues.map (fun q =>
    (q.2.waiting.map (fun r => r.boxes.length - r.assigned)).sum)).sum)).sum

/-- Rows of a host image: those of every plane of a CHW one (R302). -/
def imageRows (q : QueueDecl) : Nat := q.oh * (if q.chw then q.c else 1)

/-- WORK_ITEM_START: a free unit takes the next work item; a host slot's image is read. -/
def workItemStart (s : State) (u : Nat) : State :=
  let x := prepUnitOf s u
  if x.state ≠ 0 then s
  else match nextItem s.workItems with
    | none => s
    | some w =>
      let p := decodePrep w.request
      let t := setPrepUnit { s with workItems := s.workItems.erase w } u
        { state := if p.host then 2 else 1, part := BitVec.ofNat 3 w.part.val
          queue := BitVec.ofNat 4 w.queue, item := some w }
      if p.host then
        let d := match partOf s w.part.val with
          | none => 0
          | some x => (match boundQueue x w.queue with | none => 0 | some v => imageRows (decodeDecl v.decl))
        issueRead t (w.part.val + 1) p.boxes (p.hostPitch * d) (.hostSlot u)
      else t

def execWorkItemStart (unit : Fin 4) (s : State) : Host.Outcome State Fault Refusal :=
  finish s (workItemStart s unit)

/-! ### Sampling (R294) -/

/-- One plane of a picture: bytes at `base`, a pitch, a step between samples, and its size. -/
structure Plane where
  base : Nat
  pitch : Nat
  step : Nat
  w : Nat
  h : Nat
  pad : Nat
deriving DecidableEq, Repr

/-- One tap: its value and whether it lay outside. -/
def tapOf (r : Store 8) (p : Plane) (edge : Bool) (x y : Int) : Nat × Bool :=
  let out := decide (x < 0) || decide ((p.w : Int) ≤ x) || decide (y < 0) || decide ((p.h : Int) ≤ y)
  if out && edge then (p.pad, true)
  else
    let cx := (max 0 (min x ((p.w : Int) - 1))).toNat
    let cy := (max 0 (min y ((p.h : Int) - 1))).toNat
    ((storeGet r (p.base + cy * p.pitch + cx * p.step)).toNat, out)

/-- A sample at position (a, b) in 1/256: bilinear or nearest. -/
def sampleAt (r : Store 8) (p : Plane) (edge nearest : Bool) (a b : Int) : Nat × Bool :=
  if nearest then tapOf r p edge ((a + 128) / 256) ((b + 128) / 256)
  else
    let xi := a / 256
    let fx := (a % 256).toNat
    let yi := b / 256
    let fy := (b % 256).toNat
    let t00 := tapOf r p edge xi yi
    let t10 := tapOf r p edge (xi + 1) yi
    let t01 := tapOf r p edge xi (yi + 1)
    let t11 := tapOf r p edge (xi + 1) (yi + 1)
    (((256 - fx) * (256 - fy) * t00.1 + fx * (256 - fy) * t10.1 + (256 - fx) * fy * t01.1 + fx * fy * t11.1
      + 32768) / 65536, t00.2 || t10.2 || t01.2 || t11.2)

/-- Luma position of output i of n over a box side. -/
def lumaPos (n i : Nat) (x0 bw : Int) : Int := (n * x0 * 32 + (2 * i + 1) * bw * 16) / (2 * n) - 128

/-- The planes of a frame buffer (R252). -/
def lumaPlane (f : FrameInfo) (pad : Nat) : Plane := ⟨f.base + 256, f.pitch, 1, f.width, f.height, pad⟩
def chromaPlane (f : FrameInfo) (cr : Nat) (pad : Nat) : Plane :=
  ⟨f.base + f.chroma + cr, f.pitch, 2, ceilDiv f.width 2, ceilDiv f.height 2, pad⟩

/-- Matrix rows of R295: oy, ky, kr, kgb, kgr, kb. -/
def matrixOf (m : Nat) : Int × Int × Int × Int × Int × Int :=
  if m = 0 then (16, 9539, 13075, -3209, -6660, 16525)
  else if m = 1 then (0, 8192, 11485, -2819, -5850, 14516)
  else if m = 2 then (16, 9539, 14686, -1747, -4366, 17305)
  else (0, 8192, 12901, -1535, -3835, 15201)

def clamp255 (v : Int) : Nat := (max 0 (min v 255)).toNat

/-- The channels of a pixel from its samples (R295). -/
def colourOf (out matrix y cb cr : Nat) : List Nat :=
  if out = 0 then [y]
  else if out = 3 then [y, cb, cr]
  else
    let m := matrixOf matrix
    let l := m.2.1 * ((y : Int) - m.1)
    let d := (cb : Int) - 128
    let e := (cr : Int) - 128
    let r := clamp255 ((l + m.2.2.1 * e + 4096) / 8192)
    let g := clamp255 ((l + m.2.2.2.1 * d + m.2.2.2.2.1 * e + 4096) / 8192)
    let b := clamp255 ((l + m.2.2.2.2.2 * d + 4096) / 8192)
    if out = 1 then [r, g, b] else [b, g, r]

/-- A channel value as an element of the queue's format (R296). -/
def normalise (q : QueueDecl) (c v : Nat) : Rounded :=
  if !q.norm then { bits := v }
  else
    let y := mulNum (addNum (numOfInt v) (negNum (fp32 (q.mean.getD c 0)))) (fp32 (q.scale.getD c 0))
    toElement q.fmt y

/-- A pixel of a slot: its elements, whether a tap lay outside, saturations and underflows. -/
structure Pixel where
  elems : List Bytes
  outside : Bool := false
  sat : Nat := 0
  ufl : Nat := 0
deriving DecidableEq, Repr

/-- The output pixel at column i, row j of the content rectangle. -/
def samplePixel (r : Store 8) (f : FrameInfo) (q : QueueDecl) (p : PrepDesc) (slot : BatchSlot) (i j : Nat) :
    Pixel :=
  let px := lumaPos slot.cw i slot.x0 slot.bw
  let py := lumaPos slot.ch j slot.y0 slot.bh
  let qx := (px - 128) / 2
  let qy := (py - 128) / 2
  let y := sampleAt r (lumaPlane f p.padY) p.edge p.nearest px py
  let cb := sampleAt r (chromaPlane f 0 p.padCb) p.edge p.nearest qx qy
  let cr := sampleAt r (chromaPlane f 1 p.padCr) p.edge p.nearest qx qy
  let ch := (colourOf p.out p.matrix y.1 cb.1 cr.1).zipIdx.map (fun e => normalise q e.2 e.1)
  let elems := (List.range q.c).map (fun c =>
    if c = 3 then padElem q 3 else toLE (declElem q) (ch.getD c { bits := 0 }).bits)
  { elems := elems, outside := y.2 || (p.out ≠ 0 && (cb.2 || cr.2)), sat := satSum ch, ufl := uflSum ch }

/-- All pixels of a crop slot, row by row. -/
def cropPixels (r : Store 8) (f : FrameInfo) (q : QueueDecl) (p : PrepDesc) (slot : BatchSlot) :
    List (List Pixel) :=
  (List.range q.oh).map (fun y => (List.range q.ow).map (fun x =>
    if slot.cx ≤ x && x < slot.cx + slot.cw && slot.cy ≤ y && y < slot.cy + slot.ch then
      samplePixel r f q p slot (x - slot.cx) (y - slot.cy)
    else { elems := padPixel q }))

/-- The box has no sample inside the picture. -/
def whollyOutside (slot : BatchSlot) : Bool :=
  decide (slot.x0 + slot.bw ≤ 0) || decide (16 * (slot.width : Int) ≤ slot.x0)
    || decide (slot.y0 + slot.bh ≤ 0) || decide (16 * (slot.height : Int) ≤ slot.y0)

/-- A host image as the slot's bytes: rows of HOST_PITCH copied at row pitch RP (R302). -/
def hostSlotBytes (q : QueueDecl) (p : PrepDesc) (b : Bytes) : Bytes :=
  let rows := imageRows q
  let bytes := q.ow * (if q.chw then 1 else q.c) * declElem q
  fit (slotSize q) ((List.range rows).flatMap (fun k => fit (rowPitch q) (fit bytes (slice b (p.hostPitch * k) bytes))))

/-! ### WORK_ITEM_COMPLETE -/

/-- A batch of a queue changed. -/
def modBatch (v : BatchQueue) (seq : Nat) (f : Batch → Batch) : BatchQueue :=
  { v with batches := v.batches.map (fun b => if b.seq = seq then f b else b) }

def modSlot (b : Batch) (k : Nat) (f : BatchSlot → BatchSlot) : Batch :=
  { b with slots := b.slots.zipIdx.map (fun e => if e.2 = k then f e.1 else e.1) }

/-- The batch and slot a work item fills, where the batch still stands. -/
def itemSlot (s : State) (w : WorkItem) : Option (Partition × BatchQueue × Batch × BatchSlot) :=
  match partOf s w.part.val with
  | none => none
  | some x =>
    match boundQueue x w.queue with
    | none => none
    | some v =>
      match v.batches.find? (fun b => b.seq == w.seq) with
      | none => none
      | some b =>
        match b.slots[w.slot]? with
        | none => none
        | some k => some (x, v, b, k)

/-- A slot is filled: its bytes are visible and its flags stand. -/
def fillSlot (s : State) (w : WorkItem) (x : Partition) (v : BatchQueue) (b : Batch) (bytes : Bytes)
    (flags : BitVec 8) : State :=
  let d := decodeDecl v.decl
  let x := unitPut x (slotPlace x d b.handle w.slot) bytes
  let v := modBatch v w.seq (fun b => modSlot b w.slot (fun k => { k with done := true, flags := flags }))
  setPart s w.part.val { x with batchQueues := tset x.batchQueues w.queue v }

/-- Every slot of a request that met an uncorrectable error becomes a padding slot; items not begun are
dropped (R503). -/
def padRequest (s : State) (n number : Nat) : State :=
  let t := { s with workItems := s.workItems.filter (fun w => !(w.part.val == n && w.number == number)) }
  modPart t n (fun x =>
    x.batchQueues.foldl (fun x e =>
      let d := decodeDecl e.2.decl
      e.2.batches.foldl (fun x b =>
        b.slots.zipIdx.foldl (fun x k =>
          if k.1.request = number && !b.complete then
            let x := unitPut x (slotPlace x d b.handle k.2) (padSlot d)
            match boundQueue x e.1 with
            | none => x
            | some v => { x with batchQueues := tset x.batchQueues e.1 (modBatch v b.seq (fun c =>
                modSlot c k.2 (fun q => { stream := 0xFFFF#16, flags := 0x02#8, request := q.request, own := q.own
                                          picture := q.picture, done := true }))) }
          else x) x) x) x)

/-- The bytes of a frame buffer that a crop reads, and whether they are in error. -/
def frameRanges (f : FrameInfo) : List (Nat × Nat) :=
  [(f.base, 256 + f.pitch * f.height), (f.base + f.chroma, f.pitch * ceilDiv f.height 2)]

def frameBad (x : Partition) (f : FrameInfo) : Bool := (frameRanges f).any (fun e => badRead x e.1 e.2)

/-- The bytes of the slot that a work item writes meet a half in error (R505). -/
def slotBad (x : Partition) (v : BatchQueue) (b : Batch) (k : Nat) : Bool :=
  badRead x (slotPlace x (decodeDecl v.decl) b.handle k) (slotSize (decodeDecl v.decl))

/-- The unit is free again. -/
def unitFree (s : State) (u : Nat) : State := setPrepUnit s u {}

/-- WORK_ITEM_COMPLETE for a crop: sampled, converted and normalised (R292 to R296). -/
def completeCrop (s : State) (w : WorkItem) (x : Partition) (v : BatchQueue) (b : Batch) (slot : BatchSlot) :
    State :=
  let q := decodeDecl v.decl
  let p := decodePrep w.request
  let f := frameInfo x p.src
  if bitOf slot.flags.toNat 4 then fillSlot s w x v b (padSlot q) slot.flags
  else
    let px := cropPixels x.region f q p slot
    let flat := px.flatten
    let flags := slot.flags ||| BitVec.ofNat 8 (packBits [(2, flag (flat.any (·.outside))), (3, flag (whollyOutside slot))])
    let t := fillSlot s w x v b (packSlot q (px.map (fun r => r.map (·.elems)))) flags
    { t with
      prepSat := satAdd t.prepSat ((flat.map (·.sat)).sum), prepUfl := satAdd t.prepUfl ((flat.map (·.ufl)).sum) }

/-- A work item ends: the slot's bytes are visible, or its request is padded; with the status to note. -/
def finishItem (s : State) (u : Nat) (w : WorkItem) (image : Option Bytes) : State × Status :=
  let s := unitFree (endReads s (fun r => r.reader == .hostSlot u)) u
  match itemSlot s w with
  | none => (s, stOk)
  | some (x, v, b, slot) =>
    let p := decodePrep w.request
    if slot.done then (s, stOk)
    else if slotBad x v b w.slot then
      (padRequest (dramUncorrectable s w.part.val
        [(slotPlace x (decodeDecl v.decl) b.handle w.slot, slotSize (decodeDecl v.decl))] 0xFFFFFFFF 0xFFFF)
        w.part.val w.number, stUncorrectable)
    else if p.host then
      match image with
      | some img => (fillSlot s w x v b (hostSlotBytes (decodeDecl v.decl) p img) slot.flags, stOk)
      | none =>
        (fillSlot (raiseHostTimeout s (some w.part.val) 2 p.boxes) w x v b (padSlot (decodeDecl v.decl))
          (slot.flags ||| 0x80#8), stOk)
    else if frameBad x (frameInfo x p.src) then
      (padRequest (dramUncorrectable s w.part.val (frameRanges (frameInfo x p.src)) 0xFFFFFFFF 0xFFFF) w.part.val w.number,
        stUncorrectable)
    else (completeCrop s w x v b slot, stOk)

end Sys2Proof.Machine
end

