-- ==== Sys2Proof/Machine/Motion.lean ====
section
/-! DEFINITION. Motion search: requests, their checks, the search of a block and its result (R268 to
R272). -/

namespace Sys2Proof.Machine

/-- A motion-search request (R268). -/
structure SearchDesc where
  cur : Word
  ref : Word
  block : Nat
  srx : Nat
  sry : Nat
  lambda : Nat
  count : Nat
  list : Nat
  out : Nat
deriving DecidableEq, Repr

def decodeSearch (b : Bytes) : SearchDesc where
  cur := BitVec.ofNat 32 (le b 0 4)
  ref := BitVec.ofNat 32 (le b 4 4)
  block := byteAt b 8
  srx := byteAt b 9
  sry := byteAt b 10
  lambda := byteAt b 11
  count := le b 12 2
  list := le b 16 8
  out := le b 24 8

/-- Side of a block in samples. -/
def blockSide (code : Nat) : Nat := 8 * 2 ^ code

/-- The checks of R269. -/
def searchFailure (x : Partition) (owner : BitVec 16) (b : Bytes) : Option Status :=
  let q := decodeSearch b
  let c := frameInfo x q.cur
  let r := frameInfo x q.ref
  let bad := fun a => decide (regionBytes x < a + 8 * q.count) || touchesAnyImage x a (8 * q.count)
    || touchesCtrl x a (8 * q.count)
  if 3 ≤ q.block || q.srx = 0 || 32 < q.srx || q.sry = 0 || 16 < q.sry || q.count = 0 || 4096 < q.count
      || !zeros b 14 2 || q.list % 8 ≠ 0 || q.out % 8 ≠ 0 || !zeros b 32 32 then some stBadArgument
  else if !holds x q.cur owner || !holds x q.ref owner then some stNotOwner
  else if c.width ≠ r.width || c.height ≠ r.height || c.pitch ≠ r.pitch then some stBadArgument
  else if bad q.list || bad q.out then some stNotPermitted
  else none

/-! ### Samples (R270) -/

/-- The two pictures of a search: their luma planes and size. -/
structure SearchPair where
  region : Store 8
  cur : Nat
  ref : Nat
  pitch : Nat
  w : Nat
  h : Nat

/-- A sample of the current picture. -/
def curSample (p : SearchPair) (x y : Nat) : Nat := (storeGet p.region (p.cur + y * p.pitch + x)).toNat

def clampTo (n : Nat) (v : Int) : Nat := (max 0 (min v ((n : Int) - 1))).toNat

/-- A whole reference sample at clamped coordinates. -/
def refSample (p : SearchPair) (x y : Int) : Int :=
  ((storeGet p.region (p.ref + clampTo p.h y * p.pitch + clampTo p.w x)).toNat : Int)

/-- The six-tap filter of ITU-T H.264, 8.4.2.2.2. -/
def sixTap (f : Int → Int) : Int := f (-2) - 5 * f (-1) + 20 * f 0 + 20 * f 1 - 5 * f 2 + f 3

def clip8 (v : Int) : Int := max 0 (min v 255)

/-- Half samples between whole ones: along a row, along a column, and in the middle of four. -/
def halfRow (p : SearchPair) (x y : Int) : Int := clip8 ((sixTap (fun k => refSample p (x + k) y) + 16) / 32)
def halfCol (p : SearchPair) (x y : Int) : Int := clip8 ((sixTap (fun k => refSample p x (y + k)) + 16) / 32)
def halfMid (p : SearchPair) (x y : Int) : Int :=
  clip8 ((sixTap (fun i => sixTap (fun k => refSample p (x + k) (y + i))) + 512) / 1024)

def mean2 (a b : Int) : Int := (a + b + 1) / 2

/-- The reference sample at a position in quarter samples. -/
def quarterSample (p : SearchPair) (qx qy : Int) : Int :=
  let x := qx / 4
  let y := qy / 4
  let g := refSample p x y
  let b := halfRow p x y
  let h := halfCol p x y
  let m := halfCol p (x + 1) y
  let s := halfRow p x (y + 1)
  match (qx % 4).toNat, (qy % 4).toNat with
  | 0, 0 => g
  | 0, 1 => mean2 g h
  | 0, 2 => h
  | 0, _ => mean2 (refSample p x (y + 1)) h
  | 1, 0 => mean2 g b
  | 1, 1 => mean2 b h
  | 1, 2 => mean2 h (halfMid p x y)
  | 1, _ => mean2 h s
  | 2, 0 => b
  | 2, 1 => mean2 b (halfMid p x y)
  | 2, 2 => halfMid p x y
  | 2, _ => mean2 (halfMid p x y) s
  | _, 0 => mean2 (refSample p (x + 1) y) b
  | _, 1 => mean2 b m
  | _, 2 => mean2 (halfMid p x y) m
  | _, _ => mean2 m s

/-! ### One block (R270, R271) -/

/-- The samples of a block inside the current picture. -/
def blockSamples (p : SearchPair) (side : Nat) (bx b_y : Int) : List (Nat × Nat) :=
  (List.range side).flatMap (fun (j : Nat) => (List.range side).filterMap (fun (i : Nat) =>
    let x := bx + i
    let y := b_y + j
    if 0 ≤ x ∧ x < p.w ∧ 0 ≤ y ∧ y < p.h then some (x.toNat, y.toNat) else none))

/-- The cost of a motion for the samples of a block. -/
def motionCost (p : SearchPair) (l : List (Nat × Nat)) (lambda : Nat) (px py mx my : Int) : Nat :=
  (l.map (fun c =>
    ((curSample p c.1 c.2 : Int) - quarterSample p (4 * (c.1 : Int) + mx) (4 * (c.2 : Int) + my)).natAbs)).sum
    + (lambda * ((mx - px).natAbs + (my - py).natAbs) + 8) / 16

/-- A motion in quarter samples with its cost. -/
structure Motion where
  x : Int
  y : Int
  cost : Nat
deriving DecidableEq, Repr

/-- The best of candidates in raster order beside one already held: a later one must cost less. -/
def bestOf (cost : Int → Int → Nat) (held : Motion) (l : List (Int × Int)) : Motion :=
  l.foldl (fun b c =>
    let k := cost c.1 c.2
    if k < b.cost then ⟨c.1, c.2, k⟩ else b) held

/-- Offsets −n to n. -/
def offsets (n : Nat) : List Int := (List.range (2 * n + 1)).map (fun (k : Nat) => (k : Int) - n)

/-- The raster of offsets, row before column. -/
def raster (nx ny : Nat) : List (Int × Int) := (offsets ny).flatMap (fun dy => (offsets nx).map (fun dx => (dx, dy)))

/-- The eight neighbours of a motion at a distance. -/
def neighbours (b : Motion) (d : Int) : List (Int × Int) :=
  ((raster 1 1).filter (fun o => o ≠ (0, 0))).map (fun o => (b.x + d * o.1, b.y + d * o.2))

/-- v / 4 rounded to nearest, a half away from zero, in quarter samples. -/
def wholeCentre (v : Int) : Int := 4 * (if 0 ≤ v then (v + 2) / 4 else -((-v + 2) / 4))

/-- The search of one block. -/
def searchBlock (p : SearchPair) (q : SearchDesc) (l : List (Nat × Nat)) (px py : Int) : Motion :=
  let cost := motionCost p l q.lambda px py
  let cx := wholeCentre px
  let cy := wholeCentre py
  let first : Int × Int := (cx - 4 * q.srx, cy - 4 * q.sry)
  let whole := (raster q.srx q.sry).map (fun o => (cx + 4 * o.1, cy + 4 * o.2))
  let best := bestOf cost ⟨first.1, first.2, cost first.1 first.2⟩ whole
  let best := bestOf cost best (neighbours best 2)
  bestOf cost best (neighbours best 1)

/-- A read of the reference for motion (mx, my) leaves the picture: a fractional position reads two samples
before and three behind. -/
def readsClamped (p : SearchPair) (l : List (Nat × Nat)) (mx my : Int) : Bool :=
  let ex := if mx % 4 = 0 then (0, 0) else ((2 : Int), (3 : Int))
  let ey := if my % 4 = 0 then (0, 0) else ((2 : Int), (3 : Int))
  l.any (fun c =>
    let x := (c.1 : Int) + mx / 4
    let y := (c.2 : Int) + my / 4
    decide (x - ex.1 < 0) || decide ((p.w : Int) ≤ x + ex.2) || decide (y - ey.1 < 0) || decide ((p.h : Int) ≤ y + ey.2))

/-- The result of one block: motion, stopped cost and flags (R271). -/
structure SearchResult where
  mvx : Int
  mvy : Int
  cost : Nat
  flags : Nat
deriving DecidableEq, Repr

/-- A block at (bx, b_y) with predicted motion (px, py). The flag of a clamped read is that of the chosen
motion (log entry 30). -/
def blockResult (p : SearchPair) (q : SearchDesc) (bx b_y px py : Int) : SearchResult :=
  let l := blockSamples p (blockSide q.block) bx b_y
  if l.isEmpty then ⟨0, 0, 0xFFFFFF, 4⟩
  else
    let m := searchBlock p q l px py
    ⟨m.x, m.y, min m.cost 0xFFFFFF, packBits [(0, flag (readsClamped p l m.x m.y)), (1, flag (decide (0xFFFFFF < m.cost)))]⟩

/-- The eight bytes of a result. -/
def resultBytes (r : SearchResult) : Bytes :=
  toLE 2 (unsignedOf 16 r.mvx) ++ toLE 2 (unsignedOf 16 r.mvy) ++ toLE 3 r.cost ++ toLE 1 r.flags

/-- The pictures a request names. -/
def searchPair (x : Partition) (cur ref : Word) : SearchPair :=
  let c := frameInfo x cur
  let r := frameInfo x ref
  { region := x.region, cur := c.base + 256, ref := r.base + 256, pitch := c.pitch, w := c.width, h := c.height }

/-- The bytes of the two pictures that a motion search reads. -/
def searchRanges (x : Partition) (cur ref : Word) : List (Nat × Nat) :=
  [cur, ref].map (fun h => ((frameInfo x h).base, 256 + (frameInfo x h).pitch * (frameInfo x h).height))

/-- A motion search meets bytes in error. -/
def searchBad (x : Partition) (cur ref : Word) : Bool :=
  !x.badHalves.isEmpty && (searchRanges x cur ref).any (fun e => badRead x e.1 e.2)

/-- The blocks of a request's list: X, Y, PMVX, PMVY. -/
def searchBlocks (x : Partition) (q : SearchDesc) : List (Int × Int × Int × Int) :=
  (List.range q.count).map (fun k =>
    let b := storeRead x.region (q.list + 8 * k) 8
    (signedOf 16 (le b 0 2), signedOf 16 (le b 2 2), signedOf 16 (le b 4 2), signedOf 16 (le b 6 2)))

/-- MOTION_SEARCH_REQUEST: a free engine takes a request; one that fails its checks completes at once. -/
def motionSearchRequest (s : State) (u n : Nat) (owner : BitVec 16) (req : Bytes) : State :=
  match partOf s n with
  | none => s
  | some x =>
    let b := fit 64 req
    if (motionOf s u).state ≠ 0 then s
    else match searchFailure x owner b with
      | some st => emit s (.requestDone n st)
      | none => setMotion s u
          { state := 1, remaining := BitVec.ofNat 13 (decodeSearch b).count, part := Fin.ofNat 8 n, owner := owner
            request := b }

def execMotionSearchRequest (unit : Fin 2) (part : Fin 8) (owner : BitVec 16) (request : Bytes) (s : State) :
    Host.Outcome State Fault Refusal :=
  finish s (motionSearchRequest s unit part owner request)

/-- A request of its own list completes: its results become visible. -/
def completeSearch (s : State) (u : Nat) : State :=
  let m := motionOf s u
  let t := setMotion s u {}
  match partOf s m.part.val with
  | none => t
  | some x =>
    let q := decodeSearch m.request
    if searchBad x q.cur q.ref || badRead x q.list (8 * q.count) || badRead x q.out (8 * q.count) then
      emit (dramUncorrectable t m.part.val
          (searchRanges x q.cur q.ref ++ [(q.list, 8 * q.count), (q.out, 8 * q.count)]) 0xFFFFFFFF 0xFFFF)
        (.requestDone m.part.val stUncorrectable)
    else
      let p := searchPair x q.cur q.ref
      let out := (searchBlocks x q).flatMap (fun b => resultBytes (blockResult p q b.1 b.2.1 b.2.2.1 b.2.2.2))
      emit (regionWrite t m.part.val q.out out) (.requestDone m.part.val stOk)

end Sys2Proof.Machine
end

