-- ==== Sys2Proof/Machine/Rings.lean ====
section
/-! DEFINITION. Output rings and the records in them (R322 to R329). -/

namespace Sys2Proof.Machine

/-- The 16-byte header of a record of n units (R322). -/
def recordHeader (s : State) (kind n stream pipe : Nat) : Bytes :=
  toLE 1 kind ++ toLE 1 n ++ [0, 0] ++ toLE 2 stream ++ toLE 2 pipe ++ toLE 8 s.time.toNat

/-- A record of n units: its header and its other bytes. -/
def recordOf (s : State) (kind n stream pipe : Nat) (body : Bytes) : Record :=
  { bytes := fit (64 * n) (recordHeader s kind n stream pipe ++ body), emitted := s.time.toNat }

/-- Units of a record. -/
def recordUnits (r : Record) : Nat := r.bytes.length / 64

/-- The PIPE field of a record. -/
def recordPipe (r : Record) : Nat := le r.bytes 6 2

/-- Units that a record of n units takes at place `pos` of a ring, its PAD included (R328). -/
def unitsAt (units pos n : Nat) : Nat := (if units < pos + n then units - pos else 0) + n

/-- Free space of a ring. -/
def ringFree (x : ORing) : Nat := x.units - countDiff x.produced x.consumed

/-- Place of the next unit. -/
def ringPos (x : ORing) : Nat := x.produced.toNat % x.units

/-- A PAD record of n units: only its first four bytes are defined (R324). -/
def padBytes (tag n : Nat) : Bytes := toLE 1 0 ++ toLE 3 n ++ fit 60 (Config.entropy tag 60)

/-- One record put into ring r, a PAD before it where it would pass the end, and the produced count written with
its interrupt (R328, R491). -/
def putRecord (s : State) (r : Nat) (b : Bytes) : State :=
  let x := oringOf s r
  let n := b.length / 64
  let pos := ringPos x
  let pad := if x.units < pos + n then x.units - pos else 0
  let t := if pad = 0 then s else drawn (hostWrite s x.fn (x.base + 64 * pos) (padBytes s.draws pad))
  let at' := (pos + pad) % x.units
  let t := hostWrite t x.fn (x.base + 64 * at') b
  let y := { x with produced := x.produced + BitVec.ofNat 32 (pad + n) }
  raiseVector (hostWrite (setOring t r y) x.fn x.status (toLE 8 y.produced.toNat)) x.fn 2

/-- A LOSS record (R324). -/
def lossRecord (s : State) (x : ORing) : Record :=
  recordOf s 0x05 1 0xFFFF 0xFFFF (toLE 4 x.lostRun ++ toLE 8 x.lostFirst)

/-- A record is discarded and counted (R329). -/
def discardRecord (s : State) (r : Nat) (rec : Record) : State :=
  let x := oringOf s r
  setOring s r { x with
    lost := satInc x.lost, lostRun := x.lostRun + 1
    lostFirst := if x.lostRun = 0 then rec.emitted else x.lostFirst }

/-- A record formed for ring r of partition n (R329). A ring that is not the
partition's takes none; one lost with its host discards and counts it (R496). -/
def writeRecord (s : State) (n r : Nat) (rec : Record) : State :=
  let x := oringOf s r
  if !x.valid || x.part.val ≠ n then s
  else if x.gone then setOring s r { x with lost := satInc x.lost }
  else
    let k := recordUnits rec
    let pos := ringPos x
    if x.block then
      if x.waiting.isEmpty && unitsAt x.units pos k ≤ ringFree x then putRecord s r rec.bytes
      else setOring s r { x with waiting := x.waiting ++ [rec] }
    else if x.lostRun = 0 then
      if unitsAt x.units pos k ≤ ringFree x then putRecord s r rec.bytes else discardRecord s r rec
    else if 1 + unitsAt x.units ((pos + 1) % x.units) k ≤ ringFree x then
      let t := putRecord s r (lossRecord s x).bytes
      let t := setOring t r { oringOf t r with lostRun := 0 }
      putRecord t r rec.bytes
    else discardRecord s r rec

/-- The oldest waiting record of a BLOCK ring is written where it fits (R329). -/
def writeWaiting (s : State) (r : Nat) : State :=
  let x := oringOf s r
  match x.waiting with
  | [] => s
  | rec :: rest =>
    if !x.valid || x.gone || ringFree x < unitsAt x.units (ringPos x) (recordUnits rec) then s
    else putRecord (setOring s r { x with waiting := rest }) r rec.bytes

/-- LAN_ORING_DOORBELL (R328, R331): a value beyond the produced count or behind the last is ignored and
counted; a write through a function of neither the owner nor the module is ignored. -/
def oringDoorbell (s : State) (fn r : Nat) (v : Word) : State :=
  let x := oringOf s r
  if !x.valid || !(fn = 0 || fn = x.part.val + 1) then s
  else if countDiff v x.consumed ≤ countDiff x.produced x.consumed then setOring s r { x with consumed := v }
  else setOring s r { x with badDoorbell := satInc x.badDoorbell }

def execLanOringDoorbell (fn : Fn) (ring : Fin 64) (value : Word) (s : State) :
    Host.Outcome State Fault Refusal :=
  finish s (oringDoorbell s fn ring value)

/-- A power of two from 2^a to 2^b. -/
def powerOfTwo (a b n : Nat) : Bool := (List.range (b + 1 - a)).any (fun k => n == 2 ^ (a + k))

/-- CMD_ORING_CREATE (R308, R327). -/
def cmdOringCreate (s : State) (slot : Nat) : State :=
  command s slot 0x0610 [(8, 2), (16, 20)] (fun d =>
    let r := byteAt d 8
    let n := descPart d
    let x := oringOf s r
    if 64 ≤ r || 2 ≤ byteAt d 9 || le d 16 8 % 64 ≠ 0 || !powerOfTwo 6 20 (le d 24 4) || le d 28 8 % 8 ≠ 0 then
      complete s slot stBadArgument []
    else if x.valid && x.part.val ≠ n then complete s slot stNotPermitted []
    else if x.valid then complete s slot stBadArgument []
    else complete (setOring s r
      { valid := true, part := Fin.ofNat 8 n, fn := slotFn s slot, block := bitOf (byteAt d 9) 0
        base := le d 16 8, units := le d 24 4, status := le d 28 8 }) slot stOk [])

def execCmdOringCreate (slot : Fin 10) (s : State) : Host.Outcome State Fault Refusal :=
  finish s (cmdOringCreate s slot)

/-- A job's description names ring r (R365). -/
def jobNamesRing (j : Job) (r : Nat) : Bool :=
  nonTerminal j && (j.header.answer || j.header.sequences) && j.header.answerRing == r

/-- CMD_ORING_DESTROY (R327). -/
def cmdOringDestroy (s : State) (slot : Nat) : State :=
  command s slot 0x0611 [(8, 1)] (fun d =>
    let r := byteAt d 8
    let n := descPart d
    let x := oringOf s r
    if 64 ≤ r || !x.valid then complete s slot stBadArgument []
    else if x.part.val ≠ n || s.pipes.any (fun e => e.2.valid && e.2.ring == r)
        || s.jobs.any (fun e => e.2.part.toNat == n && jobNamesRing e.2 r) then
      complete s slot stNotPermitted []
    else complete (setOring s r {}) slot stOk [])

def execCmdOringDestroy (slot : Fin 10) (s : State) : Host.Outcome State Fault Refusal :=
  finish s (cmdOringDestroy s slot)

end Sys2Proof.Machine
end

