-- ==== Sys2Proof/Machine/Skein.lean ====
section
/-! DEFINITION. The skein: Burava ports and flits, forming and dissolving, relays, experts, queues and
messages, the skein barrier, module loss and pace (R332 to R360). -/

namespace Sys2Proof.Machine

/-! ### Jobs and routes -/

/-- A job names a skein queue or a skein barrier (R344). -/
def skeinJob (j : Job) : Bool := nonTerminal j && (j.header.skeinQueues ≠ 0 || j.header.skeinBarriers ≠ 0)

/-- Numbers of the jobs that satisfy `p`. -/
def jobsWhere (s : State) (p : Job → Bool) : List Nat := (s.jobs.filter (fun e => p e.2)).map (·.1)

/-- The non-terminal jobs of partition n that name skein queue q. -/
def queueJobs (s : State) (n q : Nat) : List Nat :=
  jobsWhere s (fun j => nonTerminal j && j.part.toNat == n && bitOf j.header.skeinQueues.toNat q)

/-- The same for skein barrier b. -/
def barrierJobs (s : State) (n b : Nat) : List Nat :=
  jobsWhere s (fun j => nonTerminal j && j.part.toNat == n && bitOf j.header.skeinBarriers.toNat b)

def skeinFormed (s : State) : Bool := s.skein.state = 2
/-- This module is the manager of a formed skein. -/
def skeinManager (s : State) : Bool := skeinFormed s && s.skein.manager
def skeinLive (s : State) (m : Nat) : Bool := bitOf s.skein.live.toNat m
def ownIndex (s : State) : Nat := s.skein.index.toNat

/-- Route entry for module m (R343). -/
def routeOf (routes : BitVec 64) (m : Nat) : Nat := field routes.toNat (4 * m) 4
def routeValid (r : Nat) : Bool := bitOf r 3
def routeDateline (r : Nat) : Bool := bitOf r 2
def routePort (r : Nat) : Nat := r % 4

/-- A port carries a route of a formed skein (R360). -/
def portRouted (s : State) (p : Nat) : Bool :=
  skeinFormed s && (List.range 16).any (fun m =>
    let r := routeOf s.skein.routes m
    m ≠ ownIndex s && routeValid r && routePort r == p)

/-- The port carries the route to the module at its far end (R356). -/
def reachesNeighbour (s : State) (p : Nat) : Bool :=
  let m := (linkPortOf s p).neighbour.toNat
  let r := routeOf s.skein.routes m
  skeinFormed s && m ≠ ownIndex s && routeValid r && routePort r == p

/-- EV_LINK_DOWN (R406). -/
def raiseLinkDown (s : State) (port m cause : Nat) : State :=
  raiseEvent s 0x0501 none (eventData [(0, toLE 1 port), (1, toLE 1 m), (2, toLE 1 cause)])

/-! ### Flits leave a port (R333, R336 to R338, R343) -/

/-- Number of a VC and subclass. -/
def creditKey (vc sub : Nat) : Nat := 2 * vc + sub

/-- A flit of VC vc may be the next: it goes on with the message in progress on the VC, or begins one. -/
def txEligible (x : LinkPort) (vc : Nat) (e : TxFlit) : Bool :=
  e.flit.vc.toNat == vc && (match tfind x.current vc with
    | some i => i == e.input
    | none => e.flit.first)

/-- First flit of VC vc that may leave, while its hop credit is held. -/
def txOfVc (x : LinkPort) (vc : Nat) : Option Nat :=
  match x.tx.findIdx? (txEligible x vc) with
  | none => none
  | some i =>
    match x.tx[i]? with
    | none => none
    | some e => if 0 < tget x.credits (creditKey vc (flag e.flit.sub)) 0 then some i else none

/-- The next flit by the order of R336: VC 0, VC 1, then 2 and 3 in turn. -/
def nextTx (x : LinkPort) : Option Nat :=
  ([0, 1] ++ (if x.turn then [3, 2] else [2, 3])).findSome? (txOfVc x)

/-- The hop credit a leaving flit carries back: class and count. -/
def owedOf (x : LinkPort) : Nat × Nat :=
  match x.owed.find? (fun e => e.2 ≠ 0) with
  | none => (0, 0)
  | some e => (e.1, min 31 e.2)

/-- A flit numbered and put on the wire: it carries ACK and returned credits and stays for replay. -/
def wireFlit (s : State) (p : Nat) (f : Flit) : State :=
  let x := linkPortOf s p
  let o := owedOf x
  let f := { f with
    seq := x.nextSend, ack := x.expected - 1
    crCount := BitVec.ofNat 5 o.2, crSub := o.1 % 2 == 1, crVc := BitVec.ofNat 2 (o.1 / 2) }
  let x := { x with
    nextSend := x.nextSend + 1, replay := x.replay ++ [f]
    owed := tset x.owed o.1 (tget x.owed o.1 0 - o.2) }
  emit (setLinkPort s p x) (.flitOut p f)

/-- One flit leaves port p, if one may. -/
def sendOne (s : State) (p : Nat) : State :=
  let x := linkPortOf s p
  if x.state ≠ 2 || 64 ≤ x.replay.length then s
  else match nextTx x with
    | none => s
    | some i =>
      match x.tx[i]? with
      | none => s
      | some e =>
        let vc := e.flit.vc.toNat
        let key := creditKey vc (flag e.flit.sub)
        let x := { x with
          tx := x.tx.eraseIdx i
          credits := tset x.credits key (tget x.credits key 0 - 1)
          current := if e.flit.last then tdel x.current vc else tset x.current vc e.input
          turn := if vc = 2 then true else if vc = 3 then false else x.turn }
        let s := setLinkPort s p x
        let s := if e.input = 4 then s
          else
            let y := linkPortOf s e.input
            setLinkPort s e.input { y with owed := tset y.owed e.key (tget y.owed e.key 0 + 1) }
        wireFlit s p e.flit

/-- Flits leave port p while they may, with fuel. -/
def pump (p : Nat) : Nat → State → State
  | 0, s => s
  | n + 1, s => pump p n (sendOne s p)

def pumpPort (s : State) (p : Nat) : State := pump p (linkPortOf s p).tx.length s

/-- An idle flit (R333) carries hop credits back where no other flit did. -/
def idleFlit (s : State) : Flit :=
  { crcOk := true, fecOk := true, authOk := true, crCount := 0, crSub := false, crVc := 0, ack := 0, seq := 0
    kind := 0, first := false, last := false, sub := false, vc := 0, src := s.skein.index, dest := 0
    payload := [] }

def returnCredits (s : State) (p : Nat) : State :=
  let x := linkPortOf s p
  if x.state = 2 && (owedOf x).2 ≠ 0 && x.replay.length < 64 then wireFlit s p (idleFlit s) else s

/-- A message of `len` payload bytes, or a control message of one flit, enters the link toward dest
(R333, R343). The bytes on the wire are ciphertext (R335): a free value (log entry 20). -/
def enqueueMessage (s : State) (dest vc flits : Nat) : State :=
  let r := routeOf s.skein.routes dest
  if dest = ownIndex s || !routeValid r then s
  else
    let t := s.draws
    let f := fun k : Nat =>
      { crcOk := true, fecOk := true, authOk := true, crCount := 0, crSub := false, crVc := 0, ack := 0, seq := 0
        kind := 1, first := k == 0, last := k + 1 == flits, sub := routeDateline r, vc := BitVec.ofNat 2 vc
        src := s.skein.index, dest := BitVec.ofNat 4 dest
        payload := Config.entropy (t + k) 120 : Flit }
    let s := { s with draws := s.draws + flits }
    let x := linkPortOf s (routePort r)
    let s := setLinkPort s (routePort r) { x with
      tx := x.tx ++ (List.range flits).map (fun k => ⟨4, 0, f k⟩) }
    pumpPort s (routePort r)

/-- A control message: one flit on VC 0, or VC 1 for the skein barrier (R333, R336). -/
def sendControl (s : State) (what : String) (dest vc : Nat) (args : List Nat) (data : Bytes) : State :=
  enqueueMessage (emit s (.skControl what dest args data)) dest vc 1

/-! ### Standalone again (R344, R357) -/

/-- A semaphore of a skein barrier gives its waiting arrivals up: barrier use ends without release. -/
def dropBarriers (s : State) (p : SkBarrier → Bool) : State :=
  setSkein s { s.skein with barriers := s.skein.barriers.filter (fun e => !p e.2) }

/-- Routes, expert tables, queues and barriers are cleared; the module is standalone (R344). -/
def toStandalone (s : State) : State :=
  let s := { s with parts := s.parts.map (fun e => (e.1, { e.2 with
    experts := [], skQueues := [], outstanding := [] })) }
  setSkein s { s.skein with
    state := 0, manager := false, size := 0, index := 0, pace := false, live := 0, ceiling := 0xFFFF#16
    routes := 0, forming := none, relays := [], unanswered := [], reported := [], pools := [], barriers := [] }

/-- Jobs end with ST_ABORTED, cause 3 (R357, R381). -/
def endSkeinJobs (s : State) : State :=
  (jobsWhere s skeinJob).foldl (fun t j => endJobWith t j stAborted 3 0xFFFF 0xFFFF) s

/-- The relays toward a lost worker complete with ST_ABORTED (R345). -/
def abortRelays (s : State) (m : Nat) : State :=
  let gone := s.skein.relays.filter (fun r => r.member == m)
  let s := setSkein s { s.skein with relays := s.skein.relays.filter (fun r => r.member ≠ m) }
  gone.foldl (fun t r => complete t r.slot.val stAborted []) s

/-- What each member does about a lost module (R357). -/
def actOnLoss (s : State) (m : Nat) : State :=
  let s := { s with parts := s.parts.map (fun e => (e.1, { e.2 with
    outstanding := e.2.outstanding.filter (fun o => o.dest.toNat ≠ m) })) }
  let bit := 2 ^ (4 * m + 3)
  let routes := s.skein.routes.toNat
  let s := setSkein s { s.skein with
    routes := BitVec.ofNat 64 (if bitOf routes (4 * m + 3) then routes - bit else routes)
    live := s.skein.live &&& ~~~(BitVec.ofNat 16 (2 ^ m))
    pools := s.skein.pools.filter (fun q => q.dest.toNat ≠ m)
    ports := s.skein.ports.map (fun e => (e.1, { e.2 with
      tx := e.2.tx.filter (fun f => f.flit.src.toNat ≠ m && f.flit.dest.toNat ≠ m) })) }
  let s := dropBarriers s (fun b => bitOf b.members.toNat m)
  endSkeinJobs s

/-- Live members other than this module. -/
def otherMembers (s : State) : List Nat :=
  (List.range 16).filter (fun m => skeinLive s m && m ≠ ownIndex s)

/-- The manager declares worker m lost (R356, R357). -/
def loseWorker (s : State) (m cause : Nat) : State :=
  if !skeinManager s || m = 0 || !skeinLive s m then s
  else
    let s := setSkein s { s.skein with
      live := s.skein.live &&& ~~~(BitVec.ofNat 16 (2 ^ m)), unanswered := tdel s.skein.unanswered m
      reported := tdel s.skein.reported m }
    let s := raiseLinkDown s 0xFF m cause
    let s := (otherMembers s).foldl (fun t k => sendControl t "LOSS" k 0 [m] []) s
    actOnLoss (abortRelays s m) m

/-- A worker loses its manager (R357). -/
def loseManager (s : State) : State :=
  if !skeinFormed s || s.skein.manager then s
  else raiseLinkDown (toStandalone (endSkeinJobs s)) 0xFF 0 7

def execManagerLost (s : State) : Host.Outcome State Fault Refusal := finish s (loseManager s)

/-- LOSS_NOTICE (R357). -/
def lossNotice (s : State) (m : Nat) : State :=
  if !skeinFormed s || s.skein.manager || m = ownIndex s then s else actOnLoss s m

def execLossNotice (member : BitVec 4) (s : State) : Host.Outcome State Fault Refusal :=
  finish s (lossNotice s member.toNat)

/-! ### Ports (R338, R339) -/

/-- The cause codes of EV_LINK_DOWN (R406). -/
def causeCode : PortCause → Nat
  | .noFlit => 0
  | .replayLimit => 1
  | .fecAlignment => 2
  | .authentication => 3
  | .disabled => 4

/-- A port that was up goes down: buffers discarded, credits and link keys gone (R339, R423); a route
lost with it is a lost module (R356). -/
def portGoesDown (s : State) (p : Nat) (cause : PortCause) : State :=
  let x := linkPortOf s p
  if x.state ≠ 2 then s
  else
    let routed := reachesNeighbour s p
    let off := cause == .disabled
    let s := setLinkPort s p { x with
      state := if off then 0 else 3, enabled := x.enabled && !off
      replay := [], replays := 0, credits := [], owed := [], tx := [], current := [], nextSend := 0, expected := 0
      keyed := false, keys := [] }
    let s := setLife s { s.boot.life with portDown := tbump s.boot.life.portDown p }
    let s := raiseLinkDown s p 0xFF (causeCode cause)
    if !routed then s
    else if s.skein.manager then loseWorker s x.neighbour.toNat (causeCode cause)
    else if x.neighbour = 0 then loseManager s
    else s

def execPortDown (port : Fin 4) (cause : PortCause) (s : State) : Host.Outcome State Fault Refusal :=
  finish s (portGoesDown s port cause)

/-- PORT_UP (R337, R339): training is complete; the far buffer is empty, so every hop credit is held. -/
def portUp (s : State) (p : Nat) : State :=
  let x := linkPortOf s p
  if !x.enabled || x.state = 2 then s
  else setLinkPort s p { x with
    state := 2, replay := [], replays := 0, owed := [], tx := [], current := [], nextSend := 0, expected := 0
    credits := (List.range 8).map (fun k => (k, 32)) }

def execPortUp (port : Fin 4) (s : State) : Host.Outcome State Fault Refusal := finish s (portUp s port)

/-- CMD_SKEIN_PORT (R340). -/
def cmdSkeinPort (s : State) (slot : Nat) : State :=
  command s slot 0x0910 [(8, 2)] (fun d =>
    let p := byteAt d 8
    let on := bitOf (byteAt d 9) 0
    if 4 ≤ p || 2 ≤ byteAt d 9 then complete s slot stBadArgument []
    else if !on && portRouted s p then complete s slot stNotPermitted []
    else
      let x := linkPortOf s p
      let t := if on then (if x.enabled then s else setLinkPort s p { x with enabled := true, state := 1 })
        else if x.state = 2 then portGoesDown s p .disabled
        else setLinkPort s p { x with enabled := false, state := 0 }
      complete t slot stOk [])

def execCmdSkeinPort (slot : Fin 10) (s : State) : Host.Outcome State Fault Refusal :=
  finish s (cmdSkeinPort s slot)

/-- Replay entries up to the flit numbered `ack` are free (R338). -/
def ackReplay (x : LinkPort) (ack : BitVec 8) : LinkPort :=
  match x.replay.findIdx? (fun f => f.seq == ack) with
  | none => x
  | some i => { x with replay := x.replay.drop (i + 1), replays := 0 }

/-- Replay from the flit a NAK names (R338): counted, with EV_LINK_RETRY at most once per 2^28 ticks; the
eighth replay of one flit brings the port down (R339). -/
def replayFrom (s : State) (p : Nat) (seq : BitVec 8) : State :=
  let x := linkPortOf s p
  if x.state ≠ 2 then s
  else match x.replay.findIdx? (fun f => f.seq == seq) with
    | none => s
    | some i =>
      let left := x.replay.drop i
      let n := (if i = 0 then x.replays else 0) + 1
      let due := match x.lastEvent with
        | none => true
        | some t => decide (2 ^ 28 ≤ s.time.toNat - t)
      let x := { x with
        replay := left, replays := n, retry := satInc x.retry
        lastEvent := if due then some s.time.toNat else x.lastEvent }
      let s := setLinkPort s p x
      let s := setLife s { s.boot.life with portRetry := tbump s.boot.life.portRetry p }
      let s := if due then
          raiseEvent s 0x0502 none (eventData [(0, toLE 1 p), (4, toLE 4 x.retry.toNat)])
        else s
      if 8 ≤ n then portGoesDown s p .replayLimit
      else left.foldl (fun t f => emit t (.flitOut p f)) s

def execNak (port : Fin 4) (seq : BitVec 8) (s : State) : Host.Outcome State Fault Refusal :=
  finish s (replayFrom s port seq)

/-- A message flit taken in order: forwarded along the own route entry for DEST, or delivered, which
returns its hop credit at once (R337, R343). -/
def routeFlit (s : State) (p : Nat) (f : Flit) : State :=
  let key := creditKey f.vc.toNat (flag f.sub)
  let back := fun t : State =>
    let x := linkPortOf t p
    setLinkPort t p { x with owed := tset x.owed key (tget x.owed key 0 + 1) }
  let r := routeOf s.skein.routes f.dest.toNat
  if !skeinFormed s || f.dest = s.skein.index || !routeValid r then back s
  else
    let q := routePort r
    let y := linkPortOf s q
    pumpPort (setLinkPort s q { y with
      tx := y.tx ++ [⟨p, key, { f with sub := f.sub || routeDateline r }⟩] }) q

/-- FLIT (R333, R337, R338). -/
def flitArrives (s : State) (p : Nat) (f : Flit) : State :=
  let x := linkPortOf s p
  if x.state ≠ 2 then s
  else if !f.crcOk || !f.fecOk || f.seq ≠ x.expected then
    emit (setLinkPort s p { x with
      crc := if f.crcOk then x.crc else satInc x.crc
      fec := if f.fecOk then x.fec else satInc x.fec }) (.nakOut p x.expected)
  else
    let key := creditKey f.crVc.toNat (flag f.crSub)
    let x := { x with
      expected := x.expected + 1, credits := tset x.credits key (tget x.credits key 0 + f.crCount.toNat) }
    let s := setLinkPort s p (ackReplay x f.ack)
    if f.kind = 1 && f.last && !f.authOk then portGoesDown s p .authentication
    else
      let s := if f.kind = 1 then routeFlit s p f else s
      returnCredits (pumpPort s p) p

def execFlit (port : Fin 4) (f : Flit) (s : State) : Host.Outcome State Fault Refusal :=
  finish s (flitArrives s port f)

/-! ### Forming (R341, R342, R423) -/

/-- A formation ends: every admitted member, and this module, is standalone again; the command names the
member (R342). -/
def formationFails (s : State) (f : Formation) (m : Nat) : State :=
  let s := (List.range f.next).foldl (fun t k =>
    if k = 0 then t else sendControl t "DISSOLVE" k 0 [] []) s
  complete (toStandalone s) f.slot.val stNotPermitted (toLE 1 m)

/-- ADMIT goes to the next member. -/
def sendAdmit (s : State) (f : Formation) : State :=
  sendControl s "ADMIT" f.next 0 [f.next, f.members.length - 1, flag f.pace]
    (f.members.flatten ++ toLE 8 ((f.routes.getD f.next 0).toNat) ++ reportBytes s (zeroBytes 32))

/-- The table of a formation: identities and routes of its members (R341). -/
def tableEntries (b : Bytes) (n : Nat) : List (Bytes × BitVec 64) :=
  (List.range n).map (fun k => (slice b (64 * k) 32, BitVec.ofNat 64 (le b (64 * k + 32) 8)))

def tableSound (s : State) (b : Bytes) (n : Nat) : Bool :=
  let l := tableEntries b n
  (List.range n).all (fun k => zeros b (64 * k + 40) 24)
    && slice b 0 32 == fit 32 (identityKey s)
    && l.zipIdx.all (fun e => (List.range n).all (fun m => m == e.2 || routeValid (routeOf e.1.2 m)))

/-- CMD_SKEIN_FORM (R340 to R342, R427). -/
def cmdSkeinForm (s : State) (slot : Nat) (table : Option Bytes) : State :=
  command s slot 0x0901 [(8, 10)] (fun d =>
    let n := byteAt d 16
    if n < 2 || 16 < n || 2 ≤ byteAt d 17 || le d 8 8 % 64 ≠ 0 then complete s slot stBadArgument []
    else if s.skein.state ≠ 0 || (fit 32 s.sec.skeinId).all (· == 0) then complete s slot stNotPermitted []
    else withHost s slot (le d 8 8) table (fun t b =>
      if !tableSound t b n then complete t slot stBadArgument []
      else
        let l := tableEntries b n
        let f : Formation :=
          { slot := Fin.ofNat 10 slot, members := l.map (·.1), routes := l.map (·.2), next := 1
            pace := bitOf (byteAt d 17) 0 }
        let t := setSkein t { t.skein with
          state := 1, routes := f.routes.getD 0 0, forming := some f
          ports := t.skein.ports.map (fun e => (e.1, { e.2 with
            neighbour := BitVec.ofNat 4 (f.members.findIdx (fun k => k == e.2.peer)) })) }
        deferCompletion (sendAdmit t f) slot))

def execCmdSkeinForm (slot : Fin 10) (table : Option Bytes) (s : State) :
    Host.Outcome State Fault Refusal :=
  finish s (cmdSkeinForm s slot table)

/-- LINK_KEY_EXCHANGE (R423): the peer's signature is checked, and on a manager its place in the formation
table; the keys of the port pair follow. The port's own exchange bytes go out. -/
def linkKeyExchange (s : State) (p : Nat) (peer peerEph signature : Bytes) : State :=
  let x := linkPortOf s p
  if x.state ≠ 2 then s
  else
    let own := fit 32 (identityKey s)
    let lower := decide (leNat own.reverse < leNat (fit 32 peer).reverse)
    let both := if lower then own ++ fit 32 peer else fit 32 peer ++ own
    let listed := match s.skein.forming with
      | none => true
      | some f => f.members.contains (fit 32 peer)
    if !listed || !Config.ed25519Verify (fit 32 peer) (ascii "BURAVA-LINK" ++ both ++ peerEph) signature then
      match s.skein.forming with
      | some f => formationFails s f (match f.members.findIdx? (fun k => k == fit 32 peer) with
          | some i => i
          | none => f.next)
      | none => s
    else
      let eph := clamp (Config.entropy s.draws 32)
      let pub := fit 32 (Config.x25519Public eph)
      let salt := if lower then pub ++ peerEph else peerEph ++ pub
      let keys := Config.hkdfSha512 salt (Config.x25519 eph peerEph) (ascii "BURAVA") 64
      let place := match s.skein.forming with
        | none => x.neighbour
        | some f => BitVec.ofNat 4 (f.members.findIdx (fun k => k == fit 32 peer))
      emit (setLinkPort (drawn s) p { x with keyed := true, keys := keys, peer := fit 32 peer, neighbour := place })
        (.linkHello p pub (signed s (ascii "BURAVA-LINK" ++ both ++ pub)))

def execLinkKeyExchange (port : Fin 4) (peer peerEphemeral signature : Bytes) (s : State) :
    Host.Outcome State Fault Refusal :=
  finish s (linkKeyExchange s port peer peerEphemeral signature)

/-- ADMIT (R342, R423, R427): a standalone module that shares the binding and finds the manager's
attestation sound installs its routes and index and replies. -/
def takeIntoSkein (s : State) (a : AdmitInfo) : State :=
  let ok := s.skein.state = 0 && reportSound s a.report (a.members.getD 0 [])
  if !ok then emit s (.skControl "ADMIT_REPLY" 0 [a.index.toNat, 0] [])
  else
    let s := setSkein s { s.skein with
      state := 2, manager := false, size := a.size, index := a.index, pace := a.pace, routes := a.routes
      live := BitVec.ofNat 16 (2 ^ (a.size.toNat + 1) - 1), ceiling := 0xFFFF#16
      ports := s.skein.ports.map (fun e => (e.1, { e.2 with
        neighbour := BitVec.ofNat 4 (a.members.findIdx (fun k => k == e.2.peer)) })) }
    sendControl s "ADMIT_REPLY" 0 0 [a.index.toNat, 1] []

def execAdmitMessage (info : AdmitInfo) (s : State) : Host.Outcome State Fault Refusal :=
  finish s (takeIntoSkein s info)

/-- ADMIT_REPLY (R342). -/
def admitReply (s : State) (m : Nat) (accepted : Bool) : State :=
  match s.skein.forming with
  | none => s
  | some f =>
    if m ≠ f.next then s
    else if !accepted then formationFails s f m
    else
      let g := { f with next := f.next + 1 }
      if g.next < f.members.length then sendAdmit (setSkein s { s.skein with forming := some g }) g
      else
        let n := f.members.length
        let s := setSkein s { s.skein with
          state := 2, manager := true, size := BitVec.ofNat 4 (n - 1), index := 0, pace := f.pace
          live := BitVec.ofNat 16 (2 ^ n - 1), forming := none }
        complete s f.slot.val stOk []

def execAdmitReply (member : BitVec 4) (accepted : Bool) (s : State) : Host.Outcome State Fault Refusal :=
  finish s (admitReply s member.toNat accepted)

/-- FORMATION_TIMEOUT (R342). -/
def formationTimeout (s : State) : State :=
  match s.skein.forming with
  | none => s
  | some f => formationFails s f f.next

def execFormationTimeout (s : State) : Host.Outcome State Fault Refusal := finish s (formationTimeout s)

/-- CMD_SKEIN_DISSOLVE (R344). -/
def cmdSkeinDissolve (s : State) (slot : Nat) (memberJobs : Bool) : State :=
  command s slot 0x0902 [] (fun _ =>
    if !skeinManager s || memberJobs || !(jobsWhere s skeinJob).isEmpty then complete s slot stNotPermitted []
    else
      let t := (otherMembers s).foldl (fun t k => sendControl t "DISSOLVE" k 0 [] []) s
      complete (toStandalone t) slot stOk [])

def execCmdSkeinDissolve (slot : Fin 10) (memberJobs : Bool) (s : State) :
    Host.Outcome State Fault Refusal :=
  finish s (cmdSkeinDissolve s slot memberJobs)

/-- SKEIN_DISSOLVE_NOTICE (R344). -/
def dissolveNotice (s : State) : State := if skeinFormed s && !s.skein.manager then toStandalone s else s

def execSkeinDissolveNotice (s : State) : Host.Outcome State Fault Refusal := finish s (dissolveNotice s)

/-- CMD_SKEIN_EXCLUDE (R340, R356). -/
def cmdSkeinExclude (s : State) (slot : Nat) : State :=
  command s slot 0x0904 [(8, 1)] (fun d =>
    let m := byteAt d 8
    if m < 1 || 15 < m then complete s slot stBadArgument []
    else if !skeinManager s || !skeinLive s m then complete s slot stNotPermitted []
    else complete (loseWorker s m 6) slot stOk [])

def execCmdSkeinExclude (slot : Fin 10) (s : State) : Host.Outcome State Fault Refusal :=
  finish s (cmdSkeinExclude s slot)

/-! ### Relays (R345) -/

/-- CMD_SKEIN_RELAY. -/
def cmdSkeinRelay (s : State) (slot : Nat) (inner : Option Bytes) : State :=
  command s slot 0x0903 [(8, 1), (16, 16)] (fun d =>
    let m := byteAt d 8
    if m < 1 || 15 < m || le d 16 8 % 128 ≠ 0 || le d 24 8 % 32 ≠ 0 then complete s slot stBadArgument []
    else withHost s slot (le d 16 8) inner (fun t b =>
      if byteAt b 1 = 9 || !skeinManager t || !skeinLive t m then complete t slot stNotPermitted []
      else
        let t := setSkein t { t.skein with relays := t.skein.relays ++ [⟨Fin.ofNat 10 slot, m, le d 24 8⟩] }
        deferCompletion (sendControl t "RELAY" m 0 [] (fit 128 b)) slot))

def execCmdSkeinRelay (slot : Fin 10) (inner : Option Bytes) (s : State) :
    Host.Outcome State Fault Refusal :=
  finish s (cmdSkeinRelay s slot inner)

/-- RELAY_COMPLETION: the inner completion is written to CPL and the relay completes. -/
def relayCompletion (s : State) (m : Nat) (b : Bytes) : State :=
  match s.skein.relays.find? (fun r => r.member == m) with
  | none => s
  | some r =>
    let t := setSkein s { s.skein with relays := s.skein.relays.erase r }
    complete (hostWrite t (slotFn t r.slot.val) r.cpl (fit 32 b)) r.slot.val stOk []

def execRelayCompletion (member : BitVec 4) (completion : Bytes) (s : State) :
    Host.Outcome State Fault Refusal :=
  finish s (relayCompletion s member.toNat completion)

/-! ### Experts (R346, R352, R353) -/

/-- (a − b) mod 65,536. -/
def epochDiff (a b : Nat) : Nat := (65536 + a - b) % 65536

/-- An epoch is older than another (R352). -/
def epochOlder (a b : Nat) : Bool := decide (1 ≤ epochDiff b a) && decide (epochDiff b a ≤ 32767)

/-- CMD_SKEIN_PLACE. -/
def cmdSkeinPlace (s : State) (slot : Nat) : State :=
  command s slot 0x0920 [(8, 7)] (fun d =>
    let e := le d 8 2
    let n := descPart d
    match partOf s n with
    | none => complete s slot stNotPermitted []
    | some x =>
      let old := tget x.experts e {}
      let valid := bitOf (byteAt d 14) 0
      if 4096 ≤ e || 16 ≤ byteAt d 10 || 8 ≤ byteAt d 11 || 2 ≤ byteAt d 14
          || (valid && old.valid && !epochOlder old.epoch.toNat (le d 12 2)) then
        complete s slot stBadArgument []
      else if !skeinFormed s || !skeinLive s (byteAt d 10) then complete s slot stNotPermitted []
      else
        let v : Expert :=
          { home := BitVec.ofNat 4 (byteAt d 10), part := BitVec.ofNat 3 (byteAt d 11)
            epoch := BitVec.ofNat 16 (le d 12 2), valid := valid }
        complete (setPart s n { x with experts := tset x.experts e v }) slot stOk [])

def execCmdSkeinPlace (slot : Fin 10) (s : State) : Host.Outcome State Fault Refusal :=
  finish s (cmdSkeinPlace s slot)

/-- SKN_PART_OUT: outstanding messages under the present epochs, and under older ones (R353). -/
def outCurrent (x : Partition) : Nat :=
  x.outstanding.countP (fun o => o.epoch == (tget x.experts o.expert.toNat {}).epoch)
def outOld (x : Partition) : Nat := x.outstanding.length - outCurrent x

/-! ### Queues, credits and messages (R347 to R352) -/

/-- Slot bytes of a receive queue (R347). -/
def slotBytes (q : SkQueue) : Nat := 256 * 2 ^ q.slotClass

def queueOf (x : Partition) (q : Nat) : Option SkQueue := tfind x.skQueues q

def setQueue (s : State) (n q : Nat) (v : SkQueue) : State :=
  modPart s n (fun x => { x with skQueues := tset x.skQueues q v })

/-- Fields of CMD_SKEIN_QUEUE in range (R347). -/
def queueFields (d : Bytes) : Bool :=
  let recv := bitOf (byteAt d 9) 0
  let grants := (List.range 16).map (fun m => byteAt d (32 + m))
  decide (byteAt d 8 < 16) && decide (byteAt d 9 < 4)
    && (bitOf (byteAt d 9) 1 ||
      (decide (byteAt d 10 < 32) && decide (byteAt d 11 < 32) && decide (byteAt d 12 < 32)
        && decide (byteAt d 13 < 32)
        && (if recv then decide (byteAt d 14 ≤ 8) && byteAt d 15 == 0
            else byteAt d 14 == 0 && (byteAt d 15 == 2 || byteAt d 15 == 3) && grants.all (· == 0))
        && le d 16 8 % 256 == 0 && decide (1 ≤ le d 24 2) && decide (le d 24 2 ≤ 4096)
        && decide (grants.sum ≤ le d 24 2)))

/-- A queue record from the command. -/
def queueRecord (d : Bytes) : SkQueue :=
  { receive := bitOf (byteAt d 9) 0, sem := byteAt d 10, semSpire := byteAt d 11, freeSem := byteAt d 12
    freeSpire := byteAt d 13, slotClass := byteAt d 14, vc := byteAt d 15, base := le d 16 8, slots := le d 24 2
    grants := (List.range 16).map (fun m => byteAt d (32 + m)) }

/-- A credit pool is taken in: `none` where 1,024 are held (R347, R350). -/
def addPool (s : State) (p : CreditPool) : Option State :=
  let same := fun q : CreditPool =>
    q.part == p.part && q.dest == p.dest && q.dstPart == p.dstPart && q.queue == p.queue
  let rest := s.skein.pools.filter (fun q => !same q)
  if 1024 ≤ rest.length then none else some (setSkein s { s.skein with pools := rest ++ [p] })

/-- Grants of a receive queue go out, one to each granted module. -/
def sendGrants (s : State) (n q : Nat) (v : SkQueue) : State :=
  (v.grants.zipIdx.filter (fun e => e.1 ≠ 0 && e.2 ≠ ownIndex s)).foldl (fun t e =>
    sendControl t "GRANT" e.2 0 [n, q, v.slotClass, e.1] []) s

/-- The pool of a queue that grants slots to its own module. -/
def addOwnPool (s : State) (own : Bool) (p : CreditPool) : Option State := if own then addPool s p else some s

/-- CMD_SKEIN_QUEUE (R347). -/
def cmdSkeinQueue (s : State) (slot : Nat) : State :=
  command s slot 0x0921 [(8, 8), (16, 10), (32, 16)] (fun d =>
    let n := descPart d
    let q := byteAt d 8
    match partOf s n with
    | none => complete s slot stNotPermitted []
    | some x =>
      let unbind := bitOf (byteAt d 9) 1
      if !queueFields d || (queueOf x q).isSome ≠ unbind then complete s slot stBadArgument []
      else if unbind then
        if !(queueJobs s n q).isEmpty then complete s slot stNotPermitted []
        else complete (setPart s n { x with skQueues := tdel x.skQueues q }) slot stOk []
      else
        let v := queueRecord d
        let bytes := v.slots * (if v.receive then slotBytes v else 32)
        let granted := (v.grants.zipIdx.filter (fun e => e.1 ≠ 0)).map (·.2)
        if !skeinFormed s || !partOwnsSpire s n v.semSpire || !partOwnsSpire s n v.freeSpire
            || regionBytes x < v.base + bytes || touchesAnyImage x v.base bytes || touchesCtrl x v.base bytes
            || !granted.all (skeinLive s) then complete s slot stNotPermitted []
        else
          let own := ownIndex s
          let local' : CreditPool :=
            { part := Fin.ofNat 8 n, dest := s.skein.index, dstPart := BitVec.ofNat 3 n
              queue := BitVec.ofNat 4 q, slotBytes := slotBytes v, credits := v.grants.getD own 0 }
          match addOwnPool s (granted.contains own) local' with
          | none => complete s slot stNoBuffer []
          | some t =>
            let waits := granted.filter (· ≠ own)
            let t := sendGrants (setQueue t n q { v with awaiting := waits }) n q v
            if waits.isEmpty then complete t slot stOk [] else deferCompletion t slot)

def execCmdSkeinQueue (slot : Fin 10) (s : State) : Host.Outcome State Fault Refusal :=
  finish s (cmdSkeinQueue s slot)

/-- The binding command of a queue completes. -/
def completeQueue (s : State) (n q : Nat) (st : Status) : State :=
  completeWaiting s 0x0921 (fun d => descPart d == n && byteAt d 8 == q) st []

/-- CREDIT_GRANT_ACK (R347). -/
def creditGrantAck (s : State) (m n q : Nat) (accepted : Bool) : State :=
  match partOf s n with
  | none => s
  | some x =>
    match queueOf x q with
    | none => s
    | some v =>
      if !v.awaiting.contains m then s
      else if accepted then
        let left := v.awaiting.filter (· ≠ m)
        let t := setQueue s n q { v with awaiting := left }
        if left.isEmpty then completeQueue t n q stOk else t
      else
        let acked := (v.grants.zipIdx.filter (fun e =>
          e.1 ≠ 0 && e.2 ≠ ownIndex s && !v.awaiting.contains e.2)).map (·.2)
        let t := setPart s n { x with skQueues := tdel x.skQueues q }
        let t := setSkein t { t.skein with pools := t.skein.pools.filter (fun p =>
          !(p.dest == s.skein.index && p.dstPart.toNat == n && p.queue.toNat == q)) }
        let t := acked.foldl (fun t k => sendControl t "WITHDRAW" k 0 [n, q] []) t
        completeQueue t n q stNoBuffer

def execCreditGrantAck (member : BitVec 4) (part : Fin 8) (queue : Fin 16) (accepted : Bool) (s : State) :
    Host.Outcome State Fault Refusal :=
  finish s (creditGrantAck s member.toNat part queue accepted)

/-- CREDIT_GRANT (R347, R350). -/
def creditGrant (s : State) (p : CreditPool) : State :=
  if !skeinFormed s then s
  else match addPool s p with
    | some t => sendControl t "GRANT_ACK" p.dest.toNat 0 [p.dstPart.toNat, p.queue.toNat, 1] []
    | none => sendControl s "GRANT_ACK" p.dest.toNat 0 [p.dstPart.toNat, p.queue.toNat, 0] []

def execCreditGrant (part : Fin 8) (dest : BitVec 4) (dstPart : BitVec 3) (queue : BitVec 4)
    (slotClass credits : Nat) (s : State) : Host.Outcome State Fault Refusal :=
  finish s (creditGrant s ⟨part, dest, dstPart, queue, 256 * 2 ^ slotClass, credits⟩)

/-- A send-queue entry (R348). -/
structure SendEntry where
  addr : Nat
  length : Nat
  dest : Nat
  dstPart : Nat
  queue : Nat
  expert : Nat
  epoch : Nat
  tag : Nat
deriving DecidableEq, Repr

/-- The head entry of a send queue: `none` where it breaks the table of R348 or names an invalid expert. -/
def readEntry (x : Partition) (b : Bytes) : Option SendEntry :=
  let e := le b 12 2
  let ex := tget x.experts e {}
  let reply := byteAt b 14 == 1
  if le b 0 8 % 64 ≠ 0 || le b 8 4 = 0 || 4096 ≤ e || 2 ≤ byteAt b 14 || 16 ≤ byteAt b 15
      || (reply && (16 ≤ byteAt b 16 || 8 ≤ byteAt b 17)) || !zeros b 24 8 || (!reply && !ex.valid)
      || regionBytes x < le b 0 8 + le b 8 4 then none
  else some
    { addr := le b 0 8, length := le b 8 4
      dest := if reply then byteAt b 16 else ex.home.toNat
      dstPart := if reply then byteAt b 17 else ex.part.toNat
      queue := byteAt b 15, expert := e, epoch := if reply then le b 18 2 else ex.epoch.toNat, tag := le b 20 4 }

/-- The jobs that send through a queue end with a status (R348, R503). -/
def endSenders (s : State) (n q : Nat) (st : Status) : State :=
  ((queueJobs s n q).take 1).foldl (fun t j => jobError t j st) s

/-- The pool a message takes its credit from (R350). -/
def poolFor (s : State) (n : Nat) (e : SendEntry) : Option CreditPool :=
  s.skein.pools.find? (fun p => p.part.val == n && p.dest.toNat == e.dest && p.dstPart.toNat == e.dstPart
    && p.queue.toNat == e.queue)

/-- The head entry leaves the ring of the queue. -/
def advanceQueue (v : SkQueue) : SkQueue :=
  { v with next := (v.next + 1) % v.slots, taken := v.taken - 1 }

/-- Flits of a message with so many payload bytes (R333). -/
def messageFlits (len : Nat) : Nat := ceilDiv (64 + len + 16) 120

/-- The head entry of a send queue leaves as a message: its pool gives a credit, the entry is outstanding and its
flits wait for the link (R336, R348, R350). -/
def launchEntry (s : State) (n q : Nat) (x : Partition) (v : SkQueue) (e : SendEntry) (p : CreditPool) : State :=
  let m : SkMessage :=
    { srcModule := s.skein.index, srcPart := BitVec.ofNat 3 n, dstPart := BitVec.ofNat 3 e.dstPart
      queue := BitVec.ofNat 4 e.queue, srcQueue := BitVec.ofNat 4 q, expert := BitVec.ofNat 12 e.expert
      epoch := BitVec.ofNat 16 e.epoch, tag := BitVec.ofNat 32 e.tag
      payload := storeRead x.region e.addr e.length }
  let entry : SkOut := ⟨BitVec.ofNat 4 e.dest, BitVec.ofNat 3 e.dstPart, BitVec.ofNat 4 e.queue,
    BitVec.ofNat 12 e.expert, BitVec.ofNat 16 e.epoch⟩
  let y : Partition := { x with skQueues := tset x.skQueues q (advanceQueue v), outstanding := x.outstanding ++ [entry] }
  let pools := s.skein.pools.map (fun k => if k == p then { k with credits := k.credits - 1 } else k)
  enqueueMessage (emit (setSkein (setPart s n y) { s.skein with pools := pools }) (.skMessage e.dest m)) e.dest v.vc
    (messageFlits e.length)

/-- The slot of a sent entry is given back through the queue's free semaphore. -/
def freeEntry (s : State) (n q : Nat) (v : SkQueue) : State :=
  match releaseUnits s v.freeSpire v.freeSem 1 none with
  | some t => t
  | none => endSenders s n q stBadArgument

/-- The head entry is sent if its credit is there; `none` while it waits (R348, R350). -/
def sendHead (s : State) (n q : Nat) (x : Partition) (v : SkQueue) : Option State :=
  match readEntry x (storeRead x.region (v.base + 32 * v.next) 32) with
  | none => some (endSenders (setQueue s n q (advanceQueue v)) n q stBadArgument)
  | some e =>
    match poolFor s n e with
    | none => none
    | some p =>
      if p.slotBytes < e.length + 64 then some (endSenders (setQueue s n q (advanceQueue v)) n q stBadArgument)
      else if p.credits = 0 then none
      else if badRead x e.addr e.length then
        let t := setQueue s n q (advanceQueue v)
        let j := ((queueJobs s n q).map (jobId s)).headD 0xFFFFFFFF
        some (endSenders (dramUncorrectable t n [(e.addr, e.length)] j 0xFFFF) n q stUncorrectable)
      else
        some (freeEntry (launchEntry s n q x v e p) n q v)

/-- One entry of a send queue leaves, if one was taken and its credit lasts. -/
def sendNext (s : State) (n q : Nat) : State :=
  match partOf s n with
  | none => s
  | some x =>
    match queueOf x q with
    | none => s
    | some v => if v.receive || v.taken = 0 then s else (sendHead s n q x v).getD s

/-- Entries of a send queue leave while units are taken and credits last, with fuel. -/
def sendAll (n q : Nat) : Nat → State → State
  | 0, s => s
  | fuel + 1, s => sendAll n q fuel (sendNext s n q)

/-- SEND_ENTRY (R347, R348): the agent takes one unit of SEM and sends what it can. -/
def sendEntry (s : State) (n q : Nat) : State :=
  match partOf s n with
  | none => s
  | some x =>
    match queueOf x q with
    | none => s
    | some v =>
      let sem := semOf s v.semSpire v.sem
      if v.receive || sem.barrier || sem.value = 0 then s
      else
        let s := setSem s v.semSpire v.sem { sem with value := sem.value - 1 }
        sendAll n q (v.taken + 1) (setQueue s n q { v with taken := v.taken + 1 })

def execSendEntry (part : Fin 8) (queue : Fin 16) (s : State) : Host.Outcome State Fault Refusal :=
  finish s (sendEntry s part queue)

/-- A credit comes back to its pool: the message is no longer outstanding, and waiting entries go on
(R350, R353). -/
def creditReturn (s : State) (n dest dstPart q expert epoch : Nat) : State :=
  match partOf s n with
  | none => s
  | some x =>
    let o : SkOut := ⟨BitVec.ofNat 4 dest, BitVec.ofNat 3 dstPart, BitVec.ofNat 4 q, BitVec.ofNat 12 expert,
      BitVec.ofNat 16 epoch⟩
    if !x.outstanding.contains o then s
    else
      let t := setPart s n { x with outstanding := x.outstanding.erase o }
      let t := setSkein t { t.skein with pools := t.skein.pools.map (fun p =>
        if p.part.val == n && p.dest.toNat == dest && p.dstPart.toNat == dstPart && p.queue.toNat == q then
          { p with credits := p.credits + 1 } else p) }
      (List.range 16).foldl (fun t k =>
        match queueOf x k with
        | none => t
        | some v => sendAll n k v.taken t) t

def execCreditReturn (part : Fin 8) (dest : BitVec 4) (dstPart : BitVec 3) (queue : BitVec 4)
    (expert : BitVec 12) (epoch : BitVec 16) (s : State) : Host.Outcome State Fault Refusal :=
  finish s (creditReturn s part dest.toNat dstPart.toNat queue.toNat expert.toNat epoch.toNat)

/-- A credit of receive queue q of partition n goes back to its source (R349, R350). -/
def giveCredit (s : State) (n q srcModule srcPart expert epoch : Nat) : State :=
  if srcModule = ownIndex s then creditReturn s srcPart srcModule n q expert epoch
  else sendControl s "CREDIT" srcModule 0 [srcPart, ownIndex s, n, q, expert, epoch] []

/-- The verdict on a message (R352): accepted, or the counter of its discard. -/
inductive Verdict where
  | accepted | stale | early | idle
deriving DecidableEq, Repr

def judgeMessage (s : State) (n : Nat) (x : Partition) (m : SkMessage) : Verdict :=
  let e := tget x.experts m.expert.toNat {}
  let d := epochDiff e.epoch.toNat m.epoch.toNat
  if !e.valid then .early
  else if 1 ≤ d && d ≤ 32767 then .stale
  else if d ≠ 0 then .early
  else match queueOf x m.queue.toNat with
    | none => .idle
    | some v => if !v.receive || (queueJobs s n m.queue.toNat).isEmpty then .idle else .accepted

/-- The 64-byte header of a slot (R349). -/
def slotHeader (m : SkMessage) : Bytes :=
  toLE 1 m.srcModule.toNat ++ toLE 1 m.srcPart.toNat ++ toLE 2 m.expert.toNat ++ toLE 2 m.epoch.toNat
    ++ toLE 1 m.srcQueue.toNat ++ [0] ++ toLE 4 m.payload.length ++ toLE 4 m.tag.toNat ++ zeroBytes 48

/-- A discard takes no slot and its credit returns at once (R352). -/
def discardMessage (s : State) (n : Nat) (x : Partition) (m : SkMessage) (v : Verdict) : State :=
  let x := match v with
    | .stale => { x with staleCount := satInc x.staleCount }
    | .early => { x with earlyCount := satInc x.earlyCount }
    | _ => { x with idleCount := satInc x.idleCount }
  let s := setPart s n x
  let s := if v = .stale then
      (queueJobs s n m.queue.toNat).foldl (fun t j =>
        setJob t j { jobOf t j with stale := satInc (jobOf t j).stale }) s
    else s
  giveCredit s n m.queue.toNat m.srcModule.toNat m.srcPart.toNat m.expert.toNat m.epoch.toNat

/-- MESSAGE (R349, R352). -/
def messageArrives (s : State) (m : SkMessage) : State :=
  let n := m.dstPart.toNat
  match partOf s n with
  | none => s
  | some x =>
    match judgeMessage s n x m, queueOf x m.queue.toNat with
    | .accepted, some v =>
      if v.slots ≤ v.filled.length || slotBytes v < 64 + m.payload.length then s
      else
        let x := regionPut x (v.base + slotBytes v * v.next) (slotHeader m ++ m.payload)
        let t := setPart s n { x with skQueues := tset x.skQueues m.queue.toNat { v with
          next := (v.next + 1) % v.slots
          filled := v.filled ++ [(m.srcModule, m.srcPart, m.expert, m.epoch)] } }
        match releaseUnits t v.semSpire v.sem 1 none with
        | some t => t
        | none => endSenders t n m.queue.toNat stBadArgument
    | v, _ => discardMessage s n x m v

def execMessage (m : SkMessage) (s : State) : Host.Outcome State Fault Refusal := finish s (messageArrives s m)

/-- The oldest filled slot of a receive queue is free: its credit returns. -/
def freeSlot (s : State) (n q : Nat) (v : SkQueue) : State :=
  match v.filled with
  | [] => s
  | (m, p, e, ep) :: r =>
    giveCredit (setQueue s n q { v with filled := r }) n q m.toNat p.toNat e.toNat ep.toNat

/-- SLOT_FREE (R347, R349): the agent takes one unit of FREE_SEM. -/
def slotFree (s : State) (n q : Nat) : State :=
  match partOf s n with
  | none => s
  | some x =>
    match queueOf x q with
    | none => s
    | some v =>
      let sem := semOf s v.freeSpire v.freeSem
      if !v.receive || v.filled.isEmpty || sem.barrier || sem.value = 0 then s
      else freeSlot (setSem s v.freeSpire v.freeSem { sem with value := sem.value - 1 }) n q v

def execSlotFree (part : Fin 8) (queue : Fin 16) (s : State) : Host.Outcome State Fault Refusal :=
  finish s (slotFree s part queue)

/-- Every filled slot of a receive queue is freed, with fuel. -/
def freeAllSlots (n q : Nat) : Nat → State → State
  | 0, s => s
  | fuel + 1, s =>
    match partOf s n with
    | none => s
    | some x =>
      match queueOf x q with
      | none => s
      | some v => freeAllSlots n q fuel (freeSlot s n q v)

/-- The queues of a job that reaches its end are settled (R351): entries not begun are dropped, slots
freed. -/
def settleQueues (s : State) (j : Nat) : State :=
  let n := (jobOf s j).part.toNat
  (bitsSet 16 (jobOf s j).header.skeinQueues.toNat).foldl (fun t q =>
    match partOf t n with
    | none => t
    | some x =>
      match queueOf x q with
      | none => t
      | some v =>
        if v.receive then freeAllSlots n q v.filled.length t
        else
          let sem := semOf t v.semSpire v.sem
          let left := if sem.barrier then 0 else sem.value.toNat
          let t := if sem.barrier then t else setSem t v.semSpire v.sem { sem with value := 0 }
          setQueue t n q { v with next := (v.next + v.taken + left) % v.slots, taken := 0 }) s

/-! ### The skein barrier (R354) -/

/-- CMD_SKEIN_BARRIER. -/
def cmdSkeinBarrier (s : State) (slot : Nat) : State :=
  command s slot 0x0930 [(8, 9)] (fun d =>
    let b := byteAt d 8
    let n := descPart d
    let unbind := bitOf (byteAt d 16) 0
    let bound := tfind s.skein.barriers b
    if 16 ≤ b || 2 ≤ byteAt d 16 || !zeros d 11 1 then complete s slot stBadArgument []
    else if unbind then
      if bound.any (fun x => x.part.val == n) then
        complete (setSkein s { s.skein with barriers := tdel s.skein.barriers b }) slot stOk []
      else complete s slot stBadArgument []
    else if 32 ≤ byteAt d 9 || 32 ≤ byteAt d 10 || le d 12 2 = 0 || 288 < le d 12 2 || bound.isSome
        || !bitOf (le d 14 2) (ownIndex s) || !(bitsSet 16 (le d 14 2)).all (skeinLive s) then
      complete s slot stBadArgument []
    else if !skeinFormed s || !partOwnsSpire s n (byteAt d 10) then complete s slot stNotPermitted []
    else
      let v : SkBarrier :=
        { part := Fin.ofNat 8 n, sem := byteAt d 9, spire := byteAt d 10, need := le d 12 2
          members := BitVec.ofNat 16 (le d 14 2) }
      complete (setSkein s { s.skein with barriers := tset s.skein.barriers b v }) slot stOk [])

def execCmdSkeinBarrier (slot : Fin 10) (s : State) : Host.Outcome State Fault Refusal :=
  finish s (cmdSkeinBarrier s slot)

/-- A module releases its arrivals: VALUE 0, GEN on, and the arrays go through the wave gates. -/
def skeinRelease (s : State) (b : Nat) : State :=
  match tfind s.skein.barriers b with
  | none => s
  | some x =>
    let v := semOf s x.spire x.sem
    if !v.barrier then s
    else
      let t := closeBarrier s x.spire x.sem v (v.gen + 1)
      v.arrivals.foldl (fun t w => resumeWaiter t (semKey x.spire x.sem) w) t

def execSkeinRelease (barrier : Fin 16) (s : State) : Host.Outcome State Fault Refusal :=
  finish s (skeinRelease s barrier)

/-- ARRIVE at the manager: once every module of MODULES has arrived, RELEASE goes to each. -/
def arriveAt (s : State) (m b : Nat) : State :=
  match tfind s.skein.barriers b with
  | none => s
  | some x =>
    if !skeinManager s || !bitOf x.members.toNat m then s
    else
      let got := x.arrived ||| BitVec.ofNat 16 (2 ^ m)
      if got = x.members then
        let t := setSkein s { s.skein with barriers := tset s.skein.barriers b { x with arrived := 0 } }
        let t := ((bitsSet 16 x.members.toNat).filter (· ≠ ownIndex t)).foldl (fun t k =>
          sendControl t "RELEASE" k 1 [b] []) t
        if bitOf x.members.toNat (ownIndex t) then skeinRelease t b else t
      else setSkein s { s.skein with barriers := tset s.skein.barriers b { x with arrived := got } }

def execArrive (member : BitVec 4) (barrier : Fin 16) (s : State) : Host.Outcome State Fault Refusal :=
  finish s (arriveAt s member.toNat barrier)

/-- SKEIN_BARRIER (R197, R354): one local arrival; the one that reaches LOCAL sends ARRIVE. -/
def skeinBarrierSync (s : State) (p : Nat) : State :=
  onSync s p 5 (fun j x d => atSem s p j x d (fun spire n c =>
    match s.skein.barriers.find? (fun e =>
      e.2.part.val == (jobOf s j).part.toNat && e.2.spire == spire && e.2.sem == n) with
    | none => none
    | some (b, k) =>
      let v := semOf s spire n
      if (!v.barrier && v.value ≠ 0) || k.need ≠ c then none
      else
        let t := setSem (syncWait s p) spire n { v with
          barrier := true, need := c, value := v.value + 1, arrivals := v.arrivals ++ [.spindle p] }
        if (v.value + 1).toNat ≠ c then some t
        else if skeinManager t then some (arriveAt t (ownIndex t) b)
        else some (sendControl t "ARRIVE" 0 1 [ownIndex t, b] [])))

def execSkeinBarrier (p : Fin 256) (s : State) : Host.Outcome State Fault Refusal :=
  finish s (skeinBarrierSync s p)

/-! ### Heartbeats and pace (R356, R359) -/

/-- HEARTBEAT: the manager counts the heartbeats unanswered, declares lost a worker with three, and sends
the next. -/
def heartbeat (s : State) (answered : BitVec 16) : State :=
  if !skeinManager s then s
  else (otherMembers s).foldl (fun t m =>
    let n := if bitOf answered.toNat m then 0 else tget t.skein.unanswered m 0
    if 3 ≤ n then loseWorker t m 5
    else sendControl (setSkein t { t.skein with unanswered := tset t.skein.unanswered m (n + 1) })
      "HEARTBEAT" m 0 [] []) s

def execHeartbeat (answered : BitVec 16) (s : State) : Host.Outcome State Fault Refusal :=
  finish s (heartbeat s answered)

/-- HEARTBEAT_ARRIVAL: a worker answers. -/
def heartbeatArrival (s : State) : State :=
  if !skeinFormed s || s.skein.manager then s
  else sendControl s "HEARTBEAT_ANSWER" 0 0 [ownIndex s] []

def execHeartbeatArrival (s : State) : Host.Outcome State Fault Refusal := finish s (heartbeatArrival s)

/-- A running job holds its rate fixed (R359, R469): bit 3 of POWER asks for it. -/
def fixedRateJob (j : Job) : Bool := j.state = 2 && bitOf j.power.toNat 3

/-- Lowest step rate of the domes. -/
def lowestRate (s : State) : Nat :=
  (List.range 4).foldl (fun a d => min a (domeOf s d).rate.toNat) ((domeOf s 0).rate.toNat)

/-- E of this module: the lowest rate of its domes scaled by the issue fraction, or pinned (R359). -/
def ownRate (s : State) : Nat :=
  if s.jobs.any (fun e => fixedRateJob e.2) then lowestRate s
  else (List.range 4).foldl (fun a d =>
    min a ((domeOf s d).rate.toNat * (domeOf s d).fraction.toNat / 255)) 0xFFFF

/-- PACE_REPORT. -/
def paceReport (s : State) : State :=
  if !skeinFormed s || !s.skein.pace then s
  else
    let e := ownRate s
    let t := setSkein s { s.skein with own := BitVec.ofNat 16 e }
    if t.skein.manager then
      setSkein t { t.skein with reported := tset t.skein.reported 0 (BitVec.ofNat 16 e) }
    else sendControl t "PACE_REPORT" 0 0 [ownIndex t, e] []

def execPaceReport (s : State) : Host.Outcome State Fault Refusal := finish s (paceReport s)

/-- The issue of the domes is limited so that E does not exceed C (R359). -/
def limitPace (s : State) (c : BitVec 16) : State :=
  let s := setSkein s { s.skein with ceiling := c }
  if s.jobs.any (fun e => fixedRateJob e.2) then s
  else (List.range 4).foldl (fun t d =>
    let x := domeOf t d
    if x.rate.toNat * x.fraction.toNat / 255 ≤ c.toNat then t
    else setDome t d { x with fraction := BitVec.ofNat 8 (c.toNat * 255 / x.rate.toNat) }) s

/-- PACE_PUBLISH: C is the floor of 1.1 times the least E over the live members. -/
def pacePublish (s : State) (reports : List (BitVec 4 × BitVec 16)) : State :=
  if !skeinManager s || !s.skein.pace then s
  else
    let known := reports.foldl (fun t r => tset t r.1.toNat r.2) s.skein.reported
    let s := setSkein s { s.skein with reported := known }
    let live := known.filter (fun r => skeinLive s r.1)
    match live with
    | [] => s
    | e :: r =>
      let least := r.foldl (fun a b => min a b.2.toNat) e.2.toNat
      let c := min (least * 11 / 10) 0xFFFF
      let t := (otherMembers s).foldl (fun t k => sendControl t "PACE" k 0 [c] []) s
      limitPace t (BitVec.ofNat 16 c)

def execPacePublish (reports : List (BitVec 4 × BitVec 16)) (s : State) :
    Host.Outcome State Fault Refusal :=
  finish s (pacePublish s reports)

/-- PACE_CEILING. -/
def execPaceCeiling (ceiling : BitVec 16) (s : State) : Host.Outcome State Fault Refusal :=
  finish s (if skeinFormed s && s.skein.pace then limitPace s ceiling else s)

end Sys2Proof.Machine
end

