-- ==== Sys2Proof/Machine/PartEnd.lean ====
section
/-! DEFINITION. The end of a partition: what CMD_PART_DELETE does once its streams are idle and its pipelines
removed (R364). -/

namespace Sys2Proof.Machine

/-- A stream of partition n is open, a pipeline of it stands, or one of its jobs is non-terminal. -/
def partBusy (s : State) (n : Nat) : Bool :=
  s.streams.any (fun e => e.2.state ≠ 0 && e.2.part.val == n)
    || s.pipes.any (fun e => e.2.valid && e.2.part.val == n)
    || s.jobs.any (fun e => nonTerminal e.2 && e.2.part.toNat == n)

/-- Its rings are destroyed, its skein queues and barriers unbound, its descriptions and pools destroyed, its
keys destroyed, its function and mailbox disabled, its spires and granules free (R364, R420). -/
def removePart (s : State) (n : Nat) : State :=
  let s := { s with orings := s.orings.filter (fun e => !(e.2.valid && e.2.part.val == n)) }
  let s := dropBarriers s (fun b => b.part.val == n)
  let s := setSkein s { s.skein with pools := s.skein.pools.filter (fun c => c.part.val ≠ n) }
  let s := setSec s { s.sec with keys := tdel s.sec.keys n }
  let s := { s with
    parts := tdel s.parts n, mailboxes := tdel s.mailboxes n, running := tdel s.running n
    spires := s.spires.map (fun e =>
      (e.1, if e.2.owner.any (fun k => k.val == n) then { e.2 with owner := none } else e.2)) }
  endReads s (fun r => r.fn == n + 1)

/-- A CMD_PART_DELETE that waits for partition n finishes when nothing holds it back. -/
def tryFinishDelete (s : State) (n : Nat) : State :=
  if (waitingSlots s 0x0202 (fun d => descPart d == n)).isEmpty || partBusy s n then s
  else completeWaiting (removePart s n) 0x0202 (fun d => descPart d == n) stOk []

end Sys2Proof.Machine
end

