-- ==== Sys2Proof/Machine/Pipe.lean ====
section
/-! DEFINITION. Analytics pipelines: stages, pictures, batches and their jobs, results, tracks, records and
removal (R307 to R331). -/

namespace Sys2Proof.Machine

/-! ### Stages (R309, R310) -/

def stageAt (p : Pipe) (k : Nat) : Bytes := p.stages.getD k []
def stageKind (p : Pipe) (k : Nat) : Nat := byteAt (stageAt p k) 0
def stageInput (p : Pipe) (k : Nat) : Nat := byteAt (stageAt p k) 1

/-- The stages of a kind. -/
def stagesOf (p : Pipe) (kind : Nat) : List Nat := (List.range p.stages.length).filter (fun k => stageKind p k == kind)

def trackStage (p : Pipe) : Option Nat := (stagesOf p 3).head?
def emitStage (p : Pipe) : Option Nat := (stagesOf p 4).head?

/-- The NET stage that takes the batches of queue q: the first fed by a PREP with that queue. -/
def netOfQueue (p : Pipe) (q : Nat) : Option Nat :=
  (stagesOf p 2).find? (fun k =>
    stageKind p (stageInput p k) == 1 && byteAt (stageAt p (stageInput p k)) 4 == q)

/-- The NET stage whose detections stage k sees: itself or the nearest before it. -/
def netBefore (p : Pipe) : Nat → Nat → Option Nat
  | 0, _ => none
  | n + 1, k => if stageKind p k = 2 then some k else if k = 0 then none else netBefore p n (stageInput p k)

/-- The bytes of a stage named for its kind; the others are reserved. -/
def stageNamed (kind : Nat) : List (Nat × Nat) :=
  match kind with
  | 0 => [(0, 2), (4, 2)]
  | 1 => [(0, 2), (4, 7)]
  | 2 => [(0, 2), (4, 1), (6, 14)]
  | 3 => [(0, 2), (4, 10), (16, 8)]
  | _ => [(0, 2), (4, 1)]

/-- The fields of one stage lie in range. -/
def stageSound (x : Partition) (p : Pipe) (k : Nat) : Bool :=
  let b := stageAt p k
  let kind := stageKind p k
  let inp := stageInput p k
  decide (kind < 5) && (kind == 0) == (k == 0)
    && (List.range 32).all (fun i => (stageNamed kind).any (fun r => decide (r.1 ≤ i) && decide (i < r.1 + r.2)) || byteAt b i == 0)
    && (if kind = 0 then
          inp == 0xFF && decide (1 ≤ byteAt b 4) && decide (1 ≤ byteAt b 5) && decide (byteAt b 5 ≤ 4)
        else decide (inp < k))
    && (match kind with
        | 1 => decide (byteAt b 4 < 16) && decide (byteAt b 5 < 2) && decide (byteAt b 6 < 32)
            && decide (field (byteAt b 6) 0 3 < 4) && byteAt b 7 &&& 0xE3 == 0
            && stageKind p inp == (if byteAt b 5 = 0 then 0 else 2)
        | 2 => decide (byteAt b 4 < 8) && decide (1 ≤ le b 6 2) && decide (le b 6 2 ≤ 1024)
            && x.descs.any (fun e => e.offset == le b 8 8)
            && (match poolOf x (byteAt b 4) with | none => false | some v => decide (65536 ≤ bobbinBytes v))
        | 3 => stageKind p inp == 2 && decide (1 ≤ byteAt b 5) && decide (byteAt b 6 < 8) && decide (1 ≤ byteAt b 7)
            && decide (1 ≤ le b 8 2) && decide (le b 8 2 ≤ 1024) && decide (byteAt b 10 < 3)
            && decide (1 ≤ byteAt b 11) && decide (byteAt b 11 ≤ 32) && decide (1 ≤ byteAt b 12) && decide (byteAt b 12 ≤ 16)
            && (poolOf x (byteAt b 6)).isSome && decide (2 ≤ byteAt (stageAt p 0) 5)
            && (byteAt b 4 == 0xFF || (stageKind p (byteAt b 4) == 2
                && stageKind p (stageInput p (byteAt b 4)) == 1 && byteAt (stageAt p (stageInput p (byteAt b 4))) 5 == 1
                && stageInput p (stageInput p (byteAt b 4)) == inp))
        | 4 => decide (byteAt b 4 < 16)
        | _ => true)

/-- The stage table describes a pipeline (R310). -/
def stagesSound (x : Partition) (p : Pipe) : Bool :=
  (List.range p.stages.length).all (stageSound x p) && decide ((stagesOf p 3).length ≤ 1)
    && decide ((stagesOf p 4).length ≤ 1)

/-! ### Pictures (R311, R312) -/

def modPipe (s : State) (i : Nat) (f : Pipe → Pipe) : State := setPipe s i (f (pipeOf s i))

/-- Picture a of pipeline i changed. -/
def modPicture (s : State) (i a : Nat) (f : PipePicture → PipePicture) : State :=
  modPipe s i (fun p => { p with pictures := p.pictures.modify a f })

/-- The first status other than ST_OK is noted for a picture (R323). -/
def noteStatus (st : Status) (q : PipePicture) : PipePicture := if q.status = stOk then { q with status := st } else q

def enterStage (k : Nat) (q : PipePicture) : PipePicture := { q with entered := q.entered ++ [k] }
def leaveStage (k : Nat) (q : PipePicture) : PipePicture := { q with left := q.left ++ [k] }

/-- A picture leaves the pipeline, its frame buffer with it. -/
def releasePicture (s : State) (i a : Nat) : State :=
  match (pipeOf s i).pictures[a]? with
  | none => s
  | some q =>
    let t := (releaseBobbin s (pipeOf s i).part.val q.handle (ownerPipe i)).1
    modPipe t i (fun p => { p with pictures := p.pictures.eraseIdx a })

def countDropped (s : State) (i : Nat) : State := modPipe s i (fun p => { p with dropped := satInc p.dropped })

/-- A delivered picture that pipeline i holds reaches FRAME: taken, or released and, above HOLD, counted. -/
def takePicture (s : State) (i : Nat) (q : PipePicture) : State :=
  let p := pipeOf s i
  let seen := tget p.seen q.stream 0
  let s := modPipe s i (fun p => { p with seen := tset p.seen q.stream (seen + 1) })
  let drop := (releaseBobbin s p.part.val q.handle (ownerPipe i)).1
  if seen % byteAt (stageAt p 0) 4 ≠ 0 then drop
  else if byteAt (stageAt p 0) 5 ≤ p.pictures.countP (fun e => e.stream == q.stream) then countDropped drop i
  else modPipe s i (fun p => { p with pictures := p.pictures ++ [leaveStage 0 (enterStage 0 q)] })

/-- Picture a may enter stage k: its input has let it go, and every earlier picture of its stream has left k. -/
def mayEnter (p : Pipe) (a k : Nat) : Bool :=
  match p.pictures[a]? with
  | none => false
  | some q => !q.entered.contains k && q.left.contains (stageInput p k)
      && (p.pictures.take a).all (fun e => e.stream ≠ q.stream || e.left.contains k)

/-- Detections of a picture at a NET stage. -/
def detectionsAt (q : PipePicture) (k : Nat) : List Detection := tget q.detections k []

/-! ### PREP (R313) -/

/-- The request a PREP stage submits for a picture with so many boxes. -/
def stageRequest (p : Pipe) (k : Nat) (q : PipePicture) (boxes : Nat) : Bytes :=
  let b := stageAt p k
  let crop := byteAt b 5 = 1
  fit 64 (toLE 4 q.handle.toNat ++ [0, BitVec.ofNat 8 (byteAt b 7 + packBits [(0, flag p.live), (1, flag crop)])]
    ++ slice b 6 1 ++ slice b 8 3 ++ toLE 2 boxes ++ slice b 4 1)

/-- A picture enters a PREP stage. -/
def enterPrep (s : State) (i a k : Nat) (q : PipePicture) : State :=
  let p := pipeOf s i
  let b := stageAt p k
  match (partOf s p.part.val).bind (fun x => boundQueue x (byteAt b 4)) with
  | none => countDropped (releasePicture s i a) i
  | some _ =>
    let crop := byteAt b 5 = 1
    let dets := detectionsAt q (stageInput p k)
    if crop && dets.isEmpty then modPicture s i a (enterStage k)
    else
      let boxes := dets.map (fun d => (d.x0, d.y0, d.x1, d.y1))
      let count := if crop then boxes.length else 0
      let r := submitRequest s i (stageRequest p k q count) true (if crop then some boxes else none)
      if r.2 ≠ stOk then modPicture r.1 i a (fun q => enterStage k (noteStatus r.2 q))
      else modPicture r.1 i a (fun q => { enterStage k q with
        requests := q.requests ++ [(k, s.orders)], awaiting := tset q.awaiting k (max 1 count) })

/-- A PREP stage has given every box of the picture its slot. -/
def prepLeft (s : State) (p : Pipe) (k : Nat) (q : PipePicture) : Bool :=
  match (partOf s p.part.val).bind (fun x => boundQueue x (byteAt (stageAt p k) 4)) with
  | none => true
  | some v => !v.waiting.any (fun r => r.own && q.requests.contains (k, r.number))

/-! ### Records (R322, R323, R326) -/

def i32 (v : Int) : Bytes := toLE 4 (unsignedOf 32 v)
def boxBytes (d : Detection) : Bytes := i32 d.x0 ++ i32 d.y0 ++ i32 d.x1 ++ i32 d.y1

/-- PICTURE and TIME of a record, and ARRIVAL behind them. -/
def pictureTime (q : PipePicture) : Bytes := toLE 4 q.number ++ toLE 8 q.time.toNat
def pictureFields (q : PipePicture) : Bytes := pictureTime q ++ toLE 8 q.arrival.toNat

def detectionBody (q : PipePicture) (d : Detection) : Bytes :=
  pictureFields q ++ boxBytes d ++ toLE 4 d.score.toNat ++ toLE 2 d.cls.toNat
    ++ toLE 1 (packBits [(0, flag d.clipped), (1, flag d.outside)])

def trackBody (q : PipePicture) (t : Track) (matched new : Bool) : Bytes :=
  pictureFields q ++ toLE 4 t.id.toNat ++ boxBytes t.box ++ toLE 4 t.box.score.toNat ++ toLE 2 t.box.cls.toNat
    ++ toLE 1 (packBits [(0, flag matched), (1, flag new), (2, flag ((matched || new) && t.box.clipped))])
    ++ toLE 1 (satOf 8 t.misses)

def trackEndBody (q : PipePicture) (t : Track) (reason : Nat) : Bytes :=
  pictureFields q ++ toLE 4 t.id.toNat ++ toLE 4 t.steps ++ toLE 1 reason

def stepReport (q : PipePicture) (dets : Nat) : Bytes :=
  pictureTime q ++ toLE 2 (satOf 16 dets) ++ toLE 2 (satOf 16 q.overflow) ++ toLE 2 q.matched ++ toLE 2 q.joined
    ++ toLE 2 q.leaves ++ toLE 2 q.deferred ++ toLE 2 q.discarded ++ toLE 2 q.status.toNat

/-- Records of one kind, a unit each, on the pipeline's ring. -/
def writeBodies (s : State) (i kind stream : Nat) (l : List Bytes) : State :=
  let p := pipeOf s i
  l.foldl (fun t b => writeRecord t p.part.val p.ring (recordOf t kind 1 stream i b)) s

/-- Record kinds that EMIT asks for. -/
def emits (p : Pipe) (bit : Nat) : Bool :=
  match emitStage p with
  | none => false
  | some k => bitOf (byteAt (stageAt p k) 4) bit

/-- The records of a picture. -/
def emitPicture (s : State) (i k : Nat) (q : PipePicture) : State :=
  let p := pipeOf s i
  let dets := match netBefore p 8 k with | none => [] | some j => detectionsAt q j
  let s := if emits p 0 then writeBodies s i 1 q.stream (dets.map (detectionBody q)) else s
  let s := if emits p 1 then writeBodies s i 2 q.stream q.trackRecords else s
  let s := if emits p 2 then writeBodies s i 3 q.stream q.endRecords else s
  if emits p 3 then writeBodies s i 4 q.stream [stepReport q dets.length] else s

/-- No record of the pipeline waits on its ring, of one stream or of any. -/
def ringClear (s : State) (i : Nat) (stream : Option Nat) : Bool :=
  !(oringOf s (pipeOf s i).ring).waiting.any (fun r =>
    recordPipe r == i && (match stream with | none => true | some k => le r.bytes 4 2 == k))

/-! ### Tracks: the table (R317, R320) -/

/-- Tracks of a stream in a pipeline, in ascending TRACK_ID, with their table entries. -/
def tracksOf (s : State) (i stream : Nat) : List (Nat × Track) :=
  (s.tracks.filter (fun e => e.2.pipe == i && e.2.stream == stream)).mergeSort (fun a b => a.2.id.toNat ≤ b.2.id.toNat)

/-- A track leaves: its entry and its bobbin are released at once. -/
def dropTrack (s : State) (n : Nat) (e : Nat × Track) : State :=
  let t := (releaseBobbin s n e.2.handle (ownerTrack e.1)).1
  { t with tracks := tdel t.tracks e.1 }

/-- Every track of a stream ends with a reason; the records carry the last picture the pipeline took. -/
def endTracks (s : State) (i stream reason : Nat) : State :=
  let p := pipeOf s i
  let l := tracksOf s i stream
  let q := ((p.pictures.filter (fun e => e.stream == stream)).getLast?).getD { stream := stream }
  let s := l.foldl (fun t e => dropTrack t p.part.val e) s
  if emits p 2 then writeBodies s i 3 stream (l.map (fun e => trackEndBody q e.2 reason)) else s

/-! ### Moves of a pipeline -/

/-- A track step of the pipeline is in progress for a stream. -/
def stepRuns (p : Pipe) (stream : Nat) : Bool :=
  match trackStage p with
  | none => false
  | some k => p.pictures.any (fun q => q.stream == stream && q.entered.contains k && !q.left.contains k)

/-- A picture whose track step could begin: its detections and embeddings have arrived (R318). -/
def stepReady (p : Pipe) (a k : Nat) : Bool :=
  let assoc := byteAt (stageAt p k) 4
  mayEnter p a k && (assoc == 0xFF || (match p.pictures[a]? with | none => false | some q => q.left.contains assoc))

/-- A picture passes or leaves stage k, where it can. -/
def stageMove (s : State) (i a k : Nat) (q : PipePicture) : Option State :=
  let p := pipeOf s i
  let kind := stageKind p k
  if q.left.contains k || kind = 0 || kind = 3 then none
  else if q.entered.contains k then
    let ready := match kind with
      | 1 => prepLeft s p k q
      | 2 => tget q.awaiting (stageInput p k) 0 == 0
      | _ => ringClear s i (some q.stream)
    if ready then some (modPicture s i a (leaveStage k)) else none
  else if !mayEnter p a k then none
  else match kind with
    | 1 => if p.removing && !p.flush then none else some (enterPrep s i a k q)
    | 2 => some (modPicture s i a (enterStage k))
    | _ =>
      if (List.range p.stages.length).all (fun j => j == k || q.left.contains j) then
        some (modPicture (emitPicture s i k q) i a (enterStage k))
      else none

/-- A picture through every stage is counted; it goes unless TRACK keeps it as the previous one. -/
def pictureMove (s : State) (i a : Nat) (q : PipePicture) : Option State :=
  let p := pipeOf s i
  if !(List.range p.stages.length).all (fun k => q.left.contains k) then none
  else if !q.done then
    some (modPicture (modPipe s i (fun p => { p with done := p.done + 1 })) i a (fun q => { q with done := true }))
  else
    let newest := (p.pictures.drop (a + 1)).all (fun e =>
      e.stream ≠ q.stream || !(match trackStage p with | none => false | some k => e.left.contains k))
    if (trackStage p).isSome && newest then none else some (releasePicture s i a)

/-- A stream that left has no unfinished picture any more: its tracks end, and a detach completes (R311). -/
def leaveMove (s : State) (i : Nat) (e : Nat × Nat) : Option State :=
  let p := pipeOf s i
  if p.pictures.any (fun q => q.stream == e.1 && !q.done) then none
  else
    let s := endTracks s i e.1 e.2
    let p := pipeOf s i
    let mine := p.pictures.filter (fun q => q.stream == e.1)
    let s := mine.foldl (fun t q => (releaseBobbin t p.part.val q.handle (ownerPipe i)).1) s
    let s := modPipe s i (fun p => { p with
      pictures := p.pictures.filter (fun q => q.stream ≠ e.1), deferred := p.deferred.filter (fun d => d.stream ≠ e.1)
      leaving := p.leaving.erase e, seen := tdel p.seen e.1 })
    some (if e.2 = 3 then
      completeWaiting s 0x0605 (fun d => le d 8 2 == i && le d 10 2 == e.1) stOk []
    else s)

/-- Jobs of a pipeline that are not terminal. -/
def pipeJobs (s : State) (i : Nat) : List Nat :=
  (s.jobs.filter (fun e => nonTerminal e.2 && e.2.origin.any (fun o => o.pipe == i))).map (·.1)

/-- The queues of partition n bound to a pipeline. -/
def pipeQueues (s : State) (i : Nat) : List Nat :=
  match partOf s (pipeOf s i).part.val with
  | none => []
  | some x => (x.batchQueues.filter (fun e => e.2.pipe == i)).map (·.1)

/-- A removal goes on (R330): once no picture is on its way and no job of the pipeline is left, every track
ends with reason 2; once the records are written the holds go, the queues are unbound and the command
completes. -/
def removeMove (s : State) (i : Nat) : Option State :=
  let p := pipeOf s i
  let streams := ((s.tracks.filter (fun e => e.2.pipe == i)).map (·.2.stream)).eraseDups
  let ready := match trackStage p with
    | none => false
    | some k => (List.range p.pictures.length).any (fun a => stepReady p a k)
  if !p.removing || !(pipeJobs s i).isEmpty || ready || p.pictures.any (fun q => stepRuns p q.stream) then none
  else if p.flush && p.pictures.any (fun q => !q.done) then none
  else if !streams.isEmpty then some (streams.foldl (fun t k => endTracks t i k 2) s)
  else if !ringClear s i none then none
  else
    let n := p.part.val
    let t := releaseHolds s n (ownerPipe i)
    let t := modPart t n (fun x => { x with batchQueues := x.batchQueues.filter (fun e => e.2.pipe ≠ i) })
    let t := { t with workItems := t.workItems.filter (fun w => w.pipe ≠ i) }
    let t := p.leaving.foldl (fun t e =>
      completeWaiting t 0x0605 (fun d => le d 8 2 == i && le d 10 2 == e.1) stOk []) (setPipe t i {})
    some (tryFinishDelete (completeWaiting t 0x0602 (fun d => le d 8 2 == i) stOk []) n)

/-- One move that pipeline i can make. -/
def pipeMove (s : State) (i : Nat) : Option State :=
  let p := pipeOf s i
  let stages := List.range p.stages.length
  let pics := p.pictures.zipIdx
  (pics.findSome? (fun e => stages.findSome? (fun k => stageMove s i e.2 k e.1))).or
    ((pics.findSome? (fun e => pictureMove s i e.2 e.1)).or
      ((p.leaving.findSome? (leaveMove s i)).or (removeMove s i)))

/-- Moves until none is left, with fuel. -/
def settleMoves (i : Nat) : Nat → State → State
  | 0, s => s
  | n + 1, s =>
    match pipeMove s i with
    | none => s
    | some t => settleMoves i n t

/-- A pipeline goes on as far as it can. -/
def settlePipe (s : State) (i : Nat) : State :=
  let p := pipeOf s i
  if p.valid then settleMoves i (p.pictures.length * (2 * p.stages.length + 2) + p.leaving.length + 3) s else s

/-! ### Results (R315, R316) -/

def clampInt (v lo hi : Int) : Int := max lo (min v hi)

/-- A detection entry of a slot mapped to its picture; `none` where nothing is left of it. -/
def mapDetection (slot : BatchSlot) (b : Bytes) : Option Detection :=
  let u0 := boxCoord b 0
  let v0 := boxCoord b 1
  let u1 := boxCoord b 2
  let v1 := boxCoord b 3
  let cu := fun u => clampInt u (16 * slot.cx) (16 * (slot.cx + slot.cw))
  let cv := fun v => clampInt v (16 * slot.cy) (16 * (slot.cy + slot.ch))
  let mx := fun u => slot.x0 + (cu u - 16 * slot.cx) * slot.bw / (16 * slot.cw)
  let my := fun v => slot.y0 + (cv v - 16 * slot.cy) * slot.bh / (16 * slot.ch)
  let kx := fun v => clampInt v 0 (16 * slot.width)
  let ky := fun v => clampInt v 0 (16 * slot.height)
  let same := cu u0 == u0 && cu u1 == u1 && cv v0 == v0 && cv v1 == v1
    && kx (mx u0) == mx u0 && kx (mx u1) == mx u1 && ky (my v0) == my v0 && ky (my v1) == my v1
  let d : Detection :=
    { x0 := kx (mx u0), y0 := ky (my v0), x1 := kx (mx u1), y1 := ky (my v1), score := BitVec.ofNat 32 (le b 16 4)
      cls := BitVec.ofNat 16 (le b 20 2), clipped := !same, outside := bitOf slot.flags.toNat 2 }
  if d.x1 ≤ d.x0 || d.y1 ≤ d.y0 then none else some d

/-- The detections of slot k of a result bobbin, and the overflow. -/
def slotResult (x : Partition) (h : Word) (net : Bytes) (slot : BatchSlot) (k : Nat) : List Detection × Nat :=
  let r := bobbinRange x h
  if r.2 < 64 + 8 * k + 8 then ([], 1)
  else
    let dir := storeRead x.region (r.1 + 64 + 8 * k) 8
    let count := le dir 0 4
    let off := le dir 4 4
    let m := min count (le net 6 2)
    let min' := fp32 (BitVec.ofNat 32 (le net 16 4))
    (List.range m).foldl (fun acc e =>
      if r.2 < off + 32 * e + 32 then (acc.1, acc.2 + 1)
      else
        let b := storeRead x.region (r.1 + off + 32 * e) 32
        let score := fp32 (BitVec.ofNat 32 (le b 16 4))
        if isNaN score || isNaN min' || numLt score min' then acc
        else match mapDetection slot b with
          | none => (acc.1, acc.2 + 1)
          | some d => (acc.1 ++ [d], acc.2)) ([], count - m)

/-- The result bytes that Lantern reads are in error (R503). -/
def resultBad (x : Partition) (h : Word) : Bool :=
  !x.badHalves.isEmpty && badRead x (bobbinRange x h).1 (bobbinRange x h).2

/-- A slot's answer reaches its picture: detections, or the status noted. An unflushed removal lets a picture
without valid results go (R330). -/
def passSlot (s : State) (i net : Nat) (b : Batch) (st : Status) (k : Nat) (slot : BatchSlot) : State :=
  let p := pipeOf s i
  match p.pictures.findIdx? (fun q => q.requests.any (fun r => r.2 == slot.request)) with
  | none => s
  | some a =>
    if st ≠ stOk && p.removing && !p.flush then releasePicture s i a
    else
      let prep := stageInput p net
      let res := match partOf s p.part.val, b.result with
        | some x, some h =>
          if st ≠ stOk || bitOf slot.flags.toNat 1 then ([], 0) else slotResult x h (stageAt p net) slot k
        | _, _ => ([], 0)
      modPicture s i a (fun q =>
        let q := if st = stOk then q else noteStatus st q
        { q with
          awaiting := tset q.awaiting prep (tget q.awaiting prep 0 - 1)
          detections := tset q.detections net (detectionsAt q net ++ res.1), overflow := q.overflow + res.2 })

/-- A batch whose job ended passes on, and lets its bobbins go. -/
def passBatch (s : State) (n q : Nat) (v : BatchQueue) (b : Batch) (st : Status) : State :=
  let i := v.pipe
  let p := pipeOf s i
  let bad := match partOf s n, b.result with
    | some x, some h => st = stOk && resultBad x h
    | _, _ => false
  let s := match b.result with
    | some h => if bad then dramUncorrectable s n (match partOf s n with | none => [] | some x => [bobbinRange x h]) 0xFFFFFFFF 0xFFFF else s
    | none => s
  let st := if bad then stUncorrectable else st
  let s := match netOfQueue p q with
    | none => s
    | some net => b.slots.zipIdx.foldl (fun t e => if e.1.own then passSlot t i net b st e.2 e.1 else t) s
  let s := (releaseBobbin s n b.handle (ownerPipe i)).1
  let s := match b.result with | none => s | some h => (releaseBobbin s n h (ownerPipe i)).1
  setBatchQueue s n q { v with batches := v.batches.filter (fun c => c.seq ≠ b.seq), passNext := v.passNext + 1 }

/-- Results pass on in SEQ order (R314), with fuel of the batches' number. -/
def passBatches (n q : Nat) : Nat → State → State
  | 0, s => s
  | fuel + 1, s =>
    match (partOf s n).bind (fun x => boundQueue x q) with
    | none => s
    | some v =>
      match v.batches.find? (fun b => b.seq == v.passNext) with
      | none => s
      | some b =>
        match b.ended with
        | none => s
        | some st => passBatches n q fuel (passBatch s n q v b st)

/-! ### Batches and their jobs (R298, R314) -/

/-- Batch header and slot entries. -/
def batchHeader (q : QueueDecl) (b : Batch) : Bytes :=
  let pad : BatchSlot := { flags := 0x02#8 }
  let all := b.slots ++ List.replicate (q.slots - b.slots.length) pad
  let valid := all.countP (fun k => bitOf k.flags.toNat 0)
  let first := (all.getD 0 pad).time
  fit 64 (toLE 4 b.seq ++ toLE 2 valid ++ toLE 2 q.slots ++ toLE 8 first.toNat) ++
    all.flatMap (fun k => toLE 2 k.stream.toNat ++ toLE 2 k.box.toNat ++ toLE 4 k.picture.toNat ++ toLE 1 k.flags.toNat
      ++ [0] ++ toLE 2 k.cx ++ toLE 2 k.cy ++ toLE 2 k.cw ++ toLE 2 k.ch ++ zeroBytes 6 ++ toLE 8 k.time.toNat)

/-- The start a NET stage asks for. -/
def stageStart (n i k q : Nat) (net : Bytes) (b : Batch) (result : Word) : StartReq :=
  { part := n, desc := le net 8 8, save := 0, client := 255, kinds := [2, 2, 0, 0, 0, 0, 0, 0]
    args := [b.handle.toNat, result.toNat, 0, 0, 0, 0, 0, 0], sharer := some (ownerPipe i)
    origin := some { pipe := i, stage := k, queue := q, batch := b.handle, result := result, seq := b.seq } }

/-- The job of a complete batch is started; false where the batch waits. -/
def startBatch (s : State) (n q : Nat) (v : BatchQueue) (b : Batch) : State × Bool :=
  let put := fun t (f : Batch → Batch) =>
    modPart t n (fun x => match boundQueue x q with
      | none => x
      | some v => { x with batchQueues := tset x.batchQueues q (modBatch v b.seq f) })
  let p := pipeOf s v.pipe
  match netOfQueue p q with
  | none => (put s (fun b => { b with ended := some stOk }), true)
  | some k =>
    let net := stageAt p k
    let r := match b.result with
      | some h => (s, some h)
      | none => acquireBobbin s n (byteAt net 4) (ownerPipe v.pipe)
    match r.2 with
    | none => (r.1, false)
    | some h =>
      let t := startJob r.1 (stageStart n v.pipe k q net b h)
      if t.2.1 = stOk then (put t.1 (fun b => { b with result := some h, started := true }), true)
      else if t.2.1 = stNoBuffer then (put r.1 (fun b => { b with result := some h }), false)
      else (put t.1 (fun b => { b with result := some h, ended := some t.2.1 }), true)

/-- The oldest complete batch whose job has not started. -/
def batchToStart (v : BatchQueue) : Option Batch := v.batches.find? (fun b => b.complete && !b.started && b.ended.isNone)

/-- Jobs of complete batches start in order until one waits, with fuel. -/
def startBatches (n q : Nat) : Nat → State → State
  | 0, s => s
  | fuel + 1, s =>
    match (partOf s n).bind (fun x => boundQueue x q) with
    | none => s
    | some v =>
      match batchToStart v with
      | none => s
      | some b =>
        let r := startBatch s n q v b
        if r.2 then startBatches n q fuel r.1 else r.1

/-- A queue's batches and its pipeline go on. -/
def runBatches (s : State) (n q : Nat) : State :=
  match (partOf s n).bind (fun x => boundQueue x q) with
  | none => s
  | some v =>
    let m := v.batches.length + 1
    settlePipe (passBatches n q m (startBatches n q m s)) v.pipe

/-- BATCH_COMPLETE (R299): the oldest open or closed batch of a queue that is not complete has all its slots;
its header is written. -/
def batchComplete (s : State) (n q : Nat) : State :=
  match partOf s n with
  | none => s
  | some x =>
    match boundQueue x q with
    | none => s
    | some v =>
      match v.batches.find? (fun b => !b.complete) with
      | none => s
      | some b =>
        if !b.closed || !b.slots.all (·.done) then s
        else
          let d := decodeDecl v.decl
          let x := unitPut x (bobbinRange x b.handle).1 (fit (headerSize d) (batchHeader d b))
          let v := modBatch v b.seq (fun b => { b with complete := true, since := s.time.toNat })
          runBatches (setPart s n { x with batchQueues := tset x.batchQueues q v }) n q

def execBatchComplete (part : Fin 8) (queue : Fin 16) (s : State) : Host.Outcome State Fault Refusal :=
  finish s (batchComplete s part queue)

/-- A LIVE batch waits past its limit. -/
def batchLate (s : State) (v : BatchQueue) (b : Batch) : Bool :=
  b.live && decide (b.since + (decodeDecl v.decl).waitLimit < s.time.toNat)

/-- RESULT_BOBBIN_RETRY (R314). -/
def resultBobbinRetry (s : State) (i k : Nat) : State :=
  let p := pipeOf s i
  let n := p.part.val
  let q := byteAt (stageAt p (stageInput p k)) 4
  if !p.valid || netOfQueue p q ≠ some k then s
  else match (partOf s n).bind (fun x => boundQueue x q) with
    | none => s
    | some v =>
      match batchToStart v with
      | none => s
      | some b =>
        if batchLate s v b then
          runBatches (setBatchQueue s n q (modBatch v b.seq (fun b => { b with ended := some stNoBuffer }))) n q
        else runBatches s n q

def execResultBobbinRetry (pipe : Fin 256) (stage : Fin 8) (s : State) : Host.Outcome State Fault Refusal :=
  finish s (resultBobbinRetry s pipe stage)

/-- The job of a batch ended (R314): its status is its batch's. -/
def stageJobEnded (s : State) (n : Nat) (o : JobOrigin) (st : Status) : State :=
  match (partOf s n).bind (fun x => boundQueue x o.queue) with
  | none => settlePipe s o.pipe
  | some v =>
    if v.pipe ≠ o.pipe then s
    else runBatches (setBatchQueue s n o.queue (modBatch v o.seq (fun b => { b with ended := some st }))) n o.queue

/-- WORK_ITEM_COMPLETE: a status other than ST_OK is noted for the picture (R503). -/
def workItemComplete (s : State) (u : Nat) (image : Option Bytes) : State :=
  match (prepUnitOf s u).item with
  | none => s
  | some w =>
    let r := finishItem s u w image
    if r.2 = stOk then r.1
    else modPipe r.1 w.pipe (fun p => { p with
      pictures := p.pictures.map (fun q => if q.requests.any (fun e => e.2 == w.number) then noteStatus r.2 q else q) })

def execWorkItemComplete (unit : Fin 4) (image : Option Bytes) (s : State) : Host.Outcome State Fault Refusal :=
  finish s (workItemComplete s unit image)

/-- LIVE_REQUEST_DROP (R300): the first waiting request of a queue, LIVE and past WAIT_LIMIT, is dropped; its
picture expects no answer for the boxes without a slot. -/
def liveRequestDrop (s : State) (n q : Nat) : State :=
  match (partOf s n).bind (fun x => boundQueue x q) with
  | none => s
  | some v =>
    match v.waiting with
    | [] => s
    | r :: rest =>
      if !(decodePrep r.bytes).live || s.time.toNat ≤ r.since + (decodeDecl v.decl).waitLimit then s
      else
        let t := setBatchQueue s n q { v with waiting := rest }
        let t := modPipe t r.pipe (fun p => { p with
          pictures := p.pictures.map (fun e =>
            match e.requests.find? (fun k => k.2 == r.number) with
            | none => e
            | some k => noteStatus stNoBuffer { e with
                awaiting := tset e.awaiting k.1 (tget e.awaiting k.1 0 - (r.boxes.length - r.assigned)) }) })
        settlePipe (runQueue t n q) r.pipe

def execLiveRequestDrop (part : Fin 8) (queue : Fin 16) (s : State) : Host.Outcome State Fault Refusal :=
  finish s (liveRequestDrop s part queue)

/-- BATCH_OPEN_RETRY (R300): the waiting requests of a queue are tried again. -/
def execBatchOpenRetry (part : Fin 8) (queue : Fin 16) (s : State) : Host.Outcome State Fault Refusal :=
  let t := runQueue s part queue
  finish s (match (partOf s part).bind (fun x => boundQueue x queue) with
    | none => t
    | some v => settlePipe t v.pipe)

end Sys2Proof.Machine
end

