-- ==== Sys2Proof/Machine/Track.lean ====
section
/-! DEFINITION. Tracks: steps, matching, leaves and joins, and the pipeline commands (R308 to R321, R330). -/

namespace Sys2Proof.Machine

/-! ### Geometry (R318) -/

/-- Area of a box given by its corners; nothing where it is empty. -/
def boxArea (x0 y0 x1 y1 : Int) : Nat := (max 0 (x1 - x0) * max 0 (y1 - y0)).toNat

def interArea (a b : Detection) : Nat := boxArea (max a.x0 b.x0) (max a.y0 b.y0) (min a.x1 b.x1) (min a.y1 b.y1)
def unionArea (a b : Detection) : Nat :=
  boxArea a.x0 a.y0 a.x1 a.y1 + boxArea b.x0 b.y0 b.x1 b.y1 - interArea a b

/-- The overlap of two boxes reaches GATE. -/
def gated (gate : Nat) (a b : Detection) : Bool := decide (gate * unionArea a b ≤ 256 * interArea a b)

/-- A quotient of natural numbers rounded once to FP32: 64 bits of it and whether any are lost. -/
def roundRatio (a b : Nat) : Word :=
  if b = 0 then 0x7FC00000#32
  else
    let m := a * 2 ^ 64 / b
    BitVec.ofNat 32 (roundFp32 (.fin false (2 * m + flag (a * 2 ^ 64 % b ≠ 0)) (-65))).bits

def iouOf (a b : Detection) : Word := roundRatio (interArea a b) (unionArea a b)

/-- A BF16 element as FP32. -/
def bf16Word (x : BitVec 16) : Word := BitVec.ofNat 32 (x.toNat * 65536)

/-- The embedding product: products summed in element order, each operation rounded (R318). -/
def embeddingProduct (a b : List (BitVec 16)) : Word :=
  let l := List.zipWith (fun x y => BitVec.ofNat 32 (fpMul (bf16Word x) (bf16Word y)).bits) a b
  match l with
  | [] => 0
  | p :: r => r.foldl (fun acc x => BitVec.ofNat 32 (fpAdd acc x).bits) p

/-- FREE VALUE. The embedding of detection d at a step: where the association network's result holds it is
the job description's matter, which spec/ does not lay out (log entry 31). -/
def freeEmbedding (tag d : Nat) : List (BitVec 16) :=
  (List.range (16 + Config.freeNat tag % 241)).map (fun e => Config.freeBits 16 (tag + 1) (256 * d + e))

/-! ### Matching (R319) -/

/-- An eligible pair: track place, detection place, score. -/
structure Candidate where
  track : Nat
  det : Nat
  score : FpVal
deriving DecidableEq, Repr

def candidates (gate : Nat) (assoc : Bool) (least : FpVal) (preds : List Detection) (dets : List Detection) :
    List Candidate :=
  preds.zipIdx.flatMap (fun p => dets.zipIdx.filterMap (fun d =>
    let sc := fp32 (if assoc then embeddingProduct p.1.embedding d.1.embedding else iouOf p.1 d.1)
    if gated gate p.1 d.1 && !isNaN sc && !isNaN least && !numLt sc least then some ⟨p.2, d.2, sc⟩ else none))

/-- The pair of greatest score, the first among equals. -/
def greatest : List Candidate → Option Candidate
  | [] => none
  | c :: r => some (r.foldl (fun b e => if numLt b.score e.score then e else b) c)

/-- Greedy matching, with fuel of the tracks' number. -/
def greedy : Nat → List Candidate → List (Nat × Nat)
  | 0, _ => []
  | n + 1, l =>
    match greatest l with
    | none => []
    | some c => (c.track, c.det) :: greedy n (l.filter (fun e => e.track ≠ c.track && e.det ≠ c.det))

/-! ### A step (R318 to R320) -/

/-- A track's box moved by its motion. -/
def predicted (t : Track) (mv : Int × Int) : Detection :=
  { t.box with
    x0 := t.box.x0 + 4 * mv.1, y0 := t.box.y0 + 4 * mv.2, x1 := t.box.x1 + 4 * mv.1, y1 := t.box.y1 + 4 * mv.2 }

/-- A track after matching. -/
def updated (t : Track) (pred : Detection) (mv : Int × Int) (d : Option Detection) : Track :=
  match d with
  | some d => { t with box := d, mvx := mv.1, mvy := mv.2, misses := 0, steps := t.steps + 1 }
  | none => { t with box := pred, misses := t.misses + 1, steps := t.steps + 1 }

/-- The detection a deferred join absorbs: the greatest overlap at or above GATE among those left. -/
def absorbs (gate : Nat) (j : Detection) (dets : List (Detection × Nat)) : Option (Detection × Nat) :=
  (dets.filter (fun d => gated gate j d.1)).foldl (fun b d =>
    match b with
    | none => some d
    | some c => if numLt (fp32 (iouOf j c.1)) (fp32 (iouOf j d.1)) then some d else b) none

/-- Deferred joins absorb detections in order: the joins after it and the detections left. -/
def absorbAll (gate : Nat) : List DeferredJoin → List (Detection × Nat) → List DeferredJoin × List (Detection × Nat)
  | [], dets => ([], dets)
  | j :: r, dets =>
    match absorbs gate j.box dets with
    | none =>
      let t := absorbAll gate r dets
      (j :: t.1, t.2)
    | some d =>
      let t := absorbAll gate r (dets.filter (fun e => e.2 ≠ d.2))
      let box : Detection := { d.1 with cls := j.box.cls }
      ({ j with box := box } :: t.1, t.2)

/-- Lowest free entry of the track table. -/
def freeTrack (s : State) : Option Nat := (List.range 4096).find? (fun k => (tfind s.tracks k).isNone)

/-- One join of a stream: its table entry and its bobbin together, or neither (R320, R236). -/
def joinTrack (s : State) (i stream maxTracks pool : Nat) (box : Detection) : State × Option Track :=
  let n := (pipeOf s i).part.val
  match freeTrack s with
  | none => (s, none)
  | some k =>
    if maxTracks ≤ (tracksOf s i stream).length then (s, none)
    else
      let r := acquireBobbin s n pool (ownerTrack k)
      match r.2 with
      | none => (r.1, none)
      | some h =>
        let st := streamOf r.1 stream
        let t : Track := { pipe := i, stream := stream, id := st.nextTrackId, handle := h, box := box, steps := 1 }
        let next := if st.nextTrackId = 0xFFFFFFFF#32 then 1#32 else st.nextTrackId + 1
        let u := setStream r.1 stream { st with nextTrackId := next }
        ({ u with tracks := tset u.tracks k t }, some t)

/-- One more detection joins, or is deferred once one before it found no place. -/
def joinNext (i stream maxTracks pool : Nat) (a : State × List Track × List DeferredJoin) (j : DeferredJoin) :
    State × List Track × List DeferredJoin :=
  if !a.2.2.isEmpty then (a.1, a.2.1, a.2.2 ++ [j])
  else
    let r := joinTrack a.1 i stream maxTracks pool j.box
    match r.2 with
    | none => (r.1, a.2.1, [j])
    | some k => (r.1, a.2.1 ++ [k], [])

/-- The joins of a step, in their order: the tracks made, and those that stay deferred. -/
def joinAll (i stream maxTracks pool : Nat) (l : List DeferredJoin) (s : State) :
    State × List Track × List DeferredJoin :=
  l.foldl (joinNext i stream maxTracks pool) (s, [], [])

/-- The picture whose step runs for a stream. -/
def stepPicture (p : Pipe) (stream : Nat) : Option Nat :=
  match trackStage p with
  | none => none
  | some k => p.pictures.findIdx? (fun q => q.stream == stream && q.entered.contains k && !q.left.contains k)

/-- The rest of a step, once the motions of its tracks are known: match, leaves, joins and the records'
contents. -/
def finishStep (s : State) (i stream : Nat) (motions : List (Int × Int)) (st : Status) : State :=
  let p := pipeOf s i
  match trackStage p, stepPicture p stream with
  | some k, some a =>
    let b := stageAt p k
    let q := (p.pictures[a]?).getD {}
    let gate := byteAt b 7
    let assoc := byteAt b 4 ≠ 0xFF
    let dets0 := detectionsAt q (stageInput p k)
    let dets := if assoc then dets0.zipIdx.map (fun d => { d.1 with embedding := freeEmbedding s.draws d.2 }) else dets0
    let live := tracksOf s i stream
    let mv := fun n => motions.getD n (0, 0)
    let preds := live.zipIdx.map (fun e => predicted e.1.2 (mv e.2))
    let pairs := greedy live.length (candidates gate assoc (fp32 (BitVec.ofNat 32 (le b 20 4))) preds dets)
    let detOf := fun n => (pairs.find? (fun e => e.1 == n)).bind (fun e => dets[e.2]?)
    let after := live.zipIdx.map (fun e => (e.1.1, updated e.1.2 (preds.getD e.2 {}) (mv e.2) (detOf e.2), (detOf e.2).isSome))
    let s := { s with
      draws := s.draws + 2, tracks := after.foldl (fun t e => tset t e.1 e.2.1) s.tracks }
    let gone := after.filter (fun e => decide (byteAt b 5 ≤ e.2.1.misses))
    let stay := after.filter (fun e => decide (e.2.1.misses < byteAt b 5))
    let s := gone.foldl (fun t e => dropTrack t p.part.val (e.1, e.2.1)) s
    let left := dets.zipIdx.filter (fun d => !pairs.any (fun e => e.2 == d.2))
    let ab := absorbAll gate (p.deferred.filter (fun j => j.stream == stream)) left
    let least := fp32 (BitVec.ofNat 32 (le b 16 4))
    let fresh := (ab.2.filter (fun d =>
      let sc := fp32 d.1.score
      !isNaN sc && !isNaN least && !numLt sc least)).map (fun d => ({ stream := stream, box := d.1 } : DeferredJoin))
    let old := ab.1.map (fun j => { j with waited := j.waited + 1 })
    let r := joinAll i stream (le b 8 2) (byteAt b 6) (old ++ fresh) s
    let kept := r.2.2.filter (fun j => decide (j.waited < byteAt b 5))
    let discarded := r.2.2.length - kept.length
    let old' := stay.map (fun e => (e.2.1, e.2.2, false))
    let all := (old' ++ r.2.1.map (fun t => (t, false, true))).mergeSort (fun x y => x.1.id.toNat ≤ y.1.id.toNat)
    let s := modPipe r.1 i (fun p => { p with deferred := p.deferred.filter (fun j => j.stream ≠ stream) ++ kept })
    let s := modPicture s i a (fun q =>
      let q := if st = stOk then q else noteStatus st q
      let q := if r.2.2.isEmpty then q else noteStatus stNoBuffer q
      { leaveStage k q with
        matched := pairs.length, joined := r.2.1.length, leaves := gone.length, deferred := kept.length
        discarded := discarded
        trackRecords := all.map (fun e => trackBody q e.1 e.2.1 e.2.2)
        endRecords := gone.map (fun e => trackEndBody q e.2.1 0) })
    settlePipe s i
  | _, _ => s

/-- The block a track asks the search for: its centre less half a block, and its motion as prediction. -/
def trackBlock (side : Nat) (t : Track) : Int × Int × Int × Int :=
  ((t.box.x0 + t.box.x1) / 32 - (side : Int) / 2, (t.box.y0 + t.box.y1) / 32 - (side : Int) / 2, t.mvx, t.mvy)

/-- The search request of a track step. -/
def stepSearch (b : Bytes) (cur ref : Word) (count : Nat) : Bytes :=
  fit 64 (toLE 4 cur.toNat ++ toLE 4 ref.toNat ++ slice b 10 4 ++ toLE 2 count)

/-- FREE VALUE. Motions of a step whose search gave no result (log entry 32). -/
def freeMotions (tag n : Nat) : List (Int × Int) :=
  (List.range n).map (fun k =>
    (signedOf 16 (Config.freeBits 16 tag (2 * k)).toNat, signedOf 16 (Config.freeBits 16 tag (2 * k + 1)).toNat))

/-- The previous picture of a stream: the latest before place a that TRACK has let go. -/
def previousPicture (p : Pipe) (a k : Nat) (stream : Nat) : Option PipePicture :=
  ((p.pictures.take a).filter (fun q => q.stream == stream && q.left.contains k)).getLast?

/-- A search without result ends the step with free motions and its status noted. -/
def stepWithoutSearch (s : State) (i stream n : Nat) (st : Status) : State :=
  finishStep (drawn s) i stream (freeMotions s.draws n) st

/-- TRACK_STEP: the next picture of a stream at TRACK begins its step with one motion search, on a free
engine; without tracks or a previous picture there is none to make. -/
def trackStep (s : State) (i stream : Nat) : State :=
  let p := pipeOf s i
  match trackStage p with
  | none => s
  | some k =>
    match (List.range p.pictures.length).find? (fun a =>
        stepReady p a k && (match p.pictures[a]? with | none => false | some q => q.stream == stream)) with
    | none => s
    | some a =>
      let live := tracksOf s i stream
      let t := modPicture s i a (enterStage k)
      match p.pictures[a]?, previousPicture p a k stream with
      | some q, some prev =>
        if live.isEmpty then finishStep t i stream [] stOk
        else match partOf s p.part.val, (List.range 2).find? (fun u => (motionOf s u).state = 0) with
          | some x, some u =>
            let c := frameInfo x q.handle
            let r := frameInfo x prev.handle
            if c.width ≠ r.width || c.height ≠ r.height || c.pitch ≠ r.pitch then
              stepWithoutSearch t i stream live.length stBadArgument
            else setMotion t u
              { state := 1, remaining := BitVec.ofNat 13 live.length, part := p.part, owner := ownerPipe i
                request := stepSearch (stageAt p k) q.handle prev.handle live.length, step := some (i, stream) }
          | _, _ => s
      | _, _ => finishStep t i stream [] stOk

def execTrackStep (pipe : Fin 256) (stream : Fin 256) (s : State) : Host.Outcome State Fault Refusal :=
  finish s (if (pipeOf s pipe).valid then trackStep s pipe stream else s)

/-- MOTION_SEARCH_COMPLETE: a request's results become visible, or the track step that asked goes on. -/
def motionSearchComplete (s : State) (u : Nat) : State :=
  let m := motionOf s u
  if m.state ≠ 1 then s
  else match m.step with
    | none => completeSearch s u
    | some (i, stream) =>
      let t := setMotion s u {}
      match partOf s m.part.val with
      | none => t
      | some x =>
        let q := decodeSearch m.request
        let live := tracksOf s i stream
        if searchBad x q.cur q.ref then
          stepWithoutSearch (dramUncorrectable t m.part.val (searchRanges x q.cur q.ref) 0xFFFFFFFF 0xFFFF) i stream
            live.length stUncorrectable
        else
          let pr := searchPair x q.cur q.ref
          let mv := live.map (fun e =>
            let b := trackBlock (blockSide q.block) e.2
            let r := blockResult pr q b.1 b.2.1 b.2.2.1 b.2.2.2
            (r.mvx, r.mvy))
          finishStep t i stream mv stOk

def execMotionSearchComplete (unit : Fin 2) (s : State) : Host.Outcome State Fault Refusal :=
  finish s (motionSearchComplete s unit)

/-! ### Commands (R308, R310, R311, R313, R330) -/

/-- CMD_PIPE_CREATE. -/
def cmdPipeCreate (s : State) (slot : Nat) (stages : Option Bytes) : State :=
  command s slot 0x0601 [(8, 13)] (fun d =>
    let n := descPart d
    let i := le d 8 2
    let count := byteAt d 11
    let p := pipeOf s i
    let ring := oringOf s (byteAt d 20)
    match partOf s n with
    | none => complete s slot stNotPermitted []
    | some x =>
      if 256 ≤ i || 2 ≤ byteAt d 10 || count < 2 || 8 < count || le d 12 8 % 32 ≠ 0 || 64 ≤ byteAt d 20
          || !ring.valid then complete s slot stBadArgument []
      else withHost s slot (le d 12 8) stages (fun s b =>
        let new : Pipe :=
          { valid := true, live := bitOf (byteAt d 10) 0, part := Fin.ofNat 8 n, ring := byteAt d 20
            stages := (List.range count).map (fun k => fit 32 (slice b (32 * k) 32)) }
        if !stagesSound x new || (p.valid && p.part.val == n) then complete s slot stBadArgument []
        else if p.valid || ring.part.val ≠ n then complete s slot stNotPermitted []
        else complete (setPipe s i new) slot stOk []))

def execCmdPipeCreate (slot : Fin 10) (stages : Option Bytes) (s : State) : Host.Outcome State Fault Refusal :=
  finish s (cmdPipeCreate s slot stages)

/-- A pipeline a command names: out of range or absent, or of another partition. -/
def onPipe (s : State) (slot : Nat) (d : Bytes) (i : Nat) (f : Pipe → State) : State :=
  let p := pipeOf s i
  if 256 ≤ i || !p.valid then complete s slot stBadArgument []
  else if p.part.val ≠ descPart d then complete s slot stNotPermitted []
  else f p

/-- A pipeline begins to be removed (R330): its streams deliver no more; without flush its jobs are aborted and
its batches without a job abandoned. -/
def beginRemove (s : State) (i : Nat) (flush : Bool) : State :=
  let p := pipeOf s i
  let n := p.part.val
  let s := { s with streams := s.streams.map (fun e =>
    (e.1, if e.2.consumer = some i then { e.2 with consumer := none } else e.2)) }
  let s := setPipe s i { p with removing := true, flush := flush }
  if flush then s
  else
    let s := (pipeJobs s i).foldl (fun t j => endJobWith t j stAborted 4 0xFFFF 0xFFFF) s
    let s := { s with workItems := s.workItems.filter (fun w => w.pipe ≠ i) }
    modPart s n (fun x => { x with
      batchQueues := x.batchQueues.map (fun e =>
        (e.1, if e.2.pipe = i then
            { e.2 with waiting := [], batches := e.2.batches.filter (fun b => b.started || b.ended.isSome) }
          else e.2)) })

/-- CMD_PIPE_REMOVE. -/
def cmdPipeRemove (s : State) (slot : Nat) : State :=
  command s slot 0x0602 [(8, 3)] (fun d =>
    let i := le d 8 2
    onPipe s slot d i (fun p =>
      if 2 ≤ byteAt d 10 || p.removing then complete s slot stBadArgument []
      else settlePipe (deferCompletion (beginRemove s i (bitOf (byteAt d 10) 0)) slot) i))

def execCmdPipeRemove (slot : Fin 10) (s : State) : Host.Outcome State Fault Refusal := finish s (cmdPipeRemove s slot)

/-- CMD_QUEUE_CREATE. -/
def cmdQueueCreate (s : State) (slot : Nat) : State :=
  command s slot 0x0603 [(8, 1), (10, 2), (16, 64)] (fun d =>
    let i := le d 10 2
    onPipe s slot d i (fun p =>
      match partOf s p.part.val with
      | none => complete s slot stNotPermitted []
      | some x =>
        if 16 ≤ byteAt d 8 || !declValid x (slice d 16 64) || (boundQueue x (byteAt d 8)).isSome || p.removing then
          complete s slot stBadArgument []
        else
          complete (setBatchQueue s p.part.val (byteAt d 8) { pipe := i, decl := slice d 16 64 }) slot stOk []))

def execCmdQueueCreate (slot : Fin 10) (s : State) : Host.Outcome State Fault Refusal := finish s (cmdQueueCreate s slot)

/-- A stream that a pipeline command names. -/
def onStream (s : State) (slot : Nat) (d : Bytes) (k : Nat) (f : Stream → State) : State :=
  let x := streamOf s k
  if 256 ≤ k || x.state = 0 then complete s slot stBadArgument []
  else if x.part.val ≠ descPart d then complete s slot stNotPermitted []
  else f x

/-- CMD_PIPE_ATTACH: a stream whose detach still runs keeps its consumer for this check. -/
def cmdPipeAttach (s : State) (slot : Nat) : State :=
  command s slot 0x0604 [(8, 4)] (fun d =>
    let i := le d 8 2
    let k := le d 10 2
    onPipe s slot d i (fun p => onStream s slot d k (fun x =>
      if p.removing then complete s slot stBadArgument []
      else if x.consumer.isSome || s.pipes.any (fun e => e.2.leaving.any (fun l => l.1 == k)) then
        complete s slot stNotPermitted []
      else complete (setStream s k { x with consumer := some i, nextTrackId := 1 }) slot stOk [])))

def execCmdPipeAttach (slot : Fin 10) (s : State) : Host.Outcome State Fault Refusal := finish s (cmdPipeAttach s slot)

/-- A stream stops to deliver to its pipeline; its tracks end for a reason once its pictures are finished. -/
def leavePipe (s : State) (k reason : Nat) : State :=
  let x := streamOf s k
  match x.consumer with
  | none => s
  | some i =>
    let s := setStream s k { x with consumer := none }
    settlePipe (modPipe s i (fun p => { p with leaving := p.leaving ++ [(k, reason)] })) i

/-- CMD_PIPE_DETACH. -/
def cmdPipeDetach (s : State) (slot : Nat) : State :=
  command s slot 0x0605 [(8, 4)] (fun d =>
    let i := le d 8 2
    let k := le d 10 2
    onPipe s slot d i (fun _ => onStream s slot d k (fun x =>
      if x.consumer ≠ some i then complete s slot stBadArgument []
      else leavePipe (deferCompletion s slot) k 3)))

def execCmdPipeDetach (slot : Fin 10) (s : State) : Host.Outcome State Fault Refusal := finish s (cmdPipeDetach s slot)

/-- CMD_PREP_SUBMIT. -/
def cmdPrepSubmit (s : State) (slot : Nat) : State :=
  command s slot 0x0606 [(8, 2), (16, 64)] (fun d =>
    let i := le d 8 2
    onPipe s slot d i (fun p =>
      if p.removing then complete s slot stBadArgument []
      else
        let r := submitRequest s i (slice d 16 64) false none
        complete r.1 slot r.2 []))

def execCmdPrepSubmit (slot : Fin 10) (s : State) : Host.Outcome State Fault Refusal := finish s (cmdPrepSubmit s slot)

/-- RECORD_WRITE: a record waiting on a BLOCK ring is written; its pipeline goes on. -/
def recordWrite (s : State) (r : Nat) : State :=
  match (oringOf s r).waiting with
  | [] => s
  | rec :: _ => settlePipe (writeWaiting s r) (recordPipe rec)

def execRecordWrite (ring : Fin 64) (s : State) : Host.Outcome State Fault Refusal := finish s (recordWrite s ring)

end Sys2Proof.Machine
end

