-- ==== Sys2Proof/Machine/Jobs.lean ====
section
/-! DEFINITION. Jobs after their start: dispatch, pre-emption and restoration, ending and its report, answers,
clients and sequence sets (R370 to R389, R325). -/

namespace Sys2Proof.Machine

/-! ### Answers (R325) -/

/-- Bytes of the longest run of whole UTF-8 characters at the start of a text that ends in at most one cut
character. -/
def wholeChars (b : Bytes) : Nat :=
  let n := b.length
  let cont := fun i => field (byteAt b i) 6 2 == 2
  let tail := if n = 0 || !cont (n - 1) then 0 else if n = 1 || !cont (n - 2) then 1 else if n = 2 || !cont (n - 3) then 2 else 3
  if n ≤ tail then n
  else
    let lead := byteAt b (n - 1 - tail)
    let need := if lead < 0xC0 then 1 else if lead < 0xE0 then 2 else if lead < 0xF0 then 3 else 4
    if tail + 1 < need then n - 1 - tail else n

/-- One ANSWER record. -/
def answerRecord (s : State) (j part : Nat) (text : Bytes) (final failed : Bool) : Record :=
  recordOf s 0x06 (ceilDiv (32 + text.length) 64) 0xFFFF 0xFFFF
    (toLE 2 j ++ toLE 2 part ++ toLE 4 (jobOf s j).header.answerTag.toNat ++ toLE 2 text.length
      ++ toLE 1 (packBits [(0, flag final), (1, flag failed)]) ++ zeroBytes 5 ++ text)

/-- Pieces of at most 992 bytes, with fuel. -/
def textPieces : Nat → Bytes → List Bytes
  | 0, _ => []
  | n + 1, b => if b.length ≤ 992 then [b] else b.take 992 :: textPieces n (b.drop 992)

/-- The next part of job j's answer, from the end of the last to the last whole character written. A part
without text gives a record only where it is the final one. An answer bobbin in error forms no part and asks
for ST_UNCORRECTABLE (R503). -/
def formAnswer (s : State) (j : Nat) (final : Bool) : State :=
  let x := jobOf s j
  let n := x.part.toNat
  match partOf s n with
  | none => s
  | some p =>
    let off := x.args.getD x.header.answerArg 0
    let written := le (storeRead p.region off 4) 0 4
    if badRead p off 4 || badRead p (off + 64 + x.answerSent) (written - x.answerSent) then
      endJobWith (dramUncorrectable s n [(off, 4), (off + 64 + x.answerSent, written - x.answerSent)] (jobId s j) 0xFFFF) j stUncorrectable 0 0xFFFF 0xFFFF
    else
      let fresh := storeRead p.region (off + 64 + x.answerSent) (written - x.answerSent)
      let text := fresh.take (wholeChars fresh)
      if text.isEmpty && !final then s
      else
        let l := textPieces (text.length / 992 + 1) text
        let s := l.zipIdx.foldl (fun t e =>
          writeRecord t n x.header.answerRing
            (answerRecord t j x.answerPart e.1 (final && e.2 + 1 == l.length) (final && x.outcome ≠ stOk))) s
        setJob s j { jobOf s j with answerSent := x.answerSent + text.length, answerPart := x.answerPart + 1 }

/-- Lantern takes a unit of a semaphore whenever VALUE is non-zero: the state after it. -/
def takeUnit (s : State) (spire n : Nat) : Option State :=
  let v := semOf s spire n
  if v.barrier || v.value = 0 then none else some (setSem s spire n { v with value := v.value - 1 })

/-- ANSWER_PART. -/
def answerPart (s : State) (j : Nat) : State :=
  let x := jobOf s j
  if !x.header.answer || x.state.toNat < 2 || 6 < x.state.toNat then s
  else match takeUnit s x.header.answerSpire x.header.answerSem with
    | none => s
    | some t => formAnswer t j false

def execAnswerPart (job : Fin 1024) (s : State) : Host.Outcome State Fault Refusal := finish s (answerPart s job)

/-! ### Sequence sets (R383 to R388) -/

/-- The sequence table's entries in use. -/
def seqEntries (s : State) : List Nat :=
  s.jobs.flatMap (fun e => match e.2.seqs with | none => [] | some q => q.live.map (·.index))

/-- Lowest free entry of the sequence table. -/
def freeSeq (s : State) : Option Nat :=
  let used := seqEntries s
  (List.range 4096).find? (fun k => !used.contains k)

/-- A SEQUENCE record (R387). -/
def seqRecord (s : State) (j step ticket index slot event : Nat) (tail : Bytes) : Record :=
  recordOf s 0x07 1 0xFFFF 0xFFFF
    (toLE 4 (jobId s j) ++ toLE 4 step ++ toLE 4 ticket ++ toLE 2 index ++ toLE 2 slot ++ toLE 1 event ++ [0] ++ tail)

/-- STATUS and the counts of a step report, and TAG. -/
def seqTail (st : Status) (joined left deferred live : Nat) (tag : Word) : Bytes :=
  toLE 2 st.toNat ++ toLE 2 joined ++ toLE 2 left ++ toLE 2 deferred ++ toLE 2 live ++ toLE 4 tag.toNat

/-- The record of a sequence that leaves, and of a pending join that is cancelled. -/
def leftRecord (s : State) (j step event : Nat) (q : Sequence) : Record :=
  seqRecord s j step q.ticket q.index q.slot event (seqTail stOk 0 0 0 0 q.tag)
def cancelRecord (s : State) (j step : Nat) (p : PendingJoin) : Record :=
  seqRecord s j step p.ticket 0xFFFF 0xFFFF 3 (seqTail stOk 0 0 0 0 p.tag)

/-- An entry of the batch table (R384). -/
def tableEntry (x : Partition) (q : Sequence) (new : Bool) : Bytes :=
  fit 64 (toLE 2 q.index ++ toLE 1 (packBits [(0, 1), (1, flag new)]) ++ toLE 1 q.handles.length ++ toLE 4 q.tag.toNat
    ++ toLE 8 q.input ++ toLE 4 q.inputLength ++ q.handles.flatMap (fun h => toLE 4 ((bobbinRange x h).1 / 4096)))

def emptyEntry : Bytes := fit 64 [0xFF, 0xFF]

/-- The batch table of a set after a step. -/
def batchTable (x : Partition) (seqMax step joined left deferred : Nat) (live : List Sequence) (new : List Nat) : Bytes :=
  fit 64 (toLE 4 step ++ toLE 2 live.length ++ toLE 2 joined ++ toLE 2 left ++ toLE 2 deferred) ++
    (List.range seqMax).flatMap (fun k =>
      match live.find? (fun q => q.slot == k) with
      | none => emptyEntry
      | some q => tableEntry x q (new.contains q.ticket))

/-- The set of job j changed. -/
def setSeqs (s : State) (j : Nat) (q : SeqSet) : State := setJob s j { jobOf s j with seqs := some q }

/-- One pending join: its table entry and its bobbins together with the lowest free slot, or nothing. -/
def joinSeq (s : State) (j n seqMax : Nat) (p : PendingJoin) : State × Option Sequence :=
  match (jobOf s j).seqs with
  | none => (s, none)
  | some q =>
    match (List.range seqMax).find? (fun k => !q.live.any (fun e => e.slot == k)), freeSeq s with
    | some slot, some idx =>
      let r := groupAcquire s n (p.pools.map (fun k => (k.val, ownerSeq idx)))
      match r.2 with
      | none => (r.1, none)
      | some hs =>
        let e : Sequence :=
          { index := idx, ticket := p.ticket, tag := p.tag, slot := slot, input := p.input
            inputLength := p.inputLength, handles := hs }
        (setSeqs r.1 j { q with live := q.live ++ [e], joins := q.joins.filter (fun k => k.ticket ≠ p.ticket) }, some e)
    | _, _ => (s, none)

/-- Pending joins in order until one fails. -/
def joinSeqs (j n seqMax : Nat) : List PendingJoin → State → State × List Sequence
  | [], s => (s, [])
  | p :: r, s =>
    match joinSeq s j n seqMax p with
    | (t, none) => (t, [])
    | (t, some e) =>
      let u := joinSeqs j n seqMax r t
      (u.1, e :: u.2)

/-- The leaves of a step: marked by the job in slot order, then named by a command in ticket order, each with
its EVENT. -/
def stepLeaves (x : Partition) (off : Nat) (q : SeqSet) : List (Sequence × Nat) :=
  let marked := fun (e : Sequence) => bitOf (byteAt (storeRead x.region (off + 64 + 64 * e.slot) 4) 2) 2
  let a := (q.live.filter marked).mergeSort (fun u v => u.slot ≤ v.slot)
  let b := (q.live.filter (fun e => e.leave && !marked e)).mergeSort (fun u v => u.ticket ≤ v.ticket)
  a.map (fun e => (e, 1)) ++ b.map (fun e => (e, 2))

/-- One step of the sequence set of job j (R386). -/
def seqStep (s : State) (j : Nat) : State :=
  let x := jobOf s j
  let n := x.part.toNat
  let h := x.header
  let off := x.args.getD h.seqTableArg 0
  match x.seqs, partOf s n with
  | some q, some p =>
    if badRead p off (tableBytes h) then
      endJobWith (dramUncorrectable s n [(off, tableBytes h)] (jobId s j) 0xFFFF) j stUncorrectable 0 0xFFFF 0xFFFF
    else
      let leaves := stepLeaves p off q
      let s := leaves.foldl (fun t e => releaseHolds t n (ownerSeq e.1.index)) s
      let cancelled := q.joins.filter (·.cancel)
      let q1 := { q with
        live := q.live.filter (fun e => !leaves.any (fun l => l.1.ticket == e.ticket))
        joins := q.joins.filter (fun e => !e.cancel), step := q.step + 1 }
      let r := joinSeqs j n h.seqMax q1.joins (setSeqs s j q1)
      let q2 := ((jobOf r.1 j).seqs).getD {}
      let q3 := { q2 with joins := q2.joins.map (fun e => { e with deferred := true }) }
      let s := setSeqs r.1 j q3
      let y := (partOf s n).getD p
      let s := regionWrite s n off
        (batchTable y h.seqMax q.step r.2.length leaves.length q3.joins.length q3.live (r.2.map (·.ticket)))
      let s := match releaseUnits s h.goSpire h.goSem 1 none with
        | some t => t
        | none => endJobWith s j stBadArgument 0 0xFFFF 0xFFFF
      let st := if q3.joins.isEmpty then stOk else stNoBuffer
      let put := fun t (rec : Record) => writeRecord t n h.answerRing rec
      let s := leaves.foldl (fun t e => put t (leftRecord t j q.step e.2 e.1)) s
      let s := cancelled.foldl (fun t e => put t (cancelRecord t j q.step e)) s
      let s := r.2.foldl (fun t e => put t (leftRecord t j q.step 0 e)) s
      put s (seqRecord s j q.step 0 0xFFFF 0xFFFF 5
        (seqTail st r.2.length leaves.length q3.joins.length q3.live.length 0))
  | _, _ => s

/-- SEQUENCE_STEP: Lantern takes a unit of SEQ_STEP_SEM of a RUNNING job and runs the next step. -/
def sequenceStep (s : State) (j : Nat) : State :=
  let x := jobOf s j
  if x.state ≠ 2 || x.seqs.isNone then s
  else match takeUnit s x.header.stepSpire x.header.stepSem with
    | none => s
    | some t => seqStep t j

def execSequenceStep (job : Fin 1024) (s : State) : Host.Outcome State Fault Refusal := finish s (sequenceStep s job)

/-- The set of an ENDING job dissolves: every sequence leaves, every pending join is cancelled (R388). -/
def endSeqs (s : State) (j : Nat) : State :=
  let x := jobOf s j
  let n := x.part.toNat
  match x.seqs with
  | none => s
  | some q =>
    let put := fun t (rec : Record) => writeRecord t n x.header.answerRing rec
    let s := q.live.foldl (fun t e => releaseHolds t n (ownerSeq e.index)) s
    let s := (q.live.mergeSort (fun u v => u.slot ≤ v.slot)).foldl (fun t e => put t (leftRecord t j q.step 4 e)) s
    let s := q.joins.foldl (fun t e => put t (cancelRecord t j q.step e)) s
    setJob s j { jobOf s j with seqs := none }

/-! ### Dispatch (R370, R371, R379) -/

/-- Spindles and stem engines a job lists. -/
def listedSpindles (s : State) (j : Nat) : List SpindleEntry :=
  spindleEntries (jobRegion s j) (jobOf s j).desc (jobOf s j).header
def listedStems (s : State) (j : Nat) : List SpireEntry :=
  (spireEntries (jobRegion s j) (jobOf s j).desc (jobOf s j).header).filter (·.stem)

/-- Every unit job j lists is free, and no earlier waiting job of its partition lists one of them. -/
def mayDispatch (s : State) (j : Nat) : Bool :=
  let x := jobOf s j
  let sp := (listedSpindles s j).map (·.spindle)
  let st := (listedStems s j).map (·.spire)
  sp.all (fun p => (spindleOf s p).job.isNone) && st.all (fun i => (spireOf s i).stem.job.isNone)
    && s.jobs.all (fun e =>
      !((e.2.state = 1 || e.2.state = 5) && e.2.part == x.part && decide (e.2.order < x.order))
        || (!((listedSpindles s e.1).any (fun k => sp.contains k.spindle))
          && !((listedStems s e.1).any (fun k => st.contains k.spire))))

/-- A spindle at the start of job j on it (R127, R128, R170, R204): accumulators, operand cache, scale slots
and bypass map stay. -/
def startSpindle (x : Spindle) (j program last : Nat) : Spindle :=
  { x with
    job := some j, busy := 0
    arr := { x.arr with state := 0, waiting := false, op := none }
    agen := { program := program, last := last, state := 1 }
    vec := {}
    scale := { x.scale with limitCount := 0, repeatCount := 0, events := 0, judging := none }
    dma := {} }

/-- A WAITING job begins to run. -/
def runJob (s : State) (j : Nat) : State :=
  let x := jobOf s j
  match partOf s x.part.toNat with
  | none => s
  | some p =>
    let s := (listedSpindles s j).foldl (fun t e =>
      let last := match programExtent p.region (regionBytes p) e.program with | .ok k => k | .error _ => 65535
      setSpindle t e.spindle (startSpindle (spindleOf t e.spindle) j e.program last)) s
    let s := (listedStems s j).foldl (fun t e =>
      setSpire t e.spire { spireOf t e.spire with stem := { job := some j, list := e.stemOffset, state := 1 } }) s
    let s := setJob s j { jobOf s j with
      state := 2, banks := p.images.map (fun i => (i.base, i.active)) }
    if x.header.sequences then seqStep s j else s

/-- A RESUMING job takes its units and reads its save area. -/
def restoreJob (s : State) (j : Nat) : State :=
  let s := (listedSpindles s j).foldl (fun t e => setSpindle t e.spindle { spindleOf t e.spindle with job := some j }) s
  let s := (listedStems s j).foldl (fun t e =>
    setSpire t e.spire { spireOf t e.spire with stem := { (spireOf t e.spire).stem with job := some j } }) s
  setJob s j { jobOf s j with state := 6 }

/-- JOB_DISPATCH. -/
def jobDispatch (s : State) (j : Nat) : State :=
  let x := jobOf s j
  if x.state = 1 && mayDispatch s j then runJob s j
  else if x.state = 5 && mayDispatch s j then restoreJob s j
  else s

def execJobDispatch (job : Fin 1024) (s : State) : Host.Outcome State Fault Refusal := finish s (jobDispatch s job)

/-! ### Pre-emption and restoration (R374 to R379) -/

/-- Spindles and spires whose units job j holds. -/
def heldSpindles (s : State) (j : Nat) : List Nat := (s.spindles.filter (fun e => e.2.job = some j)).map (·.1)
def heldStems (s : State) (j : Nat) : List Nat := (s.spires.filter (fun e => e.2.stem.job = some j)).map (·.1)

/-- The units of job j are free. -/
def freeUnits (s : State) (j : Nat) : State :=
  let s := (heldSpindles s j).foldl (fun t p => setSpindle t p { spindleOf t p with job := none }) s
  (heldStems s j).foldl (fun t i => setSpire t i { spireOf t i with stem := { (spireOf t i).stem with job := none } }) s

/-- The positive counts of R203, in ascending spire and semaphore. -/
def positiveCounts (x : Job) : List (Nat × Nat) :=
  x.held.filterMap (fun e => if 0 < e.2 then some (e.1, e.2.toNat) else none)

/-- Recorded counts go back to their semaphores. -/
def releaseCounts (s : State) (j : Nat) : State :=
  let l := positiveCounts (jobOf s j)
  let s := setJob s j { jobOf s j with held := (jobOf s j).held.map (fun e => (e.1, min e.2 0)) }
  l.foldl (fun t e => returnUnits t (e.1 / 32) (e.1 % 32) e.2) s

/-- Columns of an accumulator tile that a job can reach made undefined. -/
def undefTile (a : Store 32) (w tag t : Nat) : Store 32 :=
  (List.range 32).foldl (fun a r => storeUndef a (1024 * t + 32 * r) w tag) a

/-- The saved state of a spindle: tiles the programs do not name, and operand-cache bytes outside the live
range, are undefined on resume (R376). -/
def savedSpindle (s : State) (j : Nat) (e : SpindleEntry) (tag : Nat) : Spindle :=
  let x := reissueSync (spindleOf s e.spindle)
  let r := jobRegion s j
  let progs := (List.range (x.agen.last + 1)).map (fun k => programDesc r e.program k)
  let named := programTiles progs
  let lo := 256 * e.ocStart
  let hi := lo + 256 * e.ocLength
  { x with
    job := none
    acc := ((List.range 16).filter (fun t => !named.contains t)).foldl (fun a t => undefTile a (widthOf x.arr) tag t) x.acc
    cache := storeUndef (storeUndef x.cache 0 lo tag) hi (393216 - hi) tag }

/-- A job other than j holds a unit of spire i. -/
def spireShared (s : State) (i j : Nat) : Bool :=
  s.spindles.any (fun e => spireOfSpindle e.1 == i && e.2.job.any (fun k => k ≠ j))
    || (spireOf s i).stem.job.any (fun k => k ≠ j)

/-- A restored spire cache: the live ranges as saved. The other bytes are undefined on resume (R376); where
another job holds a unit of the spire they are its own and stay (log entry 33). -/
def restoreCache (s : State) (j : Nat) (saved : Store 8) (e : SpireEntry) : Store 8 :=
  let now := (spireOf s e.spire).cache
  let base := if spireShared s e.spire j then now else storeUndef now 0 4194304 s.draws
  e.ranges.foldl (fun c r => storeWrite c (256 * r.1) (storeRead saved (256 * r.1) (256 * r.2))) base

/-- CMD_JOB_PREEMPT. -/
def cmdJobPreempt (s : State) (slot : Nat) : State :=
  command s slot 0x0412 [(8, 4)] (fun d => onJob s slot d (fun j =>
    let x := jobOf s j
    if 7 ≤ x.state.toNat then complete s slot stAlreadyDone []
    else if x.state = 4 then complete s slot stPreempted []
    else if x.state = 3 then deferCompletion s slot
    else if x.state ≠ 2 || !x.header.preemptible || x.header.skeinBarriers ≠ 0 then complete s slot stNotPermitted []
    else deferCompletion (setJob s j { x with state := 3, preemptor := some (Fin.ofNat 10 slot) }) slot))

def execCmdJobPreempt (slot : Fin 10) (s : State) : Host.Outcome State Fault Refusal := finish s (cmdJobPreempt s slot)

/-- Commands that wait for the save of job j complete: the one that began it with ST_OK, others with
ST_PREEMPTED. -/
def completePreempt (s : State) (j : Nat) (first : Option (Fin 10)) : State :=
  (waitingSlots s 0x0412 (fun d => le d 8 4 % 1024 == j)).foldl (fun t i =>
    complete t i (if first.any (fun f => f.val == i) then stOk else stPreempted) []) s

/-- The DMA engines' writes of a save area meet a half in error: all of them are partial (R193, R213), so the save
fails and the job ends (R503 to R505). -/
def saveFails (s : State) (j : Nat) : State :=
  let x := jobOf s j
  let s := modPart (drawn s) x.part.toNat (fun p => { p with region := storeUndef p.region x.save x.saveBytes s.draws })
  endJobWith (dramUncorrectable s x.part.toNat [(x.save, x.saveBytes)] (jobId s j) 0xFFFF) j stUncorrectable 0 0xFFFF 0xFFFF

/-- The save area is written and the units of job j are free: the job `x` as it was is PREEMPTED. -/
def saveDone (s : State) (j : Nat) (x : Job) (counts : List (Nat × Nat)) : State :=
  let sp := listedSpindles s j
  let caches := (spireEntries (jobRegion s j) x.desc x.header).map (fun e => (e.spire, (spireOf s e.spire).cache))
  let saved : SavedJob :=
    { spindles := sp.foldl (fun t e => tset t e.spindle (savedSpindle s j e s.draws)) []
      stems := (listedStems s j).foldl (fun t e =>
        let u := (spireOf s e.spire).stem
        tset t e.spire { u with state := if u.state = 5 then 5 else 1 }) []
      caches := caches, counts := counts }
  let stop := fun (y : Spindle) => { y with
    arr := { y.arr with state := if y.arr.op.isSome then 7 else y.arr.state, op := none, waiting := false }
    vec := { y.vec with state := if y.vec.blocks.isEmpty then y.vec.state else 5, blocks := [] }
    scale := { y.scale with judging := none } }
  let s := sp.foldl (fun t e => setSpindle t e.spindle (stop (spindleOf t e.spindle))) s
  let s := (listedStems s j).foldl (fun t e =>
    let y := spireOf t e.spire
    setSpire t e.spire { y with stem := { y.stem with state := if y.stem.state = 5 then 5 else 4 } }) s
  let s := modPart s x.part.toNat (fun p => { p with region := storeUndef p.region x.save x.saveBytes (s.draws + 1) })
  let s := freeUnits { s with draws := s.draws + 2 } j
  let s := setJob s j { jobOf s j with
    state := 4, saved := some saved, preemptions := satInc x.preemptions, preemptor := none }
  completePreempt s j x.preemptor

/-- SAVE_COMPLETE (R376, R377): every unit has stopped and every begun copy is complete; waiting SYNCs are withdrawn
and the counts of R203 released, and the save area is written. -/
def saveComplete (s : State) (j : Nat) : State :=
  let x := jobOf s j
  if x.state ≠ 3 || (heldSpindles s j).any (fun p => !(spindleOf s p).dma.copies.isEmpty) then s
  else
    let s := withdrawAll s j
    let counts := positiveCounts (jobOf s j)
    let s := releaseCounts s j
    let bad := match partOf s x.part.toNat with | none => false | some p => badRead p x.save x.saveBytes
    if bad then saveFails s j else saveDone s j x counts

def execSaveComplete (job : Fin 1024) (s : State) : Host.Outcome State Fault Refusal := finish s (saveComplete s job)

/-- CMD_JOB_RESUME. -/
def cmdJobResume (s : State) (slot : Nat) : State :=
  command s slot 0x0413 [(8, 4)] (fun d => onJob s slot d (fun j =>
    let x := jobOf s j
    if 7 ≤ x.state.toNat then complete s slot stAlreadyDone []
    else if x.state ≠ 4 then complete s slot stNotPermitted []
    else complete (setJob (ordered s) j { x with state := 5, order := s.orders }) slot stOk []))

def execCmdJobResume (slot : Fin 10) (s : State) : Host.Outcome State Fault Refusal := finish s (cmdJobResume s slot)

/-- A job waits for a recorded count. -/
def restoreWaits (s : State) (j : Nat) : Bool :=
  s.spires.any (fun e => e.2.sems.any (fun m => m.2.queue.any (fun w => w.1 == .restoring j)))

/-- RESTORE_COMPLETE (R379): the save area is read; each recorded count is asked for as one ACQUIRE, and the
units resume once every one is held. -/
def restoreComplete (s : State) (j : Nat) (readable : Bool) : State :=
  let x := jobOf s j
  match x.saved, partOf s x.part.toNat with
  | some sv, some p =>
    if x.state ≠ 6 || restoreWaits s j then s
    else if !readable || badRead p x.save x.saveBytes then
      endJobWith (dramUncorrectable s x.part.toNat [(x.save, x.saveBytes)] (jobId s j) 0xFFFF) j stUncorrectable 0 0xFFFF 0xFFFF
    else
      let s := (spireEntries p.region x.desc x.header).foldl (fun t e =>
        match tfind sv.caches e.spire with
        | none => t
        | some c =>
          setSpire (drawn t) e.spire { spireOf t e.spire with cache := restoreCache t j c e }) s
      if sv.counts.isEmpty then resumeUnits s j
      else sv.counts.foldl (fun t c =>
        match acquireUnits t (c.1 / 32) (c.1 % 32) c.2 (.restoring j) with
        | some u => u
        | none => endJobWith t j stBadArgument 0 0xFFFF 0xFFFF) s
  | _, _ => s

def execRestoreComplete (job : Fin 1024) (readable : Bool) (s : State) : Host.Outcome State Fault Refusal :=
  finish s (restoreComplete s job readable)

/-- TIME_LIMIT (R375). -/
def timeLimit (s : State) (j : Nat) : State :=
  let x := jobOf s j
  if (x.state = 2 || x.state = 3 || x.state = 6) && decide (x.header.timeLimit ≤ x.time) then
    endJobWith s j stAborted 2 0xFFFF 0xFFFF
  else s

def execTimeLimit (job : Fin 1024) (s : State) : Host.Outcome State Fault Refusal := finish s (timeLimit s job)

/-- CMD_JOB_ABORT. -/
def cmdJobAbort (s : State) (slot : Nat) : State :=
  command s slot 0x0411 [(8, 4)] (fun d => onJob s slot d (fun j =>
    if 7 ≤ (jobOf s j).state.toNat then complete s slot stAlreadyDone []
    else deferCompletion (endJobWith s j stAborted 1 0xFFFF 0xFFFF) slot))

def execCmdJobAbort (slot : Fin 10) (s : State) : Host.Outcome State Fault Refusal := finish s (cmdJobAbort s slot)

/-! ### Ending (R380, R381, R400) -/

/-- Units of an ENDING job are stopped as for an abort (R92, R151, R196, R305): the destinations of copies cut
short become undefined. -/
def stopUnits (s : State) (j : Nat) : State :=
  let n := (jobOf s j).part.toNat
  let s := (heldSpindles s j).foldl (fun t p =>
    let copies := (spindleOf t p).dma.copies
    let t := copies.foldl (fun t k => undefDest t p n (decodeCopy k.desc) k.item) t
    let x := spindleOf t p
    setSpindle t p { x with
      arr := { x.arr with
        state := if x.arr.op.isSome && x.arr.state ≠ 6 then 7 else x.arr.state, op := none, waiting := false }
      vec := { x.vec with
        state := if !x.vec.blocks.isEmpty && x.vec.state ≠ 4 then 5 else x.vec.state, blocks := [] }
      scale := { x.scale with judging := none }
      agen := { x.agen with syncWaiting := false }
      dma := { x.dma with state := if copies.isEmpty then x.dma.state else 4, copies := [] } }) s
  (heldStems s j).foldl (fun t i =>
    let y := spireOf t i
    setSpire t i { y with stem := { y.stem with
      state := if y.stem.state = 1 || y.stem.state = 2 then 4 else y.stem.state, granted := false } }) s

/-- A spindle of job j still completes copies behind one that failed its checks (R192). -/
def copiesRun (s : State) (j : Nat) : Bool :=
  (heldSpindles s j).any (fun p => (spindleOf s p).dma.state = 3 && !(spindleOf s p).dma.copies.isEmpty)

/-- A record of the job waits on its BLOCK ring. -/
def jobRecordWaits (s : State) (j : Nat) : Bool :=
  let h := (jobOf s j).header
  (h.answer || h.sequences) && (oringOf s h.answerRing).waiting.any (fun r =>
    (byteAt r.bytes 0 == 6 && le r.bytes 16 2 == j) || (byteAt r.bytes 0 == 7 && le r.bytes 16 4 % 1024 == j))

/-- The first steps of ENDING: units stopped, SYNCs withdrawn, counts released, the final answer, skein queues
and sequences (R380, 1 to 3). -/
def endSteps (s : State) (j : Nat) : State :=
  let s := releaseCounts (withdrawAll (stopUnits s j) j) j
  let s := if (jobOf s j).header.answer then formAnswer s j true else s
  let s := endSeqs (settleQueues s j) j
  setJob s j { jobOf s j with endFormed := true }

/-- The job-end report (R400). -/
def jobReport (s : State) (j : Nat) : Bytes :=
  let x := jobOf s j
  [0x02, BitVec.ofNat 8 (flag x.rateNotHeld)] ++ toLE 2 x.outcome.toNat ++ toLE 4 x.hostSeq.toNat ++ toLE 2 0x0410
    ++ toLE 1 x.part.toNat ++ toLE 1 x.cause.toNat ++ toLE 4 (jobId s j) ++ toLE 2 x.errSpindle.toNat
    ++ toLE 2 x.errOffset.toNat ++ toLE 2 x.stale.toNat ++ toLE 1 x.preemptions.toNat ++ [0] ++ toLE 8 x.time

/-- The terminal state of an outcome (R372). -/
def terminalState (st : Status) : BitVec 4 := if st = stOk then 8 else if st = stAborted then 0xA else 9

/-- The job becomes terminal: holds released, report sent, client counted, units free (R380, 4 and 5). -/
def finishJob (s : State) (j : Nat) : State :=
  let x := jobOf s j
  let n := x.part.toNat
  let s := freeUnits (releaseHolds s n (ownerJob j)) j
  let s := match x.origin, jobMailbox x with
    | none, some m => postJobEnd s m (jobReport s j) x.irq
    | _, _ => s
  let s := setJob (ordered s) j { jobOf s j with
    state := terminalState x.outcome, status := x.outcome, order := s.orders, saved := none }
  let s := modClient s n x.client.toNat (fun c => { c with
    active := c.active - 1
    done := if x.outcome = stOk then satInc c.done else c.done
    endedOtherwise := if x.outcome = stOk then c.endedOtherwise else satInc c.endedOtherwise })
  let s := completeWaiting s 0x0411 (fun d => le d 8 4 % 1024 == j) stOk []
  match x.origin with
  | none => s
  | some o => stageJobEnded s n o x.outcome

/-- JOB_END. -/
def jobEnd (s : State) (j : Nat) : State :=
  if (jobOf s j).state ≠ 7 || copiesRun s j then s
  else
    let t := if (jobOf s j).endFormed then s else endSteps s j
    if jobRecordWaits t j then t else finishJob t j

def execJobEnd (job : Fin 1024) (s : State) : Host.Outcome State Fault Refusal := finish s (jobEnd s job)

/-! ### Client commands (R382) -/

def cmdClientLimit (s : State) (slot : Nat) : State :=
  command s slot 0x0420 [(8, 1), (10, 2)] (fun d =>
    if 1024 < le d 10 2 then complete s slot stBadArgument []
    else complete (modClient s (descPart d) (byteAt d 8) (fun c => { c with limit := BitVec.ofNat 16 (le d 10 2) }))
      slot stOk [])

def execCmdClientLimit (slot : Fin 10) (s : State) : Host.Outcome State Fault Refusal := finish s (cmdClientLimit s slot)

def clientBytes (c : Client) : Bytes :=
  toLE 4 c.started.toNat ++ toLE 4 c.done.toNat ++ toLE 4 c.endedOtherwise.toNat ++ toLE 2 c.active.toNat
    ++ toLE 2 c.limit.toNat

def cmdClientStats (s : State) (slot : Nat) : State :=
  command s slot 0x0421 [(8, 8)] (fun d =>
    match partOf s (descPart d) with
    | none => complete s slot stNotPermitted []
    | some x =>
      if le d 8 8 % 64 ≠ 0 then complete s slot stBadArgument []
      else
        let b := (List.range 256).flatMap (fun c => clientBytes (clientOf x c))
        complete (hostWrite s (slotFn s slot) (le d 8 8) b) slot stOk [])

def execCmdClientStats (slot : Fin 10) (s : State) : Host.Outcome State Fault Refusal := finish s (cmdClientStats s slot)

/-! ### Sequence commands (R385) -/

/-- Checks 1 to 3 of R385; what follows is done with the job and its set. -/
def onSeqs (s : State) (slot : Nat) (d : Bytes) (fields : Bool) (f : Nat → SeqSet → State) : State :=
  let id := le d 8 4
  let j := id % 1024
  let x := jobOf s j
  if !fields || field id 10 6 ≠ 0 || id / 65536 ≠ x.serial.toNat || x.state = 0 || !x.header.sequences then
    complete s slot stBadArgument []
  else if x.part.toNat ≠ descPart d then complete s slot stNotOwner []
  else if 7 ≤ x.state.toNat then complete s slot stAlreadyDone []
  else f j (x.seqs.getD {})

/-- CMD_SEQ_JOIN. -/
def cmdSeqJoin (s : State) (slot : Nat) : State :=
  command s slot 0x0430 [(8, 29)] (fun d =>
    let nbuf := byteAt d 28
    let pools := (List.range 8).map (fun k => byteAt d (29 + k))
    onSeqs s slot d (decide (nbuf ≤ 8) && pools.all (fun p => decide (p < 8))) (fun j q =>
      match partOf s (descPart d) with
      | none => complete s slot stNotPermitted []
      | some x =>
        if !(pools.take nbuf).all (fun p => (poolOf x p).isSome) then complete s slot stBadArgument []
        else if regionBytes x < le d 16 8 + le d 24 4 then complete s slot stNotPermitted []
        else if 1024 ≤ q.joins.length then complete s slot stNoBuffer []
        else
          let p : PendingJoin :=
            { ticket := q.nextTicket, tag := BitVec.ofNat 32 (le d 12 4), input := le d 16 8, inputLength := le d 24 4
              pools := (pools.take nbuf).map (Fin.ofNat 8) }
          complete (setSeqs s j { q with nextTicket := q.nextTicket + 1, joins := q.joins ++ [p] }) slot stOk
            (toLE 4 q.nextTicket)))

def execCmdSeqJoin (slot : Fin 10) (s : State) : Host.Outcome State Fault Refusal := finish s (cmdSeqJoin s slot)

/-- CMD_SEQ_LEAVE. -/
def cmdSeqLeave (s : State) (slot : Nat) : State :=
  command s slot 0x0431 [(8, 8)] (fun d =>
    let t := le d 12 4
    onSeqs s slot d true (fun j q =>
      if q.live.any (fun e => e.ticket == t && !e.leave) then
        complete (setSeqs s j { q with
          live := q.live.map (fun e => if e.ticket = t then { e with leave := true } else e) }) slot stOk []
      else if q.joins.any (fun e => e.ticket == t && !e.cancel) then
        complete (setSeqs s j { q with
          joins := q.joins.map (fun e => if e.ticket = t then { e with cancel := true } else e) }) slot stOk []
      else complete s slot stBadArgument []))

def execCmdSeqLeave (slot : Fin 10) (s : State) : Host.Outcome State Fault Refusal := finish s (cmdSeqLeave s slot)

end Sys2Proof.Machine
end

