-- ==== Sys2Proof/Machine/Media.lean ====
section
/-! DEFINITION. Video decoding: declarations, the order of pictures, bobbins, budgets, output and delivery,
rejects, and the draining of a stream (R242 to R267, R273). -/

namespace Sys2Proof.Machine

/-! ### Decode declarations (R250, R251) -/

structure DecodeDecl where
  codec : Nat
  review : Bool
  recovery : Bool
  maxWidth : Nat
  maxHeight : Nat
  maxRefs : Nat
  reorder : Nat
  fbPool : Nat
  refPool : Nat
  mult : Nat
  waitLimit : Nat
deriving DecidableEq, Repr

def decodeDecodeDecl (b : Bytes) : DecodeDecl where
  codec := byteAt b 0
  review := bitOf (byteAt b 1) 0
  recovery := bitOf (byteAt b 1) 1
  maxWidth := le b 2 2
  maxHeight := le b 4 2
  maxRefs := byteAt b 6
  reorder := byteAt b 7
  fbPool := byteAt b 8
  refPool := byteAt b 9
  mult := if byteAt b 10 = 0 then 100 else byteAt b 10
  waitLimit := if le b 12 4 = 0 then 3300000 else le b 12 4

def declW16 (d : DecodeDecl) : Nat := alignUp d.maxWidth 16
def declH16 (d : DecodeDecl) : Nat := alignUp d.maxHeight 16
def declPitch (d : DecodeDecl) : Nat := alignUp d.maxWidth 256

def frameBytes (d : DecodeDecl) : Nat := 256 + declPitch d * declH16 d * 3 / 2
def refBytes (d : DecodeDecl) : Nat :=
  4096 + ceilDiv (declW16 d) 64 * ceilDiv (declH16 d) 64 * (if d.codec = 1 || d.codec = 2 then 7744 else 6208)

/-- A pool of the partition with bobbins of at least so many bytes. -/
def poolHolds (x : Partition) (p n : Nat) : Bool :=
  match poolOf x p with
  | none => false
  | some v => decide (n ≤ bobbinBytes v)

/-- A declaration is valid for partition x. -/
def decodeDeclValid (x : Partition) (b : Bytes) : Bool :=
  let d := decodeDecodeDecl b
  decide (d.codec < 4) && decide (byteAt b 1 < 4) && decide (64 ≤ d.maxWidth) && decide (d.maxWidth ≤ 4096)
    && d.maxWidth % 2 == 0 && decide (64 ≤ d.maxHeight) && decide (d.maxHeight ≤ 2304) && d.maxHeight % 2 == 0
    && (match d.codec with
        | 3 => d.maxRefs == 0 && d.reorder == 0 && d.refPool == 0
        | 2 => decide (1 ≤ d.maxRefs) && decide (d.maxRefs ≤ 8)
        | _ => decide (1 ≤ d.maxRefs) && decide (d.maxRefs ≤ 16))
    && decide (d.reorder ≤ 4) && decide (d.fbPool < 8) && decide (d.refPool < 8)
    && (byteAt b 10 == 0 || decide (16 ≤ byteAt b 10)) && byteAt b 11 == 0 && (!d.review || le b 12 4 == 0)
    && decide (declW16 d * declH16 d ≤ 8912896) && poolHolds x d.fbPool (frameBytes d)
    && (d.codec == 3 || poolHolds x d.refPool (refBytes d))

def streamDecl (x : Stream) : DecodeDecl := decodeDecodeDecl x.decode

/-- The stream is open and not closing. -/
def streamRuns (x : Stream) : Bool := x.state = 1 || x.state = 2 || x.state = 3

/-- Stream k holds a picture on an engine or a saved one. -/
def decoding (s : State) (k : Nat) : Bool :=
  s.decoders.any (fun e => e.2.picture.isSome && e.2.stream.toNat == k) || s.suspended.any (fun e => e.1 == k)

def modStream (s : State) (k : Nat) (f : Stream → Stream) : State := setStream s k (f (streamOf s k))

/-- Bobbins of a stream let go. -/
def dropBobbins (s : State) (k : Nat) (l : List Word) : State :=
  l.foldl (fun t h => (releaseBobbin t (streamOf s k).part.val h (ownerStream k)).1) s

/-- The bobbins a picture holds besides its access unit. -/
def pictureBobbins (p : Picture) : List Word := p.frame.toList ++ p.slot.toList

/-- A picture that has not begun is an access unit like the others again: it stands in front of them, and its number
is free (log entry 28). -/
def unwait (x : Stream) : Stream :=
  match x.waitingPic with
  | none => x
  | some p => { x with waitingPic := none, ready := p.au :: x.ready, pictures := x.pictures - 1 }

/-- Entry into SEEK: every reference mark is removed (R255, R263). -/
def enterSeek (s : State) (k : Nat) : State :=
  let x := streamOf s k
  if x.state = 4 || x.state = 0 then s
  else
    let w := match x.waitingPic with | none => [] | some p => pictureBobbins p
    modStream (dropBobbins s k (x.refs.map (·.2) ++ w)) k (fun x =>
      { unwait x with state := 1, seekEntered := true, refs := [] })

/-! ### Budgets (R265, R266) -/

def symbolCap (d : DecodeDecl) : Nat := 8 * declW16 d * declH16 d

/-- Random-access and intra pictures form the one class, all others the second. -/
def intraClass (p : Picture) : Bool := p.info.any (fun i => i.rap || i.intra)

def budgetOf (x : Stream) (p : Picture) : Nat :=
  let d := streamDecl x
  let a := (if intraClass p then x.avgIntra else x.avgInter).toNat
  if a = 0 then symbolCap d else min (d.mult * a) (symbolCap d)

def newAverage (a : Word) (sym : Nat) : Word := BitVec.ofNat 32 ((15 * a.toNat + sym + 8) / 16)

/-! ### Output and delivery (R259, R260) -/

/-- A picture is delivered to the stream's consumer, or released. -/
def deliverPicture (s : State) (k : Nat) (p : Picture) : State :=
  let x := streamOf s k
  let n := x.part.val
  match p.frame with
  | none => s
  | some h =>
    let s := match partOf s n with
      | none => s
      | some q => setPart s n (unitPut q ((bobbinRange q h).1 + 28) (toLE 4 x.dropped))
    let s := modStream s k (fun x => { x with delivered := satInc x.delivered, dropped := 0 })
    match x.consumer with
    | none => dropBobbins s k [h]
    | some i =>
      let r := shareBobbin s n h (ownerStream k) (ownerPipe i)
      let t := dropBobbins r.1 k [h]
      if r.2 ≠ stOk then t
      else settlePipe (takePicture t i
        { stream := k, number := p.number, handle := h, time := p.au.time, arrival := p.au.arrival }) i

/-- Output order key. -/
def pocOf (p : Picture) : Int := match p.info with | none => 0 | some i => i.poc

/-- The picture that is output next. -/
def firstOut (l : List Picture) : Option Picture :=
  match l with
  | [] => none
  | p :: r => some (r.foldl (fun b e => if pocOf e < pocOf b then e else b) p)

/-- Pictures leave the reorder queue in output order until at most `depth` are left, with fuel. -/
def bump (k depth : Nat) : Nat → State → State
  | 0, s => s
  | n + 1, s =>
    let x := streamOf s k
    if x.reorder.length ≤ depth then s
    else match firstOut x.reorder with
      | none => s
      | some p =>
        bump k depth n (deliverPicture (setStream s k { x with reorder := x.reorder.filter (fun e => e.number ≠ p.number) }) k p)

def bumpTo (s : State) (k depth : Nat) : State := bump k depth (streamOf s k).reorder.length s

/-- A decoded picture joins the output order. -/
def outputPicture (s : State) (k : Nat) (p : Picture) (i : PicInfo) : State :=
  if !i.outputs then s
  else
    let codec := (streamDecl (streamOf s k)).codec
    let s := if i.flush then bumpTo s k 0 else s
    let s := modStream s k (fun x => { x with reorder := x.reorder ++ [p] })
    bumpTo s k (if codec < 2 then i.reorder else 0)

/-! ### Engines (R261, R262) -/

/-- The engine of a picture is free; one more picture is counted. -/
def engineDone (s : State) (e : Nat) : State :=
  let v := decoderOf s e
  setDecoder s e { v with state := 0, valid := false, picture := none, row := 0, pics := satInc v.pics }

/-- What an engine can take: a saved picture, a picture whose bobbins are granted, or a stream's next unit. -/
inductive Ready where
  | saved (stream : Nat) (p : Picture)
  | granted (stream : Nat) (p : Picture)
  | unit (stream : Nat) (a : AccessUnit)

/-- Place in the order of R261: class, then the order of intake. -/
def readyKey (s : State) : Ready → Nat × Nat
  | .saved k p => (flag (streamDecl (streamOf s k)).review, p.au.order)
  | .granted k p => (flag (streamDecl (streamOf s k)).review, p.au.order)
  | .unit k a => (flag (streamDecl (streamOf s k)).review, a.order)

/-- What stream k offers. -/
def streamReady (s : State) (k : Nat) : Option Ready :=
  let x := streamOf s k
  if s.decoders.any (fun e => e.2.picture.isSome && e.2.stream.toNat == k) then none
  else match s.suspended.find? (fun e => e.1 == k) with
    | some e => some (.saved k e.2)
    | none =>
      if x.state = 2 && x.waitingPic.isSome then x.waitingPic.map (Ready.granted k)
      else if x.state = 1 || x.state = 2 then x.ready.head?.map (Ready.unit k)
      else none

/-- The next ready picture. -/
def nextReady (s : State) : Option Ready :=
  let l := (List.range 256).filterMap (streamReady s)
  let before := fun (a b : Ready) =>
    let u := readyKey s a
    let v := readyKey s b
    decide (u.1 < v.1) || (u.1 == v.1 && decide (u.2 < v.2))
  match l with
  | [] => none
  | r :: t => some (t.foldl (fun b e => if before e b then e else b) r)

/-- A live picture is ready. -/
def liveReady (s : State) : Bool :=
  match nextReady s with
  | none => false
  | some r => (readyKey s r).1 == 0

/-- A picture begins or goes on, on engine e. -/
def beginOn (s : State) (e k : Nat) (p : Picture) : State :=
  let v := decoderOf s e
  let review := (streamDecl (streamOf s k)).review
  setDecoder s e { v with
    state := if review then 2 else 1, row := p.row, valid := true, stream := BitVec.ofNat 8 k, picture := some p }

/-! ### Rejects (R247, R264, R267) -/

def decodeEvent (k : Nat) (st : Status) (number symbols budget : Nat) : Bytes :=
  eventData [(0, toLE 2 k), (2, toLE 2 st.toNat), (4, toLE 4 number), (8, toLE 4 symbols), (12, toLE 4 budget)]

/-- A picture of stream k is not delivered: its bobbins and its access unit go. -/
def losePicture (s : State) (k : Nat) (p : Picture) (st : Status) : State :=
  let s := dropBobbins s k (pictureBobbins p ++ [p.au.handle])
  modStream s k (fun x => { x with dropped := x.dropped + 1, lastStatus := st })

/-- A picture is rejected. -/
def rejectPicture (s : State) (k : Nat) (p : Picture) (symbols : Nat) (st : Status) : State :=
  let budget := budgetOf (streamOf s k) p
  let n := (streamOf s k).part.val
  let s := modStream (losePicture s k p st) k (fun x => { x with rejected := satInc x.rejected })
  let s := setLife s { s.boot.life with decodeReject := satInc s.boot.life.decodeReject }
  enterSeek (raiseEvent s 0x0201 (some n) (decodeEvent k st p.number symbols budget)) k

/-- The header of a picture breaks its standard or its declaration; an access unit known to be incomplete ends
before every block is decoded. -/
def headerFailure (x : Stream) (a : AccessUnit) (i : PicInfo) : Option Status :=
  let d := streamDecl x
  if i.broken then some stBadArgument
  else if declW16 d < i.codedWidth || declH16 d < i.codedHeight || d.maxRefs < i.refsNeeded || d.reorder < i.reorder
      || !i.refers.all (fun r => x.refs.any (fun e => e.1 == r)) || a.incomplete then some stDimExceeds
  else none

/-! ### PICTURE_START -/

/-- The bobbins a picture needs as one GROUP (R256). -/
def pictureGroup (x : Stream) (k : Nat) (i : PicInfo) : List (Nat × BitVec 16) :=
  let d := streamDecl x
  (if i.outputs then [(d.fbPool, ownerStream k)] else []) ++ (if i.isRef && d.codec ≠ 3 then [(d.refPool, ownerStream k)] else [])

/-- The GROUP of a picture: the picture with its bobbins. -/
def acquirePicture (s : State) (k : Nat) (p : Picture) (i : PicInfo) : State × Option Picture :=
  let x := streamOf s k
  let r := groupAcquire s x.part.val (pictureGroup x k i)
  match r.2 with
  | none => (r.1, none)
  | some hs =>
    let frame := if i.outputs then hs.head? else none
    let slot := if i.outputs then hs.tail.head? else hs.head?
    (r.1, some { p with frame := frame, slot := slot })

/-- The stream begins to run; a random-access point taken in SEEK keeps the entry in mind (R248). -/
def runStream (x : Stream) (i : PicInfo) (fromSeek : Bool) : Stream :=
  { x with state := 2, seekEntered := if i.rap then fromSeek else x.seekEntered }

/-- A unit leaves the front of its stream. -/
def takeUnitOf (x : Stream) : Stream := { x with ready := x.ready.tail }

/-- The next unit of stream k, with its syntax: discarded, rejected, made to wait, or begun on engine e. -/
def startUnit (s : State) (e k : Nat) (a : AccessUnit) (i : PicInfo) : State :=
  let x := streamOf s k
  let seek := x.state = 1
  let s := setStream s k (takeUnitOf x)
  if seek && !i.rap then
    modStream (dropBobbins s k [a.handle]) k (fun x => { x with discarded := satInc x.discarded, dropped := x.dropped + 1 })
  else if i.rasl && x.seekEntered && !i.rap then
    modStream (dropBobbins s k [a.handle]) k (fun x => { x with dropped := x.dropped + 1 })
  else
    let p : Picture := { number := x.pictures, info := some i, au := a, start := s.time.toNat }
    let s := modStream s k (fun x => { x with pictures := x.pictures + 1 })
    match headerFailure x a i with
    | some st => engineDone (rejectPicture s k p 0 st) e
    | none =>
      match acquirePicture s k p i with
      | (t, none) =>
        modStream t k (fun x => { x with state := 3, waitingPic := some { p with since := s.time.toNat }
                                         seekEntered := if i.rap then seek else x.seekEntered })
      | (t, some p) => beginOn (modStream t k (fun x => runStream x i seek)) e k p

/-- What is known of a picture of stream x: an H.264 recovery point counts as a random-access point where the
declaration sets RECOVERY, and every JPEG picture is one (R248). -/
def knownInfo (x : Stream) (i : PicInfo) : PicInfo :=
  let d := streamDecl x
  { i with rap := i.rap || d.codec == 3 || (d.codec == 0 && d.recovery && i.recoveryPoint) }

/-- PICTURE_START: a free engine takes the next ready picture; one that has just saved a context takes a live
one. -/
def pictureStart (s : State) (e : Nat) (i : PicInfo) : State :=
  let v := decoderOf s e
  if v.state ≠ 0 && v.state ≠ 3 then s
  else if v.state = 3 && !liveReady s then setDecoder s e { v with state := 0 }
  else match nextReady s with
    | none => s
    | some (.saved k p) => beginOn { s with suspended := s.suspended.filter (fun u => u.1 ≠ k) } e k p
    | some (.granted k p) => beginOn (modStream s k (fun x => { x with waitingPic := none })) e k { p with start := s.time.toNat }
    | some (.unit k a) => startUnit (setDecoder s e { v with state := 0 }) e k a (knownInfo (streamOf s k) i)

def execPictureStart (engine : Fin 8) (info : PicInfo) (s : State) : Host.Outcome State Fault Refusal :=
  finish s (pictureStart s engine info)

/-- CONTEXT_SWITCH (R262): a review picture stops at a block-row boundary where a live picture is ready and no
engine is free. -/
def contextSwitch (s : State) (e : Nat) (row : BitVec 12) : State :=
  let v := decoderOf s e
  match v.picture with
  | none => s
  | some p =>
    if v.state ≠ 2 || (List.range 8).any (fun k => (decoderOf s k).state = 0) || !liveReady s then s
    else
      let t := { s with suspended := s.suspended ++ [(v.stream.toNat, { p with row := row })] }
      setDecoder t e { v with state := 3, row := 0, valid := false, picture := none }

def execContextSwitch (engine : Fin 8) (row : BitVec 12) (s : State) : Host.Outcome State Fault Refusal :=
  finish s (contextSwitch s engine row)

/-- WAIT_BUF_RETRY (R256). -/
def waitBufRetry (s : State) (k : Nat) : State :=
  let x := streamOf s k
  match x.waitingPic with
  | none => s
  | some p =>
    match p.info with
    | none => s
    | some i =>
      if x.state ≠ 3 then s
      else match acquirePicture s k p i with
        | (t, none) => t
        | (t, some p) => modStream t k (fun x => { x with state := 2, waitingPic := some p })

def execWaitBufRetry (stream : Fin 256) (s : State) : Host.Outcome State Fault Refusal := finish s (waitBufRetry s stream)

/-- PICTURE_DROP (R257). -/
def pictureDrop (s : State) (k : Nat) : State :=
  let x := streamOf s k
  match x.waitingPic with
  | none => s
  | some p =>
    if x.state ≠ 3 || (streamDecl x).review || s.time.toNat ≤ p.since + (streamDecl x).waitLimit then s
    else
      let t := modStream (losePicture s k p stNoBuffer) k (fun x => { x with waitingPic := none, discarded := satInc x.discarded })
      enterSeek t k

def execPictureDrop (stream : Fin 256) (s : State) : Host.Outcome State Fault Refusal := finish s (pictureDrop s stream)

/-! ### The end of a picture -/

/-- The frame-buffer header (R253). -/
def frameHeader (x : Stream) (k : Nat) (p : Picture) (i : PicInfo) (finish symbols : Nat) : Bytes :=
  let d := streamDecl x
  fit 256 (toLE 2 k ++ toLE 1 d.codec
    ++ toLE 1 (packBits [(0, flag i.rap), (1, flag i.intra), (2, flag i.tenBit), (3, flag i.mono), (4, flag i.reshown)])
    ++ toLE 4 p.number ++ toLE 8 p.au.time.toNat ++ toLE 2 i.width ++ toLE 2 i.height ++ toLE 4 (declPitch d)
    ++ toLE 4 (256 + declPitch d * declH16 d) ++ toLE 4 x.dropped ++ toLE 8 p.start ++ toLE 8 finish ++ toLE 4 symbols)

/-- Rows of a plane put at a pitch. -/
def putRows (x : Partition) (at' pitch width rows : Nat) (b : Bytes) : Partition :=
  (List.range rows).foldl (fun x r => unitPut x (at' + r * pitch) (fit width (slice b (r * width) width))) x

/-- The planes of a picture, cropped; bytes outside it are undefined (R252). -/
def putFrame (x : Partition) (tag : Nat) (d : DecodeDecl) (h : Word) (i : PicInfo) (header luma chroma : Bytes) : Partition :=
  let a := (bobbinRange x h).1
  let x := { x with region := storeUndef x.region (a + 256) (declPitch d * declH16 d * 3 / 2) tag }
  let x := unitPut x a header
  let x := putRows x (a + 256) (declPitch d) i.width i.height luma
  putRows x (a + 256 + declPitch d * declH16 d) (declPitch d) (2 * ceilDiv i.width 2) (ceilDiv i.height 2) chroma

/-- What a decoder reads for a picture: its access unit and the slots it refers to; and the frame buffer and
reference slot it writes. -/
def pictureRanges (x : Partition) (st : Stream) (p : Picture) : List (Nat × Nat) :=
  ((bobbinRange x p.au.handle).1, p.au.bytes)
    :: ((st.refs.filter (fun e => p.info.any (fun i => i.refers.contains e.1))).map (·.2) ++ pictureBobbins p).map
      (fun h => bobbinRange x h)

/-- A decoder read of the picture, or a write of its frame buffer or reference slot, meets bytes in error
(R503, R505). -/
def pictureBad (x : Partition) (st : Stream) (p : Picture) : Bool :=
  !x.badHalves.isEmpty && (pictureRanges x st p).any (fun e => badRead x e.1 e.2)

/-- A picture is abandoned (R266). -/
def abandonPicture (s : State) (e k : Nat) (p : Picture) : State :=
  let x := streamOf s k
  let b := budgetOf x p
  let t := modStream (losePicture s k p stBudgetExceeded) k (fun x => { x with abandoned := satInc x.abandoned })
  let t := setLife t { t.boot.life with decodeAbandon := satInc t.boot.life.decodeAbandon }
  enterSeek (raiseEvent (engineDone t e) 0x0202 (some x.part.val) (decodeEvent k stBudgetExceeded p.number b b)) k

/-- References after a picture: its own slot joins, and slots without a mark are released (R263). -/
def updateRefs (s : State) (k : Nat) (p : Picture) (i : PicInfo) : State :=
  let x := streamOf s k
  let gone := x.refs.filter (fun e => i.unmarked.contains e.1)
  let s := dropBobbins s k (gone.map (·.2))
  modStream s k (fun x => { x with
    refs := x.refs.filter (fun e => !i.unmarked.contains e.1) ++ (match p.slot with | none => [] | some h => [(p.number, h)]) })

/-- The picture on engine e, with its stream. -/
def onEngine (s : State) (e : Nat) (f : Nat → Picture → PicInfo → State) : State :=
  let v := decoderOf s e
  match v.picture with
  | none => s
  | some p =>
    match p.info with
    | none => s
    | some i => if v.state = 1 || v.state = 2 then f v.stream.toNat p i else s

/-- PICTURE_COMPLETE. `luma` and `chroma` are the samples of R249, row by row, of the cropped picture. -/
def pictureComplete (s : State) (e symbols : Nat) (luma chroma : Bytes) : State :=
  onEngine s e (fun k p i =>
    let x := streamOf s k
    match partOf s x.part.val with
    | none => s
    | some q =>
      if budgetOf x p < symbols then abandonPicture s e k p
      else if pictureBad q x p then
        engineDone (rejectPicture (dramUncorrectable s x.part.val (pictureRanges q x p) 0xFFFFFFFF 0xFFFF) k p symbols
          stUncorrectable) e
      else
        let now := s.time.toNat
        let s := match p.frame with
          | none => s
          | some h => setPart (drawn s) x.part.val
              (putFrame q s.draws (streamDecl x) h i (frameHeader x k p i now symbols) luma chroma)
        let s := modStream s k (fun x =>
          let x := if intraClass p then { x with avgIntra := newAverage x.avgIntra symbols }
            else { x with avgInter := newAverage x.avgInter symbols }
          { x with lastStatus := stOk })
        let s := dropBobbins (engineDone s e) k [p.au.handle]
        outputPicture (updateRefs s k p i) k { p with finish := now, symbols := symbols } i)

def execPictureComplete (engine : Fin 8) (symbols : Nat) (luma chroma : Bytes) (s : State) :
    Host.Outcome State Fault Refusal :=
  finish s (pictureComplete s engine symbols luma chroma)

/-- PICTURE_REJECT: syntax that breaks its standard, coded data that ends early, or a failed read; the budget
check comes first (R266). -/
def pictureReject (s : State) (e symbols : Nat) (st : Status) : State :=
  onEngine s e (fun k p _ =>
    if budgetOf (streamOf s k) p < symbols then abandonPicture s e k p
    else if st ≠ stBadArgument && st ≠ stDimExceeds && st ≠ stUncorrectable then s
    else engineDone (rejectPicture s k p symbols st) e)

def execPictureReject (engine : Fin 8) (symbols : Nat) (status : Status) (s : State) : Host.Outcome State Fault Refusal :=
  finish s (pictureReject s engine symbols status)

def execPictureAbandon (engine : Fin 8) (s : State) : Host.Outcome State Fault Refusal :=
  finish s (onEngine s engine.val (fun k p _ => abandonPicture s engine.val k p))

/-! ### Closing (R258, R277) -/

/-- A stream enters DRAIN: the unit in assembly, units not begun and a picture that waits are discarded. -/
def beginDrain (s : State) (k : Nat) (flush : Bool) : State :=
  let x := streamOf s k
  let w := match x.waitingPic with | none => [] | some p => pictureBobbins p ++ [p.au.handle]
  let s := dropBobbins s k ((x.assembling.toList ++ x.ready).map (·.handle) ++ w ++ x.refs.map (·.2))
  let s := endReads s (fun r => r.reader == .intake k)
  modStream s k (fun x => { x with
    state := 4, flush := flush, ringStopped := true, entry := none, copied := 0, assembling := none, skipUnit := false
    held := [], ready := [], waitingPic := none, refs := [] })

/-- A host-ring stream of class live is open (R494). -/
def liveRingOpen (s : State) : Bool :=
  s.streams.any (fun e => e.2.state ≠ 0 && e.2.source == 0 && !(streamDecl e.2).review)

/-- LTR (R494): a message where the latency to report has changed; `was` says whether such a stream was open. -/
def reportLtr (was : Bool) (s : State) : State :=
  if liveRingOpen s = was then s else emit s (.ltr (if liveRingOpen s then 20 else 1000))

/-- STREAM_DRAIN_END: nothing of the stream is on an engine; the reorder queue is delivered or released, every
hold goes, and the close completes. -/
def streamDrainEnd (s : State) (k : Nat) : State :=
  let x := streamOf s k
  if x.state ≠ 4 || decoding s k then s
  else
    let n := x.part.val
    let was := liveRingOpen s
    let s := if x.flush then bumpTo s k 0 else s
    let s := releaseHolds s n (ownerStream k)
    let s := leavePipe s k 1
    let s := modStream s k (fun x => { x with state := 0, reorder := [], refs := [] })
    reportLtr was (tryFinishDelete (completeWaiting s 0x0502 (fun d => le d 8 2 == k) stOk []) n)

def execStreamDrainEnd (stream : Fin 256) (s : State) : Host.Outcome State Fault Refusal :=
  finish s (streamDrainEnd s stream)

end Sys2Proof.Machine
end

