-- ==== Sys2Proof/Machine/Intake.lean ====
section
/-! DEFINITION. Stream intake: opening and closing, host rings, and the Ethernet ports (R274 to R288, R306). -/

namespace Sys2Proof.Machine

/-! ### Flows (R275, R286) -/

/-- The Ethernet half of a stream-open body, bytes [91:48]. -/
structure FlowDesc where
  ipv6 : Bool
  bySrc : Bool
  bySsrc : Bool
  reports : Bool
  pt : Nat
  reorder : Nat
  udp : Nat
  ssrc : Word
  dst : Nat
  src : Nat
deriving DecidableEq, Repr

def decodeFlow (b : Bytes) : FlowDesc where
  ipv6 := bitOf (byteAt b 0) 0
  bySrc := bitOf (byteAt b 0) 1
  bySsrc := bitOf (byteAt b 0) 2
  reports := bitOf (byteAt b 0) 3
  pt := byteAt b 1
  reorder := byteAt b 2
  udp := le b 4 2
  ssrc := BitVec.ofNat 32 (le b 8 4)
  dst := le b 12 16
  src := le b 28 16

/-- Field ranges of a flow. -/
def flowSound (b : Bytes) : Bool :=
  let f := decodeFlow b
  decide (byteAt b 0 < 16) && decide (f.pt < 128) && decide (f.reorder ≤ 32) && byteAt b 3 == 0 && decide (1 ≤ f.udp)
    && zeros b 6 2 && (f.bySsrc || f.ssrc == 0) && (f.bySrc || f.src == 0)
    && (f.ipv6 || (decide (f.dst < 2 ^ 32) && decide (f.src < 2 ^ 32)))

def streamFlow (x : Stream) : FlowDesc := decodeFlow x.flow

/-- Stream x has a flow bound to a port. -/
def flowOn (x : Stream) (port : Nat) : Bool := streamRuns x && x.source == port + 1

/-- Two flows of one port overlap. -/
def flowsOverlap (a b : FlowDesc) : Bool :=
  a.ipv6 == b.ipv6 && a.dst == b.dst && a.udp == b.udp
    && !(a.bySrc && b.bySrc && a.src ≠ b.src) && !(a.bySsrc && b.bySsrc && a.ssrc ≠ b.ssrc)

/-- Source filters of a flow agree with a packet. -/
def filtersMatch (f : FlowDesc) (fr : Frame) (ssrc : BitVec 32) : Bool :=
  f.ipv6 == fr.ipv6 && f.dst == fr.dst.toNat && (!f.bySrc || f.src == fr.src.toNat) && (!f.bySsrc || f.ssrc == ssrc)

/-! ### Opening and closing (R275 to R277) -/

/-- Bytes of the body of CMD_STREAM_OPEN lie in range for their source kind. -/
def openFields (x : Partition) (d : Bytes) : Bool :=
  let src := byteAt d 10
  let n := le d 44 4
  decide (le d 8 2 < 256) && decide (src < 3) && decide (byteAt d 11 < 8) && poolHolds x (byteAt d 11) 65536
    && decodeDeclValid x (slice d 12 16)
    && (if src = 0 then
          le d 28 8 % 32 == 0 && le d 36 8 % 8 == 0 && powerOfTwo 4 16 n && zeros d 48 44
        else zeros d 28 20 && flowSound (slice d 48 44))

/-- The port is not enabled for the family, or the flow overlaps one bound to it. -/
def flowRefused (s : State) (d : Bytes) : Bool :=
  let src := byteAt d 10
  if src = 0 then false
  else
    let f := decodeFlow (slice d 48 44)
    let p := netPortOf s (src - 1)
    !p.enabled || (if f.ipv6 then p.ipv6 == 0 else p.ipv4 == 0)
      || s.streams.any (fun e => flowOn e.2 (src - 1) && flowsOverlap (streamFlow e.2) f)

/-- CMD_STREAM_OPEN. -/
def cmdStreamOpen (s : State) (slot : Nat) : State :=
  command s slot 0x0501 [(8, 84)] (fun d =>
    let k := le d 8 2
    let n := descPart d
    let x := streamOf s k
    match partOf s n with
    | none => complete s slot stNotPermitted []
    | some p =>
      if !openFields p d || (x.state ≠ 0 && x.part.val == n) then complete s slot stBadArgument []
      else if x.state ≠ 0 || flowRefused s d then complete s slot stNotPermitted []
      else complete (reportLtr (liveRingOpen s) (setStream s k
        { part := Fin.ofNat 8 n, source := byteAt d 10, auPool := Fin.ofNat 8 (byteAt d 11), decode := slice d 12 16
          ringBase := le d 28 8, ringStatus := le d 36 8, ringEntries := le d 44 4, fn := slotFn s slot
          flow := slice d 48 44, state := 1 })) slot stOk [])

def execCmdStreamOpen (slot : Fin 10) (s : State) : Host.Outcome State Fault Refusal := finish s (cmdStreamOpen s slot)

/-- CMD_STREAM_CLOSE. -/
def cmdStreamClose (s : State) (slot : Nat) : State :=
  command s slot 0x0502 [(8, 3)] (fun d =>
    let k := le d 8 2
    let x := streamOf s k
    if 256 ≤ k || 2 ≤ byteAt d 10 || x.state = 0 || x.state = 4 then complete s slot stBadArgument []
    else if x.part.val ≠ descPart d then complete s slot stNotOwner []
    else beginDrain (deferCompletion s slot) k (bitOf (byteAt d 10) 0))

def execCmdStreamClose (slot : Fin 10) (s : State) : Host.Outcome State Fault Refusal := finish s (cmdStreamClose s slot)

/-! ### Access units (R278 to R280) -/

/-- The unit in assembly is marked incomplete, and counted once. -/
def markIncomplete (x : Stream) : Stream :=
  match x.assembling with
  | none => x
  | some a => if a.incomplete then x else
      { x with assembling := some { a with incomplete := true }, incomplete := satInc x.incomplete }

/-- The unit in assembly has completed intake. -/
def completeUnit (s : State) (k : Nat) : State :=
  let x := streamOf s k
  match x.assembling with
  | none => s
  | some a => setStream (ordered s) k { x with
      assembling := none, ready := x.ready ++ [{ a with order := s.orders }], aus := satInc x.aus, arrival := a.arrival }

/-- A unit begins with a bobbin of AU_POOL; false where none is granted. -/
def beginUnit (s : State) (k : Nat) (time arrival : BitVec 64) : State × Bool :=
  let x := streamOf s k
  let r := acquireBobbin s x.part.val x.auPool.val (ownerStream k)
  match r.2 with
  | none => (r.1, false)
  | some h => (modStream r.1 k (fun x => { x with
      assembling := some { handle := h, time := time, arrival := arrival } }), true)

/-- Bytes of a unit go behind those already there; what outgrows the bobbin is discarded. -/
def appendUnit (s : State) (k : Nat) (b : Bytes) : State :=
  let x := streamOf s k
  match x.assembling, partOf s x.part.val with
  | some a, some p =>
    let r := bobbinRange p a.handle
    let take := b.take (r.2 - a.bytes)
    let s := setPart s x.part.val (regionPut p (r.1 + a.bytes) take)
    let y := { x with assembling := some { a with bytes := a.bytes + take.length } }
    setStream s k (if take.length < b.length then markIncomplete y else y)
  | _, _ => s

/-! ### Host rings (R281 to R283) -/

/-- The next entry of a ring is asked for, where one is outstanding and none is in hand. -/
def readEntryOf (s : State) (k : Nat) : State :=
  let x := streamOf s k
  if x.source ≠ 0 || !streamRuns x || x.ringStopped || x.entry.isSome || x.produced = x.consumed
      || (readOf s (.intake k)).isSome then s
  else issueRead s x.fn (x.ringBase + 32 * (x.consumed.toNat % x.ringEntries)) 32 (.intake k)

/-- MED_RING_DOORBELL. -/
def medRingDoorbell (s : State) (fn k : Nat) (v : Word) : State :=
  let x := streamOf s k
  if x.source ≠ 0 || !streamRuns x || x.ringStopped || !(fn = 0 || fn = x.part.val + 1) then s
  else
    let out := countDiff v x.consumed
    if x.ringEntries < out || out < countDiff x.produced x.consumed then
      setStream s k { x with badEntry := satInc x.badEntry }
    else readEntryOf (setStream s k { x with produced := v }) k

def execMedRingDoorbell (fn : Fn) (stream : Fin 256) (value : Word) (s : State) : Host.Outcome State Fault Refusal :=
  finish s (medRingDoorbell s fn stream value)

/-- One case of R283 is counted. -/
def countBad (s : State) (k : Nat) : State := modStream s k (fun x => { x with badEntry := satInc x.badEntry })

/-- An entry is consumed; the count is written behind an END entry and every 16 entries. -/
def consumeEntry (s : State) (k : Nat) (endFlag : Bool) : State :=
  let s := if endFlag then completeUnit s k else s
  let x := streamOf s k
  let due := endFlag || x.sinceWrite + 1 = 16
  let s := setStream s k { x with
    entry := none, copied := 0, consumed := x.consumed + 1, sinceWrite := if due then 0 else x.sinceWrite + 1 }
  let s := if due then hostWrite s x.fn x.ringStatus (toLE 8 (x.consumed + 1).toNat) else s
  readEntryOf s k

/-- The next piece of a chunk is asked for: at most 4 KiB. -/
def readPiece (s : State) (k : Nat) : State :=
  let x := streamOf s k
  match x.entry with
  | none => s
  | some e => issueRead s x.fn (le e 0 8 + x.copied) (min 4096 (le e 8 4 - x.copied)) (.intake k)

/-- An entry in hand begins: its unit takes a bobbin where START asks for one, and waits where none is
granted (R279). -/
def beginEntry (s : State) (k : Nat) : State :=
  match (streamOf s k).entry with
  | none => s
  | some e =>
    let fl := byteAt e 12
    let r := if bitOf fl 0 then beginUnit s k (BitVec.ofNat 64 (le e 16 8)) 0 else (s, true)
    if r.2 then readPiece (if bitOf fl 2 then modStream r.1 k markIncomplete else r.1) k else r.1

/-- The entry's fields break R281. -/
def entryBroken (e : Bytes) : Bool :=
  le e 8 4 == 0 || decide (16777216 < le e 8 4) || decide (8 ≤ byteAt e 12) || !zeros e 13 3 || !zeros e 24 8

/-- An entry that has been read is handled. -/
def handleEntry (s : State) (k : Nat) (e : Bytes) : State :=
  let open' := (streamOf s k).assembling.isSome
  let fl := byteAt e 12
  if entryBroken e then consumeEntry (modStream (countBad s k) k markIncomplete) k false
  else
    let s := if bitOf fl 2 then countBad s k else s
    if !bitOf fl 0 && !open' then consumeEntry (countBad s k) k (bitOf fl 1)
    else
      let s := if bitOf fl 0 && open' then completeUnit (modStream (countBad s k) k markIncomplete) k else s
      beginEntry (modStream s k (fun x => { x with entry := some e })) k

/-- The host read of an entry or chunk failed (R283, R490). -/
def readFailed (s : State) (k addr : Nat) (endFlag : Bool) : State :=
  let s := raiseHostTimeout s (some (streamOf s k).part.val) 1 addr
  consumeEntry (modStream (countBad s k) k markIncomplete) k endFlag

/-- RING_ENTRY_READ: the entry's bytes, or a failed read; an entry in hand that waits for a bobbin tries
again. -/
def ringEntryRead (s : State) (k : Nat) (entry : Option Bytes) : State :=
  let x := streamOf s k
  match readOf s (.intake k) with
  | none => if x.entry.isSome && streamRuns x then beginEntry s k else s
  | some r =>
    if x.entry.isSome || !streamRuns x then s
    else
      let t := endReads s (fun q => q.reader == .intake k)
      match entry with
      | none => readFailed t k r.addr false
      | some b => handleEntry t k (fit 32 b)

def execRingEntryRead (stream : Fin 256) (entry : Option Bytes) (s : State) : Host.Outcome State Fault Refusal :=
  finish s (ringEntryRead s stream entry)

/-- CHUNK_COPY_COMPLETE: a piece of the entry's chunk, or a failed read. -/
def chunkCopyComplete (s : State) (k : Nat) (data : Option Bytes) : State :=
  let x := streamOf s k
  match readOf s (.intake k), x.entry with
  | some r, some e =>
    let t := endReads s (fun q => q.reader == .intake k)
    let fin := bitOf (byteAt e 12) 1
    match data with
    | none => readFailed t k r.addr fin
    | some b =>
      let n := min 4096 (le e 8 4 - x.copied)
      let t := modStream (appendUnit t k (fit n b)) k (fun x => { x with copied := x.copied + n })
      if x.copied + n < le e 8 4 then readPiece t k else consumeEntry t k fin
  | _, _ => s

def execChunkCopyComplete (stream : Fin 256) (data : Option Bytes) (s : State) : Host.Outcome State Fault Refusal :=
  finish s (chunkCopyComplete s stream data)

/-! ### Ports (R284, R285) -/

/-- CMD_PORT_CONFIG. -/
def cmdPortConfig (s : State) (slot : Nat) : State :=
  command s slot 0x0510 [(8, 10), (20, 20)] (fun d =>
    let p := byteAt d 8
    let fl := byteAt d 9
    let vlan := bitOf fl 1
    if 2 ≤ p || 16 ≤ fl || field fl 2 2 = 3 || (vlan && (le d 10 2 = 0 || 4094 < le d 10 2)) || (!vlan && le d 10 2 ≠ 0)
        || bitOf (byteAt d 12) 0 then complete s slot stBadArgument []
    else if s.streams.any (fun e => flowOn e.2 p) then complete s slot stNotPermitted []
    else
      let x := netPortOf s p
      complete (setNetPort s p { x with
        link := false, enabled := bitOf fl 0, fec := BitVec.ofNat 2 (field fl 2 2)
        vlan := if vlan then some (BitVec.ofNat 12 (le d 10 2)) else none
        mac := BitVec.ofNat 48 (le d 12 6), ipv4 := BitVec.ofNat 32 (le d 20 4), ipv6 := BitVec.ofNat 128 (le d 24 16) })
        slot stOk [])

def execCmdPortConfig (slot : Fin 10) (s : State) : Host.Outcome State Fault Refusal := finish s (cmdPortConfig s slot)

/-- ETH_LINK_CHANGE: the link of an enabled port comes up or goes down. -/
def execEthLinkChange (port : Fin 2) (up : Bool) (s : State) : Host.Outcome State Fault Refusal :=
  let x := netPortOf s port.val
  finish s (setNetPort s port.val { x with link := up && x.enabled })

/-! ### RTP order (R287) -/

/-- Lost packets: the unit that spans the gap is incomplete, or the next one. -/
def spanGap (x : Stream) : Stream :=
  if x.assembling.isSome then markIncomplete x
  else if x.skipUnit then x
  else { x with nextIncomplete := true }

/-- The unit in assembly, or the one that is skipped, ends. -/
def endUnit (s : State) (k : Nat) : State := modStream (completeUnit s k) k (fun x => { x with skipUnit := false })

/-- A unit begins at its first packet; without a bobbin it is discarded whole and the stream enters SEEK (R279). -/
def beginRtpUnit (s : State) (k : Nat) (p : HeldPacket) : State :=
  let x := streamOf s k
  let ext : BitVec 64 := match x.lastTs with
    | none => BitVec.ofNat 64 (2 ^ 32 + p.ts.toNat)
    | some t => x.extTime + BitVec.ofInt 64 (signedOf 32 (p.ts - t).toNat)
  let s := setStream s k { x with lastTs := some p.ts, extTime := ext }
  let r := beginUnit s k ext p.stamp
  if r.2 then
    modStream r.1 k (fun x => { (if x.nextIncomplete then markIncomplete x else x) with nextIncomplete := false })
  else
    enterSeek (modStream r.1 k (fun x => { x with
      skipUnit := true, nextIncomplete := false, discarded := satInc x.discarded, dropped := x.dropped + 1 })) k

/-- A packet in order is depacketised into its unit. -/
def passPacket (s : State) (k : Nat) (p : HeldPacket) : State :=
  let x := streamOf s k
  let busy := x.assembling.isSome || x.skipUnit
  let s := if busy && x.lastTs ≠ some p.ts then endUnit (modStream s k markIncomplete) k else s
  let x := streamOf s k
  let s := if x.assembling.isSome || x.skipUnit then s else beginRtpUnit s k p
  let s := match p.payload with
    | none => modStream s k markIncomplete
    | some b => appendUnit s k b
  let s := modStream s k (fun x => { x with nextSeq := some (p.seq + 1), held := x.held.filter (fun h => h.seq ≠ p.seq) })
  if p.marker then endUnit s k else s

/-- Held packets that follow in order are passed on, with fuel. -/
def passHeld (k : Nat) : Nat → State → State
  | 0, s => s
  | n + 1, s =>
    let x := streamOf s k
    match x.held.find? (fun h => x.nextSeq == some h.seq) with
    | none => s
    | some p => passHeld k n (passPacket s k p)

/-- Distance from the next expected packet. -/
def seqAhead (x : Stream) (q : BitVec 16) : Nat := match x.nextSeq with | none => 0 | some e => (q - e).toNat

/-- The held packet nearest in sequence. -/
def nearestHeld (x : Stream) : Option HeldPacket :=
  match x.held with
  | [] => none
  | p :: r => some (r.foldl (fun b e => if seqAhead x e.seq < seqAhead x b.seq then e else b) p)

/-- The open gap is declared lost. -/
def loseGap (s : State) (k : Nat) : State :=
  let x := streamOf s k
  match nearestHeld x with
  | none => s
  | some p =>
    let s := modStream s k (fun x => { spanGap x with gaps := satAdd x.gaps (seqAhead x p.seq), nextSeq := some p.seq })
    passHeld k x.held.length s

/-- Gaps are declared lost while a packet has been held for REORDER later ones, with fuel. -/
def loseGaps (k : Nat) : Nat → State → State
  | 0, s => s
  | n + 1, s =>
    let x := streamOf s k
    if x.held.any (fun h => decide ((streamFlow x).reorder ≤ h.later)) then loseGaps k n (loseGap s k) else s

/-- A matched RTP packet. -/
def rtpPacket (s : State) (k : Nat) (p : HeldPacket) : State :=
  let x := streamOf s k
  let d := seqAhead x p.seq
  if x.held.any (fun h => h.seq == p.seq) || d = 65535 then setStream s k { x with dup := satInc x.dup }
  else if 32768 ≤ d then setStream s k { x with late := satInc x.late }
  else
    let s := setStream s k { x with held := x.held.map (fun h => { h with later := h.later + 1 }) ++ [p]
                                    nextSeq := some (x.nextSeq.getD p.seq) }
    let s := passHeld k (x.held.length + 1) s
    loseGaps k (x.held.length + 1) s

/-- REORDER_TIMEOUT: a packet has been held for 2 ms. -/
def execReorderTimeout (stream : Fin 256) (s : State) : Host.Outcome State Fault Refusal :=
  finish s (if streamRuns (streamOf s stream.val) then loseGap s stream.val else s)

/-! ### Frames (R284, R286) -/

/-- The stream whose flow a packet matches. -/
def matchingFlow (s : State) (port : Nat) (p : FlowDesc → Bool) : Option Nat :=
  (List.range 256).find? (fun k => flowOn (streamOf s k) port && p (streamFlow (streamOf s k)))

/-- The frame's destination is the port's, the broadcast address, or a multicast group. -/
def macAccepts (x : NetPort) (mac : BitVec 48) : Bool := mac == x.mac || bitOf mac.toNat 0

/-- A frame of a port that is up, past its FCS, its form and its tag. -/
def acceptFrame (s : State) (port : Nat) (f : Frame) (stamp : BitVec 64) : State :=
  let x := netPortOf s port
  let unmatched := setNetPort s port { x with unmatched := satInc x.unmatched }
  match f.body with
  | .arpRequest target sender mac =>
    if x.ipv4 ≠ 0 && target == x.ipv4 then emit s (.ethReply port mac (BitVec.ofNat 128 sender.toNat)) else s
  | .neighbour target sender mac =>
    if x.ipv6 ≠ 0 && target == x.ipv6 then emit s (.ethReply port mac sender) else s
  | .rtp pt seq ts marker ssrc payload =>
    match matchingFlow s port (fun w => filtersMatch w f ssrc && w.udp == f.udpPort.toNat && w.pt == pt) with
    | none => unmatched
    | some k =>
      rtpPacket (setNetPort s port { x with rx := satInc x.rx }) k
        { seq := seq, ts := ts, marker := marker, payload := payload, stamp := stamp }
  | .senderReport ssrc ntp rtp =>
    match matchingFlow s port (fun w => w.reports && filtersMatch w f ssrc && w.udp + 1 == f.udpPort.toNat) with
    | none => unmatched
    | some k => modStream s k (fun y => { y with srNtp := ntp, srRtp := rtp, srStamp := stamp.truncate 32 })
  | .other => unmatched

/-- FRAME_RECEIVE. -/
def frameReceive (s : State) (port : Nat) (f : Frame) (stamp : BitVec 64) : State :=
  let x := netPortOf s port
  if !x.link || !x.enabled then s
  else
    let s := setNetPort s port { x with counter := stamp }
    let x := netPortOf s port
    if !f.fcsOk then setNetPort s port { x with fcs := satInc x.fcs }
    else if !macAccepts x f.dstMac || (x.vlan.isSome && x.vlan ≠ f.vlan) then s
    else if f.malformed then setNetPort s port { x with malformed := satInc x.malformed }
    else acceptFrame s port f stamp

def execFrameReceive (port : Fin 2) (frame : Frame) (stamp : BitVec 64) (s : State) : Host.Outcome State Fault Refusal :=
  finish s (frameReceive s port frame stamp)

end Sys2Proof.Machine
end

