-- ==== Sys2Proof/Machine/LifeLog.lean ====
section
/-! DEFINITION. The life log: its slots, its seconds, its snapshot and its commands (R507 to R511). -/

namespace Sys2Proof.Machine

/-! ### Slots (R507) -/

/-- The slot of the last commit is kept; the working copy goes to the other, or to the older. -/
def commitLife (s : State) : State :=
  let b := s.boot
  let l := { b.life with commits := satInc b.life.commits }
  let toB := match b.slotA, b.slotB with
    | none, _ => false
    | some _, none => true
    | some x, some y => decide (y.commits.toNat < x.commits.toNat)
  let b := { b with life := l, lastSlot := toB, age := 0 }
  setBoot s (if toB then { b with slotB := some l } else { b with slotA := some l })

/-- The valid slot with the higher commit number. -/
def latestLife (b : Boot) : Option LifeLog :=
  match b.slotA, b.slotB with
  | some x, some y => some (if x.commits.toNat < y.commits.toNat then y else x)
  | some x, none => some x
  | none, y => y

/-- The slot is taken and BOOTS counted, once in a start; without a valid slot the log restarts from zero. -/
def takeLife (s : State) : State :=
  let b := s.boot
  if b.bootsCounted then s
  else
    let l := (latestLife b).getD {}
    setBoot s { b with
      life := { l with boots := satInc l.boots }, bootsCounted := true
      rebuilt := b.rebuilt || (latestLife b).isNone }

/-- A dip's cell: depth × 4 + duration (R509). -/
def dipCell (leastMv us : Nat) : Nat :=
  4 * (if 14000 ≤ leastMv then 0 else if 12000 ≤ leastMv then 1 else if 8000 ≤ leastMv then 2 else 3)
    + (if us < 1000 then 0 else if us < 10000 then 1 else if us < 100000 then 2 else 3)

/-- A dip is entered. -/
def enterDip (s : State) (leastMv us : Nat) : State :=
  setLife s { s.boot.life with dips := tbump s.boot.life.dips (dipCell leastMv us) }

/-! ### Seconds (R508, R509) -/

/-- Temperature bin of a junction reading in 1/16 °C. -/
def tempBin (t : BitVec 16) : Nat :=
  let c := t.toInt
  if c < -40 * 16 then 0 else if 110 * 16 ≤ c then 31 else ((c + 720) / 80).toNat

/-- LIFELOG_SECOND: the counters that advance once per second. -/
def lifelogSecond (s : State) : State :=
  if !s.boot.bootsCounted then s
  else
    let l := s.boot.life
    let l := { l with powerOnS := satInc l.powerOnS, op := tbump l.op (s.power.target.toNat - 1) }
    let l := (List.range 4).foldl (fun l d =>
      match (domeOf s d).secondMax with
      | none => l
      | some t => { l with temp := tbump l.temp (32 * d + tempBin t) }) l
    let s := setBoot s { s.boot with life := l, age := satInc s.boot.age }
    (List.range 4).foldl (fun t d =>
      if (domeOf t d).secondMax.isSome then setDome t d { domeOf t d with secondMax := none } else t) s

def execLifelogSecond (s : State) : Host.Outcome State Fault Refusal := finish s (lifelogSecond s)

/-- LIFELOG_COMMIT_TIMER. -/
def execLifelogCommitTimer (s : State) : Host.Outcome State Fault Refusal :=
  finish s (guarded s.boot.bootsCounted s (commitLife s))

/-! ### The snapshot (R510) -/

/-- Words 0 to n - 1 of a table, 4 bytes each. -/
def tableBytes4 (t : Table Word) (n : Nat) : Bytes := (List.range n).flatMap (fun k => toLE 4 (tget t k 0).toNat)

/-- Bytes 0x0000 to 0x257F of a snapshot with a nonce. -/
def snapshotBody (s : State) (nonce : Bytes) : Bytes :=
  let l := s.boot.life
  let w := fun x : Word => toLE 4 x.toNat
  fit 64 (toLE 4 0x474C4651 ++ toLE 4 9664 ++ toLE 8 s.sec.dieId.toNat ++ w l.boots ++ w l.powerOnS
      ++ toLE 8 s.time.toNat ++ w l.commits ++ toLE 1 (flag s.boot.rebuilt))
    ++ fit 32 nonce
    ++ (w l.orderlyStops ++ w l.fatalRestarts ++ w l.decodeAbandon ++ w l.decodeReject ++ w l.powerDisagree
      ++ w l.powerRecal ++ w l.fixedBreach ++ w l.thermalThrottle)
    ++ tableBytes4 l.op 8 ++ tableBytes4 l.dips 16 ++ tableBytes4 l.portRetry 4 ++ tableBytes4 l.portDown 4
    ++ tableBytes4 l.temp 128 ++ tableBytes4 l.droop 32 ++ tableBytes4 l.droopHold 4
    ++ fit 48 ((List.range 5).flatMap (fun d => w (tget l.sramCorr d 0) ++ w (tget l.sramUncorr d 0)))
    ++ (List.range 24).flatMap (fun c =>
      w (tget l.linkCorr c 0) ++ w (tget l.inlineCorr c 0) ++ w (tget l.uncorr c 0) ++ w (tget l.retrain c 0))
    ++ fit 64 (toLE 4 l.columns.length ++ w l.columnsLost)
    ++ fit 8192 (l.columns.flatMap (fit 8))

/-- CMD_LIFELOG_EXPORT (R511). -/
def cmdLifelogExport (s : State) (slot : Nat) : State :=
  command s slot 0x0A01 [(8, 40)] (fun d =>
    if le d 8 8 % 64 ≠ 0 then complete s slot stBadArgument []
    else
      let b := snapshotBody s (slice d 16 32)
      complete (hostWrite s (slotFn s slot) (le d 8 8) (b ++ signed s (ascii "QBN-LIFELOG" ++ b))) slot stOk [])

def execCmdLifelogExport (slot : Fin 10) (s : State) : Host.Outcome State Fault Refusal :=
  finish s (cmdLifelogExport s slot)

/-- CMD_LIFELOG_COMMIT. -/
def cmdLifelogCommit (s : State) (slot : Nat) : State :=
  command s slot 0x0A02 [] (fun _ => complete (commitLife s) slot stOk [])

def execCmdLifelogCommit (slot : Fin 10) (s : State) : Host.Outcome State Fault Refusal :=
  finish s (cmdLifelogCommit s slot)

end Sys2Proof.Machine
end

