-- ==== Sys2Proof/Machine/Mailbox.lean ====
section
/-! DEFINITION. The Moajo mailboxes: their configuration, doorbells and counts, the taking and checking of
commands, and the memory and device commands (R390 to R409, R421, R422). -/

namespace Sys2Proof.Machine

/-! ### Configuration and doorbells (R393, R394, R409) -/

/-- A function may write the registers of mailbox m (R409). -/
def mailboxWriter (fn m : Nat) : Bool := fn == 0 || (decide (m < 8) && fn == m + 1)

/-- A k lies in the range of a ring size (R393). -/
def logWithin (k : BitVec 4) (lo hi : Nat) : Bool := decide (lo ≤ k.toNat) && decide (k.toNat ≤ hi)

/-- Bases and sizes are valid (R393). -/
def mailboxSound (b : Mailbox) : Bool :=
  [b.cmdBase, b.cplBase, b.evtBase, b.statBase].all (fun a => a.toNat % 4096 == 0)
    && logWithin b.cmdLog2 4 12 && logWithin b.cplLog2 5 14 && logWithin b.evtLog2 6 14

/-- Events that firmware start left for the moment mailbox 8 is enabled (R520). -/
def raiseOwed (s : State) : State :=
  let t := if s.boot.owedSeal then raiseSealChange s else s
  let t := if s.boot.owedTamper then raiseTamper t else t
  setBoot t { t.boot with owedSeal := false, owedTamper := false }

/-- A valid enable: every count of R394 zero, the status block written, held reports first (R393, R396). -/
def enableMailbox (s : State) (m : Nat) : State :=
  let b := mailboxOf s m
  let s := setMailbox s m { b with
    enable := true, stopping := false, state := if (runningOf s m).isSome then 2 else 1
    cmdProduced := 0, cmdConsumed := 0, cplProduced := 0, cplConsumed := 0, evtProduced := 0, evtConsumed := 0 }
  let s := writeHeld m b.held.length (hostWrite s (fnOfMailbox m) b.statBase.toNat (zeroBytes 32))
  if m = 8 then raiseOwed s else s

/-- ENABLE is cleared: the command in progress completes first (R393). -/
def disableMailbox (s : State) (m : Nat) : State :=
  let busy := (runningOf s m).isSome
  setMailbox s m { mailboxOf s m with enable := false, stopping := busy, state := if busy then 2 else 0 }

/-- LAN_MB_CFG_WRITE. -/
def mbCfgWrite (s : State) (fn m : Nat) (v : Word) : State :=
  let b := mailboxOf s m
  if !b.present || !mailboxWriter fn m then s
  else if b.enable then (if v.getLsbD 31 then s else disableMailbox s m)
  else
    let b := { b with
      evtLog2 := v.extractLsb' 16 4, cplLog2 := v.extractLsb' 8 4, cmdLog2 := v.extractLsb' 0 4 }
    if !v.getLsbD 31 then setMailbox s m b
    else if mailboxSound b then enableMailbox (setMailbox s m b) m
    else setMailbox s m { b with state := 4 }

def execLanMbCfgWrite (fn : Fn) (mailbox : Fin 9) (value : Word) (s : State) : Host.Outcome State Fault Refusal :=
  finish s (mbCfgWrite s fn mailbox value)

/-- A doorbell write that reaches an enabled mailbox: taken, or ignored and counted (R394). -/
def doorbell (s : State) (fn m : Nat) (ok : Mailbox → Bool) (f : State → State) : State :=
  let b := mailboxOf s m
  if !b.present || !b.enable || !mailboxWriter fn m then s
  else if ok b then f s
  else setMailbox s m { b with badDoorbell := satInc b.badDoorbell }

/-- LAN_MB_CMD_DOORBELL. -/
def cmdDoorbell (s : State) (fn m : Nat) (v : Word) : State :=
  doorbell s fn m
    (fun b => decide (countDiff b.cmdProduced b.cmdConsumed ≤ countDiff v b.cmdConsumed)
      && decide (countDiff v b.cmdConsumed ≤ 2 ^ b.cmdLog2.toNat))
    (fun s => setMailbox s m { mailboxOf s m with cmdProduced := v })

def execLanMbCmdDoorbell (fn : Fn) (mailbox : Fin 9) (value : Word) (s : State) : Host.Outcome State Fault Refusal :=
  finish s (cmdDoorbell s fn mailbox value)

/-- A mailbox that waits for completion space is idle again once it has some. -/
def endSpaceWait (s : State) (m : Nat) : State :=
  let b := mailboxOf s m
  if b.state = 3 && decide (completionLoad s m < 2 ^ b.cplLog2.toNat) then setMailbox s m { b with state := 1 } else s

/-- LAN_MB_CPL_DOORBELL. -/
def cplDoorbell (s : State) (fn m : Nat) (v : Word) : State :=
  doorbell s fn m (fun b => decide (countDiff v b.cplConsumed ≤ countDiff b.cplProduced b.cplConsumed))
    (fun s =>
      let t := setMailbox s m { mailboxOf s m with cplConsumed := v }
      endSpaceWait (writeHeld m (mailboxOf s m).held.length t) m)

def execLanMbCplDoorbell (fn : Fn) (mailbox : Fin 9) (value : Word) (s : State) : Host.Outcome State Fault Refusal :=
  finish s (cplDoorbell s fn mailbox value)

/-- LAN_MB_EVT_DOORBELL. -/
def evtDoorbell (s : State) (fn m : Nat) (v : Word) : State :=
  doorbell s fn m (fun b => decide (countDiff v b.evtConsumed ≤ countDiff b.evtProduced b.evtConsumed))
    (fun s => setMailbox s m { mailboxOf s m with evtConsumed := v })

def execLanMbEvtDoorbell (fn : Fn) (mailbox : Fin 9) (value : Word) (s : State) : Host.Outcome State Fault Refusal :=
  finish s (evtDoorbell s fn mailbox value)

/-! ### The opcode table (R403) -/

/-- Every opcode of the table. -/
def opcodes : List Nat :=
  [0x0101, 0x0201, 0x0202, 0x0203, 0x0204, 0x0301, 0x0302, 0x0310, 0x0311, 0x0320, 0x0321, 0x0401, 0x0402,
   0x0410, 0x0411, 0x0412, 0x0413, 0x0420, 0x0421, 0x0430, 0x0431, 0x0501, 0x0502, 0x0510, 0x0601, 0x0602, 0x0603,
   0x0604, 0x0605, 0x0606, 0x0610, 0x0611] ++
  [0x0701, 0x0702, 0x0703, 0x0801, 0x0802, 0x0803, 0x0804, 0x0805, 0x0806, 0x0810, 0x0811, 0x0812, 0x0813, 0x0901,
   0x0902, 0x0903, 0x0904, 0x0910, 0x0920, 0x0921, 0x0930, 0x0A01, 0x0A02, 0x0B01, 0x0B02]

/-- Opcodes accepted from mailbox 8 only. -/
def onlyMailbox8 (op : Nat) : Bool :=
  [0x02, 0x07, 0x0A, 0x0B].contains (op / 256) ||
    [0x0310, 0x0510, 0x0803, 0x0804, 0x0810, 0x0811, 0x0812, 0x0813, 0x0901, 0x0902, 0x0903, 0x0904, 0x0910].contains op

/-- Opcodes that must carry flag bit 0. -/
def mustBeCritical (op : Nat) : Bool :=
  op / 256 == 0x08 || [0x0310, 0x0901, 0x0902, 0x0904].contains op

/-- Opcodes checked under partition 0's key. -/
def underPart0 (op : Nat) : Bool :=
  [0x0810, 0x0811, 0x0812, 0x0813, 0x0901, 0x0902, 0x0904].contains op

/-- Opcodes that act on the partition in byte [3] (R397). -/
def actsOnPart (op : Nat) : Bool :=
  !([0x02, 0x07, 0x08, 0x0A, 0x0B].contains (op / 256)
    || [0x0101, 0x0510, 0x0901, 0x0902, 0x0903, 0x0904, 0x0910].contains op)

/-- The opening commands (R417), and those among them that read only. -/
def opening (op : Nat) : Bool := decide (0x0801 ≤ op) && decide (op ≤ 0x0805)
def openingRead (op : Nat) : Bool := decide (0x0801 ≤ op) && decide (op ≤ 0x0803)

/-! ### The checks of R397 -/

/-- Checks 2 to 5, for a descriptor from mailbox m. -/
def descriptorFailure (s : State) (m : Nat) (d : Bytes) : Option Status :=
  let op := le d 0 2
  let crit := bitOf (byteAt d 2) 0
  let n := descPart d
  if !opcodes.contains op then some stBadOpcode
  else if (m ≠ 8 && (onlyMailbox8 op || n ≠ m)) || (underPart0 op && n ≠ 0) then some stNotPermitted
  else if 8 ≤ n || 4 ≤ byteAt d 2 || (!crit && !zeros d 96 32) || (crit && op / 256 = 0x0B) then some stBadArgument
  else if (mustBeCritical op && !crit) || (actsOnPart op && (partOf s n).isNone) then some stNotPermitted
  else none

/-- Check 6 (R398, R417): the state with the counter committed, and whether R398 was passed; or the status. -/
def keyedCheck (s : State) (d : Bytes) : Except Status (State × Bool) :=
  let op := le d 0 2
  let n := descPart d
  match tfind s.sec.keys n with
  | none =>
    if !opening op then .error stNotPermitted
    else if zeros d (if openingRead op then 96 else 104) (if openingRead op then 32 else 24) then .ok (s, false)
    else .error stBadArgument
  | some k =>
    if fit 24 (Config.hmacSha512 k.key (d.take 104)) ≠ slice d 104 24 then .error stBadCheck
    else if le d 96 8 ≤ k.last then .error stStaleCounter
    else .ok (setSec s { s.sec with keys := tset s.sec.keys n { k with last := le d 96 8 } }, true)

/-- The host bytes a command reads: their address and number. -/
def hostNeed (d : Bytes) : Option (Nat × Nat) :=
  let op := le d 0 2
  if op = 0x0301 then some (le d 8 8, le d 16 8)
  else if op = 0x0311 then some (le d 8 8, le d 24 4)
  else if op = 0x0601 then some (le d 12 8, 32 * byteAt d 11)
  else if op = 0x0804 || op = 0x0805 then some (le d 8 8, 256)
  else if op = 0x0901 then some (le d 8 8, 64 * byteAt d 16)
  else if op = 0x0903 then some (le d 16 8, 128)
  else if op = 0x0B01 then some (le d 8 8, le d 16 4)
  else none

/-- The command has passed its checks: its host bytes are asked for. -/
def askHostBytes (s : State) (slot : Nat) (d : Bytes) : State :=
  match hostNeed d with
  | none => s
  | some r => issueRead s (slotFn s slot) r.1 r.2 (.lantern slot)

/-- A descriptor in a slot is checked in the order of R397 as from mailbox m; passed, it waits for check 7. -/
def checkDescriptor (s : State) (slot m : Nat) (d : Bytes) : State :=
  let s := { s with running := tset s.running slot { desc := d } }
  match descriptorFailure s m d with
  | some st => complete s slot st []
  | none =>
    if !bitOf (byteAt d 2) 0 then askHostBytes s slot d
    else match keyedCheck s d with
      | .error st => complete s slot st []
      | .ok (t, checked) =>
        askHostBytes { t with running := tset t.running slot { desc := d, checked := checked } } slot d

/-! ### Taking a command (R395, R396) -/

/-- Mailbox m has a head command and no command in progress. -/
def headWaits (s : State) (m : Nat) : Bool :=
  let b := mailboxOf s m
  b.present && b.enable && (runningOf s m).isNone && b.cmdProduced ≠ b.cmdConsumed

/-- Its head command may be taken. -/
def headReady (s : State) (m : Nat) : Bool :=
  headWaits s m && (mailboxOf s m).held.isEmpty && decide (completionLoad s m < 2 ^ (mailboxOf s m).cplLog2.toNat)

/-- The mailbox whose head begins next, in rotating order. -/
def nextMailbox (s : State) : Option Nat :=
  ((List.range 9).map (fun k => (s.lastServed + 1 + k) % 9)).find? (headReady s)

/-- The entry has been read whole: the consumed count goes on and is written (R394). -/
def takeHeadEntry (s : State) (m opcode : Nat) : State :=
  let b := mailboxOf s m
  let c := b.cmdConsumed + 1
  let s := setMailbox s m { b with cmdConsumed := c, state := 2, opcode := BitVec.ofNat 16 opcode }
  hostWrite { s with lastServed := m } (fnOfMailbox m) b.statBase.toNat (toLE 8 c.toNat)

/-- Host address of the head entry. -/
def headAddress (b : Mailbox) : Nat := b.cmdBase.toNat + 128 * (b.cmdConsumed.toNat % 2 ^ b.cmdLog2.toNat)

/-- COMMAND_BEGIN: `entry` is the head entry as the host read returned it, `none` where it
timed out (R408, R490, log entry 49). -/
def commandBegin (s : State) (m : Nat) (entry : Option Bytes) : State :=
  if nextMailbox s ≠ some m then
    (if headWaits s m && !headReady s m then setMailbox s m { mailboxOf s m with state := 3 } else s)
  else
    match entry with
    | none =>
      let at' := headAddress (mailboxOf s m)
      let s := setHif s { s.hif with cplTimeout := satInc s.hif.cplTimeout, nonFatal := s.hif.nonFatal + 1 }
      let s := takeHeadEntry s m 0xFFFF
      let s := raiseHostTimeout s (if m < 8 then some m else none) 0 at'
      completeAs { s with running := tset s.running m {} } m 0xFFFF stHostTimeout []
    | some b => checkDescriptor (takeHeadEntry s m (le (fit 128 b) 0 2)) m m (fit 128 b)

def execCommandBegin (mailbox : Fin 9) (entry : Option Bytes) (s : State) : Host.Outcome State Fault Refusal :=
  finish s (commandBegin s mailbox entry)

/-- RELAYED_COMMAND (R345): a descriptor from the manager, checked as from the mailbox of its partition. -/
def relayedCommand (s : State) (d : Bytes) : State :=
  if s.skein.state ≠ 2 || s.skein.manager || (runningOf s 9).isSome then s
  else checkDescriptor s 9 (descPart (fit 128 d)) (fit 128 d)

def execRelayedCommand (descriptor : Bytes) (s : State) : Host.Outcome State Fault Refusal :=
  finish s (relayedCommand s descriptor)

/-! ### The device and memory commands (R402) -/

/-- CMD_DEV_INFO. -/
def cmdDevInfo (s : State) (slot : Nat) : State :=
  command s slot 0x0101 [] (fun _ =>
    complete s slot stOk (toLE 4 s.sec.fwVersion.toNat ++ toLE 1 s.sec.svRunning
      ++ toLE 1 (flag s.sec.debugDisabled) ++ toLE 1 s.parts.length ++ [1]))

def execCmdDevInfo (slot : Fin 10) (s : State) : Host.Outcome State Fault Refusal := finish s (cmdDevInfo s slot)

/-- Chunks of a model of n bytes (R421). -/
def modelChunks (n : Nat) : Nat := ceilDiv n 1048576

/-- The model key of an image header (R421). -/
def modelKey (s : State) (h : Bytes) : Bytes :=
  Config.hkdfSha512 (slice h 40 32) (Config.x25519 (encryptionSecret s) (slice h 8 32)) (ascii "QBN-MODEL") 32

/-- The chunks of an image opened in order, with fuel of their number; `none` where a tag fails (R421). -/
def openChunks (key aad : Bytes) : Nat → Nat → Bytes → Nat → Option Bytes
  | 0, _, _, _ => some []
  | fuel + 1, i, b, left =>
    let n := min 1048576 left
    match Config.gcmOpen key (toLE 8 i ++ zeroBytes 4) aad (b.take n) (slice b n 16) with
    | none => none
    | some p => (openChunks key aad fuel (i + 1) (b.drop (n + 16)) (left - n)).map (fun r => fit n p ++ r)

/-- Fields of an image's header that R421 and R422 check. -/
def imageHeaderSound (s : State) (b : Bytes) (length : Nat) : Bool :=
  let plain := le b 72 8
  let bank := le b 80 4
  let b0 := le b 84 4
  let b1 := le b 88 4
  le b 0 4 == 0x4C444D51 && le b 4 4 == 1 && slice b 40 32 == fit 32 (identityKey s) && zeros b 92 164
    && decide (1 ≤ plain) && decide (plain < 2 ^ 32) && length == 256 + plain + 16 * modelChunks plain
    && decide (bank ≤ 16777216) && b0 % 256 == 0 && b1 % 256 == 0
    && (bank == 0 || (decide (b0 + bank ≤ plain) && decide (b1 + bank ≤ plain) && !meets b0 bank b1 bank))

/-- The model of an image, or `none` where it fails authentication (R422). -/
def openImage (s : State) (b : Bytes) (length : Nat) : Option Bytes :=
  if imageHeaderSound s b length then
    openChunks (modelKey s b) (b.take 96) (modelChunks (le b 72 8)) 0 (b.drop 256) (le b 72 8)
  else none

/-- A destination for a model leaves the region or overlaps a pool, control area or image (R402). -/
def modelClashes (x : Partition) (a n : Nat) : Bool :=
  decide (regionBytes x < a + n) || touchesAnyImage x a n || touchesCtrl x a n
    || x.pools.any (fun e => meets a n e.2.base (e.2.count.toNat * bobbinBytes e.2))

/-- The image record of a loaded model. -/
def imageRecord (b : Bytes) (a : Nat) : ModelImage :=
  { base := a, length := le b 72 8, bank0 := a + le b 84 4, bank1 := a + le b 88 4, bankLength := le b 80 4 }

/-- Zeros written over a range of a region; halves covered whole are no longer in error. -/
def regionZero (x : Partition) (a n : Nat) : Partition :=
  { x with
    region := storeZero x.region a n
    badHalves := x.badHalves.filter (fun h => !(decide (a ≤ 128 * h) && decide (128 * h + 128 ≤ a + n))) }

/-- CMD_MODEL_LOAD. -/
def cmdModelLoad (s : State) (slot : Nat) (image : Option Bytes) : State :=
  command s slot 0x0301 [(8, 24)] (fun d =>
    let n := descPart d
    let length := le d 16 8
    let a := le d 24 8
    match partOf s n with
    | none => complete s slot stNotPermitted []
    | some _ =>
      if le d 8 8 % 64 ≠ 0 || length < 273 || 4295033087 < length || a % 4096 ≠ 0 then complete s slot stBadArgument []
      else withHost s slot (le d 8 8) image (fun t b =>
        match partOf t n with
        | none => complete t slot stNotPermitted []
        | some x =>
          let plain := le b 72 8
          if modelClashes x a plain then complete t slot stNotPermitted []
          else if badWrite x a plain then complete (dramUncorrectable t n (partialEnds a plain) 0xFFFFFFFF 0xFFFF) slot stUncorrectable []
          else match openImage t b length with
            | none => complete (setPart t n (regionZero x a plain)) slot stBadCheck []
            | some m =>
              let y := regionPut x a m
              complete (setPart t n { y with images := y.images ++ [imageRecord b a] }) slot stOk (toLE 4 plain)))

def execCmdModelLoad (slot : Fin 10) (image : Option Bytes) (s : State) : Host.Outcome State Fault Refusal :=
  finish s (cmdModelLoad s slot image)

/-- A non-terminal job of partition n uses an image: it recorded the image's bank when it started (R176, R370). -/
def imageUsed (s : State) (n base : Nat) (bank : Bool → Bool) : Bool :=
  s.jobs.any (fun e => nonTerminal e.2 && e.2.part.toNat == n && e.2.banks.any (fun b => b.1 == base && bank b.2))

/-- CMD_MODEL_UNLOAD. -/
def cmdModelUnload (s : State) (slot : Nat) : State :=
  command s slot 0x0302 [(8, 8)] (fun d =>
    let n := descPart d
    let a := le d 8 8
    match partOf s n with
    | none => complete s slot stNotPermitted []
    | some x =>
      match x.images.find? (fun i => i.base == a) with
      | none => complete s slot stBadArgument []
      | some i =>
        if x.descs.any (fun e => decide (i.base ≤ e.offset) && decide (e.offset < i.base + i.length))
            || imageUsed s n a (fun _ => true) then complete s slot stNotPermitted []
        else complete (setPart s n { x with images := x.images.filter (fun j => j.base ≠ a) }) slot stOk [])

def execCmdModelUnload (slot : Fin 10) (s : State) : Host.Outcome State Fault Refusal := finish s (cmdModelUnload s slot)

/-- CMD_ADAPTER_INSTALL (R176, R402). -/
def cmdAdapterInstall (s : State) (slot : Nat) : State :=
  command s slot 0x0310 [(8, 1), (16, 20)] (fun d =>
    let n := descPart d
    let src := byteAt d 8
    let from' := le d 16 8
    let length := le d 24 4
    match partOf s n with
    | none => complete s slot stNotPermitted []
    | some x =>
      match x.images.find? (fun i => i.base == le d 28 8) with
      | none => complete s slot stBadArgument []
      | some i =>
        if 8 ≤ src || from' % 256 ≠ 0 then complete s slot stBadArgument []
        else match partOf s src with
          | none => complete s slot stNotPermitted []
          | some y =>
            let dst := if i.active then i.bank0 else i.bank1
            if regionBytes y < from' + length || i.bankLength < length || imageUsed s n i.base (fun b => b == !i.active) then
              complete s slot stNotPermitted []
            else if badRead y from' length then
              complete (dramUncorrectable s src [(from', length)] 0xFFFFFFFF 0xFFFF) slot stUncorrectable []
            else if badWrite x dst length then
              complete (dramUncorrectable s n (partialEnds dst length) 0xFFFFFFFF 0xFFFF) slot stUncorrectable []
            else
              let z := regionPut x dst (storeRead y.region from' length)
              let z := { z with images := z.images.map (fun j =>
                if j.base = i.base then { j with active := !i.active } else j) }
              complete (setPart s n z) slot stOk (toLE 1 (flag (!i.active))))

def execCmdAdapterInstall (slot : Fin 10) (s : State) : Host.Outcome State Fault Refusal :=
  finish s (cmdAdapterInstall s slot)

/-- CMD_MEM_WRITE. -/
def cmdMemWrite (s : State) (slot : Nat) (data : Option Bytes) : State :=
  command s slot 0x0311 [(8, 20)] (fun d =>
    let n := descPart d
    let a := le d 16 8
    let length := le d 24 4
    match partOf s n with
    | none => complete s slot stNotPermitted []
    | some x =>
      if length = 0 || 16777216 < length then complete s slot stBadArgument []
      else if regionBytes x < a + length || touchesAnyImage x a length || touchesCtrl x a length then
        complete s slot stNotPermitted []
      else withHost s slot (le d 8 8) data (fun t b =>
        if badWrite x a length then complete (dramUncorrectable t n (partialEnds a length) 0xFFFFFFFF 0xFFFF) slot stUncorrectable []
        else complete (regionWrite t n a (fit length b)) slot stOk []))

def execCmdMemWrite (slot : Fin 10) (data : Option Bytes) (s : State) : Host.Outcome State Fault Refusal :=
  finish s (cmdMemWrite s slot data)

end Sys2Proof.Machine
end

