-- ==== Sys2Proof/Machine/Partitions.lean ====
section
/-! DEFINITION. The partition commands (R26, R27, R222 to R224, R361 to R364). -/

namespace Sys2Proof.Machine

/-- Spires and granules of a partition command (R361). -/
def bodySpires (d : Bytes) (at' : Nat) : List Nat := bitsSet 32 (le d at' 4)
def bodyGranules (d : Bytes) (at' : Nat) : List Nat := bitsSet 96 (le d at' 12)

/-- Spires a partition holds. -/
def partSpires (s : State) (n : Nat) : List Nat := (List.range 32).filter (partOwnsSpire s n)

/-- A spindle of a spire that is assigned (R26, R164): operand cache, accumulator memory, fallback tile buffers
and loop-descriptor table zeroed, scale slots emptied, their errors cleared (R505). -/
def zeroSpindle (x : Spindle) : Spindle :=
  { x with
    acc := {}, cache := {}, bad := [], vec := { x.vec with fb := {} }
    agen := { x.agen with slots := [] }, scale := { x.scale with slots := [{}, {}, {}, {}] } }

/-- A spire is zeroed and assigned to partition n (R26). -/
def assignSpire (s : State) (n i : Nat) : State :=
  let x := spireOf s i
  let s := setSpire s i { x with owner := some (Fin.ofNat 8 n), cache := {}, bad := [], work := [], sems := [] }
  (List.range 8).foldl (fun t k => setSpindle t (8 * i + k) (zeroSpindle (spindleOf t (8 * i + k)))) s

def assignSpires (s : State) (n : Nat) (l : List Nat) : State := l.foldl (fun t i => assignSpire t n i) s

/-- Granules join a partition (R224): protected ones hold zeros, others hold undefined values until written. -/
def joinGranules (s : State) (n : Nat) (x : Partition) (l : List Nat) : State :=
  let lo := regionBytes x
  let y := { x with granules := x.granules ++ l }
  let more := regionBytes y - lo
  if x.ecc then setPart s n { y with region := storeZero y.region lo more }
  else drawn (setPart s n { y with region := storeUndef y.region lo more s.draws })

/-- LPDDR5 training failed (R216, R362). -/
def trainingFailed (s : State) : Bool := s.channels.any (fun e => e.2.state = 4)

/-- A spire or granule that belongs to a partition other than n. -/
def heldElsewhere (s : State) (n : Nat) (spires granules : List Nat) : Bool :=
  spires.any (fun i => (spireOf s i).owner.any (fun k => k.val ≠ n))
    || granules.any (fun g => (granuleOwner s g).any (· ≠ n))

/-- The first failure of a CREATE (R362). -/
def createFailure (s : State) (d : Bytes) : Option Status :=
  let n := descPart d
  let quota := le d 10 2
  if 2 ≤ byteAt d 8 || quota = 0 || 1024 < quota || (bodySpires d 12).isEmpty || (bodyGranules d 16).isEmpty
      || (partOf s n).isSome then some stBadArgument
  else if heldElsewhere s n (bodySpires d 12) (bodyGranules d 16)
      || 1024 < (s.parts.map (fun e => e.2.quota.toNat)).sum + quota then some stNotPermitted
  else if trainingFailed s then some stUncorrectable
  else none

/-- The effects of a CREATE, in the order of R362. -/
def createPart (s : State) (d : Bytes) : State :=
  let n := descPart d
  let s := assignSpires s n (bodySpires d 12)
  let s := joinGranules s n { ecc := bitOf (byteAt d 8) 0, quota := BitVec.ofNat 11 (le d 10 2) } (bodyGranules d 16)
  let s := drawn (modPart s n (fun x => { x with keyTag := s.draws }))
  setMailbox s n { present := true }

/-- CMD_PART_CREATE. -/
def cmdPartCreate (s : State) (slot : Nat) : State :=
  command s slot 0x0201 [(8, 1), (10, 18)] (fun d =>
    match createFailure s d with
    | some st => complete s slot st []
    | none => complete (createPart s d) slot stOk [])

def execCmdPartCreate (slot : Fin 10) (s : State) : Host.Outcome State Fault Refusal := finish s (cmdPartCreate s slot)

/-- CMD_PART_DELETE: its first two steps begin here; the rest follows once no stream or pipeline is left
(`tryFinishDelete`). -/
def cmdPartDelete (s : State) (slot : Nat) : State :=
  command s slot 0x0202 [] (fun d =>
    let n := descPart d
    if (partOf s n).isNone then complete s slot stBadArgument []
    else if s.jobs.any (fun e => nonTerminal e.2 && e.2.part.toNat == n) then complete s slot stNotPermitted []
    else
      let t := deferCompletion s slot
      let t := ((t.streams.filter (fun e => e.2.state ≠ 0 && e.2.state ≠ 4 && e.2.part.val == n)).map (·.1)).foldl
        (fun t k => beginDrain t k false) t
      let t := ((t.pipes.filter (fun e => e.2.valid && e.2.part.val == n)).map (·.1)).foldl
        (fun t i => settlePipe (beginRemove t i false) i) t
      tryFinishDelete t n)

def execCmdPartDelete (slot : Fin 10) (s : State) : Host.Outcome State Fault Refusal := finish s (cmdPartDelete s slot)

/-- The first failure of a GROW (R362, R363). -/
def growFailure (s : State) (d : Bytes) (x : Partition) : Option Status :=
  let n := descPart d
  let spires := bodySpires d 12
  let granules := bodyGranules d 16
  if heldElsewhere s n spires granules || spires.any (partOwnsSpire s n) || granules.any x.granules.contains
      || granules.any (fun g => x.granules.any (fun h => g < h)) then some stNotPermitted
  else if trainingFailed s then some stUncorrectable
  else none

/-- CMD_PART_GROW. -/
def cmdPartGrow (s : State) (slot : Nat) : State :=
  command s slot 0x0203 [(12, 16)] (fun d =>
    match partOf s (descPart d) with
    | none => complete s slot stBadArgument []
    | some x =>
      match growFailure s d x with
      | some st => complete s slot st []
      | none =>
        let t := assignSpires s (descPart d) (bodySpires d 12)
        let t := if (bodyGranules d 16).isEmpty then t else joinGranules t (descPart d) x (bodyGranules d 16)
        complete t slot stOk [])

def execCmdPartGrow (slot : Fin 10) (s : State) : Host.Outcome State Fault Refusal := finish s (cmdPartGrow s slot)

/-- Something that keeps a granule lies at or above region offset lo (R363). -/
def keptAbove (x : Partition) (lo : Nat) : Bool :=
  let above := fun a k => decide (lo < a + k)
  x.pools.any (fun e => (poolRanges e.2).any (fun r => above r.1 r.2))
    || x.images.any (fun i => above i.base i.length)
    || x.skQueues.any (fun e => e.2.receive && above e.2.base (e.2.slots * slotBytes e.2))

/-- A spire holds a semaphore or work counter that a description or a skein binding of the partition names
(R363). -/
def spireNamed (s : State) (n : Nat) (x : Partition) (i : Nat) : Bool :=
  x.descs.any (fun e => (namedSpires (namedBy x e.offset)).contains i)
    || x.skQueues.any (fun e => e.2.semSpire == i || e.2.freeSpire == i)
    || s.skein.barriers.any (fun e => e.2.part.val == n && e.2.spire == i)

/-- The partition's region without its granules above the first k. -/
def cutGranules (x : Partition) (k : Nat) : Partition :=
  let y := { x with granules := x.granules.take k }
  let lo := regionBytes y
  { y with
    region := storeZero y.region lo (regionBytes x - lo)
    badHalves := y.badHalves.filter (fun h => 128 * h < lo) }

/-- The first failure of a SHRINK (R27, R362, R363). -/
def shrinkFailure (s : State) (d : Bytes) (x : Partition) : Option Status :=
  let n := descPart d
  let spires := bodySpires d 12
  let granules := bodyGranules d 16
  let keep := x.granules.length - granules.length
  if spires.any (fun i => !partOwnsSpire s n i) || granules.any (fun g => !x.granules.contains g)
      || s.jobs.any (fun e => nonTerminal e.2 && e.2.part.toNat == n)
      || granules.any (fun g => (x.granules.take keep).any (fun h => g < h))
      || keep = 0 || (partSpires s n).length = spires.length
      || (!granules.isEmpty && keptAbove x (regionBytes { x with granules := x.granules.take keep }))
      || spires.any (spireNamed s n x) then some stNotPermitted
  else none

/-- CMD_PART_SHRINK. -/
def cmdPartShrink (s : State) (slot : Nat) : State :=
  command s slot 0x0204 [(12, 16)] (fun d =>
    match partOf s (descPart d) with
    | none => complete s slot stBadArgument []
    | some x =>
      match shrinkFailure s d x with
      | some st => complete s slot st []
      | none =>
        let t := (bodySpires d 12).foldl (fun t i => setSpire t i { spireOf t i with owner := none }) s
        let k := x.granules.length - (bodyGranules d 16).length
        complete (setPart t (descPart d) (cutGranules x k)) slot stOk [])

def execCmdPartShrink (slot : Fin 10) (s : State) : Host.Outcome State Fault Refusal := finish s (cmdPartShrink s slot)

end Sys2Proof.Machine
end

