-- ==== Sys2Proof/Machine/Restart.lean ====
section
/-! DEFINITION. Host loss, and what a loss of power, a PERST# or a fatal restart leaves of the state (R467, R495,
R496, R506, R514). -/

namespace Sys2Proof.Machine

/-- Every function. -/
def allFns : List Nat := List.range 9

/-! ### Host loss (R496) -/

/-- The command of a mailbox lost with its host: one that waits for host bytes is dropped, any other completes
unseen. -/
def loseCommand (s : State) (m : Nat) : State :=
  match runningOf s m with
  | none => s
  | some r =>
    if (readOf s (.lantern m)).isSome then { s with running := tdel s.running m }
    else { s with running := tset s.running m { r with discard := true } }

/-- A mailbox is disabled by host loss. -/
def loseMailbox (s : State) (m : Nat) : State :=
  let s := loseCommand s m
  if !(mailboxOf s m).present then s
  else if (mailboxOf s m).enable then disableMailbox s m
  else if (runningOf s m).isNone then mailboxRest s m
  else s

/-- The agent of an abandoned read drops its work: a host slot becomes a padding slot, a recovery is idle again, a
relayed command is gone (log entry 35). -/
def dropReader (s : State) (r : HostReader) : State :=
  match r with
  | .hostSlot u =>
    (match (prepUnitOf s u).item with
    | none => s
    | some w =>
      let t := unitFree s u
      match itemSlot t w with
      | none => t
      | some (x, v, b, k) => if k.done then t else fillSlot t w x v b (padSlot (decodeDecl v.decl)) k.flags)
  | .recovery => setBoot s { s.boot with recState := 0 }
  | .lantern slot => if slot = 9 then { s with running := tdel s.running 9 } else s
  | _ => s

/-- The reads and waiting writes of functions are abandoned, and their translations removed. -/
def abandonRequests (s : State) (fns : List Nat) : State :=
  let l := s.hif.reads.filter (fun r => fns.contains r.fn)
  let s := l.foldl (fun t r => dropReader t r.reader) s
  let h := s.hif
  setHif s { h with
    reads := h.reads.filter (fun r => !fns.contains r.fn)
    abandoned := h.abandoned ++ (l.filter (fun r => !r.answered)).map (·.tag)
    heldWrites := h.heldWrites.filter (fun o => match outputFn o with | none => true | some f => !fns.contains f)
    xlateSent := h.xlateSent.filter (fun e => !fns.contains e.1)
    invWaiting := h.invWaiting.filter (fun e => !fns.contains e.1)
    cache := h.cache.filter (fun e => !fns.contains e.fn) }

/-- An output ring is marked lost; its waiting records are discarded and counted. -/
def loseRing (x : ORing) : ORing := { x with gone := true, lost := satAdd x.lost x.waiting.length, waiting := [] }

/-- A host ring stops reading; the unit in assembly is incomplete. -/
def loseStream (x : Stream) : Stream := { markIncomplete x with ringStopped := true, entry := none, copied := 0 }

/-- Objects created through functions lose their host. -/
def loseObjects (s : State) (fns : List Nat) : State :=
  { s with
    orings := s.orings.map (fun e => (e.1, if e.2.valid && fns.contains e.2.fn then loseRing e.2 else e.2))
    streams := s.streams.map (fun e =>
      (e.1, if streamRuns e.2 && e.2.source == 0 && fns.contains e.2.fn then loseStream e.2 else e.2)) }

/-- Mailboxes of functions. -/
def mailboxesOf (fns : List Nat) : List Nat := (List.range 9).filter (fun m => fns.contains (fnOfMailbox m))

/-- HOST_LOSS of the objects of functions, with the cause and function HIF_RESET shows (R496, R498). Pipelines that
waited for space of a lost ring go on. -/
def hostLoss (s : State) (fns : List Nat) (cause function : Nat) : State :=
  let s := (mailboxesOf fns).foldl loseMailbox s
  let s := loseObjects (abandonRequests s fns) fns
  let s := setHif s { s.hif with
    hostLosses := satInc s.hif.hostLosses, lastCause := BitVec.ofNat 4 cause, lastFunction := BitVec.ofNat 4 function }
  (s.pipes.map (·.1)).foldl settlePipe s

/-- Configuration space of functions at its defaults (R495, log entry 7). -/
def cfgDefaults (s : State) (fns : List Nat) : State :=
  setHif s { s.hif with
    cfg := s.hif.cfg.filter (fun e => !fns.contains e.1), msix := s.hif.msix.filter (fun e => !fns.contains (e.1 / 3)) }

/-- The virtual functions are gone (R483). -/
def noVfs (s : State) : State := setHif s { s.hif with vfEnable := false, numVfs := 0 }

/-- The link is down. -/
def linkDown (s : State) : State :=
  setHif s { s.hif with linkUp := false, speed := 0, width := 0, pm := 0, fatalWait := false, aspm := false, l11 := false, l12 := false }

/-! ### What MRAM, fuses and the rails keep -/

/-- What fuses and MRAM keep of the keys and settings (R410, R424, R428). -/
def keptSecurity (x : Security) : Security :=
  { x with keys := [], reports := [], svRunning := 0, fwHash := [], fwVersion := 0 }

/-- The bypass maps of the arrays, in configuration MRAM (R95). -/
def keptMaps (t : Table Spindle) : Table Spindle :=
  (t.filter (fun e => e.2.arr.bypass ≠ 0)).map (fun e => (e.1, { arr := { bypass := e.2.arr.bypass } }))

/-- What outlives a loss of power: fuses, MRAM, flash, the carrier's PERST#, and the Belfry (R434, R507). -/
def coldState (s : State) : State :=
  let boot : Boot := { flash := s.boot.flash, slotA := s.boot.slotA, slotB := s.boot.slotB, lastSlot := s.boot.lastSlot, perst := s.boot.perst }
  { pending := s.pending, draws := s.draws, out := s.out, orders := s.orders
    spindles := keptMaps s.spindles, sec := keptSecurity s.sec, belfry := s.belfry, boot := boot }

/-- What a dome keeps while power stays: its counters and what its sensors show (R41, R480, R512). -/
def keptDome (x : Dome) : Dome := { x with nextStart := 0, lastSize := 0, fraction := 0xFF#8 }

/-- Counters of a channel, kept until loss of power (R226). -/
def keptChannel (x : Channel) : Channel :=
  { linkCorr := x.linkCorr, inlineCorr := x.inlineCorr, uncorr := x.uncorr, uncorrValid := x.uncorrValid
    uncorrPart := x.uncorrPart, uncorrGranule := x.uncorrGranule, retrain := x.retrain, lastEvent := x.lastEvent }

/-- Counters of an Ethernet port and of a Burava port. -/
def keptNetPort (x : NetPort) : NetPort :=
  { rx := x.rx, fcs := x.fcs, malformed := x.malformed, unmatched := x.unmatched, counter := x.counter }
def keptLink (x : LinkPort) : LinkPort := { crc := x.crc, fec := x.fec, retry := x.retry, lastEvent := x.lastEvent }

/-- Counters of the endpoint and LAST_CAUSE, kept through every reset but loss of power (R498). -/
def keptHif (h : HostIf) : HostIf :=
  { l1Entries := h.l1Entries, cplTimeout := h.cplTimeout, poisoned := h.poisoned, unexpected := h.unexpected
    xlateFail := h.xlateFail, lastCause := h.lastCause, lastFunction := h.lastFunction, hostLosses := h.hostLosses
    invalidations := h.invalidations, nextTag := h.nextTag, abandoned := h.abandoned, advisory := h.advisory
    correctable := h.correctable, nonFatal := h.nonFatal, fatal := h.fatal }

/-- What the start and the life log keep while the rails stay up. -/
def keptBoot (b : Boot) : Boot :=
  { requested := b.requested, rails := b.rails, started := b.started, perst := b.perst, pg := b.pg, stopPin := b.stopPin
    flash := b.flash, slotA := b.slotA, slotB := b.slotB, lastSlot := b.lastSlot, rebuilt := b.rebuilt
    lanSramUncorr := b.lanSramUncorr, lanSramCorr := b.lanSramCorr }

/-- What a restart with the rails up leaves (R495, R506): beside what outlives a loss of power, the counters that only
a loss of power clears, the local time, and the front end. -/
def warmState (s : State) : State :=
  let skein : Skein := { ports := s.skein.ports.map (fun e => (e.1, keptLink e.2)) }
  { coldState s with
    time := s.time
    domes := s.domes.map (fun e => (e.1, keptDome e.2))
    channels := s.channels.map (fun e => (e.1, keptChannel e.2))
    decoders := s.decoders.map (fun e => (e.1, { pics := e.2.pics }))
    netPorts := s.netPorts.map (fun e => (e.1, keptNetPort e.2))
    prepSat := s.prepSat, prepUfl := s.prepUfl
    skein := skein, hif := keptHif s.hif, boot := keptBoot s.boot
    power := { s.power with recal := [], admitted := 0, quietSamples := 0, stopping := false } }

/-! ### The orderly stop (R467) -/

/-- EV_SUPPLY_DIP (R406): bit 0 of `flags` an orderly stop begun, bit 1 an overvoltage. -/
def raiseSupplyDip (s : State) (millivolts microseconds flags : Nat) : State :=
  raiseEvent s 0x0304 none (eventData [(0, toLE 4 millivolts), (4, toLE 4 microseconds), (8, toLE 1 flags)])

/-- Step 4 of the stop, where the life log has been taken: a dip is entered, the stop counted, the log committed. -/
def commitStop (s : State) (dip : Option (Nat × Nat)) : State :=
  if !s.boot.bootsCounted then s
  else
    let s := match dip with | none => s | some d => enterDip s d.1 d.2
    commitLife (setLife s { s.boot.life with orderlyStops := satInc s.boot.life.orderlyStops })

/-- ORDERLY_STOP, run to its end: its event, its commits, and the rails off. -/
def orderlyStop (s : State) (millivolts microseconds flags : Nat) (dip : Option (Nat × Nat)) : State :=
  coldState (commitStop (raiseSupplyDip s millivolts microseconds flags) dip)

/-- An orderly stop whose cause is no supply event: spec/ states no input and duration for its event record (log entry
36). -/
def orderlyStopInside (s : State) : State :=
  orderlyStop (drawn (drawn s)) (Config.freeNat s.draws) (Config.freeNat (s.draws + 1)) 1 none

end Sys2Proof.Machine
end

