-- ==== Sys2Proof/Machine/Power.lean ====
section
/-! DEFINITION. The supply, the power controller, thermal control and their commands (R462 to R480). -/

namespace Sys2Proof.Machine

/-! ### Limits (R462, R471) -/

/-- The ceiling in mW (R424). -/
def ceilingMw (s : State) : Nat := 120000 - 5000 * s.sec.ceilSteps

/-- The power limit in force: the limit set, capped by the band the input lies in (R462). -/
def limitInForce (p : Power) : Nat :=
  let mv := 10 * p.voltage.toNat
  if p.dip then min p.limit.toNat 60000
  else if 16000 ≤ mv && mv < 18000 then min p.limit.toNat 80000
  else p.limit.toNat

/-- The latest measured and estimated power, mW. -/
def lastSample (p : Power) : Nat × Nat := p.samples.headD (0, 0)

/-! ### The target point (R469, R470, R472) -/

/-- POINT of a POWER byte: 0 is OP5. -/
def powerPoint (b : BitVec 8) : Nat := if b.toNat % 8 = 0 then 5 else b.toNat % 8

/-- A job holds resources in fixed-rate mode. -/
def fixedHolder (j : Job) : Bool := jobHolds j && bitOf j.power.toNat 3

/-- POINTs of the jobs that hold resources, and of the fixed-rate ones among them. -/
def heldPoints (s : State) : List Nat := (s.jobs.filter (fun e => jobHolds e.2)).map (fun e => powerPoint e.2.power)
def fixedPoint (s : State) : Nat :=
  ((s.jobs.filter (fun e => fixedHolder e.2)).map (fun e => powerPoint e.2.power)).foldl max 0

/-- R472: boost is allowed. -/
def boostAllowed (s : State) : Bool :=
  let p := s.power
  !s.jobs.any (fun e => fixedHolder e.2) && (heldPoints s).contains 7
    && p.samples.length == 100 && p.samples.all (fun e => decide (100 * e.1 ≤ 85 * limitInForce p))
    && (List.range 4).all (fun d => decide ((domeOf s d).junction.toInt < 85 * 16))
    && decide (2000 ≤ p.voltage.toNat) && !p.measuredOnly

/-- The candidate of steps 1 and 2. While no job has held resources for less than 1 ms the point stays, out of
boost (log entry 37). -/
def candidatePoint (s : State) : Nat :=
  match heldPoints s with
  | [] => if 100 ≤ s.power.quietSamples then 1 else min 7 s.power.target.toNat
  | l => l.foldl max 0

/-- A candidate lowered by throttling: to no lower than OP3, and never below the POINT of a fixed-rate job. -/
def loweredPoint (s : State) (c : Nat) : Nat :=
  if c ≤ 3 then c else max (max 3 (c - s.power.thermalDrop)) (fixedPoint s)

/-- DOM_STEP_RATE.OP of every dome shows a point (R41). -/
def showPoint (s : State) (n : Nat) : State :=
  (List.range 4).foldl (fun t d => setDome t d { domeOf t d with op := BitVec.ofNat 4 n }) s

/-- The target point changes: VCMP slews (R36). -/
def setTarget (s : State) (n : Nat) : State :=
  let p := s.power
  if p.target.toNat = n then s
  else showPoint (setPower s { p with target := BitVec.ofNat 4 n, spanned := p.spanned ++ [BitVec.ofNat 4 n] }) n

/-- The target of a sample. -/
def chooseTarget (s : State) : State := setTarget s (loweredPoint s (if boostAllowed s then 8 else candidatePoint s))

/-! ### Issue fractions (R471, R473) and fixed-rate mode (R475) -/

/-- The limit would be passed, on the measurement, or on the estimate outside measured-only mode (R473, R476). -/
def limitPassed (p : Power) : Bool :=
  let l := limitInForce p
  if p.measuredOnly then decide (l * 9 / 10 < (lastSample p).1)
  else decide (l < (lastSample p).1) || decide (l < (lastSample p).2)

/-- The fraction the limit leaves dome d: 255 while no dome is limited and the limit is not passed, else the
controller's choice (log entry 8). -/
def limitFraction (s : State) (unlimited : Bool) (d : Nat) : BitVec 8 :=
  let p := s.power
  if unlimited && !limitPassed p then 0xFF#8
  else Config.issueFraction s.draws d (if p.measuredOnly then limitInForce p * 9 / 10 else limitInForce p)
    (lastSample p).2 (lastSample p).1

/-- A dome holds an array whose job is not in unbroken fixed-rate mode. -/
def paceBinds (s : State) (d : Nat) : Bool :=
  (List.range 64).any (fun k =>
    match (spindleOf s (64 * d + k)).job with
    | none => true
    | some j => !noTokens s j)

/-- The greatest fraction that a pace ceiling leaves a dome (R473). -/
def paceFraction (s : State) (d : Nat) : BitVec 8 :=
  let r := (domeOf s d).rate.toNat
  let c := s.skein.ceiling.toNat
  if !paceBinds s d || r = 0 then 0xFF#8 else BitVec.ofNat 8 (min 255 (c * 255 / r))

/-- Minimum of two fractions. -/
def leastFraction (a b : BitVec 8) : BitVec 8 := if a < b then a else b

/-- Job j runs arrays in dome d. -/
def runsInDome (s : State) (j d : Nat) : Bool :=
  s.spindles.any (fun e => decide (e.2.job = some j) && domeOfSpindle e.1 == d)

/-- Job j is breached: its report will say so, its event is raised and the life log counts it, at the first breach
and then at most once per 2^27 ticks. -/
def breachJob (s : State) (j : Nat) : State :=
  let x := jobOf s j
  let due := match x.lastBreach with
    | none => true
    | some t => decide (t + 2 ^ 27 ≤ s.time.toNat)
  let s := setJob s j { x with
    breached := true, rateNotHeld := true, lastBreach := if due then some s.time.toNat else x.lastBreach }
  if !due then s
  else
    let s := raiseEvent s 0x0302 (some x.part.toNat) (eventData [(0, toLE 4 (jobId s j)),
      (4, toLE 4 (limitInForce s.power)), (8, toLE 4 (lastSample s.power).1)])
    setLife s { s.boot.life with fixedBreach := satInc s.boot.life.fixedBreach }

/-- FIXED_RATE_BREACH: the fixed-rate arrays of dome d are throttled. -/
def breachDome (s : State) (d : Nat) : State :=
  ((s.jobs.filter (fun e => fixedHolder e.2 && runsInDome s e.1 d)).map (·.1)).foldl breachJob s

/-- Some job that holds resources takes tokens, so that the limit may be held without fixed-rate arrays. -/
def othersHold (s : State) : Bool := s.jobs.any (fun e => jobHolds e.2 && !fixedHolder e.2)

/-- The fraction of dome d at a sample. Where other jobs hold resources too, the controller chooses whether the limit
reaches the fixed-rate arrays (log entry 8). -/
def sampleFraction (unlimited : Bool) (s : State) (d : Nat) : State :=
  let x := domeOf s d
  let f := limitFraction s unlimited d
  let byHeat := x.hot || x.thermalCap ≠ 0xFF#8
  let byLimit := f ≠ 0xFF#8 && (!othersHold s || Config.freeNat (s.draws + 1) % 2 == 1)
  let g := if x.hot then 0 else leastFraction (leastFraction f x.thermalCap) (paceFraction s d)
  let s := drawn (drawn (setDome s d { x with fraction := g }))
  if byHeat || byLimit then breachDome s d else s

/-- Every dome's fraction. -/
def chooseFractions (s : State) : State :=
  let unlimited := (List.range 4).all (fun d => (domeOf s d).fraction = 0xFF#8)
  (List.range 4).foldl (sampleFraction unlimited) s

/-! ### Samples (R476, R478, R480) -/

/-- Mean of the samples held, in 10 mW units. -/
def meanOf (l : List Nat) : BitVec 16 := BitVec.ofNat 16 (satOf 16 (l.sum / (10 * max 1 l.length)))

/-- What a sample leaves in the registers. -/
def takeSample (s : State) (mv ma mw est uj : Nat) : State :=
  let p := s.power
  let l : List (Nat × Nat) := ((mw, est) :: p.samples).take 100
  let p : Power := { p with
    voltage := BitVec.ofNat 16 (satOf 16 (mv / 10)), current := BitVec.ofNat 16 (satOf 16 ma), samples := l
    measured := meanOf (l.map Prod.fst), estimate := meanOf (l.map Prod.snd), energy := p.energy + BitVec.ofNat 64 uj
    low := decide (mv < 12000), admitted := 0
    quietSamples := if (heldPoints s).isEmpty then min 100 (p.quietSamples + 1) else 0 }
  let apart := (if mw ≤ est then est - mw else mw - est) * 4
  setPower s { p with disagree := if limitInForce p < apart then p.disagree + 1 else 0 }

/-- POWER_SAMPLE: input, measured power and estimate of a sample, and the energy of its interval. -/
def powerSample (s : State) (mv ma mw est uj : Nat) : State :=
  if !s.boot.started then s else chooseFractions (chooseTarget (takeSample s mv ma mw est uj))

def execPowerSample (millivolts milliamps milliwatts estimate microjoules : Nat) (s : State) :
    Host.Outcome State Fault Refusal :=
  finish s (powerSample s millivolts milliamps milliwatts estimate microjoules)

/-- POWER_DISAGREE: 16 samples in a row apart by more than a quarter of the limit. -/
def powerDisagree (s : State) : State :=
  let p := s.power
  if p.disagree < 16 || p.measuredOnly then s
  else
    let s := raiseEvent s 0x0301 none (eventData [(0, toLE 4 (lastSample p).2), (4, toLE 4 (lastSample p).1),
      (8, toLE 4 (limitInForce p))])
    let s := setLife s { s.boot.life with powerDisagree := satInc s.boot.life.powerDisagree }
    setPower s { s.power with measuredOnly := true, disagree := 0 }

def execPowerDisagree (s : State) : Host.Outcome State Fault Refusal := finish s (powerDisagree s)

/-! ### Commands (R479, R425) -/

/-- CMD_POWER_LIMIT. -/
def cmdPowerLimit (s : State) (slot : Nat) : State :=
  command s slot 0x0701 [(8, 4)] (fun d =>
    let l := le d 8 4
    if l < 40000 then complete s slot stBadArgument []
    else if ceilingMw s < l then complete s slot stNotPermitted []
    else complete (setPower s { s.power with limit := BitVec.ofNat 17 l }) slot stOk (toLE 4 l))

def execCmdPowerLimit (slot : Fin 10) (s : State) : Host.Outcome State Fault Refusal := finish s (cmdPowerLimit s slot)

/-- CMD_POWER_RECAL: its refit begins, and it completes with it. -/
def cmdPowerRecal (s : State) (slot : Fin 10) : State :=
  command s slot 0x0702 [] (fun _ =>
    let t := deferCompletion s slot
    setPower t { t.power with recal := t.power.recal ++ [slot] })

def execCmdPowerRecal (slot : Fin 10) (s : State) : Host.Outcome State Fault Refusal := finish s (cmdPowerRecal s slot)

/-- POWER_RECAL_FIT: the oldest refit ends. -/
def powerRecalFit (s : State) : State :=
  match s.power.recal with
  | [] => s
  | slot :: rest =>
    let t := setPower s { s.power with recal := rest, measuredOnly := false, disagree := 0 }
    let t := setLife t { t.boot.life with powerRecal := satInc t.boot.life.powerRecal }
    complete t slot stOk []

def execPowerRecalFit (s : State) : Host.Outcome State Fault Refusal := finish s (powerRecalFit s)

/-- CMD_JOB_POWER: a new POWER for a job phase, in effect from the next sample. -/
def cmdJobPower (s : State) (slot : Nat) : State :=
  command s slot 0x0703 [(8, 5)] (fun d => onJob s slot d (fun j =>
    let x := jobOf s j
    let b := byteAt d 12
    if 16 ≤ b then complete s slot stBadArgument []
    else if !nonTerminal x then complete s slot stAlreadyDone []
    else if bitOf b 3 ≠ bitOf x.power.toNat 3 then complete s slot stBadArgument []
    else complete (setJob s j { x with power := BitVec.ofNat 8 b }) slot stOk []))

def execCmdJobPower (slot : Fin 10) (s : State) : Host.Outcome State Fault Refusal := finish s (cmdJobPower s slot)

/-- CMD_CEILING_LOWER (R425, R426, R471): steps are burnt, and a limit above the new ceiling falls to it. -/
def cmdCeilingLower (s : State) (slot : Nat) : State :=
  command s slot 0x0811 [(8, 1)] (fun d =>
    let n := byteAt d 8
    if n = 0 then complete s slot stBadArgument []
    else if 16 < s.sec.ceilSteps + n then complete s slot stFuseExhausted []
    else
      let t := appendFuse (setSec s { s.sec with ceilSteps := s.sec.ceilSteps + n }) 0x11 (descPart d) n (le d 96 8) []
      complete (setPower t { t.power with limit := BitVec.ofNat 17 (min t.power.limit.toNat (ceilingMw t)) }) slot stOk [])

def execCmdCeilingLower (slot : Fin 10) (s : State) : Host.Outcome State Fault Refusal := finish s (cmdCeilingLower s slot)

/-! ### Thermal control (R477) -/

/-- EV_THERMAL (R406). -/
def raiseThermal (s : State) (d cause : Nat) : State :=
  raiseEvent s 0x0303 none (eventData [(0, toLE 1 d), (1, toLE 1 cause), (2, toLE 2 (domeOf s d).junction.toNat)])

/-- The greater of two signed readings. -/
def hotter (a b : BitVec 16) : BitVec 16 := if a.toInt < b.toInt then b else a

/-- The hottest of a dome's sensors. -/
def hottest (l : List (BitVec 16)) : BitVec 16 := l.foldl hotter 0x8000#16

/-- A reading enters the dome's registers, and the hottest of the second (R508). -/
def takeReading (s : State) (d : Nat) (t : BitVec 16) : State :=
  let x := domeOf s d
  setDome s d { x with
    junction := t, tempMax := hotter x.tempMax t
    secondMax := some (match x.secondMax with | none => t | some u => hotter u t)
    hot := x.hot && decide (100 * 16 < t.toInt) }

/-- Throttling begins: the point leaves OP8. -/
def beginThrottle (s : State) (d : Nat) : State :=
  let s := setDome s d { domeOf s d with throttling := true }
  let s := setPower s { s.power with thermal := true }
  let s := setLife s { s.boot.life with thermalThrottle := satInc s.boot.life.thermalThrottle }
  raiseThermal (if s.power.target = 8 then setTarget s 7 else s) d 0

/-- 105 °C: the dome issues nothing until it is back at 100 °C. -/
def beginHot (s : State) (d : Nat) : State :=
  breachDome (raiseThermal (setDome s d { domeOf s d with hot := true, fraction := 0 }) d 2) d

/-- THERMAL_READ: the four sensors of a dome. -/
def thermalRead (s : State) (d : Nat) (sensors : List (BitVec 16)) : State :=
  if !s.boot.started || sensors.length ≠ 4 then s
  else
    let t := hottest sensors
    let s := takeReading s d t
    if 110 * 16 ≤ t.toInt then orderlyStopInside s
    else
      let s := if 95 * 16 ≤ t.toInt && !(domeOf s d).throttling then beginThrottle s d else s
      if 105 * 16 ≤ t.toInt && !(domeOf s d).hot then beginHot s d else s

def execThermalRead (d : Fin 4) (sensors : List (BitVec 16)) (s : State) : Host.Outcome State Fault Refusal :=
  finish s (thermalRead s d sensors)

/-- THERMAL_STEP: another 1 ms at 95 °C or above lowers the point by one, to no lower than OP3 or a fixed-rate job's
POINT; after that the dome's fraction falls, how far the controller chooses (log entry 8). -/
def thermalStep (s : State) (d : Nat) : State :=
  let x := domeOf s d
  if !x.throttling || x.junction.toInt < 95 * 16 then s
  else
    let n := s.power.target.toNat
    if max 3 (fixedPoint s) < n then
      setTarget (setPower s { s.power with thermalDrop := s.power.thermalDrop + 1 }) (n - 1)
    else
      let cap := BitVec.ofNat 8 (Config.freeNat s.draws % max 1 x.thermalCap.toNat)
      breachDome (drawn (setDome s d { x with thermalCap := cap, fraction := leastFraction x.fraction cap })) d

def execThermalStep (d : Fin 4) (s : State) : Host.Outcome State Fault Refusal := finish s (thermalStep s d)

/-- THERMAL_END: 10 ms at 92 °C or below end the dome's throttling; point and fraction return at the next samples. -/
def thermalEnd (s : State) (d : Nat) : State :=
  let x := domeOf s d
  if !x.throttling || 92 * 16 < x.junction.toInt then s
  else
    let s := setDome s d { x with throttling := false, thermalCap := 0xFF#8 }
    let still := (List.range 4).any (fun k => (domeOf s k).throttling)
    raiseThermal (setPower s { s.power with thermal := still, thermalDrop := if still then s.power.thermalDrop else 0 }) d 1

def execThermalEnd (d : Fin 4) (s : State) : Host.Outcome State Fault Refusal := finish s (thermalEnd s d)

/-! ### The input and the rails (R462 to R468, R513, R522) -/

/-- START_CONDITION: the input has stood at 17 V for 100 ms. -/
def execStartCondition (s : State) : Host.Outcome State Fault Refusal :=
  finish s (guarded (!s.boot.started) s (setBoot s { s.boot with started := true, rails := 0, pg := false }))

/-- RAIL_POWER_GOOD: the next rail in order; PG is released with the last, VCMP at OP1. -/
def railPowerGood (s : State) : State :=
  if !s.boot.started || 8 ≤ s.boot.rails then s
  else
    let t := setBoot s { s.boot with rails := s.boot.rails + 1, pg := decide (s.boot.rails + 1 = 8) }
    if s.boot.rails + 1 = 8 then showPoint t 1 else t

def execRailPowerGood (s : State) : Host.Outcome State Fault Refusal := finish s (railPowerGood s)

/-- RAIL_TIMEOUT: the start stops, and the rails go down. -/
def execRailTimeout (s : State) : Host.Outcome State Fault Refusal :=
  finish s (guarded (s.boot.started && decide (s.boot.rails < 8)) s
    (setBoot s { s.boot with started := false, rails := 0, pg := false }))

/-- A start that a low input abandons (R522): a dip is entered where the life log has been taken. -/
def abandonStart (s : State) (millivolts : Nat) : State :=
  coldState (if s.boot.bootsCounted then commitLife (enterDip s millivolts 100) else s)

/-- DIP_BEGIN: the input has been below 16 V for 100 µs. -/
def dipBegin (s : State) (millivolts : Nat) : State :=
  if !s.boot.started || s.power.dip then s
  else if s.boot.stage ≠ 3 then abandonStart s millivolts
  else setPower s { s.power with dip := true, low := decide (millivolts < 12000) }

def execDipBegin (millivolts : Nat) (s : State) : Host.Outcome State Fault Refusal := finish s (dipBegin s millivolts)

/-- DIP_END: the event and the life log's entry. -/
def dipEnd (s : State) (millivolts microseconds : Nat) : State :=
  if !s.power.dip then s
  else
    let s := raiseSupplyDip (setPower s { s.power with dip := false, low := false }) millivolts microseconds 0
    enterDip s millivolts microseconds

def execDipEnd (leastMillivolts microseconds : Nat) (s : State) : Host.Outcome State Fault Refusal :=
  finish s (dipEnd s leastMillivolts microseconds)

/-- DIP_LIMIT: an orderly stop, which enters the dip with its duration so far. -/
def execDipLimit (leastMillivolts microseconds : Nat) (s : State) : Host.Outcome State Fault Refusal :=
  finish s (guarded s.power.dip s
    (orderlyStop s leastMillivolts microseconds 1 (some (leastMillivolts, microseconds))))

/-- OVERVOLTAGE_WINDOW (R464): the stop enters no dip bin. -/
def execOvervoltageWindow (greatestMillivolts microseconds : Nat) (s : State) : Host.Outcome State Fault Refusal :=
  finish s (guarded s.boot.started s (orderlyStop s greatestMillivolts microseconds 3 none))

/-- OVERVOLTAGE_75V (R464): the same, from the HOLD bank. -/
def execOvervoltage75V (greatestMillivolts microseconds : Nat) (s : State) : Host.Outcome State Fault Refusal :=
  finish s (guarded s.boot.started s (orderlyStop s greatestMillivolts microseconds 3 none))

/-- HOLD_BANK_CHARGED (R466): charging begins with every rail at power-good. -/
def execHoldBankCharged (s : State) : Host.Outcome State Fault Refusal :=
  finish s (guarded (s.boot.rails == 8) s (setPower s { s.power with holdOk := true }))

/-- HOLD_BANK_LOW (R466). -/
def execHoldBankLow (s : State) : Host.Outcome State Fault Refusal :=
  finish s (setPower s { s.power with holdOk := false })

end Sys2Proof.Machine
end

