-- ==== Sys2Proof/Machine/Start.lean ====
section
/-! DEFINITION. The start, the ROM loader, recovery, and what PERST# and a fatal restart do to a start (R413, R495,
R506, R513 to R523). -/

namespace Sys2Proof.Machine

/-! ### The ROM loader (R411, R513, R516) -/

/-- The flash is being erased, programmed or read back (R518). -/
def flashBusy (b : Boot) : Bool := b.recState = 3 || b.recState = 4

/-- At the first start the fuse secret, DIE_ID and endorsement record are taken as Fjowehus left them (R411, R412, log
entry 34). -/
def provision (s : State) : State :=
  if !s.sec.secret.isEmpty then s
  else
    let t := setSec s { s.sec with
      secret := Config.entropy s.draws 32, dieId := BitVec.ofNat 64 (Config.freeNat (s.draws + 1)) }
    let head := toLE 8 t.sec.dieId.toNat ++ fit 32 (identityKey t) ++ fit 32 (encryptionKey t)
      ++ [BitVec.ofNat 8 (Config.freeNat (s.draws + 2) % 4)] ++ zeroBytes 55
    drawn (drawn (drawn (drawn (setSec t { t.sec with
      endorsement := head ++ fit 64 (Config.entropy (s.draws + 3) 64) ++ zeroBytes 64 }))))

/-- ROM_LOADER_START: every rail is at power-good and the loader runs; it waits for PERST# (R514). A blank fuse block
stops in the fault stage. -/
def romLoaderStart (s : State) (fuseBlank : Bool) : State :=
  let b := s.boot
  if b.rails ≠ 8 || b.romRunning || b.held || flashBusy b then s
  else if fuseBlank then
    let t := commitLife (takeLife s)
    setBoot t { t.boot with romRunning := true, stage := 5, cause := 7 }
  else
    let t := provision s
    setBoot t { t.boot with romRunning := true, stage := if b.perst then 0 else 1, cause := 0 }

def execRomLoaderStart (fuseBlank : Bool) (s : State) : Host.Outcome State Fault Refusal :=
  finish s (romLoaderStart s fuseBlank)

/-- BODY_LENGTH of an image. -/
def bodyLength (h : Bytes) : Nat := le h 4 4

/-- The failure cause of an image (R413, R516), the first of the table that holds; 0 for none. -/
def imageCause (s : State) (i : FwImage) : Nat :=
  let h := fit 256 i.header
  let n := bodyLength h
  if !i.readable then 5
  else if le h 0 4 ≠ 0x4C514657 || !zeros h 10 2 || !zeros h 144 112 || 67108608 < n then 1
  else if 4 ≤ byteAt h 9 || !Config.ed25519Verify (Config.firmwareKey (byteAt h 9)) (h.take 80) (slice h 80 64) then 2
  else if i.body.length < n || slice h 16 64 ≠ fit 64 (Config.sha512 (i.body.take n)) then 3
  else if byteAt h 8 < s.sec.svFused then 4
  else 0

/-- A verified image is run: firmware start begins from it. -/
def runImage (s : State) (i : FwImage) : State :=
  let h := fit 256 i.header
  let t := setSec s { s.sec with
    svRunning := byteAt h 8, fwHash := fit 64 (Config.sha512 (h.take 80)), fwVersion := BitVec.ofNat 32 (le h 12 4) }
  setBoot t { t.boot with stage := 2, image := some i }

/-- Recovery is entered: the life log's slot is taken, BOOTS counted and the log committed (R507, R516). -/
def enterRecovery (s : State) (cause : Nat) : State :=
  let t := commitLife (takeLife s)
  setBoot t { t.boot with stage := 4, cause := BitVec.ofNat 4 cause, recState := 0 }

/-- IMAGE_VERIFIED: what the loader finds in flash; a held request leads to recovery at once (R518). Flash contents
that the model has seen written stand before the command's. -/
def imageVerified (s : State) (image : FwImage) : State :=
  let b := s.boot
  if !b.romRunning || b.stage ≠ 1 || b.perst || flashBusy b then s
  else if b.requested then enterRecovery s 6
  else
    let i := b.flash.getD image
    let c := imageCause s i
    if c = 0 then runImage s i
    else
      let t := enterRecovery s c
      appendRing t 5 0xFF 0 (if c = 5 then [] else detailOf ((fit 256 i.header).take 80))

def execImageVerified (image : FwImage) (s : State) : Host.Outcome State Fault Refusal :=
  finish s (imageVerified s image)

/-! ### Firmware start (R519, R520) -/

/-- Step 9: mailbox 8 exists and the module runs, once firmware start has ended and configuration requests are
answered (R513). -/
def openMailbox8 (s : State) : State :=
  if s.boot.firmwareEnded && s.hif.configReady && s.boot.stage = 2 then
    setMailbox (setBoot s { s.boot with stage := 3 }) 8 { present := true }
  else s

/-- Channel c trained: ready with its delays, or failed (R216). -/
def trainChannel (found : StartFindings) (s : State) (c : Fin 24) : State :=
  let x := channelOf s c.val
  let d := (found.delays.find? (fun e => e.1 == c)).map (·.2)
  setChannel s c.val { x with
    state := if found.failedChannels.contains c then 4 else 2
    train := d.getD 0 }

/-- A bad-column record (R510), or a change not recorded once 1,024 are held. -/
def recordColumn (s : State) (p col width : Nat) : State :=
  let l := s.boot.life
  if l.columns.length < 1024 then
    setLife s { l with columns := l.columns ++ [toLE 4 l.boots.toNat ++ toLE 2 p ++ toLE 1 col ++ toLE 1 width] }
  else setLife s { l with columnsLost := satInc l.columnsLost }

/-- A column that gave a wrong result joins the bypass map (R95). -/
def bypassColumn (s : State) (e : Fin 256 × Fin 32) : State :=
  let x := spindleOf s e.1.val
  if x.arr.bypass.getLsbD e.2.val then s
  else
    let a := { x.arr with bypass := x.arr.bypass ||| BitVec.ofNat 32 (2 ^ e.2.val) }
    recordColumn (setSpindle s e.1.val { x with arr := a }) e.1.val e.2.val (widthOf a)

/-- The Belfry's STATUS is compared with what the previous run recorded (R520). -/
def compareBelfry (s : State) : State :=
  let b := s.belfry
  if !b.powered then s
  else
    let t := setBoot s { s.boot with owedSeal := decide (b.mirGen ≠ s.sec.lastSeal), owedTamper := b.mirTamper }
    setSec t { t.sec with lastSeal := b.mirGen, lastTamper := b.mirTamper }

/-- A Burava port begins training. -/
def enableLink (s : State) (p : Nat) : State := setLinkPort s p { linkPortOf s p with enabled := true, state := 1 }

/-- FIRMWARE_START_END. -/
def firmwareStartEnd (s : State) (found : StartFindings) : State :=
  if s.boot.stage ≠ 2 || s.boot.firmwareEnded then s
  else
    let s := takeLife s
    let s := (List.finRange 24).foldl (trainChannel found) s
    let s := found.badColumns.foldl bypassColumn s
    let s := compareBelfry ((List.range 4).foldl enableLink s)
    let s := setPower s { s.power with limit := BitVec.ofNat 17 (ceilingMw s) }
    let s := setTarget s 1
    openMailbox8 (setBoot s { s.boot with
      firmwareEnded := true
      trainFailed := BitVec.ofNat 7 ((List.finRange 24).countP (fun c => found.failedChannels.contains c))
      offline := BitVec.ofNat 9 ((List.range 256).countP (fun p => widthOf (spindleOf s p).arr == 0)) })

def execFirmwareStartEnd (found : StartFindings) (s : State) : Host.Outcome State Fault Refusal :=
  finish s (firmwareStartEnd s found)

/-! ### Recovery (R518, R523) -/

/-- LAN_BOOT_CTRL_WRITE: through the physical function only. -/
def execLanBootCtrlWrite (fn : Fn) (value : Word) (s : State) : Host.Outcome State Fault Refusal :=
  finish s (guarded (fn.val == 0) s (setBoot s { s.boot with requested := decide (value = 0x52454356#32) }))

/-- A recovery ends with a failure. -/
def recoveryFails (s : State) (st : Status) : State := setBoot s { s.boot with recState := 6, recStatus := st }

/-- LAN_REC_GO. -/
def lanRecGo (s : State) (fn : Nat) (v : Word) : State :=
  let b := s.boot
  if fn ≠ 0 || b.stage ≠ 4 || !v.getLsbD 0 || (1 ≤ b.recState.toNat && b.recState.toNat ≤ 4) then s
  else if b.recAddr.toNat % 64 ≠ 0 || b.recLength.toNat < 256 || 67108864 < b.recLength.toNat then
    recoveryFails s stBadArgument
  else issueRead (setBoot s { b with recState := 1 }) 0 b.recAddr.toNat b.recLength.toNat .recovery

def execLanRecGo (fn : Fn) (value : Word) (s : State) : Host.Outcome State Fault Refusal :=
  finish s (lanRecGo s fn.val value)

/-- Flash once its erasure has begun: no image. -/
def erasedFlash : FwImage := { readable := true, header := [], body := [] }

/-- REC_READ_COMPLETE: the image is checked, and programming begins; `none` is a failed read. -/
def recReadComplete (s : State) (image : Option Bytes) : State :=
  if s.boot.recState ≠ 1 then s
  else
    let t := endReads s (fun r => r.reader == .recovery)
    match image with
    | none => recoveryFails (raiseHostTimeout t none 2 t.boot.recAddr.toNat) stHostTimeout
    | some b =>
      let b := fit t.boot.recLength.toNat b
      let i : FwImage := { readable := true, header := b.take 256, body := b.drop 256 }
      let c := imageCause t i
      if c = 4 then recoveryFails t stNotPermitted
      else if c ≠ 0 then recoveryFails t stBadCheck
      else setBoot t { t.boot with recState := 3, staged := some i, flash := some erasedFlash }

def execRecReadComplete (image : Option Bytes) (s : State) : Host.Outcome State Fault Refusal :=
  finish s (recReadComplete s image)

/-- REC_PROGRAM_COMPLETE. -/
def recProgramComplete (s : State) (ok : Bool) : State :=
  if s.boot.recState ≠ 3 then s
  else if ok then setBoot s { s.boot with recState := 4 }
  else recoveryFails s stUncorrectable

/-- The loader restarts once flash work that outlived a PERST# has ended (R518). -/
def loaderAgain (s : State) : State :=
  if s.boot.romRunning && s.boot.stage = 0 && !s.boot.perst && !flashBusy s.boot then
    setBoot s { s.boot with stage := 1, recState := 0 }
  else s

def execRecProgramComplete (ok : Bool) (s : State) : Host.Outcome State Fault Refusal :=
  finish s (loaderAgain (recProgramComplete s ok))

/-- REC_READ_BACK_COMPLETE: the recovery has succeeded, and firmware start runs from the new image. -/
def recReadBackComplete (s : State) (ok : Bool) : State :=
  if s.boot.recState ≠ 4 then s
  else if !ok then recoveryFails s stUncorrectable
  else
    let i := s.boot.staged
    let t := setBoot s { s.boot with recState := 5, recStatus := stOk, flash := i, staged := none, requested := false }
    match i with
    | none => t
    | some x => if t.boot.stage = 4 then runImage t x else t

def execRecReadBackComplete (ok : Bool) (s : State) : Host.Outcome State Fault Refusal :=
  finish s (loaderAgain (recReadBackComplete s ok))

/-! ### PERST# and the fatal restart (R495, R506, R514) -/

/-- PERST# on a running module: commits, and Lantern and the fabric held in reset; at the release the start runs
again from step 3. -/
def perstRunning (s : State) : State :=
  let t := warmState (commitLife s)
  setBoot t { t.boot with perst := true, held := true }

/-- PERST# in a start: what step 8 has taken is committed, and the start waits to resume at step 5. Flash work in
progress runs on; a fault stage stays. -/
def perstInStart (s : State) : State :=
  let s := if s.boot.bootsCounted then commitLife s else s
  let b := s.boot
  let t := warmState s
  setBoot t { t.boot with
    perst := true, romRunning := b.romRunning, bootsCounted := b.bootsCounted, life := b.life
    stage := if b.stage = 5 then 5 else 0, cause := if b.stage = 5 then b.cause else 0
    recState := if flashBusy b then b.recState else 0, staged := if flashBusy b then b.staged else none }

/-- PERST_ASSERT. -/
def perstAssert (s : State) : State :=
  if s.boot.perst then s
  else
    let t := linkDown (hostLoss s allFns 6 0)
    if t.boot.stage = 3 then perstRunning t else perstInStart t

def execPerstAssert (s : State) : Host.Outcome State Fault Refusal := finish s (perstAssert s)

/-- PERST_RELEASE. -/
def execPerstRelease (s : State) : Host.Outcome State Fault Refusal :=
  finish s (loaderAgain (setBoot s { s.boot with perst := false, held := false }))

/-- The uncorrectable error that a fatal restart follows is counted and raised (R503). -/
def lanternUncorrectable (s : State) : State :=
  let s := setBoot s { s.boot with lanSramUncorr := satInc s.boot.lanSramUncorr }
  let s := setLife s { s.boot.life with sramUncorr := tbump s.boot.life.sramUncorr 4 }
  raiseUncorrectable s 0xFF none 0xFF 0xFFFFFFFF 0xFFFF

/-- FATAL_RESTART: steps 2 to 5 of the orderly stop, FATAL_RESTARTS, and a start from step 3 with PERST# taken as
released. -/
def fatalRestart (s : State) : State :=
  if !lanternRuns s then s
  else
    let s := lanternUncorrectable s
    let s := raiseSupplyDip (drawn (drawn s)) (Config.freeNat s.draws) (Config.freeNat (s.draws + 1)) 1
    let s := commitLife (setLife s { s.boot.life with fatalRestarts := satInc s.boot.life.fatalRestarts })
    let t := warmState s
    setBoot t { t.boot with perst := false }

def execFatalRestart (s : State) : Host.Outcome State Fault Refusal := finish s (fatalRestart s)

end Sys2Proof.Machine
end

