-- ==== Sys2Proof/Machine/Pcie.lean ====
section
/-! DEFINITION. The PCI Express endpoint: host reads and their failures, interrupts, translations, link power,
configuration space and resets (R481 to R498). -/

namespace Sys2Proof.Machine

/-! ### Host reads (R489, R490, R496) -/

/-- A command's read failed: its own meaning takes the failure. -/
def failCommandRead (s : State) (slot : Fin 10) : State :=
  match runningOf s slot with
  | none => s
  | some r =>
    let op := le r.desc 0 2
    if op = 0x0301 then cmdModelLoad s slot none
    else if op = 0x0311 then cmdMemWrite s slot none
    else if op = 0x0601 then cmdPipeCreate s slot none
    else if op = 0x0804 then cmdOwnerEnroll s slot none
    else if op = 0x0805 then cmdSessionOpen s slot none
    else if op = 0x0901 then cmdSkeinForm s slot none
    else if op = 0x0903 then cmdSkeinRelay s slot none
    else if op = 0x0B01 then cmdBlfRequest s slot none
    else s

/-- The consuming agent of a failed read acts (R490). -/
def failReader (s : State) (r : HostReader) : State :=
  match r with
  | .intake k => if (streamOf s k).entry.isSome then chunkCopyComplete s k none else ringEntryRead s k none
  | .hostSlot u => workItemComplete s u none
  | .lantern slot => failCommandRead s (Fin.ofNat 10 slot)
  | .recovery => recReadComplete s none

/-- A read fails once, for its agent, and is outstanding no more. -/
def failRead (s : State) (r : HostRead) : State := endReads (failReader s r.reader) (fun x => x.tag == r.tag)

/-- The read a completion or timeout of a tag concerns: issued and not yet answered. -/
def openRead (s : State) (tag : Nat) : Option HostRead := s.hif.reads.find? (fun r => r.tag == tag && r.sent && !r.answered)

/-- A completion for a tag no longer outstanding: discarded and counted; for an abandoned read it is no error. -/
def unexpectedCompletion (s : State) (tag : Nat) : State :=
  let h := s.hif
  let known := h.abandoned.contains tag
  setHif s { h with
    unexpected := satInc h.unexpected, advisory := if known then h.advisory else h.advisory + 1
    abandoned := h.abandoned.filter (· ≠ tag) }

/-- HOST_READ_COMPLETION. -/
def hostReadCompletion (s : State) (tag : Nat) (result : ReadResult) : State :=
  match openRead s tag with
  | none => unexpectedCompletion s tag
  | some r =>
    let h := s.hif
    match result with
    | .ok => setHif s { h with reads := h.reads.map (fun x => if x.tag = tag then { x with answered := true } else x) }
    | .poisoned => failRead (setHif s { h with poisoned := satInc h.poisoned, nonFatal := h.nonFatal + 1 }) r
    | .unsupported => failRead (setHif s { h with nonFatal := h.nonFatal + 1 }) r
    | .completerAbort => failRead (setHif s { h with nonFatal := h.nonFatal + 1 }) r

def execHostReadCompletion (tag : Nat) (result : ReadResult) (s : State) : Host.Outcome State Fault Refusal :=
  finish s (hostReadCompletion s tag result)

/-- COMPLETION_TIMEOUT: after a granted completion it changes nothing. -/
def completionTimeout (s : State) (tag : Nat) : State :=
  match openRead s tag with
  | none => s
  | some r => failRead (setHif s { s.hif with cplTimeout := satInc s.hif.cplTimeout, nonFatal := s.hif.nonFatal + 1 }) r

def execCompletionTimeout (tag : Nat) (s : State) : Host.Outcome State Fault Refusal := finish s (completionTimeout s tag)

/-! ### Resets and the link (R495, R515) -/

/-- HOT_RESET or DL_DOWN, with its cause in HIF_RESET. -/
def linkLoss (s : State) (cause : Nat) : State :=
  if !s.hif.linkUp then s else cfgDefaults (noVfs (linkDown (hostLoss s allFns cause 0))) allFns

def execHotReset (s : State) : Host.Outcome State Fault Refusal := finish s (linkLoss s 1)

/-- DL_DOWN. -/
def execDlDown (s : State) : Host.Outcome State Fault Refusal := finish s (linkLoss s 2)

/-- A function of the endpoint exists (R483). -/
def fnExists (s : State) (fn : Nat) : Bool := fn == 0 || (s.hif.vfEnable && decide (fn ≤ s.hif.numVfs))

/-- PF_FLR: host loss for every function, and the physical function's configuration at its defaults. -/
def pfFlr (s : State) : State := cfgDefaults (noVfs (hostLoss s allFns 3 0)) allFns

def execPfFlr (s : State) : Host.Outcome State Fault Refusal := finish s (guarded s.hif.configReady s (pfFlr s))

/-- VF_ENABLE_CLEARED. -/
def vfEnableCleared (s : State) : State :=
  if !s.hif.vfEnable then s else cfgDefaults (noVfs (hostLoss s allFns 4 0)) (allFns.drop 1)

def execVfEnableCleared (s : State) : Host.Outcome State Fault Refusal := finish s (vfEnableCleared s)

/-- An FLR of a virtual function. -/
def vfFlr (s : State) (fn : Nat) : State := cfgDefaults (hostLoss s [fn] 5 fn) [fn]

/-- VF_FLR of the function of partition m. -/
def execVfFlr (part : Fin 8) (s : State) : Host.Outcome State Fault Refusal :=
  finish s (guarded (fnExists s (part.val + 1)) s (vfFlr s (part.val + 1)))

/-- BUS_MASTER_ENABLE_CLEARED: new requests of the function wait. -/
def busMasterOff (s : State) (fn : Nat) : State := setCfg s fn { cfgOf s fn with busMaster := false }

def execBusMasterEnableCleared (fn : Fn) (s : State) : Host.Outcome State Fault Refusal :=
  finish s (busMasterOff s fn.val)

/-- PCIE_LINK_UP: speed code and lanes of the link in L0. -/
def execPcieLinkUp (speed width : BitVec 4) (s : State) : Host.Outcome State Fault Refusal :=
  finish s (guarded (s.boot.romRunning && !s.boot.perst) s
    (setHif s { s.hif with linkUp := true, speed := speed, width := width, pm := 0 }))

/-- CONFIG_READY: step 6 of the start. -/
def execConfigReady (s : State) : Host.Outcome State Fault Refusal :=
  finish s (guarded (s.boot.romRunning && !s.boot.perst) s (openMailbox8 (setHif s { s.hif with configReady := true })))

/-- RECEIVED_TLP_ERROR (R489). -/
def receivedTlpError (s : State) (e : TlpError) : State :=
  let h := s.hif
  match e with
  | .correctable => setHif s { h with correctable := h.correctable + 1 }
  | .poisonedWrite => setHif s { h with poisoned := satInc h.poisoned, nonFatal := h.nonFatal + 1 }
  | .ecrc => setHif s { h with nonFatal := h.nonFatal + 1 }
  | .fatal => setHif s { h with fatal := h.fatal + 1, fatalWait := true }
  | .surpriseDown => linkLoss (setHif s { h with fatal := h.fatal + 1 }) 2

def execReceivedTlpError (err : TlpError) (s : State) : Host.Outcome State Fault Refusal :=
  finish s (receivedTlpError s err)

/-! ### Interrupts (R491) -/

/-- MSI_X_WINDOW: the vector's 10 µs end; a held cause sends its message. -/
def msixWindow (s : State) (fn vec : Nat) : State :=
  let v := vecOf s fn vec
  let t := setVec s fn vec { v with window := false, heldCause := false }
  if v.heldCause then raiseVector t fn vec else t

def execMsiXWindow (fn : Fn) (vec : Fin 3) (s : State) : Host.Outcome State Fault Refusal :=
  finish s (msixWindow s fn.val vec.val)

/-- A pending vector that is no longer masked sends its message. -/
def sendPending (fn : Nat) (s : State) (vec : Nat) : State :=
  let v := vecOf s fn vec
  let c := cfgOf s fn
  if v.pendingBit && c.msixEnable && !c.msixMask && !v.masked then
    raiseVector (setVec s fn vec { v with pendingBit := false }) fn vec
  else s

/-- Every vector of a function. -/
def sendAllPending (s : State) (fn : Nat) : State := (List.range 3).foldl (sendPending fn) s

/-! ### Translations (R492, R493) -/

/-- A page lies in an invalidated range. -/
def pageWithin (page base length : Nat) : Bool := decide (base < page * 4096 + 4096) && decide (page * 4096 < base + length)

/-- INVALIDATION_REQUEST. -/
def invalidationRequest (s : State) (fn base length : Nat) : State :=
  let h := s.hif
  let tags := (h.reads.filter (fun r =>
    r.fn == fn && r.sent && (cfgOf s fn).ats && decide (base < r.addr + r.bytes) && decide (r.addr < base + length))).map (·.tag)
  let t := setHif s { h with
    cache := h.cache.filter (fun e => !(e.fn == fn && pageWithin e.page base length))
    xlateSent := h.xlateSent.map (fun e => if e.1 = fn && pageWithin e.2.1 base length then (e.1, e.2.1, true) else e) }
  answerInvalidations t (t.hif.invWaiting ++ [(fn, tags)])

def execInvalidationRequest (fn : Fn) (base length : Nat) (s : State) : Host.Outcome State Fault Refusal :=
  finish s (invalidationRequest s fn.val base length)

/-- Room in the cache of 512 entries; which entry leaves a full one the spec does not say (log entry 3). -/
def cacheRoom (s : State) : State :=
  if s.hif.cache.length < 512 then s
  else drawn (setHif s { s.hif with cache := s.hif.cache.eraseIdx (Config.freeNat s.draws % 512) })

/-- A read that waits for the translation of a page fails for lack of permission. -/
def failUntranslated (fn page : Nat) (s : State) : State :=
  (s.hif.reads.filter (fun r => r.fn == fn && !r.sent && r.addr / 4096 == page)).foldl (fun t r =>
    failRead (setHif t { t.hif with xlateFail := satInc t.hif.xlateFail }) r) s

/-- An entry joins the cache, and what waited for it goes out or fails; one that permits nothing is not kept. -/
def useTranslation (s : State) (e : Translation) : State :=
  let t := cacheRoom s
  let t := setHif t { t.hif with cache := t.hif.cache.filter (fun x => !(x.fn == e.fn && x.page == e.page)) ++ [e] }
  let t := if e.readOk then t else failUntranslated e.fn e.page t
  let t := releaseHeld t
  if e.readOk || e.writeOk then t
  else setHif t { t.hif with cache := t.hif.cache.filter (fun x => !(x.fn == e.fn && x.page == e.page)) }

/-- TRANSLATION_COMPLETION: one whose range was invalidated after its request is asked for again. -/
def translationCompletion (s : State) (fn page target : Nat) (readOk writeOk : Bool) : State :=
  match s.hif.xlateSent.find? (fun e => e.1 == fn && e.2.1 == page) with
  | none => s
  | some e =>
    let t := setHif s { s.hif with xlateSent := s.hif.xlateSent.filter (fun x => !(x.1 == fn && x.2.1 == page)) }
    if e.2.2 then askTranslation t fn page else useTranslation t ⟨fn, page, target, readOk, writeOk⟩

def execTranslationCompletion (fn : Fn) (page : Nat) (translated : Nat) (readOk writeOk : Bool) (s : State) :
    Host.Outcome State Fault Refusal :=
  finish s (translationCompletion s fn.val page translated readOk writeOk)

/-! ### Link power (R494) -/

/-- No read of the module is outstanding and no message is held. -/
def linkQuiet (h : HostIf) : Bool :=
  !h.reads.any (fun r => r.sent && !r.answered) && !h.msix.any (fun e => e.2.heldCause)
    && !h.heldWrites.any (fun o => match o with | .msix _ _ => true | _ => false)

/-- ASPM_L1_IDLE: the module requests L1, and L1.1 or L1.2 follow where enabled. -/
def aspmL1Idle (s : State) : State :=
  let h := s.hif
  if !h.linkUp || !h.aspm || h.pm ≠ 0 || !linkQuiet h then s
  else emit (setHif s { h with pm := if h.l12 then 3 else if h.l11 then 2 else 1, l1Entries := satInc h.l1Entries }) .requestL1

def execAspmL1Idle (s : State) : Host.Outcome State Fault Refusal := finish s (aspmL1Idle s)

/-- L1_EXIT. -/
def execL1Exit (s : State) : Host.Outcome State Fault Refusal := finish s (setHif s { s.hif with pm := 0 })

/-! ### Configuration space (R482, R483, R515) -/

/-- Device Serial Number: DIE_ID (R482). -/
def serialDword (s : State) (hi : Bool) : Word := s.sec.dieId.extractLsb' (if hi then 32 else 0) 32

/-- A dword that spec/ states whole. -/
def whole (v : Word) : Option (Word × Word) := some (0xFFFFFFFF#32, v)

/-- A bit of a dword. -/
def bitAt (k : Nat) (b : Bool) : Word := if b then BitVec.ofNat 32 (2 ^ k) else 0#32

/-- The header of a capability at offsets below 0x100: its identifier and the next one's offset. -/
def capHead (id next : Nat) : Option (Word × Word) := some (0x0000FFFF#32, BitVec.ofNat 32 (id + 256 * next))

/-- The header of an extended capability: its identifier and the next one's offset. -/
def extHead (id next : Nat) : Option (Word × Word) := some (0xFFF0FFFF#32, BitVec.ofNat 32 (id + 0x100000 * next))

/-- The MSI-X capability of a function: 3 vectors, its table and its pending bits (R484, R491). -/
def msixDword (c : FnConfig) (off : Nat) : Option (Word × Word) :=
  if off = 0x50 then whole (0x00027011#32 ||| bitAt 30 c.msixMask ||| bitAt 31 c.msixEnable)
  else if off = 0x54 then whole 0x0000F000#32
  else if off = 0x58 then whole 0x0000F800#32
  else none

/-- The PCI Express capability (R481, R482): an endpoint of version 2 with FLR, 512-byte payloads, no Completion
Timeout Disable, 10-bit tags, Completion Timeout Ranges A to C and LTR. -/
def pcieDword (off : Nat) : Option (Word × Word) :=
  if off = 0x70 then some (0x00FFFFFF#32, 0x00020010#32)
  else if off = 0x74 then some (0x10000007#32, 0x10000002#32)
  else if off = 0x94 then some (0x0003081F#32, 0x00030807#32)
  else if off = 0x98 then some (0x00000010#32, 0#32)
  else none

/-- The link's part of the PCI Express capability: 32 GT/s, eight lanes and ASPM L1, then what is in force. -/
def linkDword (h : HostIf) (off : Nat) : Option (Word × Word) :=
  if off = 0x7C then some (0x00000FFF#32, 0x00000885#32)
  else if off = 0x80 then
    some (0x03FF0002#32, bitAt 1 h.aspm ||| BitVec.ofNat 32 (65536 * (h.speed.toNat + 16 * h.width.toNat)))
  else if off = 0x9C then some (0x000000FE#32, 0x0000003E#32)
  else none

/-- The SR-IOV capability (R483). -/
def sriovDword (h : HostIf) (off : Nat) : Option (Word × Word) :=
  if off = 0x188 then some (1#32, bitAt 0 h.vfEnable)
  else if off = 0x18C then whole 0x00080008#32
  else if off = 0x190 then some (0x0000FFFF#32, BitVec.ofNat 32 h.numVfs)
  else if off = 0x194 then whole 0x00010001#32
  else if off = 0x198 then whole 0x72570000#32
  else if off = 0x19C then whole 0x00000001#32
  else if off = 0x1A4 then some (0x0FFFFFFF#32, 0x00000004#32)
  else if off = 0x1AC then whole 0x0000000C#32
  else none

/-- The extended capabilities of the physical function (R482), in the order of their offsets. -/
def pfExtended (s : State) (off : Nat) : Option (Word × Word) :=
  if off = 0x100 then extHead 0x0001 0x148
  else if off = 0x148 then extHead 0x0003 0x158
  else if off = 0x14C then whole (serialDword s false)
  else if off = 0x150 then whole (serialDword s true)
  else if off = 0x158 then extHead 0x0019 0x178
  else if off = 0x178 then extHead 0x000E 0x180
  else if off = 0x180 then extHead 0x0010 0x1C0
  else if off = 0x1C0 then extHead 0x000F 0x1C8
  else if off = 0x1C4 then some (0x80000000#32, bitAt 31 (cfgOf s 0).ats)
  else if off = 0x1C8 then extHead 0x0018 0x1D0
  else if off = 0x1D0 then extHead 0x001E 0x1E0
  else if off = 0x1D4 then some (0x0000001F#32, 0x0000001F#32)
  else if off = 0x1D8 then some (0x0000000C#32, bitAt 2 s.hif.l12 ||| bitAt 3 s.hif.l11)
  else if off = 0x1E0 then extHead 0x0025 0x1F0
  else if off = 0x1F0 then extHead 0x0026 0x218
  else if off = 0x218 then extHead 0x0027 0x240
  else if off = 0x240 then extHead 0x002A 0
  else none

/-- The header of the physical function (R482, R484): identity, BARs, and Bus Master Enable. -/
def pfHeader (s : State) (off : Nat) : Option (Word × Word) :=
  if off = 0x00 then whole 0x72561F2E#32
  else if off = 0x04 then some (0x00100004#32, 0x00100000#32 ||| bitAt 2 (cfgOf s 0).busMaster)
  else if off = 0x08 then whole 0x12000001#32
  else if off = 0x0C then some (0x007F0000#32, 0#32)
  else if off = 0x10 then some (0x0FFFFFFF#32, 0x00000004#32)
  else if off = 0x18 then whole 0x0000000C#32
  else if off = 0x2C then whole 0x00011F2E#32
  else if off = 0x34 then whole 0x00000040#32
  else if off = 0x3C then some (0x0000FF00#32, 0#32)
  else if off = 0x40 then capHead 0x01 0x50
  else if off = 0x44 then some (0x0000000B#32, if (cfgOf s 0).d3hot then 3#32 else 0#32)
  else none

/-- The bits of a dword of the physical function that R482 to R484 state or State holds, as mask and value; their
places within a capability are the PCIe specification's (log entry 7). -/
def pfDword (s : State) (off : Nat) : Option (Word × Word) :=
  (((((pfHeader s off).or (msixDword (cfgOf s 0) off)).or (pcieDword off)).or (linkDword s.hif off)).or
    (sriovDword s.hif off)).or (pfExtended s off)

/-- The same of a virtual function (R483): it carries the PF's Revision ID, Class Code and Subsystem IDs. -/
def vfDword (s : State) (fn off : Nat) : Option (Word × Word) :=
  let c := cfgOf s fn
  let own :=
    if off = 0x04 then some (0x00100004#32, 0x00100000#32 ||| bitAt 2 c.busMaster)
    else if off = 0x08 then whole 0x12000001#32
    else if off = 0x0C then some (0x007F0000#32, 0#32)
    else if off = 0x2C then whole 0x00011F2E#32
    else if off = 0x34 then whole 0x00000050#32
    else if off = 0x100 then extHead 0x0001 0x148
    else if off = 0x148 then extHead 0x000E 0x150
    else if off = 0x150 then extHead 0x000F 0
    else if off = 0x154 then some (0x80000000#32, bitAt 31 c.ats)
    else none
  (own.or (msixDword c off)).or (pcieDword off)

/-- A dword of a function's configuration space: the bits stated, and free ones. -/
def cfgDwordOf (s : State) (fn off : Nat) : Word :=
  let free := Config.cfgDword fn off (tfind (cfgOf s fn).words off)
  match (if fn = 0 then pfDword s off else vfDword s fn off) with
  | none => free
  | some e => if e.1 = 0xFFFFFFFF#32 then e.2 else (e.2 &&& e.1) ||| (free &&& ~~~ e.1)

/-- A function leaves D3hot: No_Soft_Reset is 0, so its configuration is at its defaults (R482). -/
def setPowerState (s : State) (fn : Nat) (d3 : Bool) : State :=
  let t := if (cfgOf s fn).d3hot && !d3 then cfgDefaults s [fn] else s
  setCfg t fn { cfgOf t fn with d3hot := d3 }

/-- VF Enable and NumVFs written; clearing VF Enable takes the functions away (R495). -/
def writeVfs (s : State) (enable : Bool) (num : Nat) : State :=
  if enable then setHif s { s.hif with vfEnable := true, numVfs := min num 8 }
  else setHif (vfEnableCleared s) { (vfEnableCleared s).hif with numVfs := min num 8 }

def writeMsix (s : State) (fn : Nat) (enable mask : Bool) : State :=
  sendAllPending (setCfg s fn { cfgOf s fn with msixEnable := enable, msixMask := mask }) fn

def writeBusMaster (s : State) (fn : Nat) (on : Bool) : State :=
  if on then releaseHeld (setCfg s fn { cfgOf s fn with busMaster := true }) else busMasterOff s fn

def writeAts (s : State) (fn : Nat) (on : Bool) : State := releaseHeld (setCfg s fn { cfgOf s fn with ats := on })

/-- The most a completion timeout code of Device Control 2 allows, in µs; 0 selects 40 ms (R490). -/
def timeoutOf (code : Nat) : Nat :=
  match code with
  | 1 => 100 | 2 => 10000 | 5 => 55000 | 6 => 210000 | 9 => 900000 | 10 => 3500000 | _ => 0

/-- A dword of the physical function alone, written whole. -/
def pfWrite (s : State) (off : Nat) (v : Word) : State :=
  if off = 0x44 then setPowerState s 0 (v.extractLsb' 0 2 = 3#2)
  else if off = 0x80 then setHif s { s.hif with aspm := v.getLsbD 1 }
  else if off = 0x188 then writeVfs s (v.getLsbD 0) s.hif.numVfs
  else if off = 0x190 then (if s.hif.vfEnable then s else setHif s { s.hif with numVfs := min (v.toNat % 65536) 8 })
  else if off = 0x1C4 then writeAts s 0 (v.getLsbD 31)
  else if off = 0x1D8 then setHif s { s.hif with l11 := v.getLsbD 3, l12 := v.getLsbD 2 }
  else s

/-- Initiate FLR (R495). -/
def initiateFlr (s : State) (fn : Nat) : State := if fn = 0 then pfFlr s else vfFlr s fn

/-- A dword written whole: what it sets at the PCIe specification's places (log entry 7). -/
def placedWrite (s : State) (fn off : Nat) (v : Word) : State :=
  if off = 0x04 then writeBusMaster s fn (v.getLsbD 2)
  else if off = 0x50 then writeMsix s fn (v.getLsbD 31) (v.getLsbD 30)
  else if off = 0x78 then (if v.getLsbD 15 then initiateFlr s fn else s)
  else if off = 0x98 then setCfg s fn { cfgOf s fn with timeoutUs := timeoutOf (v.toNat % 16) }
  else if fn = 0 then pfWrite s off v
  else if off = 0x154 then writeAts s fn (v.getLsbD 31)
  else s

def configWrite (s : State) (fn off : Nat) (v : Word) : State :=
  placedWrite (setCfg s fn { cfgOf s fn with words := tset (cfgOf s fn).words off v }) fn off v

/-- What a configuration request does to a function that answers. -/
def configAnswered (s : State) (fn : Nat) (op : CfgOp) : State :=
  match op with
  | .read off => emit s (.configAnswer fn (cfgDwordOf s fn off))
  | .busMaster on => writeBusMaster s fn on
  | .vfs enable num => if fn ≠ 0 then s else writeVfs s enable num
  | .ats on => writeAts s fn on
  | .aspm l1 l11 l12 => if fn ≠ 0 then s else setHif s { s.hif with aspm := l1, l11 := l11, l12 := l12 }
  | .msix enable mask => writeMsix s fn enable mask
  | .timeout us => setCfg s fn { cfgOf s fn with timeoutUs := us }
  | .write off v => configWrite s fn off v

/-- CONFIGURATION_REQUEST. -/
def configurationRequest (s : State) (fn : Nat) (op : CfgOp) : State :=
  if !s.hif.linkUp then s
  else if !s.hif.configReady then emit s (.requestRetry fn)
  else if !fnExists s fn then s
  else configAnswered s fn op

def execConfigurationRequest (fn : Fn) (op : CfgOp) (s : State) : Host.Outcome State Fault Refusal :=
  finish s (configurationRequest s fn.val op)

/-- BAR0_BAD_ACCESS (R485). -/
def bar0BadAccess (s : State) (fn : Nat) (write : Bool) : State :=
  let t := setHif s { s.hif with advisory := s.hif.advisory + 1 }
  if write then t else emit t (.completerAbort fn)

def execBar0BadAccess (fn : Fn) (write : Bool) (s : State) : Host.Outcome State Fault Refusal :=
  finish s (bar0BadAccess s fn.val write)

end Sys2Proof.Machine
end

