-- ==== Sys2Proof/Machine/Registers.lean ====
section
/-! DEFINITION. The register map: what a 4-byte read of BAR0 and a byte of BAR2 return, the LO and HI pairs, and writes to
BAR0 (R11, R45, R484 to R487, and the register sections of every chapter). -/

namespace Sys2Proof.Machine

/-! ### Fields -/

/-- A register from its fields: (lowest bit, value). -/
def regOf (l : List (Nat × Nat)) : Word := BitVec.ofNat 32 (packBits l)

/-- The high half of a 64-bit value. -/
def highWord (x : BitVec 64) : Word := x.extractLsb' 32 32
def lowWord (x : BitVec 64) : Word := x.extractLsb' 0 32

def latchesOf (s : State) (fn : Nat) : Latches := tget s.hif.latches fn {}
def setLatches (s : State) (fn : Nat) (l : Latches) : State := setHif s { s.hif with latches := tset s.hif.latches fn l }

/-- Through function fn the registers of an object of partition `owner` show values: module-wide objects and those of
the function's own partition (R486). -/
def shows (fn : Nat) (owner : Option Nat) : Bool :=
  fn == 0 || (match owner with | none => true | some m => fn == m + 1)

/-- A value that a function sees, or zero. -/
def seen (c : Bool) (v : Word) : Word := if c then v else 0

/-! ### Spindles and spires (R75, R102, R126, R127, R152, R170, R204, R306) -/

/-- SPN_ registers at a place of spindle p's page. -/
def spindleReg (s : State) (p off : Nat) : Word :=
  let x := spindleOf s p
  let a := x.arr
  let slot := fun n => x.scale.slots.getD n {}
  if off = 0x00 then regOf [(8, (bitsSet 32 a.bypass.toNat).length), (0, widthOf a)]
  else if off = 0x04 then a.bypass
  else if off = 0x08 then
    regOf [(12, a.fmtB.toNat), (8, a.fmtA.toNat), (4, flag a.mode), (0, if widthOf a = 0 then 8 else a.state.toNat)]
  else if off = 0x10 then a.wavefronts
  else if off = 0x14 then regOf [(16, a.stallDrain.toNat), (0, a.stallFeed.toNat)]
  else if off = 0x18 then BitVec.ofNat 32 (satOf 32 (a.gated / 1024))
  else if off = 0x20 then
    regOf [(31, flag a.skew.valid), (30, flag a.skew.side), (28, a.skew.cause.toNat), (20, a.skew.expected.toNat),
      (16, a.skew.found.toNat), (0, a.skew.entry.toNat)]
  else if off = 0x40 then
    regOf [(16, x.agen.pc.toNat), (10, x.agen.slot.toNat), (4, x.agen.kind.toNat), (0, x.agen.state.toNat)]
  else if off = 0x44 then x.agen.workItem
  else if off = 0x60 then
    regOf [(18, flag x.vec.nanJob), (17, flag x.vec.permJob), (16, flag x.vec.emptyJob), (12, x.vec.state.toNat),
      (2, flag x.vec.nan), (1, flag x.vec.perm), (0, flag x.vec.empty)]
  else if off = 0x64 then
    regOf [(16, x.vec.posPc.toNat), (15, flag x.vec.error), (12, x.vec.cause.toNat), (0, x.vec.insn.toNat)]
  else if off = 0x80 then a.satCount
  else if off = 0x84 then a.uflCount
  else if off = 0x88 then x.scale.amax
  else if off = 0x8C then
    regOf [(16, x.scale.limitCount.toNat), (4, x.scale.repeatCount.toNat), (1, flag x.scale.overrun),
      (0, flag x.scale.attempt)]
  else if 0x90 ≤ off && off < 0xB0 then
    (if off % 8 = 0 then slotEstimate (slot ((off - 0x90) / 8))
     else regOf [(16, (slot ((off - 0x90) / 8)).entries.length), (0, (slot ((off - 0x90) / 8)).ops.toNat)])
  else if off = 0xC0 then
    regOf [(16, x.dma.state.toNat), (8, min 64 (outstanding s (.dma (Fin.ofNat 256 p)))), (0, x.dma.copies.length)]
  else if off = 0xC4 then regOf [(0, x.dma.localCount.toNat)]
  else if off = 0xC8 then x.dma.count
  else if off = 0xCC then x.dma.nonfinite
  else 0

/-- SPR_ registers at a place of spire i's page. -/
def spireReg (s : State) (i off : Nat) : Word :=
  let x := spireOf s i
  if 0x100 ≤ off && off < 0x180 then
    let c := tget x.work ((off - 0x100) / 8) {}
    if off % 8 = 0 then c.value else c.limit
  else if 0x200 ≤ off && off < 0x280 then
    let m := tget x.sems ((off - 0x200) / 4) {}
    regOf [(23, m.queue.length + m.arrivals.length), (22, flag m.barrier), (16, m.gen.toNat), (0, m.value.toNat)]
  else if off = 0x300 then regOf [(28, x.stem.state.toNat), (0, x.stem.entry.toNat)]
  else 0

/-! ### Domes, channels, pools (R41, R102, R226, R241, R512) -/

def domeReg (s : State) (d off : Nat) : Word :=
  let x := domeOf s d
  if off = 0x0 then regOf [(28, x.op.toNat), (0, x.rate.toNat)]
  else if off = 0x4 then regOf [(16, x.holdCount.toNat), (0, x.droopCount.toNat)]
  else if off = 0x8 then regOf [(16, x.waveCount.toNat), (8, x.lastSize.toNat), (0, x.nextStart.toNat)]
  else if off = 0xC then regOf [(16, x.sramUncorr.toNat), (0, x.sramCorr.toNat)]
  else 0

def channelReg (s : State) (c off : Nat) : Word :=
  let x := channelOf s c
  if off = 0x00 then
    regOf [(28, x.state.toNat), (26, x.refRate.toNat), (8, satOf 8 x.queue.length), (0, x.postponed.toNat)]
  else if off = 0x04 then x.train
  else if off = 0x08 then x.linkCorr
  else if off = 0x0C then x.inlineCorr
  else if off = 0x10 then
    regOf [(16, x.uncorr.toNat), (15, flag x.uncorrValid), (12, x.uncorrPart.toNat), (0, x.uncorrGranule.toNat)]
  else if off = 0x14 then x.retrain
  else 0

/-- BOB_ registers of pool k of partition n; a pool never configured reads zeros. -/
def poolReg (s : State) (n k off : Nat) : Word :=
  match (partOf s n).bind (fun x => tfind x.pools k) with
  | none => 0
  | some v =>
    if off = 0x00 then
      regOf [(31, 1), (30, flag v.fallback.isSome), (24, (v.fallback.map (·.val)).getD 0), (20, v.sizeClass.toNat),
        (0, v.count.toNat)]
    else if off = 0x04 then regOf [(24, v.cached.length), (0, freeCount v)]
    else if off = 0x08 then regOf [(0, v.low.toNat)]
    else if off = 0x0C then regOf [(0, v.floor.toNat)]
    else if off = 0x10 then regOf [(16, v.failFallback.toNat), (0, v.failNoBuffer.toNat)]
    else if off = 0x14 then regOf [(0, v.base / 4096)]
    else if off = 0x18 then regOf [(0, v.ctrl / 256)]
    else 0

/-! ### The media unit, streams and ports (R273, R306) -/

/-- Flows bound to a port. -/
def flowsOn (s : State) (port : Nat) : Nat := s.streams.countP (fun e => flowOn e.2 port)

def mediaReg (s : State) (off : Nat) : Word :=
  if off < 0x800 then
    let e := decoderOf s (off / 0x100)
    if off % 0x100 = 0 then
      regOf [(28, e.state.toNat), (16, e.row.toNat), (8, flag e.valid), (0, e.stream.toNat)]
    else if off % 0x100 = 4 then e.pics else 0
  else if off = 0x1000 || off = 0x1100 then
    let u := motionOf s ((off - 0x1000) / 0x100)
    regOf [(28, u.state.toNat), (0, u.remaining.toNat)]
  else if off = 0x2000 || off = 0x2100 || off = 0x2200 || off = 0x2300 then
    let u := prepUnitOf s ((off - 0x2000) / 0x100)
    regOf [(28, u.state.toNat), (8, u.part.toNat), (0, u.queue.toNat)]
  else if off = 0x2400 then regOf [(16, satOf 16 (itemsWaiting s)), (0, s.prepLoad.toNat)]
  else if off = 0x2404 then regOf [(16, s.prepSat.toNat), (0, s.prepUfl.toNat)]
  else 0

/-- Owner of a stream's registers. -/
def streamOwner (s : State) (k : Nat) : Option Nat :=
  if (streamOf s k).state = 0 then none else some (streamOf s k).part.val

def streamReg (s : State) (k off : Nat) : Word :=
  let x := streamOf s k
  if off = 0x00 then
    regOf [(28, x.state.toNat), (26, (streamDecl x).codec), (25, flag (streamDecl x).review), (20, x.refs.length),
      (17, x.reorder.length), (0, x.lastStatus.toNat)]
  else if off = 0x04 then x.delivered
  else if off = 0x08 then regOf [(16, x.discarded.toNat), (8, x.abandoned.toNat), (0, x.rejected.toNat)]
  else if off = 0x0C then x.avgIntra
  else if off = 0x10 then x.avgInter
  else if off = 0x14 then regOf [(16, x.incomplete.toNat), (0, x.badEntry.toNat)]
  else if off = 0x1C then x.consumed
  else if off = 0x20 then x.aus
  else 0

def portReg (s : State) (p off : Nat) : Word :=
  let x := netPortOf s p
  if off = 0x0 then regOf [(31, flag x.link), (30, flag x.enabled), (28, x.fec.toNat), (0, flowsOn s p)]
  else if off = 0x4 then x.rx
  else if off = 0x8 then regOf [(16, x.fcs.toNat), (0, x.malformed.toNat)]
  else if off = 0xC then x.unmatched
  else 0

/-- NET_FLOW_ registers; those latched show the function's latch (R306). -/
def flowReg (s : State) (fn k off : Nat) : Word :=
  let x := streamOf s k
  let l := latchesOf s fn
  if off = 0x00 then regOf [(16, x.gaps.toNat), (8, x.late.toNat), (0, x.dup.toNat)]
  else if off = 0x04 then lowWord x.arrival
  else if off = 0x08 then tget l.arrivalHi k 0
  else if off = 0x0C then lowWord x.srNtp
  else if off = 0x10 then tget l.srNtpHi k 0
  else if off = 0x14 then tget l.srRtp k 0
  else if off = 0x18 then tget l.srStamp k 0
  else 0

/-! ### Pipelines, rings, skein (R331, R360) -/

/-- Streams attached to a pipeline. -/
def streamsOn (s : State) (i : Nat) : Nat := s.streams.countP (fun e => decide (e.2.consumer = some i))

def pipeReg (s : State) (i off : Nat) : Word :=
  let p := pipeOf s i
  if off = 0x0 then
    regOf [(31, flag p.valid), (30, flag p.live), (29, flag p.removing), (25, p.part.val), (16, streamsOn s i),
      (0, satOf 16 (p.pictures.countP (fun q => !q.done)))]
  else if off = 0x4 then regOf [(16, p.dropped.toNat), (0, p.done.toNat)]
  else 0

def oringReg (s : State) (r off : Nat) : Word :=
  let x := oringOf s r
  if off = 0x4 then x.produced else if off = 0x8 then regOf [(16, x.badDoorbell.toNat), (0, x.lost.toNat)] else 0

def skeinReg (s : State) (off : Nat) : Word :=
  let k := s.skein
  if off < 0x400 then
    let x := linkPortOf s (off / 0x100)
    if off % 0x100 = 0 then
      regOf [(28, x.state.toNat), (24, x.neighbour.toNat), (23, flag (portRouted s (off / 0x100))), (0, x.replay.length)]
    else if off % 0x100 = 4 then regOf [(16, x.crc.toNat), (0, x.fec.toNat)]
    else if off % 0x100 = 8 then x.retry else 0
  else if off = 0x1000 then regOf [(28, k.state.toNat), (16, flag k.pace), (0, k.live.toNat)]
  else if off = 0x1004 then regOf [(16, k.ceiling.toNat), (0, k.own.toNat)]
  else if off = 0x1008 then lowWord k.routes
  else if off = 0x100C then highWord k.routes
  else 0

/-- SKN_PART_ registers of partition n. -/
def skeinPartReg (s : State) (n off : Nat) : Word :=
  match partOf s n with
  | none => 0
  | some x =>
    if off = 0 then regOf [(16, satOf 16 (outOld x)), (0, satOf 16 (outCurrent x))]
    else if off = 4 then regOf [(16, x.staleCount.toNat), (8, x.earlyCount.toNat), (0, x.idleCount.toNat)]
    else 0

/-! ### Partitions, jobs, mailboxes (R389, R409) -/

def partReg (s : State) (n : Nat) : Word :=
  match partOf s n with
  | none => 0
  | some x =>
    regOf [(31, 1), (30, flag x.ecc), (23, x.granules.length), (12, x.quota.toNat), (0, activeJobs s n)]

/-- A terminal job. -/
def terminal (j : Job) : Bool := 8 ≤ j.state.toNat && j.state.toNat ≤ 10

def jobReg (s : State) (j off : Nat) : Word :=
  let x := jobOf s j
  if off = 0x0 then regOf [(16, x.serial.toNat), (8, x.client.toNat), (4, x.part.toNat), (0, x.state.toNat)]
  else if off = 0x4 then
    regOf [(16, if terminal x then x.status.toNat else 0), (8, x.cause.toNat), (0, x.preemptions.toNat)]
  else if off = 0x8 then BitVec.ofNat 32 (satOf 32 (x.time / 1024))
  else 0

/-- Owner of a job entry's registers. -/
def jobOwner (s : State) (j : Nat) : Option Nat := if (jobOf s j).state = 0 then none else some (jobOf s j).part.toNat

def mailboxReg (s : State) (m off : Nat) : Word :=
  let b := mailboxOf s m
  if off = 0x00 then lowWord b.cmdBase
  else if off = 0x04 then highWord b.cmdBase
  else if off = 0x08 then lowWord b.cplBase
  else if off = 0x0C then highWord b.cplBase
  else if off = 0x10 then lowWord b.evtBase
  else if off = 0x14 then highWord b.evtBase
  else if off = 0x18 then lowWord b.statBase
  else if off = 0x1C then highWord b.statBase
  else if off = 0x20 then
    regOf [(31, flag b.enable), (16, b.evtLog2.toNat), (8, b.cplLog2.toNat), (0, b.cmdLog2.toNat)]
  else if off = 0x30 then regOf [(28, b.state.toNat), (16, min 1024 (reservations s m)), (0, b.opcode.toNat)]
  else if off = 0x34 then regOf [(16, b.evtLost.toNat), (0, b.badDoorbell.toNat)]
  else 0

/-! ### The power controller, the Belfry's mirrors, the host interface and Lantern -/

def powerReg (s : State) (fn off : Nat) : Word :=
  let p := s.power
  let f := fun d => (domeOf s d).fraction.toNat
  if off = 0x00 then
    regOf [(28, p.target.toNat), (27, flag (p.target = 8)), (26, flag p.measuredOnly),
      (25, flag (s.jobs.any (fun e => fixedHolder e.2))), (24, flag p.thermal), (23, flag p.dip), (22, flag p.stopping),
      (21, flag p.holdOk), (0, ceilingMw s / 1000)]
  else if off = 0x04 then regOf [(0, p.limit.toNat)]
  else if off = 0x08 then regOf [(16, p.voltage.toNat), (0, p.current.toNat)]
  else if off = 0x0C then regOf [(16, p.measured.toNat), (0, p.estimate.toNat)]
  else if off = 0x10 then regOf [(24, f 3), (16, f 2), (8, f 1), (0, f 0)]
  else if off = 0x14 then lowWord p.energy
  else if off = 0x18 then (latchesOf s fn).energyHi
  else if 0x20 ≤ off && off < 0x30 then
    let x := domeOf s ((off - 0x20) / 4)
    regOf [(16, x.tempMax.toNat), (0, x.junction.toNat)]
  else 0

def belfryReg (s : State) (fn off : Nat) : Word :=
  let b := s.belfry
  if off = 0x00 then
    regOf [(28, b.mirState.toNat), (27, flag b.mirTamper), (26, flag b.mirBroken), (16, b.mirGen.toNat),
      (0, b.mirEvents.toNat)]
  else if off = 0x04 then lowWord b.mirSeq
  else if off = 0x08 then (latchesOf s fn).blfSeqHi
  else if off = 0x0C then lowWord b.mirId
  else if off = 0x10 then (latchesOf s fn).blfIdHi
  else 0

/-- HIF_BOOT (R523). -/
def bootReg (s : State) : Word :=
  let b := s.boot
  regOf [(28, b.stage.toNat), (24, b.cause.toNat), (23, flag b.requested), (16, b.trainFailed.toNat), (0, b.offline.toNat)]

/-- The recovery registers of R523 from offset 0x700 on. -/
def recoveryReg (b : Boot) (off : Nat) : Word :=
  if off = 0x704 then lowWord b.recAddr
  else if off = 0x708 then highWord b.recAddr
  else if off = 0x70C then b.recLength
  else if off = 0x714 then regOf [(28, b.recState.toNat), (0, b.recStatus.toNat)]
  else 0

/-- LAN_SEQS (R388). -/
def seqsReg (s : State) : Word :=
  let sets := s.jobs.filterMap (fun e => e.2.seqs)
  regOf [(16, satOf 13 (sets.map (fun q => q.joins.length)).sum), (0, (sets.map (fun q => q.live.length)).sum)]

/-- LAN_TRACKS (R331). -/
def tracksReg (s : State) : Word :=
  regOf [(16, satOf 13 (s.pipes.map (fun e => e.2.deferred.length)).sum), (0, s.tracks.length)]

/-- LAN_ registers and HIF_ registers below 0x1000. -/
def lanternReg (s : State) (fn off : Nat) : Word :=
  let h := s.hif
  if off = 0x00 then 0x51567256#32
  else if off = 0x10 then
    regOf [(8, flag (s.skein.manager && s.skein.state = 2)), (4, s.skein.size.toNat), (0, s.skein.index.toNat)]
  else if off = 0x20 then
    regOf [(28, h.speed.toNat), (24, h.width.toNat), (16, h.pm.toNat), (0, h.l1Entries.toNat)]
  else if off = 0x24 then
    regOf [(24, h.cplTimeout.toNat), (16, h.poisoned.toNat), (8, h.unexpected.toNat), (0, h.xlateFail.toNat)]
  else if off = 0x28 then
    regOf [(28, h.lastCause.toNat), (24, h.lastFunction.toNat), (0, h.hostLosses.toNat)]
  else if off = 0x2C then regOf [(16, h.invalidations.toNat), (0, h.cache.length)]
  else if off = 0x30 then bootReg s
  else if 0x100 ≤ off && off < 0x110 then BitVec.ofNat 32 (spireOwnerReg s ((off - 0x100) / 4))
  else if off = 0x200 then lowWord s.time
  else if off = 0x204 then (latchesOf s fn).timeHi
  else if 0x300 ≤ off && off < 0x380 then
    (if off % 16 = 0 then seen (shows fn (some ((off - 0x300) / 16))) (partReg s ((off - 0x300) / 16)) else 0)
  else if 0x400 ≤ off && off < 0x430 then BitVec.ofNat 32 (granuleOwnerReg s ((off - 0x400) / 4))
  else if off = 0x500 then
    regOf [(31, flag s.sec.debugDisabled), (30, flag s.sec.ownerKey.isSome), (16, s.sec.svFused), (8, s.sec.svRunning),
      (0, keyMask s)]
  else if off = 0x504 then
    regOf [(24, s.belfry.sealGen), (16, s.sec.skeinSteps), (8, s.sec.ceilSteps)]
  else if off = 0x508 then regOf [(16, s.sec.ring.length), (8, s.sec.permanent.length)]
  else if off = 0x600 then regOf [(31, flag s.boot.rebuilt), (30, flag s.boot.lastSlot), (0, s.boot.age.toNat)]
  else if off = 0x604 then regOf [(16, s.boot.lanSramUncorr.toNat), (0, s.boot.lanSramCorr.toNat)]
  else if off = 0x608 then s.boot.life.boots
  else recoveryReg s.boot off

/-- The MSI-X table and pending-bit array of a function (R484, R491). -/
def msixReg (s : State) (fn off : Nat) : Word :=
  if off < 0x30 then
    let v := vecOf s fn (off / 16)
    if off % 16 = 0 then v.addrLo
    else if off % 16 = 4 then v.addrHi
    else if off % 16 = 8 then v.data
    else regOf [(0, flag v.masked)]
  else if off = 0x800 then regOf ((List.range 3).map (fun v => (v, flag (vecOf s fn v).pendingBit)))
  else 0

/-! ### BAR0 and BAR2 (R484 to R487, R515) -/

/-- BAR0 below 0x0010_0000 on a running module. -/
def lowRegister (s : State) (fn off : Nat) : Word :=
  if off < 0x1000 then lanternReg s fn off
  else if off < 0x1900 then
    let m := (off - 0x1000) / 0x100
    seen (fn == 0 || fn == m + 1 && decide (m < 8)) (mailboxReg s m (off % 0x100))
  else if off = 0x3000 then tracksReg s
  else if off = 0x3004 then seqsReg s
  else if 0x4000 ≤ off && off < 0x5000 then
    let i := (off - 0x4000) / 16
    seen (shows fn (if (pipeOf s i).valid then some (pipeOf s i).part.val else none)) (pipeReg s i (off % 16))
  else if 0x6000 ≤ off && off < 0x6400 then
    let r := (off - 0x6000) / 16
    seen (shows fn (if (oringOf s r).valid then some (oringOf s r).part.val else none)) (oringReg s r (off % 16))
  else if 0x8000 ≤ off && off < 0xC000 then
    let j := (off - 0x8000) / 16
    seen (shows fn (jobOwner s j)) (jobReg s j (off % 16))
  else if 0xF000 ≤ off && off < 0x10000 then msixReg s fn (off - 0xF000)
  else 0

/-- BAR0 from 0x0010_0000 on, on a running module. -/
def highRegister (s : State) (fn off : Nat) : Word :=
  let owner := fun i => (spireOf s i).owner.map (·.val)
  if off < 0x140000 then domeReg s ((off - 0x100000) / 0x10000) (off % 0x10000)
  else if 0x1000000 ≤ off && off < 0x1100000 then
    let p := (off - 0x1000000) / 0x1000
    seen (shows fn (owner (spireOfSpindle p))) (spindleReg s p (off % 0x1000))
  else if 0x2000000 ≤ off && off < 0x2020000 then
    let i := (off - 0x2000000) / 0x1000
    seen (shows fn (owner i)) (spireReg s i (off % 0x1000))
  else if 0x3000000 ≤ off && off < 0x3018000 then channelReg s ((off - 0x3000000) / 0x1000) (off % 0x1000)
  else if 0x4000000 ≤ off && off < 0x4008000 then
    let n := (off - 0x4000000) / 0x1000
    if off % 0x1000 < 0x100 then seen (shows fn (some n)) (poolReg s n (off % 0x1000 / 32) (off % 32)) else 0
  else if 0x5000000 ≤ off && off < 0x5010000 then mediaReg s (off - 0x5000000)
  else if 0x5010000 ≤ off && off < 0x5014000 then
    let k := (off - 0x5010000) / 0x40
    seen (shows fn (streamOwner s k)) (streamReg s k (off % 0x40))
  else if 0x6000000 ≤ off && off < 0x6002000 then portReg s ((off - 0x6000000) / 0x1000) (off % 0x1000)
  else if 0x6010000 ≤ off && off < 0x6012000 then
    let k := (off - 0x6010000) / 0x20
    seen (shows fn (streamOwner s k)) (flowReg s fn k (off % 0x20))
  else if 0x7000000 ≤ off && off < 0x7002000 then skeinReg s (off - 0x7000000)
  else if 0x7002000 ≤ off && off < 0x7002080 then
    let n := (off - 0x7002000) / 16
    seen (shows fn (some n)) (skeinPartReg s n (off % 16))
  else if 0x8000000 ≤ off && off < 0x8000014 then belfryReg s fn (off - 0x8000000)
  else if 0x9000000 ≤ off && off < 0x9000030 then powerReg s fn (off - 0x9000000)
  else 0

/-- Before step 9 only HIF_ALIVE, HIF_BOOT and the recovery registers show values, through the physical function
(R515). -/
def earlyRegister (s : State) (fn off : Nat) : Word :=
  if fn ≠ 0 then 0
  else if off = 0x00 then 0x51567256#32
  else if off = 0x30 then bootReg s
  else if 0x700 ≤ off && off < 0x718 then recoveryReg s.boot off
  else 0

/-- What an aligned 4-byte read of BAR0 through a function returns; unassigned offsets read zero. -/
def registerValue (s : State) (fn off : Nat) : Word :=
  if !lanternRuns s then earlyRegister s fn off
  else if off < 0x100000 then lowRegister s fn off else highRegister s fn off

/-- The status block of a mailbox as BAR2 shows it (R394, R487). -/
def statusBlock (b : Mailbox) : Bytes :=
  toLE 8 b.cmdConsumed.toNat ++ toLE 8 b.cplProduced.toNat ++ toLE 8 b.evtProduced.toNat ++ zeroBytes 8

/-- A byte of BAR2 through a function (R487). -/
def apertureByte (s : State) (fn off : Nat) : Byte :=
  if off < 0x120 then
    let m := off / 0x20
    if fn = 0 || (m < 8 && fn = m + 1) then (statusBlock (mailboxOf s m)).getD (off % 0x20) 0 else 0
  else if 0x10000 ≤ off && off < 0x11000 then
    let k := (off - 0x10000) / 16
    if shows fn (streamOwner s k) then (toLE 4 (streamOf s k).consumed.toNat).getD (off % 16) 0 else 0
  else if 0x20000 ≤ off && off < 0x20400 then
    let r := (off - 0x20000) / 16
    let x := oringOf s r
    if shows fn (if x.valid then some x.part.val else none) then (toLE 4 x.produced.toNat).getD (off % 16) 0 else 0
  else 0

/-! ### Reads of LO registers (R45, R306, R461, R480) -/

/-- A read of a LO register: its value is returned, and where the function sees the register its HI parts are latched
for that function. -/
def loRead (s : State) (fn off : Nat) (sees : Bool) (latch : Latches → Latches) : State :=
  let t := emit s (.regValue fn off (registerValue s fn off))
  if lanternRuns s && sees then setLatches t fn (latch (latchesOf s fn)) else t

def execLanLocalTimeLoRead (fn : Fn) (s : State) : Host.Outcome State Fault Refusal :=
  finish s (loRead s fn.val 0x200 true (fun l => { l with timeHi := highWord s.time }))

def execNetFlowArrivalLoRead (fn : Fn) (stream : Fin 256) (s : State) : Host.Outcome State Fault Refusal :=
  let k := stream.val
  finish s (loRead s fn.val (0x6010004 + 0x20 * k) (shows fn.val (streamOwner s k)) (fun l =>
    { l with arrivalHi := tset l.arrivalHi k (highWord (streamOf s k).arrival) }))

def execNetFlowSrNtpLoRead (fn : Fn) (stream : Fin 256) (s : State) : Host.Outcome State Fault Refusal :=
  let k := stream.val
  let x := streamOf s k
  finish s (loRead s fn.val (0x601000C + 0x20 * k) (shows fn.val (streamOwner s k)) (fun l =>
    { l with
      srNtpHi := tset l.srNtpHi k (highWord x.srNtp), srRtp := tset l.srRtp k x.srRtp
      srStamp := tset l.srStamp k x.srStamp }))

def execPwrEnergyLoRead (fn : Fn) (s : State) : Host.Outcome State Fault Refusal :=
  finish s (loRead s fn.val 0x9000014 true (fun l => { l with energyHi := highWord s.power.energy }))

def execBlfSeqLoRead (fn : Fn) (s : State) : Host.Outcome State Fault Refusal :=
  finish s (loRead s fn.val 0x8000004 true (fun l => { l with blfSeqHi := highWord s.belfry.mirSeq }))

def execBlfIdLoRead (fn : Fn) (s : State) : Host.Outcome State Fault Refusal :=
  finish s (loRead s fn.val 0x800000C true (fun l => { l with blfIdHi := highWord s.belfry.mirId }))

/-! ### Writes (R11, R409, R484, R523) -/

/-- One half of a 64-bit register written. -/
def putHalf (x : BitVec 64) (hi : Bool) (v : Word) : BitVec 64 :=
  if hi then v ++ x.extractLsb' 0 32 else x.extractLsb' 32 32 ++ v

/-- A base of mailbox m is written, while it is disabled (R393). -/
def writeBase (s : State) (fn m off : Nat) (v : Word) : State :=
  let b := mailboxOf s m
  let hi := off % 8 == 4
  if !b.present || !mailboxWriter fn m || b.enable then s
  else setMailbox s m
    (if off < 0x08 then { b with cmdBase := putHalf b.cmdBase hi v }
     else if off < 0x10 then { b with cplBase := putHalf b.cplBase hi v }
     else if off < 0x18 then { b with evtBase := putHalf b.evtBase hi v }
     else { b with statBase := putHalf b.statBase hi v })

/-- A place of a mailbox's registers is written. -/
def writeMailbox (s : State) (fn m off : Nat) (v : Word) : State :=
  if off < 0x20 then writeBase s fn m off v
  else if off = 0x20 then mbCfgWrite s fn m v
  else if off = 0x24 then cmdDoorbell s fn m v
  else if off = 0x28 then cplDoorbell s fn m v
  else if off = 0x2C then evtDoorbell s fn m v
  else s

/-- A word of a function's MSI-X table is written; a vector unmasked sends what is pending. -/
def writeVector (s : State) (fn off : Nat) (v : Word) : State :=
  let k := off / 16
  let x := vecOf s fn k
  if off % 16 = 0 then setVec s fn k { x with addrLo := v }
  else if off % 16 = 4 then setVec s fn k { x with addrHi := v }
  else if off % 16 = 8 then setVec s fn k { x with data := v }
  else sendPending fn (setVec s fn k { x with masked := v.getLsbD 0 }) k

/-- LAN_BOOT_CTRL and the recovery registers, through the physical function (R523). -/
def writeRecovery (s : State) (fn off : Nat) (v : Word) : State :=
  if fn ≠ 0 then s
  else if off = 0x700 then setBoot s { s.boot with requested := decide (v = 0x52454356#32) }
  else if off = 0x704 then setBoot s { s.boot with recAddr := putHalf s.boot.recAddr false v }
  else if off = 0x708 then setBoot s { s.boot with recAddr := putHalf s.boot.recAddr true v }
  else if off = 0x70C then setBoot s { s.boot with recLength := v }
  else if off = 0x710 then lanRecGo s fn v
  else s

/-- REGISTER_WRITE: an aligned 4-byte write of BAR0. Registers with a row of their own act as that row says; read-only,
reserved, unassigned and foreign ones ignore it. -/
def registerWrite (s : State) (fn off : Nat) (v : Word) : State :=
  if off % 4 ≠ 0 then s
  else if 0x700 ≤ off && off < 0x718 then writeRecovery s fn off v
  else if !lanternRuns s then s
  else if 0x1000 ≤ off && off < 0x1900 then writeMailbox s fn ((off - 0x1000) / 0x100) (off % 0x100) v
  else if 0x6000 ≤ off && off < 0x6400 && off % 16 = 0 then oringDoorbell s fn ((off - 0x6000) / 16) v
  else if 0xF000 ≤ off && off < 0xF030 then writeVector s fn (off - 0xF000) v
  else if 0x5010000 ≤ off && off < 0x5014000 && off % 0x40 = 0x18 then
    medRingDoorbell s fn ((off - 0x5010000) / 0x40) v
  else s

def execRegisterWrite (fn : Fn) (off : BitVec 28) (value : Word) (s : State) : Host.Outcome State Fault Refusal :=
  finish s (registerWrite s fn.val off.toNat value)

end Sys2Proof.Machine
end

