-- ==== Sys2Proof/Machine/Tick.lean ====
section
/-! DEFINITION. What one tick of LAN_LOCAL_TIME does while no command waits (log entry 10): the count, the issue
buckets, the times of jobs and the load of the scaler and crop units (R44, R306, R375, R471). -/

namespace Sys2Proof.Machine

/-- An issue bucket after a tick at a dome's fraction and step rate, in 1/255 of a token: RATE / 100 steps pass in
10 ns (R471). -/
def refillTokens (fraction rate tokens : Nat) : Nat := min (64 * 255) (tokens + fraction * rate / 100)

/-- The bucket of spindle p. -/
def tickSpindle (s : State) (p : Nat) (x : Spindle) : Spindle :=
  let d := domeOf s (domeOfSpindle p)
  { x with arr := { x.arr with tokens := refillTokens d.fraction.toNat d.rate.toNat x.arr.tokens } }

/-- The time of a job counts while it is RUNNING, SAVING or RESTORING (R375). -/
def tickJob (j : Job) : Job := if j.state = 2 || j.state = 3 || j.state = 6 then { j with time := j.time + 1 } else j

/-- MED_PREP_LOAD.LOAD over back-to-back windows of 2^20 ticks (R306, log entry 38). -/
def tickLoad (s : State) : State :=
  let busy := s.prepBusy + s.prepUnits.countP (fun e => e.2.state ≠ 0)
  if s.time.toNat % 2 ^ 20 = 0 then
    { s with prepBusy := 0, prepLoad := BitVec.ofNat 10 (min 1023 (busy / 4096)) }
  else { s with prepBusy := busy }

/-- One tick, while the rails are up. -/
def passTick (s : State) : State :=
  if s.boot.rails ≠ 8 then s
  else tickLoad { s with
    time := s.time + 1
    spindles := s.spindles.map (fun e => (e.1, tickSpindle s e.1 e.2))
    jobs := s.jobs.map (fun e => (e.1, tickJob e.2)) }

end Sys2Proof.Machine
end

