-- ==== Sys2Proof/Machine/VecOps.lean ====
section
/-! DEFINITION. The vector engine's operations: lanes, elementary functions, reductions, permutations,
pack and unpack, tiles and fallback rows, and the issue of one instruction of a block (R128 to R152,
R163). -/

namespace Sys2Proof.Machine

/-- ln 2 in units of 2^-256, rounded down. -/
def ln2Fixed : Nat := 80260960185991308862233904206310070533990667611589946606122867505419956976171

/-! ### Instructions (R136) -/

/-- The fields of an instruction. -/
structure Insn where
  op : Nat
  cond : Nat
  vd : Nat
  va : Nat
  vb : Nat
  mask : Nat
  ty : Nat
  xn : Nat
  imm : Nat
deriving DecidableEq, Repr

def decodeInsn (w : BitVec 64) : Insn where
  op := field w.toNat 56 8
  cond := field w.toNat 54 2
  vd := field w.toNat 50 4
  va := field w.toNat 46 4
  vb := field w.toNat 42 4
  mask := field w.toNat 39 3
  ty := field w.toNat 38 1
  xn := field w.toNat 35 3
  imm := field w.toNat 0 32

/-- What an instruction does: it is done, it waits on a busy tile, or it stops the engine with a CAUSE of
SPN_VEC_POS and, for a scale check, the entry. -/
inductive VecOut where
  | done (x : Spindle)
  | busy
  | stop (cause : Nat) (entry : Option Nat)
  /-- an operand-cache word in error (R503) -/
  | failed

/-! ### Lanes and masks (R128, R129, R138) -/

def laneOf (v : VecEngine) (r l : Nat) : Word := storeGet v.v (32 * r + l)
def xregOf (v : VecEngine) (n : Nat) : Word := storeGet v.x n
def setXreg (v : VecEngine) (n : Nat) (w : Word) : VecEngine := { v with x := storeSet v.x n w }

/-- A mask register; M0 reads all ones. -/
def maskOfReg (v : VecEngine) (n : Nat) : Nat := if n = 0 then 2 ^ 32 - 1 else (storeGet v.m n).toNat

/-- A mask register written; M0 cannot be. -/
def setMaskReg (v : VecEngine) (n x : Nat) : VecEngine :=
  if n = 0 then v else { v with m := storeSet v.m n (BitVec.ofNat 32 x) }

/-- Lane l is active for an instruction (R138). -/
def activeLane (v : VecEngine) (i : Insn) (l : Nat) : Bool :=
  decide (l < v.vl.toNat) && bitOf (maskOfReg v i.mask) l

def activeLanes (v : VecEngine) (i : Insn) : List Nat := (List.range 32).filter (activeLane v i)

/-- Lanes of a register written where a value is given. -/
def writeLanes (v : VecEngine) (r : Nat) (f : Nat → Option Word) : VecEngine :=
  { v with v := (List.range 32).foldl (fun st l =>
      match f l with
      | none => st
      | some w => storeSet st (32 * r + l) w) v.v }

/-- An element-wise instruction: the lane function of type bit, Va, Vb and Vd on every active lane. -/
def elementwise (f : Nat → Word → Word → Word → Rounded) (x : Spindle) (i : Insn) : VecOut :=
  let v := x.vec
  let r := fun l => f i.ty (laneOf v i.va l) (laneOf v i.vb l) (laneOf v i.vd l)
  let act := activeLanes v i
  .done (countInto { x with vec := writeLanes v i.vd (fun l =>
    if activeLane v i l then some (BitVec.ofNat 32 (r l).bits) else none) }
    (act.map (fun l => (r l).sat)).sum (act.map (fun l => (r l).ufl)).sum)

/-- A value without counts. -/
def plain (w : Word) : Rounded := { bits := w.toNat }

/-- The canonical FP32 NaN. -/
def nanWord : Word := 0x7FC00000#32

/-! ### Element-wise arithmetic (R137, R140) -/

def laneAdd (ty : Nat) (a b _d : Word) : Rounded := if ty = 1 then int32Of (a.toInt + b.toInt) else fpAdd a b
def laneSub (ty : Nat) (a b _d : Word) : Rounded := if ty = 1 then int32Of (a.toInt - b.toInt) else fpSub a b
def laneMul (ty : Nat) (a b _d : Word) : Rounded := if ty = 1 then int32Of (a.toInt * b.toInt) else fpMul a b
def laneFma (ty : Nat) (a b d : Word) : Rounded :=
  if ty = 1 then int32Of (a.toInt * b.toInt + d.toInt) else fpFma d a b

/-- a orders before b as FP32, -0 below +0 (R140). -/
def fpBefore (a b : Word) : Bool :=
  numLt (fp32 a) (fp32 b) || (numEq (fp32 a) (fp32 b) && bitOf a.toNat 31 && !bitOf b.toNat 31)

def laneMin (ty : Nat) (a b _d : Word) : Rounded :=
  if ty = 1 then plain (if a.toInt ≤ b.toInt then a else b)
  else if isNaN (fp32 a) || isNaN (fp32 b) then plain nanWord
  else plain (if fpBefore b a then b else a)

def laneMax (ty : Nat) (a b _d : Word) : Rounded :=
  if ty = 1 then plain (if b.toInt ≤ a.toInt then a else b)
  else if isNaN (fp32 a) || isNaN (fp32 b) then plain nanWord
  else plain (if fpBefore a b then b else a)

/-- An FP32 pattern with a sign, NaN made canonical (R67). -/
def fpSign (neg : Bool) (a : Word) : Word :=
  if isNaN (fp32 a) then nanWord else BitVec.ofNat 32 (a.toNat % 2 ^ 31 + flag neg * 2 ^ 31)

def laneAbs (ty : Nat) (a _b _d : Word) : Rounded :=
  if ty = 1 then int32Of (a.toInt.natAbs : Int) else plain (fpSign false a)
def laneNeg (ty : Nat) (a _b _d : Word) : Rounded :=
  if ty = 1 then int32Of (-a.toInt) else plain (fpSign (!bitOf a.toNat 31) a)

/-- CVT to type TY from the other type. -/
def laneCvt (ty : Nat) (a _b _d : Word) : Rounded :=
  if ty = 1 then roundInt 32 (-(2 ^ 31)) (2 ^ 31 - 1) (fp32 a)
  else { bits := (roundFp32 (numOfInt a.toInt)).bits }

/-- QMUL: an infinite or NaN scale gives 0 and counts. -/
def laneQmul (_ty : Nat) (a b _d : Word) : Rounded :=
  if isFinite (fp32 b) then roundInt 32 (-(2 ^ 31)) (2 ^ 31 - 1) (mulNum (numOfInt a.toInt) (fp32 b))
  else { bits := 0, sat := 1 }

def laneAnd (_ty : Nat) (a b _d : Word) : Rounded := plain (a &&& b)
def laneOr (_ty : Nat) (a b _d : Word) : Rounded := plain (a ||| b)
def laneXor (_ty : Nat) (a b _d : Word) : Rounded := plain (a ^^^ b)

/-- SEL: every lane below VL, MASK as selector (R138). -/
def selectLanes (x : Spindle) (i : Insn) : VecOut :=
  let v := x.vec
  .done { x with vec := writeLanes v i.vd (fun l =>
    if l < v.vl.toNat then
      some (if bitOf (maskOfReg v i.mask) l then laneOf v i.va l else laneOf v i.vb l) else none) }

/-- BCASTI. -/
def broadcastImm (x : Spindle) (i : Insn) : VecOut :=
  .done { x with vec := writeLanes x.vec i.vd (fun l =>
    if activeLane x.vec i l then some (BitVec.ofNat 32 i.imm) else none) }

/-! ### Elementary functions, correctly rounded (R141; log entry 16) -/

/-- Terms of e^y in units of 2^-256, from the k-th on, n of them. -/
def expTerms (y : Nat) : Nat → Nat → Nat → Nat
  | 0, _, _ => 0
  | n + 1, k, term => term + expTerms y n (k + 1) (term * y / 2 ^ 256 / k)

/-- 2^f in units of 2^-256, for f in units of 2^-256 below 1. -/
def exp2Fixed (f : Nat) : Nat := expTerms (f * ln2Fixed / 2 ^ 256) 64 1 (2 ^ 256)

/-- EXP2 with the special values of R141. -/
def exp2Of : FpVal → Rounded
  | .nan => plain nanWord
  | .inf n => if n then { bits := 0 } else { bits := 0x7F800000 }
  | .fin n m e =>
    if m = 0 then { bits := 0x3F800000 }
    else if !n && !magLt m e 128 0 then { bits := 0x7F800000, sat := 1 }
    else if n && magLt 150 0 m e then { bits := 0, ufl := 1 }
    else
      let x := finInt n m (e + 256) 0
      roundFp32 (.fin false (exp2Fixed (x % 2 ^ 256).toNat) (x / 2 ^ 256 - 256))

/-- Terms of artanh z in units of 2^-256: z^k / k for k odd, n of them. -/
def atanhTerms (zz : Nat) : Nat → Nat → Nat → Nat
  | 0, _, _ => 0
  | n + 1, k, p => p / k + atanhTerms zz n (k + 2) (p * zz / 2 ^ 256)

/-- log2 (m / 2^t) in units of 2^-256 for 2^t ≤ m < 2^(t+1). -/
def log2Fixed (m t : Nat) : Nat :=
  let z := (m - 2 ^ t) * 2 ^ 256 / (m + 2 ^ t)
  2 * atanhTerms (z * z / 2 ^ 256) 96 1 z * 2 ^ 256 / ln2Fixed

/-- LOG2 with the special values of R141. -/
def log2Of : FpVal → Rounded
  | .nan => plain nanWord
  | .inf n => if n then plain nanWord else { bits := 0x7F800000 }
  | .fin n m e =>
    if m = 0 then { bits := 0xFF800000, sat := 1 }
    else if n then plain nanWord
    else
      let t := Nat.log2 m
      let v : Int := (e + t) * 2 ^ 256 + (if m = 2 ^ t then 0 else log2Fixed m t : Nat)
      roundFp32 (.fin (decide (v < 0)) v.natAbs (-256))

/-- RCP with the special values of R141. -/
def rcpOf : FpVal → Rounded
  | .nan => plain nanWord
  | .inf n => { bits := flag n * 2 ^ 31 }
  | .fin n m e =>
    if m = 0 then { bits := flag n * 2 ^ 31 + 0x7F800000, sat := 1 }
    else roundFp32 (.fin n (2 * (2 ^ 160 / m) + flag (2 ^ 160 % m != 0)) (-161 - e))

/-- RSQRT with the special values of R141. -/
def rsqrtOf : FpVal → Rounded
  | .nan => plain nanWord
  | .inf n => if n then plain nanWord else { bits := 0 }
  | .fin n m e =>
    if m = 0 then { bits := flag n * 2 ^ 31 + 0x7F800000, sat := 1 }
    else if n then plain nanWord
    else
      let m := if e % 2 = 0 then m else 2 * m
      let e := if e % 2 = 0 then e else e - 1
      let r := isqrt (2 ^ 320 / m)
      roundFp32 (.fin false (2 * r + flag (r * r * m != 2 ^ 320)) (-161 - e / 2))

def laneExp2 (_ty : Nat) (a _b _d : Word) : Rounded := exp2Of (fp32 a)
def laneLog2 (_ty : Nat) (a _b _d : Word) : Rounded := log2Of (fp32 a)
def laneRcp (_ty : Nat) (a _b _d : Word) : Rounded := rcpOf (fp32 a)
def laneRsqrt (_ty : Nat) (a _b _d : Word) : Rounded := rsqrtOf (fp32 a)

/-! ### Compares and mask logic (R142) -/

/-- A compare: 1 in active lanes whose relation holds, 0 elsewhere; a NaN in an active lane is false and
raises NAN. -/
def compareLanes (rel : Nat → Word → Word → Bool) (x : Spindle) (i : Insn) : VecOut :=
  let v := x.vec
  let act := activeLanes v i
  let nanAt := fun l => i.ty == 0 && (isNaN (fp32 (laneOf v i.va l)) || isNaN (fp32 (laneOf v i.vb l)))
  let on := act.filter (fun l => !nanAt l && rel i.ty (laneOf v i.va l) (laneOf v i.vb l))
  .done { x with vec := raiseVecFlags (setMaskReg v (i.vd % 8) (maskOf on)) (act.any nanAt) false false }

def relEq (ty : Nat) (a b : Word) : Bool := if ty = 1 then a == b else numEq (fp32 a) (fp32 b)
def relLt (ty : Nat) (a b : Word) : Bool := if ty = 1 then a.toInt < b.toInt else numLt (fp32 a) (fp32 b)
def relLe (ty : Nat) (a b : Word) : Bool :=
  if ty = 1 then a.toInt ≤ b.toInt else numLt (fp32 a) (fp32 b) || numEq (fp32 a) (fp32 b)

/-- Mask logic on all 32 bits. Ma is the VA field, Mb the VB field (DEDUCED, log entry 17). -/
def maskLogic (f : Nat → Nat → Nat) (x : Spindle) (i : Insn) : VecOut :=
  let v := x.vec
  .done { x with vec := setMaskReg v (i.vd % 8) (f (maskOfReg v (i.va % 8)) (maskOfReg v (i.vb % 8))) }

/-! ### Reductions (R143, R144) -/

/-- One level of the tree. -/
def pairUp (f : Word → Word → Rounded) : List Word → List Rounded
  | a :: b :: r => f a b :: pairUp f r
  | [a] => [plain a]
  | [] => []

/-- The tree of n levels: its result and counts. -/
def reduceTree (f : Word → Word → Rounded) : Nat → List Word → Rounded
  | 0, l => plain (l.headD 0)
  | n + 1, l =>
    let p := pairUp f l
    let r := reduceTree f n (p.map (fun c => BitVec.ofNat 32 c.bits))
    { r with sat := satSum p + r.sat, ufl := uflSum p + r.ufl }

/-- Lane 0 of a register is written whatever is active (R138). -/
def writeLane0 (x : Spindle) (r : Nat) (w : Word) (nan empty : Bool) : Spindle :=
  { x with vec := raiseVecFlags { x.vec with v := storeSet x.vec.v (32 * r) w } nan false empty }

/-- A NaN stands in an active lane of Va of an FP32 instruction. -/
def activeNaN (v : VecEngine) (i : Insn) : Bool :=
  i.ty == 0 && (activeLanes v i).any (fun l => isNaN (fp32 (laneOf v i.va l)))

/-- A reduction by the tree with the identities of its two types. -/
def reduceLanes (f : Nat → Word → Word → Word → Rounded) (idF idI : Word) (x : Spindle) (i : Insn) : VecOut :=
  let v := x.vec
  let ident := if i.ty = 1 then idI else idF
  let none' := (activeLanes v i).isEmpty
  let r := if none' then plain ident
    else reduceTree (fun a b => f i.ty a b 0) 5
      ((List.range 32).map (fun l => if activeLane v i l then laneOf v i.va l else ident))
  .done (countInto (writeLane0 x i.vd (BitVec.ofNat 32 r.bits) (activeNaN v i) none') r.sat r.ufl)

/-- The lowest active lane whose value is extreme, 0xFFFF where none is active; `before a b` says that a beats b. The
lowest NaN lane comes first (R144). -/
def bestLane (before : Nat → Word → Word → Bool) (v : VecEngine) (i : Insn) : Nat :=
  let act := activeLanes v i
  match act.find? (fun l => i.ty == 0 && isNaN (fp32 (laneOf v i.va l))) with
  | some l => l
  | none => match act with
    | [] => 0xFFFF
    | l :: r => r.foldl (fun b k => if before i.ty (laneOf v i.va k) (laneOf v i.va b) then k else b) l

/-- RARGMAX and RARGMIN. -/
def argLanes (before : Nat → Word → Word → Bool) (x : Spindle) (i : Insn) : VecOut :=
  .done (writeLane0 x i.vd (BitVec.ofNat 32 (bestLane before x.vec i)) (activeNaN x.vec i) (activeLanes x.vec i).isEmpty)

def beatsMax (ty : Nat) (a b : Word) : Bool := if ty = 1 then b.toInt < a.toInt else fpBefore b a
def beatsMin (ty : Nat) (a b : Word) : Bool := if ty = 1 then a.toInt < b.toInt else fpBefore a b

/-! ### Address registers and tags (R137) -/

/-- XSET. -/
def setAddress (x : Spindle) (i : Insn) : VecOut :=
  .done { x with vec := setXreg x.vec i.xn (BitVec.ofNat 32 i.imm) }

/-- XADD, modulo 2^32. -/
def addAddress (x : Spindle) (i : Insn) : VecOut :=
  .done { x with vec := setXreg x.vec i.xn (xregOf x.vec i.xn + BitVec.ofNat 32 i.imm) }

/-- TAGSET: IMM[16] chooses UNPACK_TAG. -/
def setTag (x : Spindle) (i : Insn) : VecOut :=
  let t := BitVec.ofNat 16 i.imm
  .done { x with vec := if bitOf i.imm 16 then { x.vec with unpackTag := t } else { x.vec with packTag := t } }

/-! ### Permutation (R145) -/

/-- Va read through an index per lane; an index at or beyond VL or 32 gives +0 and PERM_RANGE. -/
def permuteLanes (index : VecEngine → Insn → Nat → Nat) (x : Spindle) (i : Insn) : VecOut :=
  let v := x.vec
  let bad := fun l => decide (v.vl.toNat ≤ index v i l) || decide (32 ≤ index v i l)
  let w := writeLanes v i.vd (fun l =>
    if activeLane v i l then some (if bad l then 0 else laneOf v i.va (index v i l)) else none)
  .done { x with vec := raiseVecFlags w false ((activeLanes v i).any bad) false }

/-- SLIDEUP and SLIDEDN: Va moved by IMM[5:0] lanes, zeros filled in. -/
def slideLanes (source : VecEngine → Nat → Nat → Option Nat) (x : Spindle) (i : Insn) : VecOut :=
  let v := x.vec
  .done { x with vec := writeLanes v i.vd (fun l =>
    if activeLane v i l then
      some (match source v (field i.imm 0 6) l with | none => 0 | some k => laneOf v i.va k)
    else none) }

/-! ### Pack, unpack and rows (R146 to R148, R154) -/

def cacheSize : Nat := 393216

/-- Operand-cache address of an access: Xn plus IMM[15:0] sign-extended (R146). The sum does not wrap, and one
below 0 lies outside every range (DEDUCED, log entry 39). -/
def memAddress (v : VecEngine) (i : Insn) : Nat :=
  let a : Int := (xregOf v i.xn).toNat + signedOf 16 i.imm
  if a < 0 then 2 ^ 32 else a.toNat

/-- Alignment of a format's data in bytes (R146). -/
def dataAlign (f : Nat) : Nat := if fmtBlock f then blockBytes f else max 1 (fmtBits f / 8)

/-- Bytes from the address that lanes up to the highest active one reach. -/
def reachBytes (f : Nat) (act : List Nat) : Nat :=
  match act.getLast? with
  | none => 0
  | some l => ceilDiv ((l + 1) * fmtBits f) 8

/-- An access keeps within the operand cache and its alignment; a block access has its scale and knot
entries too (R147, R148). -/
def accessOk (v : VecEngine) (i : Insn) (f : Nat) (act : List Nat) : Bool :=
  let a := memAddress v i
  if fmtBlock f then
    let b := (xregOf v (i.xn + 1)).toNat
    let c := (xregOf v (i.xn + 2)).toNat
    a % blockBytes f == 0 && decide (a + blockBytes f ≤ cacheSize) && b % 2 == 0 && decide (b + 2 ≤ cacheSize)
      && (f != fmtEn4 || (c % 8 == 0 && decide (c + 8 ≤ cacheSize)))
  else a % dataAlign f == 0 && decide (a + reachBytes f act ≤ cacheSize)

/-- The lane an element code unpacks to (R72, R146); FP32 and INT32 words are taken as they are. -/
def unpackCode (f code : Nat) : Rounded :=
  if f = fmtFp32 ∨ f = fmtInt32 then { bits := code }
  else if fmtInteger f then { bits := unsignedOf 32 (numInt (ofElement f code)) }
  else roundFp32 (ofElement f code)

/-- The pointers and UNPACK_TAG or PACK_TAG after a block (R147). -/
def advanceBlock (v : VecEngine) (i : Insn) (f : Nat) (load : Bool) : VecEngine :=
  let v := setXreg v (i.xn + 1) (xregOf v (i.xn + 1) + 2)
  let v := if f = fmtEn4 then setXreg v (i.xn + 2) (xregOf v (i.xn + 2) + 8) else v
  if load then { v with unpackTag := v.unpackTag + 1 } else { v with packTag := v.packTag + 1 }

/-- The bytes a load reads, or a store writes, meet a word in error (R503, R505); a store that covers the
word whole mends it. -/
def loadFails (x : Spindle) (i : Insn) (f : Nat) (act : List Nat) : Bool :=
  let v := x.vec
  if fmtBlock f then
    badWordRead x.bad (memAddress v i) (blockBytes f) || badWordRead x.bad (xregOf v (i.xn + 1)).toNat 2
      || (f == fmtEn4 && badWordRead x.bad (xregOf v (i.xn + 2)).toNat 8)
  else badWordRead x.bad (memAddress v i) (reachBytes f act)
def storeFails (x : Spindle) (i : Insn) (f : Nat) (act : List Nat) : Bool :=
  let v := x.vec
  if fmtBlock f then
    badWordWrite x.bad (memAddress v i) (blockBytes f) || badWordWrite x.bad (xregOf v (i.xn + 1)).toNat 2
  else if act = List.range act.length then badWordWrite x.bad (memAddress v i) (reachBytes f act)
  else badWordRead x.bad (memAddress v i) (reachBytes f act)

/-- What an unpack delivers: one value per lane, or the stop. -/
def unpackLanes (x : Spindle) (i : Insn) : Except (Nat × Option Nat) (List Rounded × VecEngine) :=
  let v := x.vec
  let f := i.va
  let act := activeLanes v i
  let a := memAddress v i
  if !accessOk v i f act then .error (0, none)
  else if fmtBlock f then
    let data := storeRead x.cache a (blockBytes f)
    let entry := leNat (storeRead x.cache (xregOf v (i.xn + 1)).toNat 2)
    let knots := if f = fmtEn4 then storeRead x.cache (xregOf v (i.xn + 2)).toNat 8 else []
    match skewCause f v.unpackTag.toNat entry data with
    | some c => .error (if c = 0 then 3 else 4, some entry)
    | none => .ok ((decodeBlock f entry data knots).map (fun e => roundFp32 e.1), advanceBlock v i f true)
  else
    let data := storeRead x.cache a (reachBytes f act)
    .ok ((List.range 32).map (fun l => unpackCode f (elemCode f data l)), v)

/-- VLD. -/
def loadLanes (x : Spindle) (i : Insn) : VecOut :=
  if accessOk x.vec i i.va (activeLanes x.vec i) && loadFails x i i.va (activeLanes x.vec i) then .failed
  else match unpackLanes x i with
  | .error e => .stop e.1 e.2
  | .ok (rs, v) =>
    let act := activeLanes x.vec i
    let r := fun l => rs.getD l { bits := 0 }
    .done (countInto { x with vec := writeLanes v i.vd (fun l =>
      if activeLane x.vec i l then some (BitVec.ofNat 32 (r l).bits) else none) }
      (act.map (fun l => (r l).sat)).sum (act.map (fun l => (r l).ufl)).sum)

/-- MACM and MULM: the unpacked lane times Vb by a lane function (R137, R140). -/
def multiplyMemory (f : Nat → Word → Word → Word → Rounded) (x : Spindle) (i : Insn) : VecOut :=
  if accessOk x.vec i i.va (activeLanes x.vec i) && loadFails x i i.va (activeLanes x.vec i) then .failed
  else match unpackLanes x i with
  | .error e => .stop e.1 e.2
  | .ok (rs, v) =>
    let act := activeLanes x.vec i
    let u := fun l => rs.getD l { bits := 0 }
    let r := fun l => f i.ty (BitVec.ofNat 32 (u l).bits) (laneOf x.vec i.vb l) (laneOf x.vec i.vd l)
    .done (countInto { x with vec := writeLanes v i.vd (fun l =>
      if activeLane x.vec i l then some (BitVec.ofNat 32 (r l).bits) else none) }
      (act.map (fun l => (u l).sat + (r l).sat)).sum (act.map (fun l => (u l).ufl + (r l).ufl)).sum)

/-- A lane of type TY as a value. -/
def laneNum (ty : Nat) (w : Word) : FpVal := if ty = 1 then numOfInt w.toInt else fp32 w

/-- A lane packed to a format without a block scale (R146). -/
def packLane (f ty : Nat) (w : Word) : Rounded :=
  if (f = fmtFp32 ∧ ty = 0) ∨ (f = fmtInt32 ∧ ty = 1) then plain w else toElement f (laneNum ty w)

/-- One element put at its place in the operand cache; a 4-bit element keeps the other nibble (R139). -/
def putElement (c : Store 8) (f a l code : Nat) : Store 8 :=
  if fmt4bit f then
    let old := (storeGet c (a + l / 2)).toNat
    storeSet c (a + l / 2) (BitVec.ofNat 8
      (if l % 2 = 0 then old / 16 * 16 + code % 16 else code % 16 * 16 + old % 16))
  else storeWrite c (a + l * (fmtBits f / 8)) (toLE (fmtBits f / 8) code)

/-- VST. -/
def storeLanes (x : Spindle) (i : Insn) : VecOut :=
  let v := x.vec
  let f := i.va
  let act := activeLanes v i
  let a := memAddress v i
  if !accessOk v i f act then .stop 0 none
  else if storeFails x i f act then .failed
  else if fmtBlock f then
    let xs := (List.range 32).map (fun l => if activeLane v i l then laneNum i.ty (laneOf v i.vd l) else .zero)
    let limit := field i.imm 16 3
    let tag := v.packTag.toNat
    let pk := if bitOf i.imm 19 then packSupplied f ((laneOf v i.vb 0).toNat % 256) xs limit tag
      else packBlock f xs limit tag
    let c := storeWrite x.cache a (packCodes f pk.codes)
    let c := storeWrite c (xregOf v (i.xn + 1)).toNat (toLE 2 pk.entry)
    let c := if f = fmtEn4 then storeWrite c (xregOf v (i.xn + 2)).toNat pk.knots else c
    .done (countInto { x with
      cache := c, bad := clearWords x.bad a (blockBytes f), vec := advanceBlock v i f false } pk.sat pk.ufl)
  else
    let r := fun l => packLane f i.ty (laneOf v i.vd l)
    .done (countInto { x with
      cache := act.foldl (fun c l => putElement c f a l (r l).bits) x.cache
      bad := clearWords x.bad a (reachBytes f act) }
      (act.map (fun l => (r l).sat)).sum (act.map (fun l => (r l).ufl)).sum)

/-- Row of a tile or fallback access: Xn plus IMM[15:0] (R148). -/
def rowAddress (v : VecEngine) (i : Insn) : Nat := (xregOf v i.xn).toNat + field i.imm 0 16

/-- TLD. -/
def loadTile (x : Spindle) (i : Insn) : VecOut :=
  let row := rowAddress x.vec i
  if 512 ≤ row then .stop 1 none
  else if x.busy.getLsbD (row / 32) then .busy
  else .done { x with vec := writeLanes x.vec i.vd (fun l =>
    if activeLane x.vec i l then some (storeGet x.acc (32 * row + l)) else none) }

/-- TST. -/
def storeTile (x : Spindle) (i : Insn) : VecOut :=
  let row := rowAddress x.vec i
  if 512 ≤ row then .stop 1 none
  else if x.busy.getLsbD (row / 32) then .busy
  else .done { x with acc := (activeLanes x.vec i).foldl (fun a l =>
    storeSet a (32 * row + l) (laneOf x.vec i.vd l)) x.acc }

/-- FLD. -/
def loadFallback (x : Spindle) (i : Insn) : VecOut :=
  let row := rowAddress x.vec i
  if 128 ≤ row then .stop 2 none
  else .done { x with vec := writeLanes x.vec i.vd (fun l =>
    if activeLane x.vec i l then some (storeGet x.vec.fb (32 * row + l)) else none) }

/-- FST. -/
def storeFallback (x : Spindle) (i : Insn) : VecOut :=
  let row := rowAddress x.vec i
  if 128 ≤ row then .stop 2 none
  else .done { x with vec := { x.vec with fb := (activeLanes x.vec i).foldl (fun a l =>
    storeSet a (32 * row + l) (laneOf x.vec i.vd l)) x.vec.fb } }

/-! ### Blocks and issue (R130 to R133, R149, R163) -/

/-- A position inside a block: i0, i1, i2 and the instruction. -/
structure VecPos where
  i0 : Nat
  i1 : Nat
  i2 : Nat
  k : Nat
deriving DecidableEq, Repr

/-- COND at a position (R132). -/
def condRuns (b : VBlock) (q : VecPos) (cond : Nat) : Bool :=
  if cond = 0 then true
  else if cond = 1 then q.i0 + 1 == b.count0
  else if cond = 2 then q.i0 + 1 == b.count0 && q.i1 + 1 == b.count1
  else q.i0 == 0 && q.i1 == 0

/-- The position behind an instruction or a whole iteration; none at the block's end (R132). -/
def stepPos (b : VBlock) (q : VecPos) : Option VecPos :=
  if q.k + 1 < b.insns.length then some { q with k := q.k + 1 }
  else if q.i0 + 1 < b.count0 then some ⟨q.i0 + 1, q.i1, q.i2, 0⟩
  else if q.i1 + 1 < b.count1 then some ⟨0, q.i1 + 1, q.i2, 0⟩
  else if q.i2 + 1 < b.count2 then some ⟨0, 0, q.i2 + 1, 0⟩
  else none

/-- The first position from q on whose instruction runs, with fuel. -/
def seekPos (b : VBlock) : Nat → VecPos → Option VecPos
  | 0, _ => none
  | n + 1, q =>
    if condRuns b q (decodeInsn (b.insns.getD q.k 0)).cond then some q
    else match stepPos b q with
      | none => none
      | some r => seekPos b n r

/-- Positions of a block. -/
def blockFuel (b : VBlock) : Nat := b.count0 * b.count1 * b.count2 * b.insns.length + 1

/-- VL at a position (R132). -/
def vlAt (b : VBlock) (q : VecPos) : Nat :=
  let last := if b.vlLevel = 0 then q.i0 + 1 == b.count0 else if b.vlLevel = 1 then q.i1 + 1 == b.count1
    else if b.vlLevel = 2 then q.i2 + 1 == b.count2 else false
  if last then b.vlLast else b.vl

/-- The engine stands at a position. -/
def atPos (v : VecEngine) (b : VBlock) (q : VecPos) : VecEngine :=
  { v with
    i0 := BitVec.ofNat 16 q.i0, i1 := BitVec.ofNat 16 q.i1, i2 := BitVec.ofNat 16 q.i2
    insn := BitVec.ofNat 7 q.k, vl := BitVec.ofNat 6 (vlAt b q), state := 1 }

/-- Lanes 0 to 2 of V15 before the first instruction of an epilogue attempt in MODE 1 or 2 (R163). -/
def writeV15 (x : Spindle) (jd : Judgement) : VecEngine :=
  let slot := x.scale.slots.getD jd.head.slot {}
  let first := if x.scale.attempt then jd.amax else slotEstimate slot
  let v := x.vec.v
  let v := storeSet v 480 first
  let v := storeSet v 481 (BitVec.ofNat 32 (flag x.scale.attempt))
  { x.vec with v := storeSet v 482 (BitVec.ofNat 32 slot.entries.length) }

/-- The block at the front starts (R132, R152, R163). -/
def startBlock (x : Spindle) (b : VBlock) : Spindle :=
  let v := match x.scale.judging with
    | none => x.vec
    | some jd => if b.epilogue && jd.done == 0 && (jd.head.mode == 1 || jd.head.mode == 2) then writeV15 x jd
      else x.vec
  let v := { v with nan := false, perm := false, empty := false, posPc := BitVec.ofNat 16 b.pc, started := true }
  { x with vec := match seekPos b (blockFuel b) ⟨0, 0, 0, 0⟩ with
      | none => v
      | some q => atPos v b q }

/-- An epilogue block of MODE 2 waits for the array's report (R166). -/
def blockWaits (x : Spindle) (b : VBlock) : Bool :=
  match x.scale.judging with
  | none => false
  | some jd => b.epilogue && jd.head.mode == 2 && !jd.arrayDone

/-- The executing block is complete (R133, R157, R166): the next takes its place; a repeat hands over its
further blocks. -/
def finishBlock (x : Spindle) (b : VBlock) : Spindle :=
  let rest := x.vec.blocks.drop 1
  let jd := x.scale.judging.map (fun jd => if b.epilogue then { jd with done := jd.done + 1 } else jd)
  let more := match jd with
    | none => none
    | some j => if x.scale.attempt && b.epilogue then j.blocks[j.handed]? else none
  let jd := jd.map (fun j => if more.isSome then { j with handed := j.handed + 1 } else j)
  let blocks := rest ++ more.toList
  { x with
    vec := { x.vec with blocks := blocks, started := false, state := if blocks.isEmpty then 0 else 1 }
    scale := { x.scale with judging := jd } }

/-- The engine stops by an error (R147, R148, R152). -/
def vecError (s : State) (p : Nat) (x : Spindle) (b : VBlock) (cause : Nat) (entry : Option Nat) : State :=
  let v := x.vec
  let v := if v.error then { v with state := 4 }
    else { v with state := 4, error := true, cause := BitVec.ofNat 3 cause }
  let s := setSpindle s p { x with vec := v }
  match entry with
  | none => agenError s p stBadArgument b.pc
  | some e => agenError (raiseSkew s p b.pc 2 cause e) p stScaleSkew b.pc

/-- The engine's position. -/
def posOf (v : VecEngine) : VecPos := ⟨v.i0.toNat, v.i1.toNat, v.i2.toNat, v.insn.toNat⟩

/-- The engine of spindle p issues its next instruction, where that has opcode `op` (R132, R149, R151). -/
def vecIssue (s : State) (p op : Nat) (f : Spindle → Insn → VecOut) : State :=
  let x := spindleOf s p
  match runningJob s p, x.vec.blocks with
  | some _, b :: _ =>
    if x.vec.state = 4 || x.vec.state = 5 || (!x.vec.started && blockWaits x b) then s
    else
      let x := if x.vec.started then x else startBlock x b
      let i := decodeInsn (b.insns.getD x.vec.insn.toNat 0)
      if i.op ≠ op then s
      else match f x i with
        | .busy => setSpindle s p { x with vec := { x.vec with state := 2 } }
        | .failed => spindleSramFail (setSpindle s p { x with vec := { x.vec with state := 4 } }) p b.pc
        | .stop cause entry => vecError s p x b cause entry
        | .done y =>
          match (stepPos b (posOf x.vec)).bind (seekPos b (blockFuel b)) with
          | some q => setSpindle s p { y with vec := atPos y.vec b q }
          | none => judge (setSpindle s p (finishBlock y b)) p
  | _, _ => s

/-- All descriptors of a block from an offset on are in the table. -/
def blockHeld (x : Spindle) (off n : Nat) : Bool := (List.range n).all (fun k => (tableDesc x (off + k)).isSome)

/-- VECTOR (R130, R131, R133): a block is handed to the engine, which holds two. -/
def handBlock (s : State) (p : Nat) : State :=
  onDesc s p 7 (fun _ => true) (fun _ x _ =>
    let off := x.agen.next
    let n := blockLength (fun k => (tableDesc x (off + k)).getD []) 16 0
    if !blockHeld x off n then s
    else if 2 ≤ x.vec.blocks.length then setSpindle s p (executing x off 7 6)
    else
      let epi := match x.scale.judging with
        | none => false
        | some jd => !x.scale.attempt && decide (jd.blocks[jd.handed]?.map (·.pc) = some off)
      let b := decodeBlockDesc (fun k => (tableDesc x (off + k)).getD []) off epi
      let jd := x.scale.judging.map (fun jd => if epi then { jd with handed := jd.handed + 1 } else jd)
      let v := x.vec
      let v := { v with blocks := v.blocks ++ [b], state := if v.blocks.isEmpty then 1 else v.state }
      let x := { x with vec := v, scale := { x.scale with judging := jd } }
      setSpindle s p (goTo (executing x off 7 6) (off + n)))

end Sys2Proof.Machine
end

