-- ==== Sys2Proof/Machine/Vector.lean ====
section
/-! DEFINITION. The vector engine's rows: VECTOR and one meaning per instruction of R137. -/

namespace Sys2Proof.Machine

/-- VECTOR (R130, R133). -/
def execVector (p : Fin 256) (s : State) : Host.Outcome State Fault Refusal := finish s (handBlock s p)

/-- NOP (R137). -/
def execVNop (p : Fin 256) (s : State) : Host.Outcome State Fault Refusal :=
  finish s (vecIssue s p 0x00 (fun x _ => .done x))

/-- XSET (R137). -/
def execVXset (p : Fin 256) (s : State) : Host.Outcome State Fault Refusal :=
  finish s (vecIssue s p 0x01 setAddress)

/-- XADD, modulo 2^32 (R137). -/
def execVXadd (p : Fin 256) (s : State) : Host.Outcome State Fault Refusal :=
  finish s (vecIssue s p 0x02 addAddress)

/-- TAGSET (R137). -/
def execVTagset (p : Fin 256) (s : State) : Host.Outcome State Fault Refusal :=
  finish s (vecIssue s p 0x03 setTag)

/-- ADD (R137, R140). -/
def execVAdd (p : Fin 256) (s : State) : Host.Outcome State Fault Refusal :=
  finish s (vecIssue s p 0x10 (elementwise laneAdd))

/-- SUB (R137, R140). -/
def execVSub (p : Fin 256) (s : State) : Host.Outcome State Fault Refusal :=
  finish s (vecIssue s p 0x11 (elementwise laneSub))

/-- MUL (R137, R140). -/
def execVMul (p : Fin 256) (s : State) : Host.Outcome State Fault Refusal :=
  finish s (vecIssue s p 0x12 (elementwise laneMul))

/-- FMA (R137, R140). -/
def execVFma (p : Fin 256) (s : State) : Host.Outcome State Fault Refusal :=
  finish s (vecIssue s p 0x13 (elementwise laneFma))

/-- MIN (R137, R140). -/
def execVMin (p : Fin 256) (s : State) : Host.Outcome State Fault Refusal :=
  finish s (vecIssue s p 0x14 (elementwise laneMin))

/-- MAX (R137, R140). -/
def execVMax (p : Fin 256) (s : State) : Host.Outcome State Fault Refusal :=
  finish s (vecIssue s p 0x15 (elementwise laneMax))

/-- ABS (R137, R140). -/
def execVAbs (p : Fin 256) (s : State) : Host.Outcome State Fault Refusal :=
  finish s (vecIssue s p 0x16 (elementwise laneAbs))

/-- NEG (R137, R140). -/
def execVNeg (p : Fin 256) (s : State) : Host.Outcome State Fault Refusal :=
  finish s (vecIssue s p 0x17 (elementwise laneNeg))

/-- CVT (R137, R140). -/
def execVCvt (p : Fin 256) (s : State) : Host.Outcome State Fault Refusal :=
  finish s (vecIssue s p 0x18 (elementwise laneCvt))

/-- QMUL (R137, R140). -/
def execVQmul (p : Fin 256) (s : State) : Host.Outcome State Fault Refusal :=
  finish s (vecIssue s p 0x19 (elementwise laneQmul))

/-- SEL (R137, R138). -/
def execVSel (p : Fin 256) (s : State) : Host.Outcome State Fault Refusal :=
  finish s (vecIssue s p 0x1A selectLanes)

/-- BCASTI (R137). -/
def execVBcasti (p : Fin 256) (s : State) : Host.Outcome State Fault Refusal :=
  finish s (vecIssue s p 0x1B broadcastImm)

/-- AND (R137). -/
def execVAnd (p : Fin 256) (s : State) : Host.Outcome State Fault Refusal :=
  finish s (vecIssue s p 0x1C (elementwise laneAnd))

/-- OR (R137). -/
def execVOr (p : Fin 256) (s : State) : Host.Outcome State Fault Refusal :=
  finish s (vecIssue s p 0x1D (elementwise laneOr))

/-- XOR (R137). -/
def execVXor (p : Fin 256) (s : State) : Host.Outcome State Fault Refusal :=
  finish s (vecIssue s p 0x1E (elementwise laneXor))

/-- EXP2 (R141). -/
def execVExp2 (p : Fin 256) (s : State) : Host.Outcome State Fault Refusal :=
  finish s (vecIssue s p 0x20 (elementwise laneExp2))

/-- LOG2 (R141). -/
def execVLog2 (p : Fin 256) (s : State) : Host.Outcome State Fault Refusal :=
  finish s (vecIssue s p 0x21 (elementwise laneLog2))

/-- RCP (R141). -/
def execVRcp (p : Fin 256) (s : State) : Host.Outcome State Fault Refusal :=
  finish s (vecIssue s p 0x22 (elementwise laneRcp))

/-- RSQRT (R141). -/
def execVRsqrt (p : Fin 256) (s : State) : Host.Outcome State Fault Refusal :=
  finish s (vecIssue s p 0x23 (elementwise laneRsqrt))

/-- CMPEQ (R142). -/
def execVCmpeq (p : Fin 256) (s : State) : Host.Outcome State Fault Refusal :=
  finish s (vecIssue s p 0x30 (compareLanes relEq))

/-- CMPLT (R142). -/
def execVCmplt (p : Fin 256) (s : State) : Host.Outcome State Fault Refusal :=
  finish s (vecIssue s p 0x31 (compareLanes relLt))

/-- CMPLE (R142). -/
def execVCmple (p : Fin 256) (s : State) : Host.Outcome State Fault Refusal :=
  finish s (vecIssue s p 0x32 (compareLanes relLe))

/-- MAND (R137, R142). -/
def execVMand (p : Fin 256) (s : State) : Host.Outcome State Fault Refusal :=
  finish s (vecIssue s p 0x33 (maskLogic (fun a b => a &&& b)))

/-- MOR (R137, R142). -/
def execVMor (p : Fin 256) (s : State) : Host.Outcome State Fault Refusal :=
  finish s (vecIssue s p 0x34 (maskLogic (fun a b => a ||| b)))

/-- MNOT (R137, R142). -/
def execVMnot (p : Fin 256) (s : State) : Host.Outcome State Fault Refusal :=
  finish s (vecIssue s p 0x35 (maskLogic (fun a _ => 2 ^ 32 - 1 - a)))

/-- RSUM (R143, R144). -/
def execVRsum (p : Fin 256) (s : State) : Host.Outcome State Fault Refusal :=
  finish s (vecIssue s p 0x40 (reduceLanes laneAdd 0 0))

/-- RPROD (R143, R144). -/
def execVRprod (p : Fin 256) (s : State) : Host.Outcome State Fault Refusal :=
  finish s (vecIssue s p 0x41 (reduceLanes laneMul 0x3F800000#32 1))

/-- RMAX (R143, R144). -/
def execVRmax (p : Fin 256) (s : State) : Host.Outcome State Fault Refusal :=
  finish s (vecIssue s p 0x42 (reduceLanes laneMax 0xFF800000#32 0x80000000#32))

/-- RMIN (R143, R144). -/
def execVRmin (p : Fin 256) (s : State) : Host.Outcome State Fault Refusal :=
  finish s (vecIssue s p 0x43 (reduceLanes laneMin 0x7F800000#32 0x7FFFFFFF#32))

/-- RARGMAX (R143, R144). -/
def execVRargmax (p : Fin 256) (s : State) : Host.Outcome State Fault Refusal :=
  finish s (vecIssue s p 0x44 (argLanes beatsMax))

/-- RARGMIN (R143, R144). -/
def execVRargmin (p : Fin 256) (s : State) : Host.Outcome State Fault Refusal :=
  finish s (vecIssue s p 0x45 (argLanes beatsMin))

/-- PERM (R145). -/
def execVPerm (p : Fin 256) (s : State) : Host.Outcome State Fault Refusal :=
  finish s (vecIssue s p 0x50 (permuteLanes (fun v i l => (laneOf v i.vb l).toNat)))

/-- SLIDEUP (R145). -/
def execVSlideup (p : Fin 256) (s : State) : Host.Outcome State Fault Refusal :=
  finish s (vecIssue s p 0x51 (slideLanes (fun _ n l => if l < n then none else some (l - n))))

/-- SLIDEDN (R145). -/
def execVSlidedn (p : Fin 256) (s : State) : Host.Outcome State Fault Refusal :=
  finish s (vecIssue s p 0x52 (slideLanes (fun v n l => if v.vl.toNat ≤ l + n then none else some (l + n))))

/-- BCAST (R145). -/
def execVBcast (p : Fin 256) (s : State) : Host.Outcome State Fault Refusal :=
  finish s (vecIssue s p 0x53 (permuteLanes (fun _ i _ => field i.imm 0 5)))

/-- VLD (R146, R147). -/
def execVVld (p : Fin 256) (s : State) : Host.Outcome State Fault Refusal :=
  finish s (vecIssue s p 0x60 loadLanes)

/-- VST (R139, R146, R147, R154). -/
def execVVst (p : Fin 256) (s : State) : Host.Outcome State Fault Refusal :=
  finish s (vecIssue s p 0x61 storeLanes)

/-- TLD (R93, R148). -/
def execVTld (p : Fin 256) (s : State) : Host.Outcome State Fault Refusal :=
  finish s (vecIssue s p 0x62 loadTile)

/-- TST (R93, R148). -/
def execVTst (p : Fin 256) (s : State) : Host.Outcome State Fault Refusal :=
  finish s (vecIssue s p 0x63 storeTile)

/-- FLD (R148). -/
def execVFld (p : Fin 256) (s : State) : Host.Outcome State Fault Refusal :=
  finish s (vecIssue s p 0x64 loadFallback)

/-- FST (R148). -/
def execVFst (p : Fin 256) (s : State) : Host.Outcome State Fault Refusal :=
  finish s (vecIssue s p 0x65 storeFallback)

/-- MACM (R137, R140, R147). -/
def execVMacm (p : Fin 256) (s : State) : Host.Outcome State Fault Refusal :=
  finish s (vecIssue s p 0x66 (multiplyMemory laneFma))

/-- MULM (R137, R140, R147). -/
def execVMulm (p : Fin 256) (s : State) : Host.Outcome State Fault Refusal :=
  finish s (vecIssue s p 0x67 (multiplyMemory laneMul))

end Sys2Proof.Machine
end

