-- ==== Sys2Proof/Machine/Dispatch.lean ====
section
/-! DEFINITION. The one place where a command meets its meaning: one arm per constructor of `Instr`. -/

namespace Sys2Proof.Machine

def exec (i : Instr) (s : State) : Host.Outcome State Fault Refusal :=
  match i with
  | .registerWrite fn off value => Sys2Proof.Machine.execRegisterWrite fn off value s
  | .lanLocalTimeLoRead fn => Sys2Proof.Machine.execLanLocalTimeLoRead fn s
  | .netFlowArrivalLoRead fn stream => Sys2Proof.Machine.execNetFlowArrivalLoRead fn stream s
  | .netFlowSrNtpLoRead fn stream => Sys2Proof.Machine.execNetFlowSrNtpLoRead fn stream s
  | .pwrEnergyLoRead fn => Sys2Proof.Machine.execPwrEnergyLoRead fn s
  | .blfSeqLoRead fn => Sys2Proof.Machine.execBlfSeqLoRead fn s
  | .blfIdLoRead fn => Sys2Proof.Machine.execBlfIdLoRead fn s
  | .bar0BadAccess fn write => Sys2Proof.Machine.execBar0BadAccess fn write s
  | .configurationRequest fn op => Sys2Proof.Machine.execConfigurationRequest fn op s
  | .droopEvent d => Sys2Proof.Machine.execDroopEvent d s
  | .droopHold d => Sys2Proof.Machine.execDroopHold d s
  | .holdResume d => Sys2Proof.Machine.execHoldResume d s
  | .rateWindow d rate => Sys2Proof.Machine.execRateWindow d rate s
  | .opSlewSettled => Sys2Proof.Machine.execOpSlewSettled s
  | .arrayIdle p => Sys2Proof.Machine.execArrayIdle p s
  | .waveAdmit d => Sys2Proof.Machine.execWaveAdmit d s
  | .wavefrontIssue p => Sys2Proof.Machine.execWavefrontIssue p s
  | .weightSetLoaded p => Sys2Proof.Machine.execWeightSetLoaded p s
  | .operationComplete p => Sys2Proof.Machine.execOperationComplete p s
  | .descriptorFetch p => Sys2Proof.Machine.execDescriptorFetch p s
  | .head p => Sys2Proof.Machine.execHead p s
  | .workFetch p => Sys2Proof.Machine.execWorkFetch p s
  | .arm p => Sys2Proof.Machine.execArm p s
  | .jump p => Sys2Proof.Machine.execJump p s
  | .endProgram p => Sys2Proof.Machine.execEndProgram p s
  | .acquire p => Sys2Proof.Machine.execAcquire p s
  | .release p => Sys2Proof.Machine.execRelease p s
  | .barrier p => Sys2Proof.Machine.execBarrier p s
  | .waitLocal p => Sys2Proof.Machine.execWaitLocal p s
  | .drain p => Sys2Proof.Machine.execDrain p s
  | .skeinBarrier p => Sys2Proof.Machine.execSkeinBarrier p s
  | .copy p => Sys2Proof.Machine.execCopy p s
  | .copyComplete p => Sys2Proof.Machine.execCopyComplete p s
  | .vector p => Sys2Proof.Machine.execVector p s
  | .vNop p => Sys2Proof.Machine.execVNop p s
  | .vXset p => Sys2Proof.Machine.execVXset p s
  | .vXadd p => Sys2Proof.Machine.execVXadd p s
  | .vTagset p => Sys2Proof.Machine.execVTagset p s
  | .vAdd p => Sys2Proof.Machine.execVAdd p s
  | .vSub p => Sys2Proof.Machine.execVSub p s
  | .vMul p => Sys2Proof.Machine.execVMul p s
  | .vFma p => Sys2Proof.Machine.execVFma p s
  | .vMin p => Sys2Proof.Machine.execVMin p s
  | .vMax p => Sys2Proof.Machine.execVMax p s
  | .vAbs p => Sys2Proof.Machine.execVAbs p s
  | .vNeg p => Sys2Proof.Machine.execVNeg p s
  | .vCvt p => Sys2Proof.Machine.execVCvt p s
  | .vQmul p => Sys2Proof.Machine.execVQmul p s
  | .vSel p => Sys2Proof.Machine.execVSel p s
  | .vBcasti p => Sys2Proof.Machine.execVBcasti p s
  | .vAnd p => Sys2Proof.Machine.execVAnd p s
  | .vOr p => Sys2Proof.Machine.execVOr p s
  | .vXor p => Sys2Proof.Machine.execVXor p s
  | .vExp2 p => Sys2Proof.Machine.execVExp2 p s
  | .vLog2 p => Sys2Proof.Machine.execVLog2 p s
  | .vRcp p => Sys2Proof.Machine.execVRcp p s
  | .vRsqrt p => Sys2Proof.Machine.execVRsqrt p s
  | .vCmpeq p => Sys2Proof.Machine.execVCmpeq p s
  | .vCmplt p => Sys2Proof.Machine.execVCmplt p s
  | .vCmple p => Sys2Proof.Machine.execVCmple p s
  | .vMand p => Sys2Proof.Machine.execVMand p s
  | .vMor p => Sys2Proof.Machine.execVMor p s
  | .vMnot p => Sys2Proof.Machine.execVMnot p s
  | .vRsum p => Sys2Proof.Machine.execVRsum p s
  | .vRprod p => Sys2Proof.Machine.execVRprod p s
  | .vRmax p => Sys2Proof.Machine.execVRmax p s
  | .vRmin p => Sys2Proof.Machine.execVRmin p s
  | .vRargmax p => Sys2Proof.Machine.execVRargmax p s
  | .vRargmin p => Sys2Proof.Machine.execVRargmin p s
  | .vPerm p => Sys2Proof.Machine.execVPerm p s
  | .vSlideup p => Sys2Proof.Machine.execVSlideup p s
  | .vSlidedn p => Sys2Proof.Machine.execVSlidedn p s
  | .vBcast p => Sys2Proof.Machine.execVBcast p s
  | .vVld p => Sys2Proof.Machine.execVVld p s
  | .vVst p => Sys2Proof.Machine.execVVst p s
  | .vTld p => Sys2Proof.Machine.execVTld p s
  | .vTst p => Sys2Proof.Machine.execVTst p s
  | .vFld p => Sys2Proof.Machine.execVFld p s
  | .vFst p => Sys2Proof.Machine.execVFst p s
  | .vMacm p => Sys2Proof.Machine.execVMacm p s
  | .vMulm p => Sys2Proof.Machine.execVMulm p s
  | .conv spire => Sys2Proof.Machine.execConv spire s
  | .stemHead spire => Sys2Proof.Machine.execStemHead spire s
  | .stemEnd spire => Sys2Proof.Machine.execStemEnd spire s
  | .poolAcquire part pool owner => Sys2Proof.Machine.execPoolAcquire part pool owner s
  | .poolGroup part pairs => Sys2Proof.Machine.execPoolGroup part pairs s
  | .poolShare part handle owner other => Sys2Proof.Machine.execPoolShare part handle owner other s
  | .poolRelease part handle owner => Sys2Proof.Machine.execPoolRelease part handle owner s
  | .freeRingRefill part pool => Sys2Proof.Machine.execFreeRingRefill part pool s
  | .memoryRequest agent part offset op => Sys2Proof.Machine.execMemoryRequest agent part offset op s
  | .memoryReadComplete c outcome => Sys2Proof.Machine.execMemoryReadComplete c outcome s
  | .refreshDue c bank => Sys2Proof.Machine.execRefreshDue c bank s
  | .mr4Read c celsius => Sys2Proof.Machine.execMr4Read c celsius s
  | .wckOscillatorRun c drift0 drift1 => Sys2Proof.Machine.execWckOscillatorRun c drift0 drift1 s
  | .retrainPause c delay0 delay1 => Sys2Proof.Machine.execRetrainPause c delay0 delay1 s
  | .cmdStreamOpen slot => Sys2Proof.Machine.execCmdStreamOpen slot s
  | .cmdStreamClose slot => Sys2Proof.Machine.execCmdStreamClose slot s
  | .streamDrainEnd stream => Sys2Proof.Machine.execStreamDrainEnd stream s
  | .medRingDoorbell fn stream value => Sys2Proof.Machine.execMedRingDoorbell fn stream value s
  | .ringEntryRead stream entry => Sys2Proof.Machine.execRingEntryRead stream entry s
  | .chunkCopyComplete stream data => Sys2Proof.Machine.execChunkCopyComplete stream data s
  | .cmdPortConfig slot => Sys2Proof.Machine.execCmdPortConfig slot s
  | .ethLinkChange port up => Sys2Proof.Machine.execEthLinkChange port up s
  | .frameReceive port frame stamp => Sys2Proof.Machine.execFrameReceive port frame stamp s
  | .reorderTimeout stream => Sys2Proof.Machine.execReorderTimeout stream s
  | .pictureStart engine info => Sys2Proof.Machine.execPictureStart engine info s
  | .waitBufRetry stream => Sys2Proof.Machine.execWaitBufRetry stream s
  | .pictureDrop stream => Sys2Proof.Machine.execPictureDrop stream s
  | .contextSwitch engine row => Sys2Proof.Machine.execContextSwitch engine row s
  | .pictureComplete engine symbols luma chroma => Sys2Proof.Machine.execPictureComplete engine symbols luma chroma s
  | .pictureReject engine symbols status => Sys2Proof.Machine.execPictureReject engine symbols status s
  | .pictureAbandon engine => Sys2Proof.Machine.execPictureAbandon engine s
  | .motionSearchRequest unit part owner request => Sys2Proof.Machine.execMotionSearchRequest unit part owner request s
  | .motionSearchComplete unit => Sys2Proof.Machine.execMotionSearchComplete unit s
  | .preparationRequest pipe request => Sys2Proof.Machine.execPreparationRequest pipe request s
  | .workItemStart unit => Sys2Proof.Machine.execWorkItemStart unit s
  | .workItemComplete unit image => Sys2Proof.Machine.execWorkItemComplete unit image s
  | .batchComplete part queue => Sys2Proof.Machine.execBatchComplete part queue s
  | .batchOpenRetry part queue => Sys2Proof.Machine.execBatchOpenRetry part queue s
  | .liveRequestDrop part queue => Sys2Proof.Machine.execLiveRequestDrop part queue s
  | .cmdPipeCreate slot stages => Sys2Proof.Machine.execCmdPipeCreate slot stages s
  | .cmdPipeRemove slot => Sys2Proof.Machine.execCmdPipeRemove slot s
  | .cmdQueueCreate slot => Sys2Proof.Machine.execCmdQueueCreate slot s
  | .cmdPipeAttach slot => Sys2Proof.Machine.execCmdPipeAttach slot s
  | .cmdPipeDetach slot => Sys2Proof.Machine.execCmdPipeDetach slot s
  | .cmdPrepSubmit slot => Sys2Proof.Machine.execCmdPrepSubmit slot s
  | .cmdOringCreate slot => Sys2Proof.Machine.execCmdOringCreate slot s
  | .cmdOringDestroy slot => Sys2Proof.Machine.execCmdOringDestroy slot s
  | .resultBobbinRetry pipe stage => Sys2Proof.Machine.execResultBobbinRetry pipe stage s
  | .trackStep pipe stream => Sys2Proof.Machine.execTrackStep pipe stream s
  | .recordWrite ring => Sys2Proof.Machine.execRecordWrite ring s
  | .lanOringDoorbell fn ring value => Sys2Proof.Machine.execLanOringDoorbell fn ring value s
  | .answerPart job => Sys2Proof.Machine.execAnswerPart job s
  | .cmdSkeinForm slot table => Sys2Proof.Machine.execCmdSkeinForm slot table s
  | .cmdSkeinDissolve slot memberJobs => Sys2Proof.Machine.execCmdSkeinDissolve slot memberJobs s
  | .cmdSkeinRelay slot inner => Sys2Proof.Machine.execCmdSkeinRelay slot inner s
  | .cmdSkeinExclude slot => Sys2Proof.Machine.execCmdSkeinExclude slot s
  | .cmdSkeinPort slot => Sys2Proof.Machine.execCmdSkeinPort slot s
  | .cmdSkeinPlace slot => Sys2Proof.Machine.execCmdSkeinPlace slot s
  | .cmdSkeinQueue slot => Sys2Proof.Machine.execCmdSkeinQueue slot s
  | .cmdSkeinBarrier slot => Sys2Proof.Machine.execCmdSkeinBarrier slot s
  | .flit port f => Sys2Proof.Machine.execFlit port f s
  | .nak port seq => Sys2Proof.Machine.execNak port seq s
  | .portDown port cause => Sys2Proof.Machine.execPortDown port cause s
  | .portUp port => Sys2Proof.Machine.execPortUp port s
  | .linkKeyExchange port peer peerEphemeral signature => Sys2Proof.Machine.execLinkKeyExchange port peer peerEphemeral signature s
  | .admitMessage info => Sys2Proof.Machine.execAdmitMessage info s
  | .admitReply member accepted => Sys2Proof.Machine.execAdmitReply member accepted s
  | .formationTimeout => Sys2Proof.Machine.execFormationTimeout s
  | .relayedCommand descriptor => Sys2Proof.Machine.execRelayedCommand descriptor s
  | .relayCompletion member completion => Sys2Proof.Machine.execRelayCompletion member completion s
  | .sendEntry part queue => Sys2Proof.Machine.execSendEntry part queue s
  | .message m => Sys2Proof.Machine.execMessage m s
  | .slotFree part queue => Sys2Proof.Machine.execSlotFree part queue s
  | .creditReturn part dest dstPart queue expert epoch => Sys2Proof.Machine.execCreditReturn part dest dstPart queue expert epoch s
  | .creditGrant part dest dstPart queue slotClass credits => Sys2Proof.Machine.execCreditGrant part dest dstPart queue slotClass credits s
  | .arrive member barrier => Sys2Proof.Machine.execArrive member barrier s
  | .skeinRelease barrier => Sys2Proof.Machine.execSkeinRelease barrier s
  | .heartbeat answered => Sys2Proof.Machine.execHeartbeat answered s
  | .heartbeatArrival => Sys2Proof.Machine.execHeartbeatArrival s
  | .managerLost => Sys2Proof.Machine.execManagerLost s
  | .lossNotice member => Sys2Proof.Machine.execLossNotice member s
  | .paceReport => Sys2Proof.Machine.execPaceReport s
  | .pacePublish reports => Sys2Proof.Machine.execPacePublish reports s
  | .paceCeiling ceiling => Sys2Proof.Machine.execPaceCeiling ceiling s
  | .cmdPartCreate slot => Sys2Proof.Machine.execCmdPartCreate slot s
  | .cmdPartDelete slot => Sys2Proof.Machine.execCmdPartDelete slot s
  | .cmdPartGrow slot => Sys2Proof.Machine.execCmdPartGrow slot s
  | .cmdPartShrink slot => Sys2Proof.Machine.execCmdPartShrink slot s
  | .cmdJobDefine slot => Sys2Proof.Machine.execCmdJobDefine slot s
  | .cmdJobUndefine slot => Sys2Proof.Machine.execCmdJobUndefine slot s
  | .cmdJobStart slot => Sys2Proof.Machine.execCmdJobStart slot s
  | .cmdJobAbort slot => Sys2Proof.Machine.execCmdJobAbort slot s
  | .cmdJobPreempt slot => Sys2Proof.Machine.execCmdJobPreempt slot s
  | .cmdJobResume slot => Sys2Proof.Machine.execCmdJobResume slot s
  | .jobDispatch job => Sys2Proof.Machine.execJobDispatch job s
  | .saveComplete job => Sys2Proof.Machine.execSaveComplete job s
  | .restoreComplete job readable => Sys2Proof.Machine.execRestoreComplete job readable s
  | .timeLimit job => Sys2Proof.Machine.execTimeLimit job s
  | .jobEnd job => Sys2Proof.Machine.execJobEnd job s
  | .cmdClientLimit slot => Sys2Proof.Machine.execCmdClientLimit slot s
  | .cmdClientStats slot => Sys2Proof.Machine.execCmdClientStats slot s
  | .cmdSeqJoin slot => Sys2Proof.Machine.execCmdSeqJoin slot s
  | .cmdSeqLeave slot => Sys2Proof.Machine.execCmdSeqLeave slot s
  | .sequenceStep job => Sys2Proof.Machine.execSequenceStep job s
  | .lanMbCfgWrite fn mailbox value => Sys2Proof.Machine.execLanMbCfgWrite fn mailbox value s
  | .lanMbCmdDoorbell fn mailbox value => Sys2Proof.Machine.execLanMbCmdDoorbell fn mailbox value s
  | .lanMbCplDoorbell fn mailbox value => Sys2Proof.Machine.execLanMbCplDoorbell fn mailbox value s
  | .lanMbEvtDoorbell fn mailbox value => Sys2Proof.Machine.execLanMbEvtDoorbell fn mailbox value s
  | .commandBegin mailbox entry => Sys2Proof.Machine.execCommandBegin mailbox entry s
  | .cmdDevInfo slot => Sys2Proof.Machine.execCmdDevInfo slot s
  | .cmdModelLoad slot image => Sys2Proof.Machine.execCmdModelLoad slot image s
  | .cmdModelUnload slot => Sys2Proof.Machine.execCmdModelUnload slot s
  | .cmdAdapterInstall slot => Sys2Proof.Machine.execCmdAdapterInstall slot s
  | .cmdMemWrite slot data => Sys2Proof.Machine.execCmdMemWrite slot data s
  | .cmdPoolCreate slot => Sys2Proof.Machine.execCmdPoolCreate slot s
  | .cmdPoolDestroy slot => Sys2Proof.Machine.execCmdPoolDestroy slot s
  | .cmdIdentityGet slot => Sys2Proof.Machine.execCmdIdentityGet slot s
  | .cmdAttest slot => Sys2Proof.Machine.execCmdAttest slot s
  | .cmdAuditExport slot => Sys2Proof.Machine.execCmdAuditExport slot s
  | .cmdOwnerEnroll slot record => Sys2Proof.Machine.execCmdOwnerEnroll slot record s
  | .cmdSessionOpen slot request => Sys2Proof.Machine.execCmdSessionOpen slot request s
  | .cmdSessionClose slot => Sys2Proof.Machine.execCmdSessionClose slot s
  | .cmdSvAdvance slot => Sys2Proof.Machine.execCmdSvAdvance slot s
  | .cmdCeilingLower slot => Sys2Proof.Machine.execCmdCeilingLower slot s
  | .cmdSkeinBind slot => Sys2Proof.Machine.execCmdSkeinBind slot s
  | .cmdDebugDisable slot => Sys2Proof.Machine.execCmdDebugDisable slot s
  | .cmdBlfRequest slot request => Sys2Proof.Machine.execCmdBlfRequest slot request s
  | .cmdBlfRecords slot => Sys2Proof.Machine.execCmdBlfRecords slot s
  | .belfryStatus => Sys2Proof.Machine.execBelfryStatus s
  | .belfryIdentity => Sys2Proof.Machine.execBelfryIdentity s
  | .belfryLog => Sys2Proof.Machine.execBelfryLog s
  | .stageFw => Sys2Proof.Machine.execStageFw s
  | .stageParam => Sys2Proof.Machine.execStageParam s
  | .commit => Sys2Proof.Machine.execCommit s
  | .partialReset => Sys2Proof.Machine.execPartialReset s
  | .indicatorId => Sys2Proof.Machine.execIndicatorId s
  | .encoderEdge a b fast => Sys2Proof.Machine.execEncoderEdge a b fast s
  | .trigger => Sys2Proof.Machine.execTrigger s
  | .csiFrame input channel intact inWindow window => Sys2Proof.Machine.execCsiFrame input channel intact inWindow window s
  | .pairTimeout => Sys2Proof.Machine.execPairTimeout s
  | .callReturn area status => Sys2Proof.Machine.execCallReturn area status s
  | .callDeadline => Sys2Proof.Machine.execCallDeadline s
  | .coreWatchdog => Sys2Proof.Machine.execCoreWatchdog s
  | .tamperSample ohms => Sys2Proof.Machine.execTamperSample ohms s
  | .vblfFalling => Sys2Proof.Machine.execVblfFalling s
  | .vblfInRange => Sys2Proof.Machine.execVblfInRange s
  | .identityLine => Sys2Proof.Machine.execIdentityLine s
  | .faultLine => Sys2Proof.Machine.execFaultLine s
  | .newRecordNotice => Sys2Proof.Machine.execNewRecordNotice s
  | .tamperNotice => Sys2Proof.Machine.execTamperNotice s
  | .sealNotice => Sys2Proof.Machine.execSealNotice s
  | .stateNotice => Sys2Proof.Machine.execStateNotice s
  | .powerSample millivolts milliamps milliwatts estimate microjoules => Sys2Proof.Machine.execPowerSample millivolts milliamps milliwatts estimate microjoules s
  | .powerDisagree => Sys2Proof.Machine.execPowerDisagree s
  | .powerRecalFit => Sys2Proof.Machine.execPowerRecalFit s
  | .cmdPowerLimit slot => Sys2Proof.Machine.execCmdPowerLimit slot s
  | .cmdPowerRecal slot => Sys2Proof.Machine.execCmdPowerRecal slot s
  | .cmdJobPower slot => Sys2Proof.Machine.execCmdJobPower slot s
  | .thermalRead d sensors => Sys2Proof.Machine.execThermalRead d sensors s
  | .thermalStep d => Sys2Proof.Machine.execThermalStep d s
  | .thermalEnd d => Sys2Proof.Machine.execThermalEnd d s
  | .startCondition => Sys2Proof.Machine.execStartCondition s
  | .railPowerGood => Sys2Proof.Machine.execRailPowerGood s
  | .railTimeout => Sys2Proof.Machine.execRailTimeout s
  | .dipBegin millivolts => Sys2Proof.Machine.execDipBegin millivolts s
  | .dipEnd leastMillivolts microseconds => Sys2Proof.Machine.execDipEnd leastMillivolts microseconds s
  | .dipLimit leastMillivolts microseconds => Sys2Proof.Machine.execDipLimit leastMillivolts microseconds s
  | .overvoltageWindow greatestMillivolts microseconds => Sys2Proof.Machine.execOvervoltageWindow greatestMillivolts microseconds s
  | .overvoltage75V greatestMillivolts microseconds => Sys2Proof.Machine.execOvervoltage75V greatestMillivolts microseconds s
  | .holdBankCharged => Sys2Proof.Machine.execHoldBankCharged s
  | .holdBankLow => Sys2Proof.Machine.execHoldBankLow s
  | .receivedTlpError err => Sys2Proof.Machine.execReceivedTlpError err s
  | .hostReadCompletion tag result => Sys2Proof.Machine.execHostReadCompletion tag result s
  | .completionTimeout tag => Sys2Proof.Machine.execCompletionTimeout tag s
  | .msiXWindow fn vec => Sys2Proof.Machine.execMsiXWindow fn vec s
  | .invalidationRequest fn base length => Sys2Proof.Machine.execInvalidationRequest fn base length s
  | .translationCompletion fn page translated readOk writeOk => Sys2Proof.Machine.execTranslationCompletion fn page translated readOk writeOk s
  | .aspmL1Idle => Sys2Proof.Machine.execAspmL1Idle s
  | .perstAssert => Sys2Proof.Machine.execPerstAssert s
  | .perstRelease => Sys2Proof.Machine.execPerstRelease s
  | .hotReset => Sys2Proof.Machine.execHotReset s
  | .dlDown => Sys2Proof.Machine.execDlDown s
  | .pfFlr => Sys2Proof.Machine.execPfFlr s
  | .vfEnableCleared => Sys2Proof.Machine.execVfEnableCleared s
  | .vfFlr part => Sys2Proof.Machine.execVfFlr part s
  | .busMasterEnableCleared fn => Sys2Proof.Machine.execBusMasterEnableCleared fn s
  | .patrolScrub place wrongBits => Sys2Proof.Machine.execPatrolScrub place wrongBits s
  | .fatalRestart => Sys2Proof.Machine.execFatalRestart s
  | .lifelogSecond => Sys2Proof.Machine.execLifelogSecond s
  | .lifelogCommitTimer => Sys2Proof.Machine.execLifelogCommitTimer s
  | .cmdLifelogExport slot => Sys2Proof.Machine.execCmdLifelogExport slot s
  | .cmdLifelogCommit slot => Sys2Proof.Machine.execCmdLifelogCommit slot s
  | .romLoaderStart fuseBlank => Sys2Proof.Machine.execRomLoaderStart fuseBlank s
  | .imageVerified image => Sys2Proof.Machine.execImageVerified image s
  | .firmwareStartEnd found => Sys2Proof.Machine.execFirmwareStartEnd found s
  | .lanBootCtrlWrite fn value => Sys2Proof.Machine.execLanBootCtrlWrite fn value s
  | .lanRecGo fn value => Sys2Proof.Machine.execLanRecGo fn value s
  | .recReadComplete image => Sys2Proof.Machine.execRecReadComplete image s
  | .recProgramComplete ok => Sys2Proof.Machine.execRecProgramComplete ok s
  | .recReadBackComplete ok => Sys2Proof.Machine.execRecReadBackComplete ok s
  | .droopRecovered d => Sys2Proof.Machine.execDroopRecovered d s
  | .retrainPauseEnd c => Sys2Proof.Machine.execRetrainPauseEnd c s
  | .pcieLinkUp speed width => Sys2Proof.Machine.execPcieLinkUp speed width s
  | .configReady => Sys2Proof.Machine.execConfigReady s
  | .l1Exit => Sys2Proof.Machine.execL1Exit s
  | .creditGrantAck member part queue accepted => Sys2Proof.Machine.execCreditGrantAck member part queue accepted s
  | .skeinDissolveNotice => Sys2Proof.Machine.execSkeinDissolveNotice s

end Sys2Proof.Machine
end

