-- ==== Sys2Proof/Machine/Step.lean ====
section
/-! DEFINITION. One step of the block: the command at the front of the queue, or one tick. -/

namespace Sys2Proof.Machine

/-- What the block does while no command waits: one tick of its local counter passes (R44). DESIGN CHOICE, log
entry 10. -/
def State.tick (s : State) : State := passTick s

/-- One step: take the command at the front of the queue and carry it out with the rest of the queue; on
an empty queue let one tick of LAN_LOCAL_TIME pass. -/
def step (s : State) : Host.Outcome State Fault Refusal :=
  match s.pending with
  | [] => .next s.tick
  | c :: rest => exec c { s with pending := rest }

/-- `s` with the command that the word spells put at the front of its queue; `s` where it spells none. -/
def State.withFetchWord (s : State) (nbits w : Nat) : State :=
  match decodeTableWord nbits w with
  | none => s
  | some c => { s with pending := c :: s.pending }

end Sys2Proof.Machine
end

