-- ==== Sys2Proof/Safety.lean ====
section
/-! DEFINITION. What the statements speak in: the parts of the machine's state by name, a state that agrees
with another outside named parts, and a safe run. -/

namespace Sys2Proof

open Machine

/-- The parts of `State`, by the names of its fields. -/
inductive Field where
  | pending
  | time
  | draws
  | out
  | orders
  | spindles
  | spires
  | domes
  | channels
  | parts
  | jobs
  | mailboxes
  | running
  | lastServed
  | streams
  | decoders
  | suspended
  | motion
  | prepUnits
  | workItems
  | prepBusy
  | prepLoad
  | prepSat
  | prepUfl
  | netPorts
  | pipes
  | tracks
  | orings
  | skein
  | sec
  | belfry
  | power
  | hif
  | boot
deriving DecidableEq, Repr

/-- Part `f` of `t` is that of `s`. -/
def Keeps (s t : State) : Field → Prop
  | .pending => t.pending = s.pending
  | .time => t.time = s.time
  | .draws => t.draws = s.draws
  | .out => t.out = s.out
  | .orders => t.orders = s.orders
  | .spindles => t.spindles = s.spindles
  | .spires => t.spires = s.spires
  | .domes => t.domes = s.domes
  | .channels => t.channels = s.channels
  | .parts => t.parts = s.parts
  | .jobs => t.jobs = s.jobs
  | .mailboxes => t.mailboxes = s.mailboxes
  | .running => t.running = s.running
  | .lastServed => t.lastServed = s.lastServed
  | .streams => t.streams = s.streams
  | .decoders => t.decoders = s.decoders
  | .suspended => t.suspended = s.suspended
  | .motion => t.motion = s.motion
  | .prepUnits => t.prepUnits = s.prepUnits
  | .workItems => t.workItems = s.workItems
  | .prepBusy => t.prepBusy = s.prepBusy
  | .prepLoad => t.prepLoad = s.prepLoad
  | .prepSat => t.prepSat = s.prepSat
  | .prepUfl => t.prepUfl = s.prepUfl
  | .netPorts => t.netPorts = s.netPorts
  | .pipes => t.pipes = s.pipes
  | .tracks => t.tracks = s.tracks
  | .orings => t.orings = s.orings
  | .skein => t.skein = s.skein
  | .sec => t.sec = s.sec
  | .belfry => t.belfry = s.belfry
  | .power => t.power = s.power
  | .hif => t.hif = s.hif
  | .boot => t.boot = s.boot

/-- `t` agrees with `s` in every part of the state outside `F`. -/
structure Only (F : List Field) (s t : State) : Prop where
  keeps : ∀ f : Field, f ∉ F → Keeps s t f

/-- A run of n steps that meets no fault and no refusal, and ends in `t`. -/
def SafeRun : Nat → State → State → Prop
  | 0, s, t => s = t
  | n + 1, s, t => ∃ u, step s = .next u ∧ SafeRun n u t

/-- The parts of the state that a command may change; its queue is none of them. -/
def touches : Instr → List Field
  | .registerWrite _ _ _ =>
    [.out, .mailboxes, .streams, .orings, .hif, .boot]
  | .lanLocalTimeLoRead _ | .netFlowArrivalLoRead _ _ | .netFlowSrNtpLoRead _ _ | .pwrEnergyLoRead _
  | .blfSeqLoRead _ | .blfIdLoRead _ | .bar0BadAccess _ _ | .msiXWindow _ _ | .invalidationRequest _ _ _
  | .aspmL1Idle =>
    [.out, .hif]
  | .configurationRequest _ _ | .receivedTlpError _ | .hotReset | .dlDown | .pfFlr | .vfEnableCleared | .vfFlr _ =>
    [.draws, .out, .orders, .spires, .channels, .parts, .mailboxes, .running, .streams, .prepUnits, .workItems,
      .pipes, .tracks, .orings, .skein, .sec, .hif, .boot]
  | .droopEvent _ | .railPowerGood | .lifelogSecond =>
    [.domes, .boot]
  | .droopHold _ =>
    [.spindles, .domes, .boot]
  | .holdResume _ =>
    [.spindles, .domes]
  | .rateWindow _ _ | .droopRecovered _ =>
    [.domes]
  | .opSlewSettled | .holdBankCharged | .holdBankLow =>
    [.power]
  | .arrayIdle _ | .head _ | .jump _ | .waitLocal _ | .drain _ | .vector _ =>
    [.spindles]
  | .waveAdmit _ =>
    [.draws, .spindles, .domes, .power]
  | .wavefrontIssue _ =>
    [.draws, .out, .spindles, .domes, .jobs, .mailboxes, .running, .hif, .boot]
  | .weightSetLoaded _ | .vNop _ | .vXset _ | .vXadd _ | .vTagset _ | .vAdd _ | .vSub _ | .vMul _ | .vFma _
  | .vMin _ | .vMax _ | .vAbs _ | .vNeg _ | .vCvt _ | .vQmul _ | .vSel _ | .vBcasti _ | .vAnd _ | .vOr _
  | .vXor _ | .vExp2 _ | .vLog2 _ | .vRcp _ | .vRsqrt _ | .vCmpeq _ | .vCmplt _ | .vCmple _ | .vMand _ | .vMor _
  | .vMnot _ | .vRsum _ | .vRprod _ | .vRmax _ | .vRmin _ | .vRargmax _ | .vRargmin _ | .vPerm _ | .vSlideup _
  | .vSlidedn _ | .vBcast _ | .vVld _ | .vVst _ | .vTld _ | .vTst _ | .vFld _ | .vFst _ | .vMacm _ | .vMulm _ =>
    [.out, .spindles, .domes, .jobs, .mailboxes, .running, .hif, .boot]
  | .operationComplete _ =>
    [.out, .spindles, .mailboxes, .hif]
  | .descriptorFetch _ =>
    [.out, .spindles, .channels, .jobs, .mailboxes, .running, .hif, .boot]
  | .workFetch _ | .arm _ | .acquire _ | .release _ | .barrier _ =>
    [.out, .spindles, .spires, .jobs, .mailboxes, .running, .hif]
  | .endProgram _ | .copy _ =>
    [.out, .spindles, .jobs, .mailboxes, .running, .hif]
  | .skeinBarrier _ =>
    [.draws, .out, .spindles, .spires, .jobs, .mailboxes, .running, .skein, .hif]
  | .copyComplete _ =>
    [.draws, .out, .spindles, .spires, .domes, .channels, .parts, .jobs, .mailboxes, .running, .hif, .boot]
  | .conv _ | .stemHead _ =>
    [.out, .spindles, .spires, .domes, .channels, .jobs, .mailboxes, .running, .hif, .boot]
  | .stemEnd _ =>
    [.out, .spires, .channels, .jobs, .mailboxes, .running, .hif, .boot]
  | .poolAcquire _ _ _ | .poolGroup _ _ =>
    [.draws, .out, .parts]
  | .poolShare _ _ _ _ | .poolRelease _ _ _ =>
    [.out, .channels, .parts, .mailboxes, .hif, .boot]
  | .freeRingRefill _ _ =>
    [.draws, .out, .channels, .parts, .mailboxes, .hif, .boot]
  | .memoryRequest _ _ _ _ =>
    [.out, .spindles, .channels, .parts, .jobs, .mailboxes, .running, .hif, .boot]
  | .memoryReadComplete _ _ =>
    [.draws, .out, .channels, .parts, .jobs, .mailboxes, .running, .hif, .boot]
  | .refreshDue _ _ =>
    [.out, .channels]
  | .mr4Read _ _ | .wckOscillatorRun _ _ _ =>
    [.channels]
  | .retrainPause _ _ _ =>
    [.channels, .boot]
  | .cmdStreamOpen _ | .cmdPipeAttach _ =>
    [.out, .mailboxes, .running, .streams, .hif]
  | .cmdStreamClose _ =>
    [.out, .channels, .parts, .mailboxes, .running, .streams, .hif, .boot]
  | .streamDrainEnd _ | .cmdPipeDetach _ =>
    [.draws, .out, .orders, .spires, .channels, .parts, .mailboxes, .running, .streams, .workItems, .pipes,
      .tracks, .orings, .skein, .sec, .hif, .boot]
  | .medRingDoorbell _ _ _ =>
    [.out, .streams, .hif]
  | .ringEntryRead _ _ =>
    [.draws, .out, .orders, .parts, .mailboxes, .streams, .hif]
  | .chunkCopyComplete _ _ =>
    [.out, .orders, .parts, .mailboxes, .streams, .hif]
  | .cmdPortConfig _ =>
    [.out, .mailboxes, .running, .netPorts, .hif]
  | .ethLinkChange _ _ =>
    [.netPorts]
  | .frameReceive _ _ _ =>
    [.draws, .out, .orders, .channels, .parts, .mailboxes, .streams, .netPorts, .hif, .boot]
  | .reorderTimeout _ =>
    [.draws, .out, .orders, .channels, .parts, .mailboxes, .streams, .hif, .boot]
  | .pictureStart _ _ =>
    [.draws, .out, .channels, .parts, .mailboxes, .streams, .decoders, .suspended, .hif, .boot]
  | .waitBufRetry _ =>
    [.draws, .parts, .streams]
  | .pictureDrop _ =>
    [.out, .channels, .parts, .mailboxes, .streams, .hif, .boot]
  | .contextSwitch _ _ =>
    [.decoders, .suspended]
  | .pictureComplete _ _ _ _ =>
    [.draws, .out, .orders, .spires, .channels, .parts, .mailboxes, .running, .streams, .decoders, .workItems,
      .pipes, .tracks, .orings, .skein, .sec, .hif, .boot]
  | .pictureReject _ _ _ | .pictureAbandon _ =>
    [.out, .channels, .parts, .mailboxes, .streams, .decoders, .hif, .boot]
  | .motionSearchRequest _ _ _ _ =>
    [.out, .motion]
  | .motionSearchComplete _ | .trackStep _ _ =>
    [.draws, .out, .orders, .spires, .channels, .parts, .mailboxes, .running, .streams, .motion, .workItems,
      .pipes, .tracks, .orings, .skein, .sec, .hif, .boot]
  | .preparationRequest _ _ =>
    [.draws, .out, .orders, .channels, .parts, .mailboxes, .workItems, .hif, .boot]
  | .workItemStart _ =>
    [.out, .prepUnits, .workItems, .hif]
  | .workItemComplete _ _ =>
    [.out, .channels, .parts, .mailboxes, .prepUnits, .workItems, .prepSat, .prepUfl, .pipes, .hif, .boot]
  | .batchComplete _ _ | .resultBobbinRetry _ _ =>
    [.draws, .out, .orders, .spires, .channels, .parts, .jobs, .mailboxes, .running, .workItems, .pipes,
      .tracks, .orings, .skein, .sec, .hif, .boot]
  | .batchOpenRetry _ _ | .liveRequestDrop _ _ | .recordWrite _ =>
    [.draws, .out, .orders, .spires, .channels, .parts, .mailboxes, .running, .workItems, .pipes, .tracks,
      .orings, .skein, .sec, .hif, .boot]
  | .cmdPipeCreate _ _ =>
    [.out, .mailboxes, .running, .pipes, .hif]
  | .cmdPipeRemove _ | .cmdPartDelete _ =>
    [.draws, .out, .orders, .spires, .channels, .parts, .jobs, .mailboxes, .running, .streams, .workItems,
      .pipes, .tracks, .orings, .skein, .sec, .hif, .boot]
  | .cmdQueueCreate _ | .cmdSkeinPlace _ | .cmdJobUndefine _ | .cmdClientLimit _ | .cmdModelUnload _
  | .cmdPoolCreate _ | .cmdPoolDestroy _ =>
    [.out, .parts, .mailboxes, .running, .hif]
  | .cmdPrepSubmit _ =>
    [.draws, .out, .orders, .channels, .parts, .mailboxes, .running, .workItems, .hif, .boot]
  | .cmdOringCreate _ | .cmdOringDestroy _ =>
    [.out, .mailboxes, .running, .orings, .hif]
  | .lanOringDoorbell _ _ _ =>
    [.orings]
  | .answerPart _ =>
    [.draws, .out, .spires, .channels, .jobs, .mailboxes, .running, .orings, .hif, .boot]
  | .cmdSkeinForm _ _ | .cmdSkeinRelay _ _ =>
    [.draws, .out, .mailboxes, .running, .skein, .hif]
  | .cmdSkeinDissolve _ _ | .cmdSkeinQueue _ | .linkKeyExchange _ _ _ _ | .admitReply _ _ | .formationTimeout
  | .creditGrantAck _ _ _ _ =>
    [.draws, .out, .parts, .mailboxes, .running, .skein, .hif]
  | .cmdSkeinExclude _ | .heartbeat _ =>
    [.draws, .out, .parts, .jobs, .mailboxes, .running, .skein, .hif]
  | .cmdSkeinPort _ | .flit _ _ | .nak _ _ | .portDown _ _ =>
    [.draws, .out, .parts, .jobs, .mailboxes, .running, .skein, .hif, .boot]
  | .cmdSkeinBarrier _ | .relayCompletion _ _ =>
    [.out, .mailboxes, .running, .skein, .hif]
  | .portUp _ =>
    [.skein]
  | .admitMessage _ | .creditGrant _ _ _ _ _ _ | .heartbeatArrival | .paceReport =>
    [.draws, .out, .skein]
  | .relayedCommand _ | .cmdAttest _ | .cmdOwnerEnroll _ _ | .cmdSessionClose _ | .cmdSvAdvance _
  | .cmdSkeinBind _ | .cmdDebugDisable _ =>
    [.out, .mailboxes, .running, .sec, .hif]
  | .sendEntry _ _ | .message _ | .slotFree _ _ | .creditReturn _ _ _ _ _ _ =>
    [.draws, .out, .spindles, .spires, .channels, .parts, .jobs, .mailboxes, .running, .skein, .hif, .boot]
  | .arrive _ _ =>
    [.draws, .out, .spindles, .spires, .jobs, .skein]
  | .skeinRelease _ =>
    [.spindles, .spires, .jobs]
  | .managerLost | .lossNotice _ =>
    [.out, .parts, .jobs, .mailboxes, .running, .skein, .hif]
  | .pacePublish _ =>
    [.draws, .out, .domes, .skein]
  | .paceCeiling _ =>
    [.domes, .skein]
  | .cmdPartCreate _ | .cmdPartGrow _ =>
    [.draws, .out, .spindles, .spires, .parts, .mailboxes, .running, .hif]
  | .cmdPartShrink _ =>
    [.out, .spires, .parts, .mailboxes, .running, .hif]
  | .cmdJobDefine _ | .cmdModelLoad _ _ | .cmdAdapterInstall _ | .cmdMemWrite _ _ =>
    [.out, .channels, .parts, .mailboxes, .running, .hif, .boot]
  | .cmdJobStart _ =>
    [.out, .orders, .channels, .parts, .jobs, .mailboxes, .running, .hif, .boot]
  | .cmdJobAbort _ | .cmdJobPreempt _ | .timeLimit _ | .cmdSeqJoin _ | .cmdSeqLeave _ | .cmdJobPower _ =>
    [.out, .jobs, .mailboxes, .running, .hif]
  | .cmdJobResume _ =>
    [.out, .orders, .jobs, .mailboxes, .running, .hif]
  | .jobDispatch _ | .sequenceStep _ =>
    [.draws, .out, .spindles, .spires, .channels, .parts, .jobs, .mailboxes, .running, .orings, .hif, .boot]
  | .saveComplete _ =>
    [.draws, .out, .spindles, .spires, .channels, .parts, .jobs, .mailboxes, .running, .hif, .boot]
  | .restoreComplete _ _ =>
    [.draws, .out, .spindles, .spires, .channels, .jobs, .mailboxes, .running, .hif, .boot]
  | .jobEnd _ =>
    [.draws, .out, .orders, .spindles, .spires, .channels, .parts, .jobs, .mailboxes, .running, .workItems,
      .pipes, .tracks, .orings, .skein, .sec, .hif, .boot]
  | .cmdClientStats _ | .cmdDevInfo _ | .cmdIdentityGet _ | .cmdAuditExport _ | .cmdBlfRecords _
  | .cmdLifelogExport _ =>
    [.out, .mailboxes, .running, .hif]
  | .lanMbCfgWrite _ _ _ | .recReadComplete _ =>
    [.out, .mailboxes, .hif, .boot]
  | .lanMbCmdDoorbell _ _ _ | .lanMbEvtDoorbell _ _ _ =>
    [.mailboxes]
  | .lanMbCplDoorbell _ _ _ =>
    [.out, .mailboxes, .hif]
  | .commandBegin _ _ =>
    [.out, .mailboxes, .running, .lastServed, .sec, .hif]
  | .cmdSessionOpen _ _ =>
    [.draws, .out, .mailboxes, .running, .sec, .hif]
  | .cmdCeilingLower _ =>
    [.out, .mailboxes, .running, .sec, .power, .hif]
  | .cmdBlfRequest _ _ | .belfryStatus | .belfryIdentity | .belfryLog | .stageFw | .stageParam | .commit
  | .partialReset | .indicatorId =>
    [.out, .mailboxes, .running, .belfry, .hif]
  | .encoderEdge _ _ _ | .csiFrame _ _ _ _ _ | .pairTimeout | .coreWatchdog | .tamperSample _ =>
    [.belfry]
  | .trigger | .callReturn _ _ | .callDeadline | .vblfFalling =>
    [.out, .belfry]
  | .vblfInRange =>
    [.draws, .out, .belfry]
  | .identityLine | .faultLine =>
    [.out]
  | .newRecordNotice | .stateNotice =>
    []
  | .tamperNotice | .sealNotice =>
    [.out, .mailboxes, .sec, .hif]
  | .powerSample _ _ _ _ _ | .thermalStep _ =>
    [.draws, .out, .domes, .jobs, .mailboxes, .power, .hif, .boot]
  | .powerDisagree | .dipEnd _ _ =>
    [.out, .mailboxes, .power, .hif, .boot]
  | .powerRecalFit =>
    [.out, .mailboxes, .running, .power, .hif, .boot]
  | .cmdPowerLimit _ | .cmdPowerRecal _ =>
    [.out, .mailboxes, .running, .power, .hif]
  | .thermalRead _ _ | .fatalRestart =>
    [.time, .draws, .out, .spindles, .spires, .domes, .channels, .parts, .jobs, .mailboxes, .running,
      .lastServed, .streams, .decoders, .suspended, .motion, .prepUnits, .workItems, .prepBusy, .prepLoad,
      .prepSat, .prepUfl, .netPorts, .pipes, .tracks, .orings, .skein, .sec, .power, .hif, .boot]
  | .thermalEnd _ =>
    [.out, .domes, .mailboxes, .power, .hif]
  | .startCondition | .railTimeout | .perstRelease | .lifelogCommitTimer | .lanBootCtrlWrite _ _
  | .recProgramComplete _ =>
    [.boot]
  | .dipBegin _ =>
    [.time, .spindles, .spires, .domes, .channels, .parts, .jobs, .mailboxes, .running, .lastServed, .streams,
      .decoders, .suspended, .motion, .prepUnits, .workItems, .prepBusy, .prepLoad, .prepSat, .prepUfl, .netPorts,
      .pipes, .tracks, .orings, .skein, .sec, .power, .hif, .boot]
  | .dipLimit _ _ | .overvoltageWindow _ _ | .overvoltage75V _ _ =>
    [.time, .out, .spindles, .spires, .domes, .channels, .parts, .jobs, .mailboxes, .running, .lastServed,
      .streams, .decoders, .suspended, .motion, .prepUnits, .workItems, .prepBusy, .prepLoad, .prepSat, .prepUfl,
      .netPorts, .pipes, .tracks, .orings, .skein, .sec, .power, .hif, .boot]
  | .hostReadCompletion _ _ | .completionTimeout _ | .translationCompletion _ _ _ _ _ =>
    [.draws, .out, .orders, .channels, .parts, .mailboxes, .running, .streams, .prepUnits, .workItems, .prepSat,
      .prepUfl, .pipes, .skein, .sec, .belfry, .hif, .boot]
  | .perstAssert =>
    [.time, .draws, .out, .orders, .spindles, .spires, .domes, .channels, .parts, .jobs, .mailboxes, .running,
      .lastServed, .streams, .decoders, .suspended, .motion, .prepUnits, .workItems, .prepBusy, .prepLoad,
      .prepSat, .prepUfl, .netPorts, .pipes, .tracks, .orings, .skein, .sec, .power, .hif, .boot]
  | .busMasterEnableCleared _ | .pcieLinkUp _ _ | .l1Exit =>
    [.hif]
  | .patrolScrub _ _ =>
    [.out, .spindles, .spires, .domes, .mailboxes, .hif, .boot]
  | .cmdLifelogCommit _ =>
    [.out, .mailboxes, .running, .hif, .boot]
  | .romLoaderStart _ =>
    [.draws, .sec, .boot]
  | .imageVerified _ | .recReadBackComplete _ =>
    [.sec, .boot]
  | .firmwareStartEnd _ =>
    [.spindles, .domes, .channels, .mailboxes, .skein, .sec, .power, .boot]
  | .lanRecGo _ _ =>
    [.out, .hif, .boot]
  | .retrainPauseEnd _ =>
    [.out, .channels, .parts, .jobs, .mailboxes, .running, .hif, .boot]
  | .configReady =>
    [.mailboxes, .hif, .boot]
  | .skeinDissolveNotice =>
    [.parts, .skein]

end Sys2Proof
end

