-- ==== Sys2Proof/Conditions.lean ====
section
/-! DEFINITION. What the statements assume: for a command, the conditions on the state and the operands under which the
spec gives it its own effect, and the readings of the state that the statements name. -/

namespace Sys2Proof

open Machine

/-! ### The vector engine (R130 to R152) -/

/-- The engine as it stands when its next instruction issues: inside the front block, or at that block's start
(R132, R163). -/
def standing (s : State) (p : Nat) : Spindle :=
  let x := spindleOf s p
  match x.vec.blocks with
  | [] => x
  | b :: _ => if x.vec.started then x else startBlock x b

/-- The front block of an engine. -/
def frontBlock (x : Spindle) : VBlock := x.vec.blocks.headD {}

/-- The instruction an engine stands at. -/
def insnOf (x : Spindle) : Insn := decodeInsn ((frontBlock x).insns.getD x.vec.insn.toNat 0)

/-- The position an engine goes to, past instructions whose COND skips them; none at the block's end (R132). -/
def nextPos (x : Spindle) : Option VecPos :=
  (stepPos (frontBlock x) (posOf x.vec)).bind (seekPos (frontBlock x) (blockFuel (frontBlock x)))

/-- Spindle p runs and its engine issues an instruction of opcode `op`: it stands in a block, is not stopped or held and
waits on no judgement (R132, R151, R152). At the end of a block no operation is in judgement (R157 has its own rules
there). -/
def Can.issue (s : State) (p op : Nat) : Bool :=
  let x := spindleOf s p
  (runningJob s p).isSome && !x.vec.blocks.isEmpty && x.vec.state != 4 && x.vec.state != 5
    && (x.vec.started || !blockWaits x (frontBlock x)) && (insnOf (standing s p)).op == op
    && ((nextPos (standing s p)).isSome || x.scale.judging.isNone)

/-- Spindle `y` is `x` with its engine gone on: to the next position, or behind the block (R132, R133). Its address
generator, DMA unit, job and busy marks are untouched, as are its judgements inside the block. -/
def movedOn (x y : Spindle) : Prop :=
  y.job = x.job ∧ y.agen = x.agen ∧ y.dma = x.dma ∧ y.busy = x.busy ∧ y.vec.error = x.vec.error ∧
  match nextPos x with
  | some q => posOf y.vec = posOf (atPos y.vec (frontBlock x) q) ∧ y.vec.vl = BitVec.ofNat 6 (vlAt (frontBlock x) q)
      ∧ y.vec.blocks = x.vec.blocks ∧ y.vec.started = true ∧ y.vec.state = 1 ∧ y.scale = x.scale
  | none => y.vec.blocks = x.vec.blocks.drop 1 ∧ y.vec.started = false
      ∧ y.vec.state = if (x.vec.blocks.drop 1).isEmpty then 0 else 1

/-- The registers of the vector engine that the statements name. -/
inductive VecReg where
  | lanes | masks | addresses | tags | fallback | accumulator | cache | counts
deriving DecidableEq, Repr

/-- Spindle `y` holds in a register of its vector engine, its accumulator or its operand cache what `x` holds. -/
def keepsReg (x y : Spindle) : VecReg → Prop
  | .lanes => y.vec.v = x.vec.v
  | .masks => y.vec.m = x.vec.m
  | .addresses => y.vec.x = x.vec.x
  | .tags => y.vec.packTag = x.vec.packTag ∧ y.vec.unpackTag = x.vec.unpackTag
  | .fallback => y.vec.fb = x.vec.fb
  | .accumulator => y.acc = x.acc
  | .cache => y.cache = x.cache ∧ y.bad = x.bad
  | .counts => y.arr = x.arr

/-- All of them but those listed. -/
def keepsBut (l : List VecReg) (x y : Spindle) : Prop := ∀ r, r ∉ l → keepsReg x y r

/-- NAN, PERM_RANGE and EMPTY of the block and of the job, raised or kept. -/
def flagsAre (x y : Spindle) (nan perm empty : Bool) : Prop :=
  y.vec.nan = (x.vec.nan || nan) ∧ y.vec.perm = (x.vec.perm || perm) ∧ y.vec.empty = (x.vec.empty || empty)
    ∧ y.vec.nanJob = (x.vec.nanJob || nan) ∧ y.vec.permJob = (x.vec.permJob || perm)
    ∧ y.vec.emptyJob = (x.vec.emptyJob || empty)

/-- An element-wise instruction: its command, opcode and lane function of TY, Va, Vb and Vd. -/
structure ElementOp where
  cmd : Fin 256 → Instr
  op : Nat
  lane : Nat → Word → Word → Word → Rounded

/-- The element-wise instructions of R137. -/
def elementOps : List ElementOp :=
  [⟨.vAdd, 0x10, laneAdd⟩, ⟨.vSub, 0x11, laneSub⟩, ⟨.vMul, 0x12, laneMul⟩, ⟨.vFma, 0x13, laneFma⟩,
   ⟨.vMin, 0x14, laneMin⟩, ⟨.vMax, 0x15, laneMax⟩, ⟨.vAbs, 0x16, laneAbs⟩, ⟨.vNeg, 0x17, laneNeg⟩,
   ⟨.vCvt, 0x18, laneCvt⟩, ⟨.vQmul, 0x19, laneQmul⟩, ⟨.vAnd, 0x1C, laneAnd⟩, ⟨.vOr, 0x1D, laneOr⟩,
   ⟨.vXor, 0x1E, laneXor⟩, ⟨.vExp2, 0x20, laneExp2⟩, ⟨.vLog2, 0x21, laneLog2⟩, ⟨.vRcp, 0x22, laneRcp⟩,
   ⟨.vRsqrt, 0x23, laneRsqrt⟩]

/-- A compare: its command, opcode and relation of TY, Va and Vb. -/
structure CompareOp where
  cmd : Fin 256 → Instr
  op : Nat
  holds : Nat → Word → Word → Bool

/-- The compares of R142. -/
def compareOps : List CompareOp := [⟨.vCmpeq, 0x30, relEq⟩, ⟨.vCmplt, 0x31, relLt⟩, ⟨.vCmple, 0x32, relLe⟩]

/-- A mask instruction: its command, opcode and function of the two source masks. -/
structure MaskOp where
  cmd : Fin 256 → Instr
  op : Nat
  bits : Nat → Nat → Nat

/-- The mask logic of R142. -/
def maskOps : List MaskOp :=
  [⟨.vMand, 0x33, fun a b => a &&& b⟩, ⟨.vMor, 0x34, fun a b => a ||| b⟩, ⟨.vMnot, 0x35, fun a _ => 2 ^ 32 - 1 - a⟩]

/-- A reduction by a tree: its command, opcode, lane function and identities in FP32 and INT32. -/
structure ReduceOp where
  cmd : Fin 256 → Instr
  op : Nat
  lane : Nat → Word → Word → Word → Rounded
  idFp : Word
  idInt : Word

/-- The tree reductions of R143 and R144. -/
def reduceOps : List ReduceOp :=
  [⟨.vRsum, 0x40, laneAdd, 0, 0⟩, ⟨.vRprod, 0x41, laneMul, 0x3F800000, 1⟩,
   ⟨.vRmax, 0x42, laneMax, 0xFF800000, 0x80000000⟩, ⟨.vRmin, 0x43, laneMin, 0x7F800000, 0x7FFFFFFF⟩]

/-- An instruction that unpacks: its command, opcode and function of TY, the unpacked lane, Vb and Vd. -/
structure LoadOp where
  cmd : Fin 256 → Instr
  op : Nat
  lane : Nat → Rounded → Word → Word → Rounded

/-- VLD, MACM and MULM (R137). -/
def loadOps : List LoadOp :=
  [⟨.vVld, 0x60, fun _ u _ _ => { bits := u.bits }⟩,
   ⟨.vMacm, 0x66, fun ty u b d => laneFma ty (BitVec.ofNat 32 u.bits) b d⟩,
   ⟨.vMulm, 0x67, fun ty u b d => laneMul ty (BitVec.ofNat 32 u.bits) b d⟩]

/-- The scale entry and the element bytes that a block access of an engine reads (R147). -/
def blockEntry (x : Spindle) (i : Insn) : Nat := leNat (storeRead x.cache (xregOf x.vec (i.xn + 1)).toNat 2)
def blockData (x : Spindle) (i : Insn) : Bytes := storeRead x.cache (memAddress x.vec i) (blockBytes i.va)

/-- The access of an unpack is in range and aligned, meets no word in error and, in a block format, passes the scale
check (R146 to R148, R503). -/
def Can.load (x : Spindle) : Bool :=
  let i := insnOf x
  let act := activeLanes x.vec i
  accessOk x.vec i i.va act && !loadFails x i i.va act
    && (!fmtBlock i.va || (skewCause i.va x.vec.unpackTag.toNat (blockEntry x i) (blockData x i)).isNone)

/-- Lane l as unpacked: a value of the block rounded once to FP32, or the element converted exactly (R72, R146). -/
def unpacked (x : Spindle) (i : Insn) (l : Nat) : Rounded :=
  if fmtBlock i.va then
    let knots := if i.va = fmtEn4 then storeRead x.cache (xregOf x.vec (i.xn + 2)).toNat 8 else []
    ((decodeBlock i.va (blockEntry x i) (blockData x i) knots)[l]?.map (fun e => roundFp32 e.1)).getD { bits := 0 }
  else
    unpackCode i.va (elemCode i.va
      (storeRead x.cache (memAddress x.vec i) (reachBytes i.va (activeLanes x.vec i))) l)

/-- The access of a store is in range and aligned and no word it reads is in error (R146 to R148, R505). -/
def Can.store (x : Spindle) : Bool :=
  let i := insnOf x
  let act := activeLanes x.vec i
  accessOk x.vec i i.va act && !storeFails x i i.va act

/-- The block that a store to a block format writes (R139, R147, R154). -/
def storedBlock (x : Spindle) (i : Insn) : Packed :=
  let xs := (List.range 32).map (fun l => if activeLane x.vec i l then laneNum i.ty (laneOf x.vec i.vd l) else .zero)
  if bitOf i.imm 19 then
    packSupplied i.va ((laneOf x.vec i.vb 0).toNat % 256) xs (field i.imm 16 3) x.vec.packTag.toNat
  else packBlock i.va xs (field i.imm 16 3) x.vec.packTag.toNat

/-- The row of a tile access lies in an idle tile, or that of a fallback access in the buffers (R148, R93). -/
def Can.row (x : Spindle) (fb : Bool) : Bool :=
  let row := rowAddress x.vec (insnOf x)
  if fb then decide (row < 128) else decide (row < 512) && !x.busy.getLsbD (row / 32)

/-! ### The array, its operations and the wave gates (R39 to R41, R76 to R102, R156 to R167) -/

/-- Spindle p runs operation `op`, of which a wavefront may issue now: it is neither idle nor waiting at the gate, the
dome holds nothing back, its tokens are there and so are its operands (R77, R80, R100, R471). -/
def Can.wave (s : State) (p j : Nat) (op : ArrayOp) : Bool :=
  let x := spindleOf s p
  decide (arrayLive s p = some op) && decide (runningJob s p = some j) && decide (op.issued < waveTotal op.head)
    && !x.arr.waiting && !x.arr.idle && issueAllowed s (domeOfSpindle p) && feederReady op
    && (takeTokens s p j op.head).isSome

/-- The index vector of the wavefront that issues. -/
def waveIndex (op : ArrayOp) : List Nat := nestIndex op.head op.item op.issued

/-- The streamed units of a weight-stationary wavefront. -/
def waveWest (x : Spindle) (op : ArrayOp) : List OperandUnit :=
  (List.range (if bothFour op.head then 2 else 1)).map (readUnit x.cache op.head.fmtA op.sa (waveIndex op))

/-- A weight-stationary wavefront of at most 32 columns (R114): no unit it reads is in error and every scale entry passes
(R98, R503). -/
def Can.weightWave (s : State) (p j : Nat) (op : ArrayOp) : Bool :=
  let x := spindleOf s p
  Can.wave s p j op && !op.head.outStat && decide (columnsUsed op.head (waveIndex op) ≤ 32)
    && !((List.range (if bothFour op.head then 2 else 1)).any (unitBad x.bad op.head.fmtA op.sa (waveIndex op)))
    && (checkUnits op.head.fmtA op.blkA (waveWest x op)).isNone

/-- The exact group sums that a weight-stationary wavefront drains into column c (R79, R82). -/
def waveSums (x : Spindle) (op : ArrayOp) (c : Nat) : List FpVal :=
  let per := if bothFour op.head then 2 else 1
  let north := ((setsFor op op.issued).head?.map (·.2)).getD []
  (List.range per).map (fun k => unitProduct (((waveWest x op).map (unitValues op.head.fmtA)).getD k [])
    (unitValues op.head.fmtB (north.getD (c * per + k) {})))

/-- The accumulator row it drains into. -/
def waveRow (op : ArrayOp) : Nat := 32 * op.head.accBase + streamAddr op.sc (waveIndex op)

/-- An entry of the accumulator after group sums are drained into it (R82, R113). -/
def drainedEntry (x : Spindle) (op : ArrayOp) (i : List Nat) (a : Nat) (gs : List FpVal) : Rounded :=
  drainAll (fmtInteger op.head.fmtA) (op.head.accInit && firstPass op.head i) (storeGet x.acc a) gs

/-- The last wavefront of an output-stationary group of at most 32 columns, which writes the tile (R81, R114); MODE 2 has
its shadow tiles behind at least one tile (R105). -/
def Can.groupEnd (s : State) (p j : Nat) (op : ArrayOp) : Bool :=
  Can.wave s p j op && op.head.outStat && op.issued % groupWaves op.head == groupWaves op.head - 1
    && decide (columnsUsed op.head (nestIndex op.head op.item (op.issued / groupWaves op.head)) ≤ 32)
    && decide (1 ≤ op.head.accTiles)

/-- The index vector of an output-stationary group. -/
def groupIndex (op : ArrayOp) : List Nat := nestIndex op.head op.item (op.issued / groupWaves op.head)

/-- The group sum of entry (m, n) of the tile. -/
def groupSumOf (op : ArrayOp) (m n : Nat) : FpVal :=
  unitProduct (unitValues op.head.fmtA (op.groupA.getD m {})) (unitValues op.head.fmtB (op.groupB.getD n {}))

/-- The visit whose weight set is to be loaded next (R112). -/
def nextSet (op : ArrayOp) : Option Nat :=
  match op.sets.getLast? with
  | none => some (setStart op.head op.item op.issued)
  | some e => nextSetStart op.head op.item e.1

/-- The next weight set may be loaded: fewer than two are held, none of its units is in error and its scale entries
pass (R80, R98, R112). -/
def Can.weightSetLoaded (s : State) (p : Nat) (op : ArrayOp) (v : Nat) : Bool :=
  let x := spindleOf s p
  decide (arrayLive s p = some op) && !op.head.outStat && decide (op.sets.length < 2) && decide (nextSet op = some v)
    && !((northUnits op v).any (unitBad x.bad op.head.fmtB op.sb (nestIndex op.head op.item v)))
    && (checkUnits op.head.fmtB op.blkB (northSet x.cache op v)).isNone

/-- Every wavefront of the operation has issued (R89). -/
def Can.operationComplete (s : State) (p : Nat) (op : ArrayOp) : Bool :=
  decide (arrayLive s p = some op) && decide (waveTotal op.head ≤ op.issued)

/-- Arrays wait at the gate of dome d, which neither holds nor stops (R40, R100, R462, R467). -/
def Can.waveAdmit (s : State) (d : Nat) : Bool := !(waveTakes s d).isEmpty && issueAllowed s d

/-! ### Programs: descriptors, work counters, blocks and synchronisation (R103 to R133, R196 to R203) -/

/-- The descriptor that executes next on spindle p. -/
def descAt (s : State) (p : Nat) : Bytes := (nextDesc (spindleOf s p)).getD []

/-- Spindle p runs for job j, and the descriptor of a kind stands next in its table. -/
def Can.desc (s : State) (p j kind : Nat) : Bool :=
  agenLive s p && decide (runningJob s p = some j) && (nextDesc (spindleOf s p)).isSome && kindOf (descAt s p) == kind

/-- Earlier blocks and operations are done (R133). -/
def settled (s : State) (p : Nat) : Bool := blocksDone (spindleOf s p) && arrayDone (spindleOf s p)

/-- A HEAD may open its operation: the three STREAMs behind it are in the table and its work item is fetched. -/
def Can.head (s : State) (p j : Nat) : Bool :=
  let x := spindleOf s p
  Can.desc s p j 1 && settled s p
    && (tableDesc x (x.agen.next + 1)).isSome && (tableDesc x (x.agen.next + 2)).isSome
    && (tableDesc x (x.agen.next + 3)).isSome && (!(decodeHead (descAt s p)).work || x.agen.workReady)

/-- A HEAD with WORK may fetch its item from a counter of the job's own partition. -/
def Can.workFetch (s : State) (p j : Nat) : Bool :=
  let h := decodeHead (descAt s p)
  Can.desc s p j 1 && settled s p && !(spindleOf s p).agen.workReady && h.work && ownsSpire s j h.wcSpire

/-- An ARM names a counter of the job's own partition. -/
def Can.arm (s : State) (p j : Nat) : Bool := Can.desc s p j 3 && ownsSpire s j (field (byteAt (descAt s p) 2) 0 5)

/-- An END may be reached: nothing of the program is left. -/
def Can.endProgram (s : State) (p j : Nat) : Bool :=
  Can.desc s p j 0 && settled s p && (spindleOf s p).dma.copies.isEmpty

/-- The descriptors of the VECTOR block that stands next. -/
def blockDescs (x : Spindle) : Nat := blockLength (fun k => (tableDesc x (x.agen.next + k)).getD []) 16 0

/-- A VECTOR block is in the table whole, and the engine has room for it. -/
def Can.vector (s : State) (p j : Nat) : Bool :=
  let x := spindleOf s p
  Can.desc s p j 7 && blockHeld x x.agen.next (blockDescs x) && decide (x.vec.blocks.length < 2)

/-- A SYNC of operation `op` makes its request at a semaphore of the job's own partition (R197 to R201). -/
def Can.sync (s : State) (p j op : Nat) : Bool :=
  Can.desc s p j 5 && settled s p && !(spindleOf s p).agen.syncWaiting && byteAt (descAt s p) 1 == op
    && ownsSpire s j (field (byteAt (descAt s p) 3) 0 5)

/-- The semaphore a SYNC names, and its N. -/
def syncSpire (s : State) (p : Nat) : Nat := field (byteAt (descAt s p) 3) 0 5
def syncNumber (s : State) (p : Nat) : Nat := field (byteAt (descAt s p) 2) 0 5
def syncCount (s : State) (p : Nat) : Nat := le (descAt s p) 4 2

/-! ### Copies and stems (R183 to R196, R303 to R305) -/

/-- A COPY may begin: earlier blocks are done, the engine holds fewer than 8 and every check passes (R190 to R193). -/
def Can.copy (s : State) (p j : Nat) : Bool :=
  let x := spindleOf s p
  Can.desc s p j 6 && blocksDone x && decide (x.dma.copies.length < 8)
    && (copyBegins s j (descAt s p) (copyItem x)).isNone

/-- The oldest copy of spindle p may complete: its fields pass the checks of R188 to R191, its destination lies in its
space and meets neither itself nor the source, nothing it reads or writes in part is in error, and a semaphore it pulses
can take the unit and has no one waiting (R189, R190, R194, R200, R503, R505). -/
def Can.copyComplete (s : State) (p j : Nat) (e : CopyReq) : Bool :=
  let c := decodeCopy e.desc
  let part := (jobOf s j).part.toNat
  let v := semOf s c.tgtSpire c.tgtSem
  decide (copyMayEnd s p = some j) && decide ((spindleOf s p).dma.copies.head? = some e) && copyFields e.desc
    && (copyFailure s p part c e.item).isNone && (partOf s part).isSome && !copyOverlaps c e.item
    && rowsWithin (2 ^ 64) (dstStart c e.item) c.dstPitch c.rows (dstRow c)
    && (c.target != 2 || (!v.barrier && v.queue.isEmpty && decide (v.value.toNat < 65535)))

/-- Row r of a copy as the bytes its codec and swap make of the source, with its non-finite groups (R184 to R191). -/
def copiedRow (s : State) (p part : Nat) (e : CopyReq) (r : Nat) : Bytes × Nat :=
  let c := decodeCopy e.desc
  if c.srcSpace = 3 then (fillRow c, 0)
  else copyRow c (storeRead (spaceStore s p part c.srcSpace c.srcSpire) (srcStart c e.item + r * c.srcPitch).toNat (srcRow c))

/-- The destination byte of row r and place k. -/
def copyPlace (e : CopyReq) (r k : Nat) : Nat :=
  (dstStart (decodeCopy e.desc) e.item + r * (decodeCopy e.desc).dstPitch).toNat + k

/-- The entry of its list a stem engine stands at (R303). -/
def stemAt (s : State) (i j : Nat) : StemEntry :=
  let u := (spireOf s i).stem
  decodeStem (storeRead (jobRegion s j) (u.list + 64 * u.entry.toNat) 64)

/-- The stem engine of spire i runs an entry of a kind for job j, and no half of it is in error. -/
def Can.stem (s : State) (i j kind : Nat) : Bool :=
  let u := (spireOf s i).stem
  decide (u.job = some j) && (jobOf s j).state == 2 && u.state == 1 && (stemAt s i j).kind == kind
    && (match partOf s (jobOf s j).part.toNat with
      | none => true
      | some x => !badRead x (u.list + 64 * u.entry.toNat) 64)

/-- An entry that computes now: its wait is over, no word it uses is in error and it posts to no one. -/
def Can.stemRuns (s : State) (i j kind : Nat) : Bool :=
  let e := stemAt s i j
  Can.stem s i j kind && (!e.wait || (spireOf s i).stem.granted) && !stemBad (spireOf s i) e && !e.post

/-! ### LPDDR5 and bobbin pools (R205 to R241) -/

/-- The channel of a request, and the request in its bank queue (R207 to R211). -/
def requestChannel (x : Partition) (offset : Nat) : Nat := blockChannel (moduleBlock x (dataBlock x offset))
def queuedRequest (x : Partition) (agent : MemAgent) (part : Fin 8) (offset : Nat) (op : MemOp) : MemReq :=
  let b := moduleBlock x (dataBlock x offset)
  ⟨agent, part, offset, blockBank b, blockRow b, op⟩

/-- A request is one entry in the region of a partition, its agent has one to spare and its channel runs or pauses for a
retraining (R20, R210, R214). -/
def Can.memoryRequest (s : State) (agent : MemAgent) (part : Fin 8) (offset n : Nat) (x : Partition) : Bool :=
  let ch := channelOf s (requestChannel x offset)
  decide (partOf s part.val = some x) && oneEntry offset n && decide (outstanding s agent < agentLimit agent)
    && decide (offset + n ≤ regionBytes x) && (ch.state == 2 || ch.state == 3)

/-- No write of the channel drains once `r` has joined it (R211). -/
def Can.queueRests (c : Channel) (r : MemReq) : Bool :=
  let d := { c with queue := c.queue ++ [r] }
  !c.draining && decide (writesPending d < 32) && (c.state == 3 || (pickOf d false).isSome)

/-- A pool of partition x holds a free bobbin in its cache that ACQUIRE may grant from it (R234, R235). -/
def Can.acquire (s : State) (part pool : Fin 8) (x : Partition) (v : Pool) : Bool :=
  decide (partOf s part.val = some x) && decide (poolOf x pool.val = some v) && !v.cached.isEmpty

/-- The handle is valid in partition x, owner `o` holds it and its owner record is not in error (R228, R233). -/
def Can.held (s : State) (part : Fin 8) (h : Word) (o : BitVec 16) (x : Partition) (v : Pool) (i : Nat) : Bool :=
  decide (partOf s part.val = some x) && decide (validHandle x h = some (v, i)) && (ownersOf v i).contains o
    && !recordBad x v i

/-! ### Host commands (R391 to R400) -/

/-- The descriptor of the command that runs in a slot. -/
def cmdDesc (s : State) (slot : Nat) : Bytes := match runningOf s slot with | none => [] | some r => r.desc

/-- The slot runs a command of this opcode that has not begun its effect, and every body byte it does not name is zero
(R10, R392). -/
def Can.command (s : State) (slot opcode : Nat) (named : List (Nat × Nat)) : Bool :=
  decide (descOf s slot opcode = some (cmdDesc s slot)) && reservedZero (cmdDesc s slot) named

/-- The partition on whose behalf the command acts exists. -/
def Can.partCommand (s : State) (slot opcode : Nat) (named : List (Nat × Nat)) (x : Partition) : Bool :=
  Can.command s slot opcode named && decide (partOf s (descPart (cmdDesc s slot)) = some x)

/-- CMD_POOL_CREATE describes a pool that its partition can take (R229, R230). -/
def Can.poolCreate (s : State) (slot : Nat) (x : Partition) : Bool :=
  let d := cmdDesc s slot
  Can.partCommand s slot 0x0320 [(8, 3), (12, 24)] x && poolFields x d && !poolClashes x (poolRecord d)

/-- CMD_POOL_DESTROY names a pool without owners to which no other falls back (R231). -/
def Can.poolDestroy (s : State) (slot : Nat) (x : Partition) (v : Pool) : Bool :=
  let p := byteAt (cmdDesc s slot) 8
  Can.partCommand s slot 0x0321 [(8, 1)] x && decide (p < 8) && decide (poolOf x p = some v) && v.owners.isEmpty
    && !x.pools.any (fun e => e.2.fallback.any (fun f => f.val == p))

/-! ### Output rings (R322 to R329) -/

/-- A waiting record is written now: its ring is valid and kept, the record fits, and it names no pipeline that stands. -/
def Can.recordWrite (s : State) (r : Nat) (rec : Record) (rest : List Record) : Bool :=
  let x := oringOf s r
  decide (x.waiting = rec :: rest) && x.valid && !x.gone
    && decide (unitsAt x.units (ringPos x) (recordUnits rec) ≤ ringFree x) && !(pipeOf s (recordPipe rec)).valid

/-- CMD_ORING_CREATE describes a ring whose number is free (R308, R327). -/
def Can.oringCreate (s : State) (slot : Nat) : Bool :=
  let d := cmdDesc s slot
  Can.command s slot 0x0610 [(8, 2), (16, 20)] && decide (byteAt d 8 < 64) && decide (byteAt d 9 < 2)
    && le d 16 8 % 64 == 0 && powerOfTwo 6 20 (le d 24 4) && le d 28 8 % 8 == 0 && !(oringOf s (byteAt d 8)).valid

/-- CMD_ORING_DESTROY names a ring of the partition that no pipeline and no job names (R327). -/
def Can.oringDestroy (s : State) (slot : Nat) : Bool :=
  let d := cmdDesc s slot
  let r := byteAt d 8
  Can.command s slot 0x0611 [(8, 1)] && decide (r < 64) && (oringOf s r).valid && (oringOf s r).part.val == descPart d
    && !s.pipes.any (fun e => e.2.valid && e.2.ring == r)
    && !s.jobs.any (fun e => e.2.part.toNat == descPart d && jobNamesRing e.2 r)

/-! ### Partitions (R361 to R364) -/

/-- CMD_PART_CREATE passes the checks of R362. -/
def Can.partCreate (s : State) (slot : Nat) : Bool :=
  Can.command s slot 0x0201 [(8, 1), (10, 18)] && decide (descPart (cmdDesc s slot) < 8) && (createFailure s (cmdDesc s slot)).isNone

/-- CMD_PART_DELETE of a partition that nothing keeps: no stream open, no pipeline, no job (R364). -/
def Can.partDelete (s : State) (slot : Nat) (x : Partition) : Bool :=
  Can.partCommand s slot 0x0202 [] x && !partBusy s (descPart (cmdDesc s slot))

/-- CMD_PART_GROW passes the checks of R362 and R363. -/
def Can.partGrow (s : State) (slot : Nat) (x : Partition) : Bool :=
  Can.partCommand s slot 0x0203 [(12, 16)] x && decide (descPart (cmdDesc s slot) < 8) && (growFailure s (cmdDesc s slot) x).isNone

/-- CMD_PART_SHRINK passes the checks of R27, R362 and R363. -/
def Can.partShrink (s : State) (slot : Nat) (x : Partition) : Bool :=
  Can.partCommand s slot 0x0204 [(12, 16)] x && (shrinkFailure s (cmdDesc s slot) x).isNone

/-! ### Jobs (R365 to R389) -/

/-- CMD_JOB_DEFINE: nothing it reads is in error and every check of R367 passes. -/
def Can.jobDefine (s : State) (slot : Nat) (x : Partition) : Bool :=
  let desc := le (cmdDesc s slot) 8 8
  Can.partCommand s slot 0x0401 [(8, 8)] x && (loadBad x desc).isNone
    && (loadFailure s (descPart (cmdDesc s slot)) x desc).isNone

/-- CMD_JOB_UNDEFINE names a description that no job runs and no pipeline names (R367). -/
def Can.jobUndefine (s : State) (slot : Nat) (x : Partition) : Bool :=
  let desc := le (cmdDesc s slot) 8 8
  let n := descPart (cmdDesc s slot)
  Can.partCommand s slot 0x0402 [(8, 8)] x && x.descs.any (fun e => e.offset == desc) && !jobNames s n desc
    && !pipeNames s n desc

/-- CMD_JOB_START passes every check of R369 and R396. -/
def Can.jobStart (s : State) (slot : Nat) : Bool :=
  let d := cmdDesc s slot
  Can.command s slot 0x0410 [(8, 17), (26, 2), (32, 64)] && (startJob s (startRequest slot d)).2.1 == stOk
    && reportRoom s (slotMailbox d slot)

/-- A job command whose JOB_ID names job j of the partition (R369). -/
def Can.jobCommand (s : State) (slot opcode j : Nat) : Bool :=
  let d := cmdDesc s slot
  Can.command s slot opcode [(8, 4)] && (match jobNamed s (descPart d) (le d 8 4) with | .ok k => k == j | .error _ => false)

/-- Job j waits, its units are free and no earlier job of its partition wants one of them (R371). -/
def Can.jobDispatch (s : State) (j : Nat) (x : Partition) : Bool :=
  (jobOf s j).state == 1 && mayDispatch s j && decide (partOf s (jobOf s j).part.toNat = some x)

/-- A save may end: the job is SAVING and holds no copy in flight (R376, R377). -/
def Can.savePoint (s : State) (j : Nat) : Bool :=
  (jobOf s j).state == 3 && !(heldSpindles s j).any (fun p => !(spindleOf s p).dma.copies.isEmpty)

/-- The save area of job j meets a half in error. -/
def saveAreaBad (s : State) (j : Nat) : Bool :=
  (partOf s (jobOf s j).part.toNat).any (fun x => badRead x (jobOf s j).save (jobOf s j).saveBytes)

/-- A save may complete: it may end, and its save area can be written. -/
def Can.saveComplete (s : State) (j : Nat) : Bool := Can.savePoint s j && !saveAreaBad s j

/-- Job j is ENDING, every copy has ended, and no record of it waits for its ring once its last records are formed
(R380). -/
def Can.jobEnd (s : State) (j : Nat) : Bool :=
  (jobOf s j).state == 7 && !copiesRun s j && !jobRecordWaits (if (jobOf s j).endFormed then s else endSteps s j) j

/-- A sequence command that passes the checks of R385 for the set `q` of job j. -/
def Can.seqCommand (s : State) (slot opcode : Nat) (named : List (Nat × Nat)) (j : Nat) (q : SeqSet) : Bool :=
  let d := cmdDesc s slot
  let id := le d 8 4
  let x := jobOf s j
  Can.command s slot opcode named && j == id % 1024 && field id 10 6 == 0 && id / 65536 == x.serial.toNat && x.state != 0
    && x.header.sequences && x.part.toNat == descPart d && decide (x.state.toNat < 7) && decide (x.seqs.getD {} = q)

/-- CMD_SEQ_JOIN: pools that exist, an input in the region, fewer than 1,024 pending joins (R385). -/
def Can.seqJoin (s : State) (slot j : Nat) (q : SeqSet) (x : Partition) : Bool :=
  let d := cmdDesc s slot
  let pools := (List.range 8).map (fun k => byteAt d (29 + k))
  Can.seqCommand s slot 0x0430 [(8, 29)] j q && decide (byteAt d 28 ≤ 8) && pools.all (fun p => decide (p < 8))
    && decide (partOf s (descPart d) = some x) && (pools.take (byteAt d 28)).all (fun p => (poolOf x p).isSome)
    && decide (le d 16 8 + le d 24 4 ≤ regionBytes x) && decide (q.joins.length < 1024)

/-! ### Mailboxes (R393 to R400) -/

/-- Function fn may write the registers of mailbox m, which is enabled or not as `on` says (R393, R409). -/
def Can.mailboxWrite (s : State) (fn m : Nat) (on : Bool) : Bool :=
  (mailboxOf s m).present && mailboxWriter fn m && (mailboxOf s m).enable == on

/-- A mailbox with the ring sizes of a value of LAN_MB_CFG (R393). -/
def mailboxSized (b : Mailbox) (v : Word) : Mailbox :=
  { b with evtLog2 := v.extractLsb' 16 4, cplLog2 := v.extractLsb' 8 4, cmdLog2 := v.extractLsb' 0 4 }

/-- Mailbox m is the next to be served (R395, R396). -/
def Can.takeHead (s : State) (m : Nat) : Bool := decide (nextMailbox s = some m)

/-- A relayed command may arrive: the module is a worker of a skein and none is in progress (R345). -/
def Can.relayed (s : State) : Bool := s.skein.state == 2 && !s.skein.manager && (runningOf s 9).isNone

/-- A completion of mailbox m reaches host memory at once: bus mastering is on, nothing is held, addresses are not
translated and the rings lie on pages (R393, R488, R492, R495). -/
def Can.postNow (s : State) (m : Nat) : Bool :=
  let fn := fnOfMailbox m
  let b := mailboxOf s m
  (cfgOf s fn).busMaster && !(cfgOf s fn).ats && !s.hif.heldWrites.any (fun h => outputFn h == some fn)
    && b.cplBase.toNat % 4096 == 0 && b.statBase.toNat % 4096 == 0
    && decide (b.cplBase.toNat + 32 * 2 ^ b.cplLog2.toNat ≤ 2 ^ 64)

/-- CMD_MODEL_LOAD: fields in range, a destination free of pools and images, no half of it in error in part, and the
image read (R402, R408, R421). -/
def Can.modelLoad (s : State) (slot : Nat) (b : Bytes) (x : Partition) : Bool :=
  let d := cmdDesc s slot
  Can.partCommand s slot 0x0301 [(8, 24)] x && le d 8 8 % 64 == 0 && decide (273 ≤ le d 16 8)
    && decide (le d 16 8 ≤ 4295033087) && le d 24 8 % 4096 == 0 && !modelClashes x (le d 24 8) (le b 72 8)
    && !badWrite x (le d 24 8) (le b 72 8)

/-- CMD_MODEL_UNLOAD of an image that no description lies in and no job uses (R402). -/
def Can.modelUnload (s : State) (slot : Nat) (x : Partition) (i : ModelImage) : Bool :=
  let d := cmdDesc s slot
  Can.partCommand s slot 0x0302 [(8, 8)] x && decide (x.images.find? (fun i => i.base == le d 8 8) = some i)
    && !x.descs.any (fun e => decide (i.base ≤ e.offset) && decide (e.offset < i.base + i.length))
    && !imageUsed s (descPart d) (le d 8 8) (fun _ => true)

/-- CMD_ADAPTER_INSTALL: bytes of partition y for the bank of image i that no job uses (R176, R402). -/
def Can.adapterInstall (s : State) (slot : Nat) (x y : Partition) (i : ModelImage) : Bool :=
  let d := cmdDesc s slot
  let n := le d 24 4
  Can.partCommand s slot 0x0310 [(8, 1), (16, 20)] x && decide (x.images.find? (fun i => i.base == le d 28 8) = some i)
    && decide (byteAt d 8 < 8) && le d 16 8 % 256 == 0 && decide (partOf s (byteAt d 8) = some y)
    && decide (le d 16 8 + n ≤ regionBytes y) && decide (n ≤ i.bankLength)
    && !imageUsed s (descPart d) i.base (fun b => b == !i.active) && !badRead y (le d 16 8) n
    && !badWrite x (if i.active then i.bank0 else i.bank1) n

/-- CMD_MEM_WRITE into bytes of the region that no image and no pool's control area holds (R402). -/
def Can.memWrite (s : State) (slot : Nat) (x : Partition) : Bool :=
  let d := cmdDesc s slot
  let a := le d 16 8
  let n := le d 24 4
  Can.partCommand s slot 0x0311 [(8, 20)] x && decide (0 < n) && decide (n ≤ 16777216)
    && decide (a + n ≤ regionBytes x) && !touchesAnyImage x a n && !touchesCtrl x a n && !badWrite x a n

/-! ### The skein (R332 to R360) -/

/-- Port p has closed for a cause: state, buffers, hop credits and keys; its error counts stand, and the life log counts
it (R339, R423, R508). -/
def closedPort (s t : State) (p : Nat) (c : PortCause) : Prop :=
  let x := linkPortOf s p
  let y := linkPortOf t p
  y.state = (if c = .disabled then 0 else 3) ∧ y.replay = [] ∧ y.credits = [] ∧ y.keyed = false ∧ y.keys = [] ∧
  y.crc = x.crc ∧ y.fec = x.fec ∧ y.retry = x.retry ∧ t.boot.life.portDown = tbump s.boot.life.portDown p

/-- The module belongs to no skein: routes, tables, queues and barriers are cleared (R344). -/
def standalone (t : State) : Prop :=
  t.skein.state = 0 ∧ t.skein.manager = false ∧ t.skein.live = 0 ∧ t.skein.routes = 0 ∧ t.skein.forming = none ∧
  t.skein.relays = [] ∧ t.skein.pools = [] ∧ t.skein.barriers = [] ∧ t.skein.ceiling = 0xFFFF#16 ∧
  ∀ e ∈ t.parts, e.2.experts = [] ∧ e.2.skQueues = [] ∧ e.2.outstanding = []

/-- Every job that names a queue or a barrier of the skein ends with ST_ABORTED, cause 3 (R357, R381). -/
def skeinJobsEnd (s t : State) : Prop :=
  ∀ j, skeinJob (jobOf s j) = true → (jobOf s j).state.toNat ≤ 6 →
    (jobOf t j).state = 7 ∧ (jobOf t j).outcome = stAborted ∧ (jobOf t j).cause = 3

/-- Member m is lost to this module (R357). -/
def memberGone (s t : State) (m : Nat) : Prop :=
  t.skein.live = s.skein.live &&& ~~~(BitVec.ofNat 16 (2 ^ m)) ∧ routeValid (routeOf t.skein.routes m) = false ∧
  (∀ p ∈ t.skein.pools, p.dest.toNat ≠ m) ∧ (∀ e ∈ t.skein.barriers, bitOf e.2.members.toNat m = false) ∧
  (∀ e ∈ t.parts, ∀ o ∈ e.2.outstanding, o.dest.toNat ≠ m) ∧ skeinJobsEnd s t

/-- A semaphore takes a pulse at once: it is not in barrier use, no one waits and it has room (R198 to R200). -/
def Can.pulse (s : State) (spire n : Nat) : Bool :=
  let v := semOf s spire n
  !v.barrier && v.queue.isEmpty && decide (v.value.toNat < 65535)

/-- An idle send queue takes a unit of SEM, and its head entry `e` leaves at once by pool `p` (R347, R348, R350). -/
def Can.sendEntry (s : State) (n q : Nat) (x : Partition) (v : SkQueue) (e : SendEntry) (p : CreditPool) : Bool :=
  decide (partOf s n = some x) && decide (queueOf x q = some v) && !v.receive && v.taken == 0
    && !(semOf s v.semSpire v.sem).barrier && (semOf s v.semSpire v.sem).value != 0
    && decide (readEntry x (storeRead x.region (v.base + 32 * v.next) 32) = some e) && decide (poolFor s n e = some p)
    && decide (e.length + 64 ≤ p.slotBytes) && decide (0 < p.credits) && !badRead x e.addr e.length

/-- A SYNC of spindle p arrives at the semaphore that skein barrier b binds for its partition (R197, R200, R354). -/
def Can.skeinSync (s : State) (p j spire n c b : Nat) (k : SkBarrier) : Bool :=
  Can.sync s p j 5 && spire == syncSpire s p && n == syncNumber s p && c == syncCount s p
    && decide (s.skein.barriers.find? (fun e =>
      e.2.part.val == (jobOf s j).part.toNat && e.2.spire == spire && e.2.sem == n) = some (b, k))
    && decide (tfind s.skein.barriers b = some k) && k.need == c
    && ((semOf s spire n).barrier || (semOf s spire n).value == 0)

/-! ### Streams (R281) -/

/-- Function fn may ring the doorbell of stream k, whose host ring is read (R281, R496). -/
def Can.ringDoorbell (s : State) (fn k : Nat) : Bool :=
  let x := streamOf s k
  x.source == 0 && streamRuns x && !x.ringStopped && (fn == 0 || fn == x.part.val + 1)

/-! ### Pipelines (R308 to R320) -/

/-- A command of pipeline `p`, number i, of its own partition. -/
def Can.pipeCommand (s : State) (slot opcode : Nat) (named : List (Nat × Nat)) (i : Nat) (p : Pipe) : Bool :=
  Can.command s slot opcode named && i == le (cmdDesc s slot) 8 2 && decide (i < 256) && decide (pipeOf s i = p)
    && p.valid && p.part.val == descPart (cmdDesc s slot)

/-- Picture `q` of pipeline i, at place a, is the next of its stream to have its track step at stage k (R318). -/
def Can.trackStep (s : State) (i stream k a : Nat) (q : PipePicture) : Bool :=
  let p := pipeOf s i
  p.valid && decide (trackStage p = some k) && decide (p.pictures[a]? = some q) && q.stream == stream && !q.left.contains k
    && decide ((List.range p.pictures.length).find? (fun a =>
      stepReady p a k && (match p.pictures[a]? with | none => false | some q => q.stream == stream)) = some a)

/-! ### The Belfry's relay (R458, R459) -/

/-- The Belfry runs and its inbox holds a request of operation `bop` with its length right (R459). -/
def Can.blfOperation (s : State) (bop : Nat) : Bool :=
  let q := s.belfry.inbox
  s.belfry.powered && s.belfry.inboxFull && le q 0 2 == bop && zeros q 2 2 && le q 4 4 == q.length

/-- Every part of the state but those listed. -/
def allBut (l : List Field) : List Field :=
  [Field.pending, .time, .draws, .out, .orders, .spindles, .spires, .domes, .channels, .parts, .jobs, .mailboxes, .running,
    .lastServed, .streams, .decoders, .suspended, .motion, .prepUnits, .workItems, .prepBusy, .prepLoad, .prepSat, .prepUfl,
    .netPorts, .pipes, .tracks, .orings, .skein, .sec, .belfry, .power, .hif, .boot].filter (fun f => !l.contains f)

/-! ### Supply and power (R462 to R477) -/

/-- The conditions of R472 for boost, on the registers as the sample leaves them in `p`. -/
def Can.boost (s : State) (p : Power) : Bool :=
  (s.jobs.all fun e => !fixedHolder e.2) && (heldPoints s).contains 7 && p.samples.length == 100
    && (p.samples.all fun e => decide (100 * e.1 ≤ 85 * limitInForce p))
    && ((List.range 4).all fun d => decide ((domeOf s d).junction.toInt < 1360)) && decide (2000 ≤ p.voltage.toNat)
    && !p.measuredOnly

/-- What outlives power and what a module without power shows: fuses, MRAM, flash, the carrier's PERST# and the Belfry
stand; jobs, partitions, memory, mailboxes and links are gone (R434, R467, R507). -/
def powerLost (s t : State) : Prop :=
  t.time = 0 ∧ t.jobs = [] ∧ t.parts = [] ∧ t.mailboxes = [] ∧ t.running = [] ∧ t.streams = [] ∧ t.pipes = [] ∧
  t.orings = [] ∧ t.tracks = [] ∧ t.spires = [] ∧ t.domes = [] ∧ t.channels = [] ∧ t.skein = {} ∧ t.hif = {} ∧ t.power = {} ∧
  t.boot.started = false ∧ t.boot.rails = 0 ∧ t.boot.pg = false ∧ t.boot.stage = 0 ∧ t.boot.romRunning = false ∧
  t.boot.flash = s.boot.flash ∧ t.boot.perst = s.boot.perst ∧ t.belfry = s.belfry ∧ t.sec = keptSecurity s.sec ∧
  t.spindles = keptMaps s.spindles

/-- The life log `l` was committed to the other slot, or the older, and that slot is the last (R507). -/
def committedTo (s t : State) (l : LifeLog) : Prop :=
  (if t.boot.lastSlot then t.boot.slotB else t.boot.slotA) = some { l with commits := satInc l.commits } ∧
  (if t.boot.lastSlot then t.boot.slotA = s.boot.slotA else t.boot.slotB = s.boot.slotB) ∧
  (t.boot.lastSlot = true ↔ s.boot.slotA.isSome ∧
    (s.boot.slotB = none ∨ ∃ x y, s.boot.slotA = some x ∧ s.boot.slotB = some y ∧ y.commits.toNat < x.commits.toNat))

/-- An orderly stop ran to its end: where this start has taken the life log, the stop and its dip are counted and the
log committed (R467, R507, R509). -/
def stopped (s t : State) (dip : Option (Nat × Nat)) : Prop :=
  powerLost s t ∧
  (s.boot.bootsCounted = true → committedTo s t { s.boot.life with
    orderlyStops := satInc s.boot.life.orderlyStops
    dips := match dip with | none => s.boot.life.dips | some d => tbump s.boot.life.dips (dipCell d.1 d.2) }) ∧
  (s.boot.bootsCounted = false → t.boot.slotA = s.boot.slotA ∧ t.boot.slotB = s.boot.slotB)

/-! ### Start and recovery (R507, R516, R518) -/

/-- The life log's slot is taken, BOOTS counted once in this start, and the log committed (R507, R516). -/
def lifeTaken (s t : State) : Prop :=
  t.boot.bootsCounted = true ∧ (if t.boot.lastSlot then t.boot.slotB else t.boot.slotA) = some t.boot.life ∧
  t.boot.life.boots = (if s.boot.bootsCounted then s.boot.life.boots else satInc ((latestLife s.boot).getD {}).boots)

/-- The recovery stage is entered for a cause, with its mailbox idle (R516, R518). -/
def recoveryEntered (s t : State) (cause : Nat) : Prop :=
  t.boot.stage = 4 ∧ t.boot.cause = BitVec.ofNat 4 cause ∧ t.boot.recState = 0 ∧ t.boot.flash = s.boot.flash ∧
  t.boot.requested = s.boot.requested ∧ lifeTaken s t

/-- Firmware start begins from a verified image (R413, R516). -/
def runsImage (t : State) (i : FwImage) : Prop :=
  let h := fit 256 i.header
  t.boot.stage = 2 ∧ t.boot.image = some i ∧ t.sec.svRunning = byteAt h 8 ∧
  t.sec.fwHash = fit 64 (Config.sha512 (h.take 80)) ∧ t.sec.fwVersion.toNat = le h 12 4

/-- The loader may run: every rail is up, Lantern is not held and no flash work goes on (R513, R514, R518). -/
def Can.romStart (s : State) : Bool := s.boot.rails == 8 && !s.boot.romRunning && !s.boot.held && !flashBusy s.boot

/-- The loader reads the image: PERST# is released and no flash work goes on (R514, R518). -/
def Can.readImage (s : State) : Bool := s.boot.romRunning && s.boot.stage == 1 && !s.boot.perst && !flashBusy s.boot

/-! ### Host loss (R495, R496) -/

/-- The objects created through functions `fns` have lost their host: mailboxes disabled, reads abandoned, translations
removed, output rings lost, host rings stopped; the loss is counted (R496, R498). -/
def hostGone (s t : State) (fns : List Nat) : Prop :=
  (∀ m, m < 9 → fnOfMailbox m ∈ fns → (mailboxOf s m).present = true → (mailboxOf t m).enable = false) ∧
  (∀ r ∈ t.hif.reads, r.fn ∉ fns) ∧
  (∀ r ∈ s.hif.reads, r.fn ∈ fns → r.answered = false → r.tag ∈ t.hif.abandoned) ∧
  (∀ e ∈ t.hif.cache, e.fn ∉ fns) ∧
  (∀ k, (oringOf s k).valid = true → (oringOf s k).fn ∈ fns → (oringOf t k).gone = true) ∧
  (∀ k, streamRuns (streamOf s k) = true → (streamOf s k).source = 0 → (streamOf s k).fn ∈ fns →
    (streamOf t k).ringStopped = true ∧ (streamOf t k).entry = none ∧ (streamOf t k).state = (streamOf s k).state) ∧
  t.hif.hostLosses = satInc s.hif.hostLosses

/-- HIF_RESET shows the cause and function of the last host loss (R498). -/
def shownLoss (t : State) (cause fn : Nat) : Prop :=
  t.hif.lastCause = BitVec.ofNat 4 cause ∧ t.hif.lastFunction = BitVec.ofNat 4 fn

/-- Configuration space of functions stands at its defaults (R495). -/
def configDefault (t : State) (fns : List Nat) : Prop :=
  ∀ fn ∈ fns, cfgOf t fn = {} ∧ ∀ v : Fin 3, vecOf t fn v = {}

/-- What host loss may change: nothing of jobs, spindles, domes, sequences of pictures, the power controller or the
Belfry (R496). -/
def lossParts : List Field :=
  [.boot, .channels, .draws, .hif, .mailboxes, .orders, .orings, .out, .parts, .pipes, .prepUnits, .running, .sec, .skein,
    .spires, .streams, .tracks, .workItems]

/-! ### Limited-change settings (R424) -/

/-- No setting has used more steps than it has fuses, and SV_RUNNING is a byte. -/
def FuseInv (s : State) : Prop :=
  s.sec.svFused ≤ 64 ∧ s.belfry.sealGen ≤ 32 ∧ s.sec.skeinSteps ≤ 8 ∧ s.sec.ceilSteps ≤ 16 ∧ s.sec.svRunning < 256

/-- The steps of every setting in `t` are at least those in `s`, and debug once disabled stays so. -/
def unburntNever (s t : State) : Prop :=
  s.sec.svFused ≤ t.sec.svFused ∧ s.belfry.sealGen ≤ t.belfry.sealGen ∧ s.sec.skeinSteps ≤ t.sec.skeinSteps ∧
  s.sec.ceilSteps ≤ t.sec.ceilSteps ∧ (s.sec.debugDisabled = true → t.sec.debugDisabled = true)

/-- The command that changes a setting, and no other does (R424). -/
def changesSetting (c : Instr) (s t : State) : Prop :=
  (t.sec.svFused ≠ s.sec.svFused → ∃ slot, c = .cmdSvAdvance slot) ∧
  (t.belfry.sealGen ≠ s.belfry.sealGen → c = .commit) ∧
  (t.sec.skeinSteps ≠ s.sec.skeinSteps → ∃ slot, c = .cmdSkeinBind slot) ∧
  (t.sec.ceilSteps ≠ s.sec.ceilSteps → ∃ slot, c = .cmdCeilingLower slot) ∧
  (t.sec.debugDisabled ≠ s.sec.debugDisabled → ∃ slot, c = .cmdDebugDisable slot)

/-! ### The Belfry's boundary (R432 to R434) -/

/-- What reaches the Belfry from its own inputs, its supply, its core and its kernel (R432, R434). -/
def belfryInput (c : Instr) : Bool :=
  match c with
  | .encoderEdge _ _ _ | .trigger | .csiFrame _ _ _ _ _ | .pairTimeout | .callReturn _ _ | .callDeadline | .coreWatchdog
  | .tamperSample _ | .vblfFalling | .vblfInRange => true
  | _ => false

/-- What the relay's requests make the Belfry do (R458). -/
def belfryRequest (c : Instr) : Bool :=
  match c with
  | .belfryStatus | .belfryIdentity | .belfryLog | .stageFw | .stageParam | .commit | .partialReset | .indicatorId => true
  | _ => false

end Sys2Proof
end

