-- ==== Sys2Proof/Certificates/Slice0/Obligations.lean ====
section
/-! DEFINITION. The statements about the model, for the provers. -/

section

open Sys2Proof Sys2Proof.Machine

/-- What an element-wise vector instruction does. ADD, SUB, MUL, FMA, MIN, MAX, ABS, NEG, CVT, QMUL, AND, OR, XOR,
EXP2, LOG2, RCP and RSQRT, issued on spindle p, answer a next state in which every active lane of Vd holds the
lane function of the same lane of Va, Vb and Vd, read before any write; every other lane of every register is as
before; the saturations and underflows of the active lanes are counted; no status bit changes; the engine stands
at its next position; nothing but spindle p changes. -/
def Obligations.VectorElements : Prop :=
  ∀ e ∈ elementOps, ∀ (s : State) (p : Fin 256), Can.issue s p e.op = true →
    ∃ t, exec (e.cmd p) s = .next t ∧
      let x := standing s p
      let y := spindleOf t p
      let i := insnOf x
      let r := fun l => e.lane i.ty (laneOf x.vec i.va l) (laneOf x.vec i.vb l) (laneOf x.vec i.vd l)
      (∀ n l, l < 32 → laneOf y.vec n l =
        if n = i.vd ∧ activeLane x.vec i l = true then BitVec.ofNat 32 (r l).bits else laneOf x.vec n l) ∧
      y.arr = (countInto x ((activeLanes x.vec i).map (fun l => (r l).sat)).sum
        ((activeLanes x.vec i).map (fun l => (r l).ufl)).sum).arr ∧
      keepsBut [.lanes, .counts] x y ∧ flagsAre x y false false false ∧ movedOn x y ∧ t = setSpindle s p y

/-- NOP, XSET, XADD, TAGSET, SEL and BCASTI. Each, issued on spindle p, answers a next state. NOP changes no
register. XSET puts IMM into Xn and XADD adds IMM to Xn modulo 2^32, every other address register as before.
TAGSET sets UNPACK_TAG where IMM[16] is 1, else PACK_TAG, to IMM[15:0]. SEL writes every lane below VL from Va
or Vb by the MASK register, BCASTI writes IMM into every active lane, and every other lane is as before. The
engine moves on, the counts and status bits stay, and nothing but spindle p changes. -/
def Obligations.VectorMoves : Prop :=
  ∀ (s : State) (p : Fin 256),
    (Can.issue s p 0x00 = true → ∃ t, exec (.vNop p) s = .next t ∧
      let x := standing s p
      let y := spindleOf t p
      keepsBut [] x y ∧ flagsAre x y false false false ∧ movedOn x y
        ∧ t = setSpindle s p y) ∧
    (∀ add : Bool, Can.issue s p (if add then 0x02 else 0x01) = true →
      ∃ t, exec (if add then .vXadd p else .vXset p) s = .next t ∧
      let x := standing s p
      let y := spindleOf t p
      let i := insnOf x
      (∀ n, xregOf y.vec n = if n = i.xn then (if add then xregOf x.vec n + BitVec.ofNat 32 i.imm
        else BitVec.ofNat 32 i.imm) else xregOf x.vec n) ∧
      keepsBut [.addresses] x y ∧ flagsAre x y false false false ∧ movedOn x y
        ∧ t = setSpindle s p y) ∧
    (Can.issue s p 0x03 = true → ∃ t, exec (.vTagset p) s = .next t ∧
      let x := standing s p
      let y := spindleOf t p
      let i := insnOf x
      y.vec.unpackTag = (if bitOf i.imm 16 then BitVec.ofNat 16 i.imm else x.vec.unpackTag) ∧
      y.vec.packTag = (if bitOf i.imm 16 then x.vec.packTag else BitVec.ofNat 16 i.imm) ∧
      keepsBut [.tags] x y ∧ flagsAre x y false false false
        ∧ movedOn x y ∧ t = setSpindle s p y) ∧
    (Can.issue s p 0x1A = true → ∃ t, exec (.vSel p) s = .next t ∧
      let x := standing s p
      let y := spindleOf t p
      let i := insnOf x
      (∀ n l, l < 32 → laneOf y.vec n l = if n = i.vd ∧ l < x.vec.vl.toNat then
        (if bitOf (maskOfReg x.vec i.mask) l then laneOf x.vec i.va l else laneOf x.vec i.vb l) else laneOf x.vec n l) ∧
      keepsBut [.lanes] x y ∧ flagsAre x y false false false ∧ movedOn x y ∧ t = setSpindle s p y) ∧
    (Can.issue s p 0x1B = true → ∃ t, exec (.vBcasti p) s = .next t ∧
      let x := standing s p
      let y := spindleOf t p
      let i := insnOf x
      (∀ n l, l < 32 → laneOf y.vec n l =
        if n = i.vd ∧ activeLane x.vec i l = true then BitVec.ofNat 32 i.imm else laneOf x.vec n l) ∧
      keepsBut [.lanes] x y ∧ flagsAre x y false false false ∧ movedOn x y ∧ t = setSpindle s p y)

/-- Compares and mask logic. CMPEQ, CMPLT and CMPLE give the mask register of VD 1 in exactly the active lanes whose
relation holds and where neither source is an FP32 NaN, and raise NAN where an active lane holds one. MAND, MOR
and MNOT combine all 32 bits. M0 still reads all ones, every other mask register and every lane is as before,
and nothing but spindle p changes. -/
def Obligations.VectorMasks : Prop :=
  (∀ e ∈ compareOps, ∀ (s : State) (p : Fin 256), Can.issue s p e.op = true →
    ∃ t, exec (e.cmd p) s = .next t ∧
      let x := standing s p
      let y := spindleOf t p
      let i := insnOf x
      let nan := fun l => i.ty == 0 && (isNaN (fp32 (laneOf x.vec i.va l)) || isNaN (fp32 (laneOf x.vec i.vb l)))
      (∀ n, maskOfReg y.vec n = if n = i.vd % 8 ∧ n ≠ 0 then
        maskOf ((activeLanes x.vec i).filter (fun l => !nan l && e.holds i.ty (laneOf x.vec i.va l) (laneOf x.vec i.vb l)))
          % 2 ^ 32
        else maskOfReg x.vec n) ∧
      keepsBut [.masks] x y
        ∧ flagsAre x y ((activeLanes x.vec i).any nan) false false ∧ movedOn x y ∧ t = setSpindle s p y) ∧
  (∀ e ∈ maskOps, ∀ (s : State) (p : Fin 256), Can.issue s p e.op = true →
    ∃ t, exec (e.cmd p) s = .next t ∧
      let x := standing s p
      let y := spindleOf t p
      let i := insnOf x
      (∀ n, maskOfReg y.vec n = if n = i.vd % 8 ∧ n ≠ 0 then
        e.bits (maskOfReg x.vec (i.va % 8)) (maskOfReg x.vec (i.vb % 8)) % 2 ^ 32 else maskOfReg x.vec n) ∧
      keepsBut [.masks] x y ∧ flagsAre x y false false false ∧ movedOn x y
        ∧ t = setSpindle s p y)

/-- Reductions. RSUM, RPROD, RMAX and RMIN write lane 0 of Vd alone: the result of the five-level tree of adjacent
lanes, inactive lanes taking the identity, or the identity itself where no lane is active, with the counts of
the tree. RARGMAX and RARGMIN write the index of the lowest active lane whose value is extreme, the lowest NaN
lane first, and 0xFFFF where none is active. NAN is raised for an active FP32 NaN and EMPTY where no lane is
active; nothing but spindle p changes. -/
def Obligations.VectorReductions : Prop :=
  (∀ e ∈ reduceOps, ∀ (s : State) (p : Fin 256), Can.issue s p e.op = true →
    ∃ t, exec (e.cmd p) s = .next t ∧
      let x := standing s p
      let y := spindleOf t p
      let i := insnOf x
      let ident := if i.ty = 1 then e.idInt else e.idFp
      let tree := reduceTree (fun a b => e.lane i.ty a b 0) 5
        ((List.range 32).map (fun l => if activeLane x.vec i l then laneOf x.vec i.va l else ident))
      let none' := (activeLanes x.vec i).isEmpty
      (∀ n l, l < 32 → laneOf y.vec n l = if n = i.vd ∧ l = 0 then
        (if none' then ident else BitVec.ofNat 32 tree.bits) else laneOf x.vec n l) ∧
      y.arr = (countInto x (if none' then 0 else tree.sat) (if none' then 0 else tree.ufl)).arr ∧
      keepsBut [.lanes, .counts] x y ∧ flagsAre x y (activeNaN x.vec i) false none' ∧ movedOn x y ∧ t = setSpindle s p y) ∧
  (∀ (least : Bool) (s : State) (p : Fin 256), Can.issue s p (if least then 0x45 else 0x44) = true →
    ∃ t, exec (if least then .vRargmin p else .vRargmax p) s = .next t ∧
      let x := standing s p
      let y := spindleOf t p
      let i := insnOf x
      (∀ n l, l < 32 → laneOf y.vec n l = if n = i.vd ∧ l = 0 then
        BitVec.ofNat 32 (bestLane (if least then beatsMin else beatsMax) x.vec i) else laneOf x.vec n l) ∧
      keepsBut [.lanes] x y ∧ flagsAre x y (activeNaN x.vec i) false (activeLanes x.vec i).isEmpty
        ∧ movedOn x y ∧ t = setSpindle s p y)

/-- PERM, BCAST, SLIDEUP and SLIDEDN. PERM and BCAST give each active lane the lane of Va that Vb or IMM[4:0] names,
and +0 with PERM_RANGE raised where that index is at or beyond VL or 32. SLIDEUP and SLIDEDN move Va up or down
by IMM[5:0] lanes, +0 coming in below lane 0 and from VL on, and raise no bit. Every other lane is as before and
nothing but spindle p changes. -/
def Obligations.VectorPermutes : Prop :=
  (∀ (imm : Bool) (s : State) (p : Fin 256), Can.issue s p (if imm then 0x53 else 0x50) = true →
    ∃ t, exec (if imm then .vBcast p else .vPerm p) s = .next t ∧
      let x := standing s p
      let y := spindleOf t p
      let i := insnOf x
      let at' := fun l => if imm then field i.imm 0 5 else (laneOf x.vec i.vb l).toNat
      let bad := fun l => decide (x.vec.vl.toNat ≤ at' l) || decide (32 ≤ at' l)
      (∀ n l, l < 32 → laneOf y.vec n l = if n = i.vd ∧ activeLane x.vec i l = true then
        (if bad l then 0 else laneOf x.vec i.va (at' l)) else laneOf x.vec n l) ∧
      keepsBut [.lanes] x y ∧ flagsAre x y false ((activeLanes x.vec i).any bad) false ∧ movedOn x y
        ∧ t = setSpindle s p y) ∧
  (∀ (down : Bool) (s : State) (p : Fin 256), Can.issue s p (if down then 0x52 else 0x51) = true →
    ∃ t, exec (if down then .vSlidedn p else .vSlideup p) s = .next t ∧
      let x := standing s p
      let y := spindleOf t p
      let i := insnOf x
      let k := field i.imm 0 6
      (∀ n l, l < 32 → laneOf y.vec n l = if n = i.vd ∧ activeLane x.vec i l = true then
        (if down then (if x.vec.vl.toNat ≤ l + k then 0 else laneOf x.vec i.va (l + k))
          else (if l < k then 0 else laneOf x.vec i.va (l - k))) else laneOf x.vec n l) ∧
      keepsBut [.lanes] x y ∧ flagsAre x y false false false ∧ movedOn x y ∧ t = setSpindle s p y)

/-- VLD, MACM and MULM. With the access inside the operand cache and aligned, no word of it in error and, for a
block format, the scale entry matching UNPACK_TAG: VLD unpacks element l of the format into active lane l, MACM
adds the unpacked lane times Vb to Vd and MULM multiplies it by Vb, with the counts of both. A block access
moves the scale pointer on by 2, the knot pointer by 8 in EN4 and UNPACK_TAG by 1; other formats leave them.
Nothing but spindle p changes. -/
def Obligations.VectorLoads : Prop :=
  ∀ e ∈ loadOps, ∀ (s : State) (p : Fin 256), Can.issue s p e.op = true → Can.load (standing s p) = true →
    ∃ t, exec (e.cmd p) s = .next t ∧
      let x := standing s p
      let y := spindleOf t p
      let i := insnOf x
      let u := unpacked x i
      let r := fun l => e.lane i.ty (u l) (laneOf x.vec i.vb l) (laneOf x.vec i.vd l)
      (∀ n l, l < 32 → laneOf y.vec n l =
        if n = i.vd ∧ activeLane x.vec i l = true then BitVec.ofNat 32 (r l).bits else laneOf x.vec n l) ∧
      y.arr = (countInto x ((activeLanes x.vec i).map (fun l => (u l).sat + (r l).sat)).sum
        ((activeLanes x.vec i).map (fun l => (u l).ufl + (r l).ufl)).sum).arr ∧
      (∀ n, xregOf y.vec n =
        if fmtBlock i.va = true ∧ n = i.xn + 1 then xregOf x.vec n + 2
        else if i.va = fmtEn4 ∧ n = i.xn + 2 then xregOf x.vec n + 8 else xregOf x.vec n) ∧
      y.vec.unpackTag = (if fmtBlock i.va then x.vec.unpackTag + 1 else x.vec.unpackTag) ∧
      y.vec.packTag = x.vec.packTag ∧ keepsBut [.lanes, .counts, .addresses, .tags] x y
        ∧ flagsAre x y false false false ∧ movedOn x y ∧ t = setSpindle s p y

/-- VST. With the access inside the operand cache and aligned and no word of it in error: a store to a format
without block scales puts the packed element of every active lane at its place, counts the conversions and
leaves every byte outside the reach of its lanes, every pointer and every tag; a store to a block format writes
the packed block, its scale entry and, in EN4, its knot record, inactive lanes taken as zero, leaves every other
byte, moves the pointers on and consumes a PACK_TAG. No lane changes, and nothing but spindle p changes. -/
def Obligations.VectorStores : Prop :=
  ∀ (s : State) (p : Fin 256), Can.issue s p 0x61 = true → Can.store (standing s p) = true →
    ∃ t, exec (.vVst p) s = .next t ∧
      let x := standing s p
      let y := spindleOf t p
      let i := insnOf x
      let a := memAddress x.vec i
      let act := activeLanes x.vec i
      let r := fun l => packLane i.va i.ty (laneOf x.vec i.vd l)
      let b := storedBlock x i
      let sc := (xregOf x.vec (i.xn + 1)).toNat
      let kn := (xregOf x.vec (i.xn + 2)).toNat
      (fmtBlock i.va = false →
        y.cache = act.foldl (fun c l => putElement c i.va a l (r l).bits) x.cache ∧
        (∀ k, k < a ∨ a + reachBytes i.va act ≤ k → storeGet y.cache k = storeGet x.cache k) ∧
        y.vec.x = x.vec.x ∧ y.vec.packTag = x.vec.packTag ∧
        y.arr = (countInto x (act.map (fun l => (r l).sat)).sum (act.map (fun l => (r l).ufl)).sum).arr) ∧
      (fmtBlock i.va = true →
        (∀ k, k < a ∨ a + blockBytes i.va ≤ k → k < sc ∨ sc + 2 ≤ k → i.va ≠ fmtEn4 ∨ k < kn ∨ kn + 8 ≤ k →
          storeGet y.cache k = storeGet x.cache k) ∧
        y.cache = (let c := storeWrite (storeWrite x.cache a (packCodes i.va b.codes)) sc (toLE 2 b.entry)
          if i.va = fmtEn4 then storeWrite c kn b.knots else c) ∧
        (∀ n, xregOf y.vec n = if n = i.xn + 1 then xregOf x.vec n + 2
          else if i.va = fmtEn4 ∧ n = i.xn + 2 then xregOf x.vec n + 8 else xregOf x.vec n) ∧
        y.vec.packTag = x.vec.packTag + 1 ∧
        y.arr = (countInto x b.sat b.ufl).arr) ∧
      y.bad = clearWords x.bad a (if fmtBlock i.va then blockBytes i.va else reachBytes i.va act) ∧
      y.vec.unpackTag = x.vec.unpackTag ∧ keepsBut [.cache, .counts, .addresses, .tags] x y
        ∧ flagsAre x y false false false ∧ movedOn x y ∧ t = setSpindle s p y

/-- TLD, TST, FLD and FST. With Xn + IMM[15:0] below 512 and its tile not busy, TLD copies words of that accumulator
row into the active lanes of Vd and TST the active lanes of Vd into the row; with it below 128, FLD and FST do
the same with a fallback row. No word is converted, every other lane, accumulator word and fallback word is as
before, and nothing but spindle p changes. -/
def Obligations.VectorRows : Prop :=
  (∀ (fb : Bool) (s : State) (p : Fin 256), Can.issue s p (if fb then 0x64 else 0x62) = true →
    Can.row (standing s p) fb = true → ∃ t, exec (if fb then .vFld p else .vTld p) s = .next t ∧
      let x := standing s p
      let y := spindleOf t p
      let i := insnOf x
      let row := rowAddress x.vec i
      (∀ n l, l < 32 → laneOf y.vec n l = if n = i.vd ∧ activeLane x.vec i l = true then
        storeGet (if fb then x.vec.fb else x.acc) (32 * row + l) else laneOf x.vec n l) ∧
      keepsBut [.lanes] x y ∧ flagsAre x y false false false ∧ movedOn x y ∧ t = setSpindle s p y) ∧
  (∀ (fb : Bool) (s : State) (p : Fin 256), Can.issue s p (if fb then 0x65 else 0x63) = true →
    Can.row (standing s p) fb = true → ∃ t, exec (if fb then .vFst p else .vTst p) s = .next t ∧
      let x := standing s p
      let y := spindleOf t p
      let i := insnOf x
      let row := rowAddress x.vec i
      (∀ k, storeGet (if fb then y.vec.fb else y.acc) k =
        if 32 * row ≤ k ∧ k < 32 * row + 32 ∧ activeLane x.vec i (k - 32 * row) = true
        then laneOf x.vec i.vd (k - 32 * row) else storeGet (if fb then x.vec.fb else x.acc) k) ∧
      keepsBut [if fb then .fallback else .accumulator] x y ∧ flagsAre x y false false false ∧ movedOn x y ∧ t = setSpindle s p y)

/-- A weight-stationary wavefront. WAVEFRONT_ISSUE of a weight-stationary operation whose array may issue, with its
operands at the feeders, drains into each used column of its accumulator row the exact group sums of that
column, the first of them written in place on a first pass of an ACC_INIT operation; a final pass of MODE 2
leaves the same words in the shadow row; every other accumulator entry is as before. SAT and UFL count what the
drains count, one wavefront is counted, the tokens are taken and the tiles of the operation are busy. Nothing
else of the machine changes. -/
def Obligations.WeightWavefront : Prop :=
  ∀ (s : State) (p : Fin 256) (j : Nat) (op : ArrayOp), Can.weightWave s p j op = true →
    ∃ t, exec (.wavefrontIssue p) s = .next t ∧
      let x := spindleOf s p
      let y := spindleOf t p
      let i := waveIndex op
      let cols := columnsUsed op.head i
      let row := 32 * waveRow op
      let r := fun c => drainedEntry x op i (row + c) (waveSums x op c)
      let shadow := 1024 * op.head.accTiles
      let twice := op.head.mode = 2 ∧ finalPass op.head i = true
      (∀ c, c < cols → storeGet y.acc (row + c) = BitVec.ofNat 32 (r c).bits) ∧
      (twice → ∀ c, c < cols → storeGet y.acc (row + c + shadow) = BitVec.ofNat 32 (r c).bits) ∧
      (∀ a, (∀ c, c < cols → a ≠ row + c ∧ (twice → a ≠ row + c + shadow)) → storeGet y.acc a = storeGet x.acc a) ∧
      y.arr.satCount = satAdd x.arr.satCount ((List.range cols).map (fun c => (r c).sat)).sum ∧
      y.arr.uflCount = satAdd x.arr.uflCount ((List.range cols).map (fun c => (r c).ufl)).sum ∧
      y.arr.wavefronts = satInc x.arr.wavefronts ∧ some y.arr.tokens = takeTokens s p j op.head ∧ y.arr.state = 2 ∧
      y.arr.op.map (fun o => (o.issued, o.blkA, o.blkB, o.head, o.pc, o.item)) = some (op.issued + 1,
        op.blkA + (waveWest x op).length, op.blkB, op.head, op.pc, op.item) ∧
      y.busy = x.busy ||| operationTiles op.head ∧
      y = { x with arr := y.arr, acc := y.acc, busy := y.busy } ∧ t = setSpindle s p y

/-- The last wavefront of an output-stationary group. WAVEFRONT_ISSUE that issues the last wavefront of an output-
stationary group of more than one wavefront writes each entry (m, n) of the tile, n below the columns used, with
the exact group sum of row m and column n, in place on a first pass of an ACC_INIT operation and else added; a
final pass of MODE 2 leaves the same words in the shadow tiles; every other accumulator entry is as before. One
wavefront is counted. Nothing outside the spindle changes. -/
def Obligations.StationaryGroup : Prop :=
  ∀ (s : State) (p : Fin 256) (j : Nat) (op : ArrayOp), Can.groupEnd s p j op = true →
    ∃ t, exec (.wavefrontIssue p) s = .next t ∧
      let x := spindleOf s p
      let y := spindleOf t p
      let i := groupIndex op
      let tile := 32 * op.head.accBase + streamAddr op.sc i
      let cols := columnsUsed op.head i
      let r := fun m n => drainedEntry x op i (32 * (tile + m) + n) [groupSumOf op m n]
      let shadow := 1024 * op.head.accTiles
      let twice := op.head.mode = 2 ∧ finalPass op.head i = true
      (∀ m n, m < 32 → n < cols → storeGet y.acc (32 * (tile + m) + n) = BitVec.ofNat 32 (r m n).bits) ∧
      (twice → ∀ m n, m < 32 → n < cols →
        storeGet y.acc (32 * (tile + m) + n + shadow) = BitVec.ofNat 32 (r m n).bits) ∧
      (∀ a, (∀ m n, m < 32 → n < cols → a ≠ 32 * (tile + m) + n ∧ (twice → a ≠ 32 * (tile + m) + n + shadow)) →
        storeGet y.acc a = storeGet x.acc a) ∧
      y.arr.wavefronts = satInc x.arr.wavefronts ∧ y.arr.op.map (·.issued) = some (op.issued + 1) ∧
      y = { x with arr := y.arr, acc := y.acc, busy := y.busy } ∧ t = setSpindle s p y

/-- WEIGHT_SET_LOADED. With fewer than two weight sets held, no unit of the next set in error and every scale entry
of it passing, WEIGHT_SET_LOADED adds that set behind the ones held and counts its blocks at the north feeder.
Nothing else changes. -/
def Obligations.WeightSets : Prop :=
  ∀ (s : State) (p : Fin 256) (op : ArrayOp) (v : Nat), Can.weightSetLoaded s p op v = true →
    exec (.weightSetLoaded p) s = .next (
      let x := spindleOf s p
      setSpindle s p { x with arr := { x.arr with op := some { op with
        sets := op.sets ++ [(v, northSet x.cache op v)]
        blkB := op.blkB + (northUnits op v).length } } })

/-- OPERATION_COMPLETE and the judgement. Once every wavefront has issued, OPERATION_COMPLETE leaves the array
without an operation, at state 0, with the busy marks of its tiles cleared. An epilogue that still has blocks to
complete awaits its judgement with the counters and, for a repeat, the address registers and tags saved. With
none left the operation is judged: AMAX is its largest final magnitude, OVERRUN says that a counter passed its
limit, LIMIT_COUNT counts it, and an operation of MODE 1 or 2 enters its slot. -/
def Obligations.OperationReports : Prop :=
  ∀ (s : State) (p : Fin 256) (op : ArrayOp) (jd : Judgement), Can.operationComplete s p op = true →
    (spindleOf s p).scale.judging = some jd →
    ∃ t, exec (.operationComplete p) s = .next t ∧
      let x := spindleOf s p
      let y := spindleOf t p
      (jd.done < jd.blocks.length → y.arr.op = none ∧ y.arr.state = 0 ∧ y.busy = x.busy &&& ~~~(operationTiles op.head) ∧
        y.scale.judging = some { jd with
          arrayDone := true, amax := op.amax, snapSat := x.arr.satCount, snapUfl := x.arr.uflCount
          savedX := x.vec.x, savedPack := x.vec.packTag, savedUnpack := x.vec.unpackTag } ∧
        y = { x with arr := y.arr, busy := y.busy, scale := y.scale } ∧ t = setSpindle s p y) ∧
      (jd.blocks.length ≤ jd.done → 
        let passed := overLimit jd.head x.arr.satCount x.arr.uflCount
        y.arr.op = none ∧ y.arr.state = 0 ∧ y.busy = x.busy &&& ~~~(operationTiles op.head) ∧
        y.scale.judging = none ∧ y.scale.amax = op.amax ∧ y.scale.overrun = passed ∧
        y.scale.limitCount = (if passed then satInc x.scale.limitCount else x.scale.limitCount) ∧
        y.scale.slots = (if jd.head.mode = 1 ∨ jd.head.mode = 2 then
          x.scale.slots.set jd.head.slot (slotEnter (x.scale.slots.getD jd.head.slot {}) op.amax) else x.scale.slots) ∧
        y.acc = x.acc ∧ y.vec = x.vec ∧ y.cache = x.cache ∧ y.agen = x.agen ∧ y.dma = x.dma)

/-- Idle arrays, wave gates, droop, hold and the operating point. ARRAY_IDLE marks an array idle, and one that has a
wavefront ready then waits at the gate. WAVE_ADMIT admits the waiting arrays it takes, at most 16 in the order
from NEXT_START: each waits no more and is not idle; the wave is counted, its size shown and NEXT_START set
behind the last; issue fractions may only fall, and stay in measured-only mode. DROOP_EVENT counts once per
excursion, DROOP_RECOVERED arms it again. DROOP_HOLD counts and holds the dome, HOLD_RESUME releases it.
RATE_WINDOW sets the rate of its dome. OP_SLEW_SETTLED leaves the target point alone spanned. -/
def Obligations.ArrayIdleAndGates : Prop :=
  (∀ (s : State) (p : Fin 256), ∃ t, exec (.arrayIdle p) s = .next t ∧
    let x := spindleOf s p
    let y := spindleOf t p
    y.arr.idle = true ∧
    (∀ op, arrayLive s p = some op → op.issued < waveTotal op.head → feederReady op = true → x.arr.state ≠ 5 →
      y.arr.waiting = true ∧ y.arr.state = 1) ∧
    (arrayLive s p = none → y.arr.waiting = x.arr.waiting ∧ y.arr.state = x.arr.state) ∧
    y = { x with arr := { x.arr with idle := y.arr.idle, waiting := y.arr.waiting, state := y.arr.state } } ∧
    t = setSpindle s p y) ∧
  (∀ (s : State) (d : Fin 4), Can.waveAdmit s d = true → ∃ t, exec (.waveAdmit d) s = .next t ∧
    let ps := waveTakes s d
    ps.length ≤ 16 ∧
    (∀ p ∈ ps, (spindleOf t p).arr.waiting = false ∧ (spindleOf t p).arr.idle = false) ∧
    (∀ p, p ∉ ps → spindleOf t p = spindleOf s p) ∧
    domeOf t d = { domeOf s d with
      waveCount := satInc (domeOf s d).waveCount, lastSize := BitVec.ofNat 5 ps.length
      nextStart := BitVec.ofNat 6 ((ps.getLastD 0 + 1) % 64), fraction := (domeOf t d).fraction } ∧
    (∀ e, (domeOf t e).fraction.toNat ≤ (domeOf s e).fraction.toNat) ∧
    (s.power.measuredOnly = true → ∀ e, (domeOf t e).fraction = (domeOf s e).fraction) ∧
    t.power.admitted = s.power.admitted + ps.length) ∧
  (∀ (s : State) (d : Fin 4), ∃ t, exec (.droopEvent d) s = .next t ∧
    let x := domeOf s d
    (x.droopArmed = true → domeOf t d = { x with droopCount := satInc x.droopCount, droopArmed := false }) ∧
    (x.droopArmed = false → t = s)) ∧
  (∀ (s : State) (d : Fin 4), exec (.droopRecovered d) s = .next (setDome s d { domeOf s d with droopArmed := true })) ∧
  (∀ (s : State) (d : Fin 4), (domeOf s d).hold = false → ∃ t, exec (.droopHold d) s = .next t ∧
    domeOf t d = { domeOf s d with hold := true, holdCount := satInc (domeOf s d).holdCount } ∧
    issueAllowed t d = false ∧ Only [.spindles, .domes, .boot] s t) ∧
  (∀ (s : State) (d : Fin 4), ∃ t, exec (.holdResume d) s = .next t ∧
    domeOf t d = { domeOf s d with hold := false } ∧ Only [.spindles, .domes] s t) ∧
  (∀ (s : State) (d : Fin 4) (r : BitVec 16),
    exec (.rateWindow d r) s = .next (setDome s d { domeOf s d with rate := r })) ∧
  (∀ s : State, exec .opSlewSettled s = .next (setPower s { s.power with spanned := [s.power.target] }))

/-- DESCRIPTOR_FETCH, ARM, JUMP, VECTOR and END. DESCRIPTOR_FETCH puts the next descriptor of the program,
relocated, into the table; where its bytes meet a half in error, the error is counted and raised and the job
ends with ST_UNCORRECTABLE. ARM sets VALUE and LIMIT of its counter as one and goes on. JUMP goes on at TARGET.
VECTOR hands its block behind the blocks held, marks an idle engine executing and goes on behind the block. END
leaves the generator at state 7; when it is not the last END of its job nothing else changes, and when it is,
the job is ENDING with ST_OK. -/
def Obligations.ProgramSteps : Prop :=
  (∀ (s : State) (p : Fin 256) (j off : Nat) (q : Partition),
    runningJob s p = some j → agenLive s p = true → firstMissing (spindleOf s p) 64 (spindleOf s p).agen.next = some off →
    off ≤ (spindleOf s p).agen.last → partOf s (jobOf s j).part.toNat = some q →
    (spindleOf s p).agen.program + 64 * off + 64 ≤ regionBytes q →
    badRead q ((spindleOf s p).agen.program + 64 * off) 64 = false →
    exec (.descriptorFetch p) s = .next (
      let x := spindleOf s p
      let d := relocate (relocEntries q.region (jobOf s j).desc (jobOf s j).header) (jobOf s j).args (entryIndex s j p) off
        (storeRead q.region (x.agen.program + 64 * off) 64)
      setSpindle s p { x with agen := { x.agen with slots := tset x.agen.slots (off % 64) (off, d) } })) ∧
  (∀ (s : State) (p : Fin 256) (j off : Nat) (q : Partition),
    runningJob s p = some j → agenLive s p = true → firstMissing (spindleOf s p) 64 (spindleOf s p).agen.next = some off →
    off ≤ (spindleOf s p).agen.last → partOf s (jobOf s j).part.toNat = some q →
    (spindleOf s p).agen.program + 64 * off + 64 ≤ regionBytes q →
    badRead q ((spindleOf s p).agen.program + 64 * off) 64 = true →
    exec (.descriptorFetch p) s = .next (agenError
      (dramUncorrectable s (jobOf s j).part.toNat [((spindleOf s p).agen.program + 64 * off, 64)] (jobId s j) p)
      p stUncorrectable off)) ∧
  (∀ (s : State) (p : Fin 256) (j : Nat), Can.arm s p j = true → ∃ t, exec (.arm p) s = .next t ∧
    let d := descAt s p
    let x := spindleOf s p
    workOf t (field (byteAt d 2) 0 5) (field (byteAt d 1) 0 4) = ⟨BitVec.ofNat 32 (le d 4 4), BitVec.ofNat 32 (le d 8 4)⟩ ∧
    (∀ i n, i ≠ field (byteAt d 2) 0 5 ∨ n ≠ field (byteAt d 1) 0 4 → workOf t i n = workOf s i n) ∧
    (spindleOf t p).agen.next = x.agen.next + 1 ∧ (spindleOf t p).agen.state = 1 ∧
    spindleOf t p = { x with agen := (spindleOf t p).agen } ∧ Only [.spindles, .spires] s t) ∧
  (∀ (s : State) (p : Fin 256) (j : Nat), Can.desc s p j 4 = true →
    exec (.jump p) s = .next (
      let x := spindleOf s p
      setSpindle s p { x with agen := { x.agen with
        next := le (descAt s p) 2 2, workReady := false, pc := BitVec.ofNat 16 x.agen.next
        slot := BitVec.ofNat 6 x.agen.next, kind := 4, state := 1 } })) ∧
  (∀ (s : State) (p : Fin 256) (j : Nat), Can.vector s p j = true → ∃ t, exec (.vector p) s = .next t ∧
    let x := spindleOf s p
    let y := spindleOf t p
    let b := y.vec.blocks.getLastD {}
    let n := blockDescs x
    let d := descAt s p
    y.vec.blocks = x.vec.blocks ++ [b] ∧ b.pc = x.agen.next ∧ b.vl = byteAt d 2 ∧ b.vlLast = byteAt d 3 ∧
    b.vlLevel = byteAt d 4 ∧ b.count0 = le d 6 2 + 1 ∧ b.count1 = le d 8 2 + 1 ∧ b.count2 = le d 10 2 + 1 ∧
    b.insns.length ≤ byteAt d 5 ∧ y.vec.state = (if x.vec.blocks.isEmpty then 1 else x.vec.state) ∧
    y.agen.next = x.agen.next + n ∧ y.agen.kind = 7 ∧
    y = { x with vec := { x.vec with blocks := y.vec.blocks, state := y.vec.state }, agen := y.agen, scale := y.scale } ∧
    t = setSpindle s p y) ∧
  (∀ (s : State) (p : Fin 256) (j : Nat), Can.endProgram s p j = true → ∃ t, exec (.endProgram p) s = .next t ∧
    let x := spindleOf s p
    let u := setSpindle s p (executing x x.agen.next 0 7)
    (spindleOf t p).agen.state = 7 ∧ (jobEnded u j = false → t = u) ∧
    (jobEnded u j = true → (jobOf t j).state = 7 ∧ (jobOf t j).outcome = stOk))

/-- WORK_FETCH and HEAD. WORK_FETCH of a HEAD with WORK takes VALUE of its counter and counts it up, or takes
0xFFFFFFFF from an exhausted counter; a value within the real count of level 5 lets the HEAD go on, any other
sends execution to EXIT. HEAD opens its operation from the four descriptors, with the work item, no wavefront
issued and no weight set; it clears the per-operation counters and the skew record, shows its formats and mode,
and shows the array starting, filling, or disabled where no width is presented. Nothing else of the machine
changes. -/
def Obligations.HeadOpens : Prop :=
  (∀ (s : State) (p : Fin 256) (j : Nat), Can.workFetch s p j = true → ∃ t, exec (.workFetch p) s = .next t ∧
    let h := decodeHead (descAt s p)
    let x := spindleOf s p
    let y := spindleOf t p
    let w := workOf s h.wcSpire h.wc
    let v := if w.value < w.limit then w.value else 0xFFFFFFFF#32
    y.agen.workItem = v ∧
    workOf t h.wcSpire h.wc = (if w.value < w.limit then { w with value := w.value + 1 } else w) ∧
    (v.toNat < h.counts.getD 5 1 → y.agen.workReady = true ∧ y.agen.next = x.agen.next) ∧
    (h.counts.getD 5 1 ≤ v.toNat → y.agen.workReady = false ∧ y.agen.next = h.exit) ∧
    y = { x with agen := y.agen } ∧ t = setSpindle (setWork s h.wcSpire h.wc (workOf t h.wcSpire h.wc)) p y) ∧
  (∀ (s : State) (p : Fin 256) (j : Nat), Can.head s p j = true → ∃ t, exec (.head p) s = .next t ∧
    let x := spindleOf s p
    let y := spindleOf t p
    let h := decodeHead (descAt s p)
    let at' := fun k => (tableDesc x (x.agen.next + k)).getD []
    y.arr.op = some {
      head := h, sa := decodeStream (at' 1), sb := decodeStream (at' 2), sc := decodeStream (at' 3)
      pc := x.agen.next, item := x.agen.workItem.toNat } ∧
    y.scale.judging.map (fun q => (q.head, q.pc, q.arrayDone, q.handed, q.done)) = some (h, x.agen.next, false, 0, 0) ∧
    y.arr.satCount = 0 ∧ y.arr.uflCount = 0 ∧ y.arr.wavefronts = 0 ∧ y.arr.stallDrain = 0 ∧ y.arr.stallFeed = 0 ∧
    y.arr.gated = 0 ∧ y.arr.skew.valid = false ∧ y.arr.fmtA = BitVec.ofNat 4 h.fmtA ∧
    y.arr.fmtB = BitVec.ofNat 4 h.fmtB ∧ y.arr.mode = h.outStat ∧
    y.arr.state = (if widthOf x.arr = 0 then 8 else if x.arr.idle then 1 else 2) ∧
    y.agen.next = x.agen.next + 4 ∧ y.agen.pc = BitVec.ofNat 16 x.agen.next ∧ y.agen.kind = 1 ∧
    y.acc = x.acc ∧ y.busy = x.busy ∧ y.cache = x.cache ∧ y.vec = x.vec ∧ y.dma = x.dma ∧ t = setSpindle s p y)

/-- ACQUIRE and RELEASE at a semaphore of the partition. An ACQUIRE that finds an empty queue and at least N units,
outside barrier use, takes them, is counted for its job and passes. One that finds too few, or a head that
waits, joins the queue behind and waits. A RELEASE of N units with no one waiting adds N, is taken off the job's
count and passes. -/
def Obligations.SyncRequests : Prop :=
  (∀ (s : State) (p : Fin 256) (j : Nat), Can.sync s p j 0 = true →
    (semOf s (syncSpire s p) (syncNumber s p)).barrier = false → ∃ t, exec (.acquire p) s = .next t ∧
    let i := syncSpire s p
    let n := syncNumber s p
    let c := syncCount s p
    let v := semOf s i n
    let x := spindleOf s p
    let y := spindleOf t p
    (v.queue = [] → c ≤ v.value.toNat →
      semOf t i n = { v with value := v.value - BitVec.ofNat 16 c } ∧
      tget (jobOf t j).held (semKey i n) 0 = tget (jobOf s j).held (semKey i n) 0 + c ∧
      y.agen.next = x.agen.next + 1 ∧ y.agen.syncWaiting = false ∧ y.agen.state = 1 ∧
      y = { x with agen := y.agen }) ∧
    (((v.queue = [] ∧ v.value.toNat < c) ∨ ∃ e r, v.queue = e :: r ∧ v.value.toNat < e.2) →
      semOf t i n = { v with queue := v.queue ++ [(.spindle p, c)] } ∧
      y.agen.next = x.agen.next ∧ y.agen.syncWaiting = true ∧ y.agen.state = 4 ∧
      y = { x with agen := y.agen } ∧ Only [.spindles, .spires] s t)) ∧
  (∀ (s : State) (p : Fin 256) (j : Nat), Can.sync s p j 1 = true →
    (semOf s (syncSpire s p) (syncNumber s p)).barrier = false → (semOf s (syncSpire s p) (syncNumber s p)).queue = [] →
    (semOf s (syncSpire s p) (syncNumber s p)).value.toNat + syncCount s p ≤ 65535 → ∃ t, exec (.release p) s = .next t ∧
    let i := syncSpire s p
    let n := syncNumber s p
    let c := syncCount s p
    semOf t i n = { semOf s i n with value := (semOf s i n).value + BitVec.ofNat 16 c } ∧
    tget (jobOf t j).held (semKey i n) 0 = tget (jobOf s j).held (semKey i n) 0 - c ∧
    (spindleOf t p).agen.next = (spindleOf s p).agen.next + 1 ∧ (spindleOf t p).agen.state = 1 ∧
    Only [.spindles, .spires, .jobs] s t)

/-- BARRIER, WAIT_LOCAL and DRAIN. The first arrival of a BARRIER with N of 2 or more at a semaphore of VALUE 0 puts
it into barrier use with VALUE 1 and waits; the last arrival ends the generation: GEN counts up, VALUE takes the
pending returns, no arrival waits and the spindle passes. WAIT_LOCAL passes with N taken off a local count that
holds as many, else it waits. DRAIN passes where no copy of the spindle is held, else it waits. -/
def Obligations.BarriersAndWaits : Prop :=
  (∀ (s : State) (p : Fin 256) (j : Nat), Can.sync s p j 2 = true → ∃ t, exec (.barrier p) s = .next t ∧
    let i := syncSpire s p
    let n := syncNumber s p
    let c := syncCount s p
    let v := semOf s i n
    let x := spindleOf s p
    let y := spindleOf t p
    (v.barrier = false → v.value = 0 → 2 ≤ c →
      semOf t i n = { v with barrier := true, need := c, value := 1, arrivals := v.arrivals ++ [.spindle p] } ∧
      y = { x with agen := y.agen } ∧ y.agen.syncWaiting = true ∧ y.agen.state = 4 ∧ y.agen.next = x.agen.next ∧
      Only [.spindles, .spires] s t) ∧
    (v.barrier = true → v.need = c → (v.value + 1).toNat = c → v.queue = [] →
      (∀ w ∈ v.arrivals, ∃ q, w = .spindle q ∧ q ≠ p) →
      (semOf t i n).gen = v.gen + 1 ∧ (semOf t i n).value = BitVec.ofNat 16 v.pendingReturn ∧
      (semOf t i n).barrier = false ∧ (semOf t i n).arrivals = [] ∧
      y.agen.next = x.agen.next + 1 ∧ y.agen.syncWaiting = false ∧ y.agen.state = 1)) ∧
  (∀ (s : State) (p : Fin 256) (j : Nat), Can.desc s p j 5 = true → settled s p = true → byteAt (descAt s p) 1 = 3 →
    ∃ t, exec (.waitLocal p) s = .next t ∧
    let x := spindleOf s p
    let y := spindleOf t p
    let c := syncCount s p
    (c ≤ x.dma.localCount.toNat → y.dma = { x.dma with localCount := x.dma.localCount - BitVec.ofNat 16 c } ∧
      y.agen.next = x.agen.next + 1 ∧ y.agen.syncWaiting = false) ∧
    (x.dma.localCount.toNat < c → y.dma = x.dma ∧ y.agen.next = x.agen.next ∧ y.agen.syncWaiting = true
      ∧ y.agen.state = 4) ∧
    y = { x with agen := y.agen, dma := y.dma } ∧ t = setSpindle s p y) ∧
  (∀ (s : State) (p : Fin 256) (j : Nat), Can.desc s p j 5 = true → settled s p = true → byteAt (descAt s p) 1 = 4 →
    ∃ t, exec (.drain p) s = .next t ∧
    let x := spindleOf s p
    let y := spindleOf t p
    (x.dma.copies = [] → y.agen.next = x.agen.next + 1 ∧ y.agen.syncWaiting = false) ∧
    (x.dma.copies ≠ [] → y.agen.next = x.agen.next ∧ y.agen.syncWaiting = true ∧ y.agen.state = 4) ∧
    y = { x with agen := y.agen } ∧ t = setSpindle s p y)

/-- COPY. With earlier blocks complete, fewer than 8 copies held and the checks passed, COPY puts the descriptor
behind the copies held with its work item (0 while SPN_WORK_ITEM is all ones), shows the DMA engine moving and
goes on. With 8 held the generator waits at the descriptor. Nothing else changes; not one byte has moved. -/
def Obligations.CopyBegins : Prop :=
  (∀ (s : State) (p : Fin 256) (j : Nat), Can.copy s p j = true → ∃ t, exec (.copy p) s = .next t ∧
    let x := spindleOf s p
    let y := spindleOf t p
    y.dma = { x.dma with copies := x.dma.copies ++ [⟨x.agen.next, descAt s p, copyItem x⟩], state := 1 } ∧
    y.agen.next = x.agen.next + 1 ∧ y.agen.kind = 6 ∧ y.agen.state = 1 ∧
    y = { x with dma := y.dma, agen := y.agen } ∧ t = setSpindle s p y) ∧
  (∀ (s : State) (p : Fin 256) (j : Nat), Can.desc s p j 6 = true → blocksDone (spindleOf s p) = true →
    8 ≤ (spindleOf s p).dma.copies.length → ∃ t, exec (.copy p) s = .next t ∧
    let x := spindleOf s p
    let y := spindleOf t p
    y.agen.next = x.agen.next ∧ y.agen.state = 5 ∧ y = { x with agen := y.agen } ∧ t = setSpindle s p y)

/-- COPY_COMPLETE. A copy that may complete leaves in its destination, row by row, exactly the bytes that its codec
and its swap make of the source rows, or the fill pattern; every other byte of the destination space is as
before. The copy leaves the engine and is counted, and the non-finite groups of a codec are counted. A local
pulse adds one to the local count of a spindle that waits for nothing; a pulse to a semaphore adds one unit to
it. -/
def Obligations.CopyMoves : Prop :=
  ∀ (s : State) (p : Fin 256) (j : Nat) (e : CopyReq), Can.copyComplete s p j e = true →
    ∃ t, exec (.copyComplete p) s = .next t ∧
      let x := spindleOf s p
      let y := spindleOf t p
      let c := decodeCopy e.desc
      let part := (jobOf s j).part.toNat
      let before := spaceStore s p part c.dstSpace c.dstSpire
      let after := spaceStore t p part c.dstSpace c.dstSpire
      let v := semOf s c.tgtSpire c.tgtSem
      (∀ r k, r < c.rows → k < dstRow c →
        storeGet after (copyPlace e r k) = (copiedRow s p part e r).1.getD k 0) ∧
      (∀ a, (∀ r k, r < c.rows → k < dstRow c → a ≠ copyPlace e r k) → storeGet after a = storeGet before a) ∧
      y.dma.copies = x.dma.copies.tail ∧ y.dma.count = satInc x.dma.count ∧
      y.dma.nonfinite = satAdd x.dma.nonfinite ((List.range c.rows).map (fun r => (copiedRow s p part e r).2)).sum ∧
      (x.agen.syncWaiting = false →
        y.dma.localCount = (if c.target = 1 then satInc x.dma.localCount else x.dma.localCount) ∧ y.agen = x.agen) ∧
      (c.target = 2 → semOf t c.tgtSpire c.tgtSem = { v with value := v.value + 1 }) ∧
      y.acc = x.acc ∧ y.vec = x.vec ∧ y.arr = x.arr ∧ y.scale = x.scale ∧
      Only [.spindles, .spires, .parts, .jobs] s t

/-- CONV, STEM_HEAD and STEM_END. A CONV or a STEM_HEAD whose wait is over writes, in the spire cache, one element
for every output row, column and channel: the rounded and clamped sum of its entry, read before any write; its
conversions are counted by spindle 0 of the spire; bytes outside its output rows are as before. The list goes on
to its next entry. STEM_END stops the engine at state 5. -/
def Obligations.StemEntries : Prop :=
  (∀ (head : Bool) (s : State) (i : Fin 32) (j : Nat), Can.stemRuns s i j (if head then 2 else 1) = true →
    ∃ t, exec (if head then .stemHead i else .conv i) s = .next t ∧
      let x := spireOf s i
      let y := spireOf t i
      let e := stemAt s i j
      let n := stemOutBytes e
      let counts := fun f : Bytes × Nat × Nat → Nat =>
        ((List.range e.oh).map (fun oy => ((stemRow x.cache e oy).map f).sum)).sum
      (e.oh = 1 ∨ stemOutRow e ≤ e.outPitch → ∀ oy ox co k, oy < e.oh → ox < e.ow → co < e.cout → k < n →
        storeGet y.cache (e.out + oy * e.outPitch + (ox * e.cout + co) * n + k) =
          (stemOutput x.cache e oy ox co).1.getD k 0) ∧
      (∀ a, (∀ oy, oy < e.oh → a < e.out + oy * e.outPitch ∨ e.out + oy * e.outPitch + stemOutRow e ≤ a) →
        storeGet y.cache a = storeGet x.cache a) ∧
      y.stem = { x.stem with entry := x.stem.entry + 1, granted := false } ∧
      y = { x with cache := y.cache, bad := y.bad, stem := y.stem } ∧
      spindleOf t (8 * i) = countInto (spindleOf s (8 * i)) (counts (·.2.1)) (counts (·.2.2)) ∧
      (∀ q, q ≠ 8 * i.val → spindleOf t q = spindleOf s q) ∧ Only [.spires, .spindles] s t) ∧
  (∀ (s : State) (i : Fin 32) (j : Nat), Can.stem s i j 0 = true → ∃ t, exec (.stemEnd i) s = .next t ∧
    let u := setStem s i { (spireOf s i).stem with state := 5 }
    (spireOf t i).stem.state = 5 ∧ (jobEnded u j = false → t = u) ∧
    (jobEnded u j = true → (jobOf t j).state = 7 ∧ (jobOf t j).outcome = stOk))

/-- MEMORY_REQUEST and MEMORY_READ_COMPLETE. A request in range joins the bank queue of the channel and bank its
block lies in, and while no write drains nothing else changes. A write that is alone at a running channel takes
effect: its bytes are in the region and every other byte is as before. MEMORY_READ_COMPLETE with a clean outcome
and no write pending takes the request the channel picks from its queue and returns the bytes of the region. -/
def Obligations.MemoryRequests : Prop :=
  (∀ (s : State) (a : MemAgent) (part : Fin 8) (offset : Nat) (op : MemOp) (x : Partition),
    let n := match op with | .read k => k | .write d => d.length
    let c := requestChannel x offset
    let r := queuedRequest x a part offset op
    Can.memoryRequest s a part offset n x = true → Can.queueRests (channelOf s c) r = true →
    exec (.memoryRequest a part offset op) s =
      .next (setChannel s c { channelOf s c with queue := (channelOf s c).queue ++ [r] })) ∧
  (∀ (s : State) (a : MemAgent) (part : Fin 8) (offset : Nat) (b : Bytes) (x : Partition),
    let c := requestChannel x offset
    Can.memoryRequest s a part offset b.length x = true → (channelOf s c).state = 2 → (channelOf s c).queue = [] →
    badWrite x offset b.length = false →
    ∃ t y, exec (.memoryRequest a part offset (.write b)) s = .next t ∧ partOf t part.val = some y ∧
      (∀ k, storeGet y.region k = if offset ≤ k ∧ k < offset + b.length then b.getD (k - offset) 0
        else storeGet x.region k) ∧
      (channelOf t c).queue = [] ∧ Only [.channels, .parts] s t) ∧
  (∀ (s : State) (c : Fin 24) (e : MemReq × Nat) (x : Partition),
    (channelOf s c.val).state = 2 → pickOf (channelOf s c.val) false = some e → writesPending (channelOf s c.val) = 0 →
    partOf s e.1.part.val = some x → badRead x e.1.offset (reqBytes e.1) = false →
    exec (.memoryReadComplete c .clean) s = .next (
      emit (setChannel s c.val (afterPick (channelOf s c.val) e))
        (.memoryReply e.1.agent (some (storeRead x.region e.1.offset (reqBytes e.1))))))

/-- REFRESH_DUE, MR4_READ, WCK_OSCILLATOR_RUN, RETRAIN_PAUSE and RETRAIN_PAUSE_END. REFRESH_DUE at a running channel
refreshes the bank chosen where it is idle and makes up one postponed refresh; with no bank idle it postpones
the refresh, at most 8 times. MR4_READ sets the rate by temperature: 2 above 95 degrees, 1 above 85, else 0.
WCK_OSCILLATOR_RUN marks each lane that has drifted 4 codes. RETRAIN_PAUSE of a running channel with a lane
marked pauses it, gives the marked lanes their new write delay and counts once. RETRAIN_PAUSE_END lets a channel
without pending writes run again. -/
def Obligations.RefreshAndRetraining : Prop :=
  (∀ (s : State) (c : Fin 24) (b : Fin 16), (channelOf s c.val).state = 2 → ∃ t, exec (.refreshDue c b) s = .next t ∧
    let ch := channelOf s c.val
    (bankDepth ch b.val = 0 → t = emit (setChannel s c.val
      { ch with postponed := BitVec.ofNat 4 (ch.postponed.toNat - 1) }) (.refresh c.val b.val)) ∧
    ((∀ k, k < 16 → bankDepth ch k ≠ 0) → ch.postponed.toNat < 8 →
      t = setChannel s c.val { ch with postponed := ch.postponed + 1 })) ∧
  (∀ (s : State) (c : Fin 24) (d : Int), exec (.mr4Read c d) s = .next (setChannel s c.val { channelOf s c.val with
    refRate := if 95 < d then 2 else if 85 < d then 1 else 0 })) ∧
  (∀ (s : State) (c : Fin 24) (d0 d1 : Nat), ∃ t, exec (.wckOscillatorRun c d0 d1) s = .next t ∧
    let ch := channelOf s c.val
    (channelOf t c.val).due0 = (ch.due0 || decide (4 ≤ d0)) ∧ (channelOf t c.val).due1 = (ch.due1 || decide (4 ≤ d1)) ∧
    channelOf t c.val = { ch with due0 := (channelOf t c.val).due0, due1 := (channelOf t c.val).due1 } ∧
    t = setChannel s c.val (channelOf t c.val)) ∧
  (∀ (s : State) (c : Fin 24) (d0 d1 : BitVec 8), (channelOf s c.val).state = 2 →
    ((channelOf s c.val).due0 || (channelOf s c.val).due1) = true → ∃ t, exec (.retrainPause c d0 d1) s = .next t ∧
    let ch := channelOf s c.val
    let ch' := channelOf t c.val
    ch'.state = 3 ∧ ch'.due0 = false ∧ ch'.due1 = false ∧ ch'.retrain = satInc ch.retrain ∧
    field ch'.train.toNat 8 8 = (if ch.due0 then d0.toNat else field ch.train.toNat 8 8) ∧
    field ch'.train.toNat 24 8 = (if ch.due1 then d1.toNat else field ch.train.toNat 24 8) ∧
    field ch'.train.toNat 0 8 = field ch.train.toNat 0 8 ∧ field ch'.train.toNat 16 8 = field ch.train.toNat 16 8 ∧
    ch'.queue = ch.queue ∧ (∀ k, k ≠ c.val → channelOf t k = channelOf s k) ∧ Only [.channels, .boot] s t) ∧
  (∀ (s : State) (c : Fin 24), (channelOf s c.val).state = 3 → writesPending (channelOf s c.val) = 0 →
    exec (.retrainPauseEnd c) s = .next (setChannel s c.val { channelOf s c.val with state := 2 }))

/-- POOL_ACQUIRE, POOL_GROUP, POOL_SHARE, POOL_RELEASE and FREE_RING_REFILL. POOL_ACQUIRE from a pool with free
bobbins in its cache answers ST_OK with the present handle of one of them, whose one owner is then the owner
named and which is no longer free. POOL_GROUP of one pair does the same; of up to eight pairs it answers ST_OK
with a handle for every pair, or ST_NO_BUFFER with the partition as before but for the counter of the pool that
could not grant. POOL_SHARE by an owner with a second owner that is not one, of at most three, adds it.
POOL_RELEASE by one of several owners removes it and the handle stays valid; by the last owner the generation
counts up, so that the handle is no longer valid. FREE_RING_REFILL with fewer than 8 handles cached, no one
waiting and none of the handles read in error moves up to 16 handles from the ring to the cache. -/
def Obligations.PoolRequests : Prop :=
  (∀ (s : State) (part pool : Fin 8) (o : BitVec 16) (x : Partition) (v : Pool), Can.acquire s part pool x v = true →
    ∃ t y w i, exec (.poolAcquire part pool o) s = .next t ∧ partOf t part.val = some y ∧ poolOf y pool.val = some w ∧
      t.out = .poolReply part.val stOk [presentHandle pool.val v i] :: s.out ∧
      ownersOf w i = [o] ∧ (∃ k, v.cached[k]? = some i ∧ w.cached = v.cached.eraseIdx k) ∧ w.gens = v.gens ∧ w.ring = v.ring ∧
      w.low.toNat ≤ v.low.toNat ∧ (∀ q, q ≠ pool.val → poolOf y q = poolOf x q) ∧ Only [.parts, .draws, .out] s t) ∧
  (∀ (s : State) (part : Fin 8) (l : List (Fin 8 × BitVec 16)) (x : Partition), partOf s part.val = some x →
    l.length ≤ 8 → (∀ e ∈ l, (poolOf x e.1.val).isSome = true) → ∃ t, exec (.poolGroup part l) s = .next t ∧
      let pairs := l.map (fun e => (e.1.val, e.2))
      (∀ p, acquireList s.draws x pairs = .error p →
        t = emit (setPart s part.val (countNoBuffer x p)) (.poolReply part.val stNoBuffer [])) ∧
      (∀ y hs, acquireList s.draws x pairs = .ok (y, hs) → hs.length = l.length ∧ partOf t part.val = some y ∧
        t.out = .poolReply part.val stOk hs :: s.out)) ∧
  (∀ (s : State) (part pool : Fin 8) (o : BitVec 16) (x : Partition) (v : Pool), Can.acquire s part pool x v = true →
    exec (.poolGroup part [(pool, o)]) s = exec (.poolAcquire part pool o) s) ∧
  (∀ (s : State) (part : Fin 8) (h : Word) (o o' : BitVec 16) (x : Partition) (v : Pool) (i : Nat),
    Can.held s part h o x v i = true → (ownersOf v i).contains o' = false → (ownersOf v i).length < 4 →
    ∃ t y w, exec (.poolShare part h o o') s = .next t ∧ t.out = .poolReply part.val stOk [] :: s.out ∧
      partOf t part.val = some y ∧ poolOf y (handlePool h) = some w ∧ ownersOf w i = ownersOf v i ++ [o'] ∧
      holds y h o' = true ∧ holds y h o = true ∧ Only [.parts, .out] s t) ∧
  (∀ (s : State) (part : Fin 8) (h : Word) (o : BitVec 16) (x : Partition) (v : Pool) (i : Nat),
    Can.held s part h o x v i = true → (ownersOf v i).Nodup →
    ∃ t y w, exec (.poolRelease part h o) s = .next t ∧ t.out = .poolReply part.val stOk [] :: s.out ∧
      partOf t part.val = some y ∧ poolOf y (handlePool h) = some w ∧ holds y h o = false ∧
      (1 < (ownersOf v i).length → ownersOf w i = (ownersOf v i).erase o ∧ (validHandle y h).isSome = true) ∧
      ((ownersOf v i).length = 1 → validHandle y h = none ∧ tget w.gens i 0 = tget v.gens i 0 + 1 ∧
        ownersOf w i = [] ∧ freeCount w = freeCount v + 1) ∧ Only [.parts, .out] s t) ∧
  (∀ (s : State) (part pool : Fin 8) (x : Partition) (v : Pool), partOf s part.val = some x →
    poolOf x pool.val = some v → v.cached.length < 8 → v.ring ≠ [] → v.waiting = [] → refillBad x v = false →
    ∃ t y w, exec (.freeRingRefill part pool) s = .next t ∧ partOf t part.val = some y ∧
      poolOf y pool.val = some w ∧ w.cached = v.cached ++ v.ring.take 16 ∧ w.ring = v.ring.drop 16 ∧
      freeCount w = freeCount v ∧ w.owners = v.owners ∧ w.gens = v.gens ∧ Only [.parts] s t)

/-- CMD_POOL_CREATE and CMD_POOL_DESTROY. CMD_POOL_CREATE with fields in range and areas that meet nothing completes
with ST_OK and leaves the pool of its body: every bobbin free, in the ring in ascending order, generation 0 and
no owner, the free-ring entries and the owner records written in its control area. CMD_POOL_DESTROY of a pool
without owners to which none falls back completes with ST_OK and leaves no such pool. Nothing else but the
completion changes. -/
def Obligations.PoolCommands : Prop :=
  (∀ (s : State) (slot : Fin 10) (x : Partition), Can.poolCreate s slot x = true →
    let d := cmdDesc s slot
    let p := byteAt d 8
    ∃ y w, exec (.cmdPoolCreate slot) s = .next (complete (setPart s (descPart d) y) slot stOk []) ∧
      poolOf y p = some w ∧ w.sizeClass.toNat = byteAt d 9 ∧ w.count.toNat = le d 12 4 ∧ w.floor.toNat = le d 16 4 ∧
      w.base = le d 20 8 ∧ w.ctrl = le d 28 8 ∧ w.ring = List.range w.count.toNat ∧ w.cached = [] ∧ w.owners = [] ∧
      w.gens = [] ∧ w.low = w.count ∧
      w.fallback = (if bitOf (byteAt d 10) 7 then some (Fin.ofNat 8 (byteAt d 10 % 8)) else none) ∧
      (∀ i, i < w.count.toNat → leNat (storeRead y.region (w.ctrl + 4 * i) 4) = (handleOf p 0 i).toNat) ∧
      (∀ k, k < w.ctrl ∨ w.ctrl + 12 * w.count.toNat ≤ k → storeGet y.region k = storeGet x.region k) ∧
      y = { x with region := y.region, pools := tset x.pools p w }) ∧
  (∀ (s : State) (slot : Fin 10) (x : Partition) (v : Pool), Can.poolDestroy s slot x v = true →
    exec (.cmdPoolDestroy slot) s = .next (complete
      (setPart s (descPart (cmdDesc s slot)) { x with pools := tdel x.pools (byteAt (cmdDesc s slot) 8) }) slot stOk []))

/-- CMD_ORING_CREATE, CMD_ORING_DESTROY, LAN_ORING_DOORBELL and RECORD_WRITE. CMD_ORING_CREATE completes with ST_OK
and leaves the ring of its body empty. CMD_ORING_DESTROY of a ring that nothing names completes with ST_OK and
leaves no such ring. A doorbell through the module or the owner of a value from the last to the produced count
becomes the consumed count; any other value is counted and changes nothing else. RECORD_WRITE takes the oldest
waiting record off a ring in which it fits, and the produced count advances by its units and those of a PAD
before it; where vector 2 of its function is enabled and not masked, its message is sent or held. -/
def Obligations.OutputRings : Prop :=
  (∀ (s : State) (slot : Fin 10), Can.oringCreate s slot = true →
    let d := cmdDesc s slot
    exec (.cmdOringCreate slot) s = .next (complete (setOring s (byteAt d 8)
      { valid := true, part := Fin.ofNat 8 (descPart d), fn := slotFn s slot, block := bitOf (byteAt d 9) 0
        base := le d 16 8, units := le d 24 4, status := le d 28 8 }) slot stOk [])) ∧
  (∀ (s : State) (slot : Fin 10), Can.oringDestroy s slot = true →
    exec (.cmdOringDestroy slot) s = .next (complete (setOring s (byteAt (cmdDesc s slot) 8) {}) slot stOk [])) ∧
  (∀ (s : State) (fn : Fn) (r : Fin 64) (v : Word), (oringOf s r.val).valid = true →
    (fn.val = 0 ∨ fn.val = (oringOf s r.val).part.val + 1) → ∃ t, exec (.lanOringDoorbell fn r v) s = .next t ∧
    let x := oringOf s r.val
    (countDiff v x.consumed ≤ countDiff x.produced x.consumed → t = setOring s r.val { x with consumed := v }) ∧
    (countDiff x.produced x.consumed < countDiff v x.consumed →
      t = setOring s r.val { x with badDoorbell := satInc x.badDoorbell })) ∧
  (∀ (s : State) (r : Fin 64) (rec : Record) (rest : List Record), Can.recordWrite s r.val rec rest = true →
    ∃ t, exec (.recordWrite r) s = .next t ∧
    let x := oringOf s r.val
    let y := oringOf t r.val
    y.waiting = rest ∧ y.produced = x.produced + BitVec.ofNat 32 (unitsAt x.units (ringPos x) (recordUnits rec)) ∧
    y = { x with waiting := y.waiting, produced := y.produced } ∧ Only [.orings, .hif, .out, .draws] s t ∧
    ((cfgOf s x.fn).msixEnable = true → (cfgOf s x.fn).msixMask = false → (vecOf s x.fn 2).masked = false →
      (vecOf t x.fn 2).window = true))

/-- CMD_PART_CREATE, CMD_PART_DELETE, CMD_PART_GROW and CMD_PART_SHRINK. CMD_PART_CREATE that passes its checks
completes with ST_OK: the partition has its quota, its protection and its granules, owns its spires, whose
caches are zero, reads as zero where protected, and has a fresh mailbox. CMD_PART_DELETE of a partition that
nothing keeps completes with ST_OK and leaves no such partition, no spire, ring or key of it and no mailbox.
CMD_PART_GROW adds the spires and granules named, zeroed as at creation, and keeps every byte held before.
CMD_PART_SHRINK takes away the spires and granules named and keeps every byte below. -/
def Obligations.PartitionCommands : Prop :=
  (∀ (s : State) (slot : Fin 10), Can.partCreate s slot = true → ∃ u y,
    let d := cmdDesc s slot
    let n := descPart d
    exec (.cmdPartCreate slot) s = .next (complete u slot stOk []) ∧ partOf u n = some y ∧
      y.quota.toNat = le d 10 2 ∧ y.ecc = bitOf (byteAt d 8) 0 ∧ y.granules = bodyGranules d 16 ∧ y.pools = [] ∧
      y.images = [] ∧ y.descs = [] ∧ (y.ecc = true → ∀ a, storeGet y.region a = 0) ∧
      (∀ i ∈ bodySpires d 12, partOwnsSpire u n i = true ∧ (spireOf u i).cache = {} ∧ (spireOf u i).sems = []) ∧
      (∀ i, i ∉ bodySpires d 12 → spireOf u i = spireOf s i) ∧
      mailboxOf u n = { present := true } ∧ (∀ m, m ≠ n → partOf u m = partOf s m ∧ mailboxOf u m = mailboxOf s m)) ∧
  (∀ (s : State) (slot : Fin 10) (x : Partition), Can.partDelete s slot x = true → ∃ t,
    let n := descPart (cmdDesc s slot)
    exec (.cmdPartDelete slot) s = .next t ∧ runningOf t slot = none ∧ partOf t n = none ∧ (∀ i, partOwnsSpire t n i = false) ∧
      tfind t.sec.keys n = none ∧ (∀ e ∈ t.orings, ¬ (e.2.valid = true ∧ e.2.part.val = n)) ∧
      (∀ m, m ≠ n → partOf t m = partOf s m)) ∧
  (∀ (s : State) (slot : Fin 10) (x : Partition), Can.partGrow s slot x = true → ∃ u y,
    let d := cmdDesc s slot
    let n := descPart d
    exec (.cmdPartGrow slot) s = .next (complete u slot stOk []) ∧ partOf u n = some y ∧
      y.granules = x.granules ++ bodyGranules d 16 ∧
      (∀ a, a < regionBytes x → storeGet y.region a = storeGet x.region a) ∧
      (x.ecc = true → ∀ a, regionBytes x ≤ a → a < regionBytes y → storeGet y.region a = 0) ∧
      y = { x with granules := y.granules, region := y.region } ∧
      (∀ i ∈ bodySpires d 12, partOwnsSpire u n i = true ∧ (spireOf u i).cache = {} ∧ (spireOf u i).sems = []) ∧
      (∀ i, i ∉ bodySpires d 12 → spireOf u i = spireOf s i)) ∧
  (∀ (s : State) (slot : Fin 10) (x : Partition), Can.partShrink s slot x = true → ∃ u y,
    let d := cmdDesc s slot
    let n := descPart d
    exec (.cmdPartShrink slot) s = .next (complete u slot stOk []) ∧ partOf u n = some y ∧
      y.granules = x.granules.take (x.granules.length - (bodyGranules d 16).length) ∧
      (∀ a, a < regionBytes y → storeGet y.region a = storeGet x.region a) ∧
      (∀ i ∈ bodySpires d 12, (spireOf u i).owner = none ∧ (spireOf u i).cache = (spireOf s i).cache) ∧
      (∀ i, i ∉ bodySpires d 12 → spireOf u i = spireOf s i))

/-- CMD_JOB_DEFINE, CMD_JOB_UNDEFINE, CMD_JOB_START, CMD_CLIENT_LIMIT and CMD_CLIENT_STATS. CMD_JOB_DEFINE that
passes its checks completes with ST_OK and SAVE_BYTES and registers the description. CMD_JOB_UNDEFINE of one
that nothing names completes with ST_OK and registers it no more. CMD_JOB_START that passes its checks completes
with ST_OK and the JOB_ID of an entry that is WAITING with the description, the arguments and the client of the
command; its client counts one job started and one active. CMD_CLIENT_LIMIT sets the limit of a client.
CMD_CLIENT_STATS writes the 256 client records at ADDRESS. -/
def Obligations.JobTable : Prop :=
  (∀ (s : State) (slot : Fin 10) (x : Partition), Can.jobDefine s slot x = true →
    let d := cmdDesc s slot
    let b := saveBytesOf s x (le d 8 8)
    exec (.cmdJobDefine slot) s = .next (complete (setPart s (descPart d)
      { x with descs := x.descs ++ [{ offset := le d 8 8, saveBytes := b }] }) slot stOk (toLE 4 b ++ zeroBytes 4))) ∧
  (∀ (s : State) (slot : Fin 10) (x : Partition), Can.jobUndefine s slot x = true →
    let d := cmdDesc s slot
    exec (.cmdJobUndefine slot) s = .next (complete (setPart s (descPart d)
      { x with descs := x.descs.filter (fun e => e.offset != le d 8 8) }) slot stOk [])) ∧
  (∀ (s : State) (slot : Fin 10), Can.jobStart s slot = true → ∃ u j x y,
    let d := cmdDesc s slot
    let n := descPart d
    exec (.cmdJobStart slot) s = .next (complete u slot stOk (toLE 4 (jobId u j))) ∧ j = jobEntry s ∧
      partOf s n = some x ∧ partOf u n = some y ∧
      (jobOf u j).state = 1 ∧ (jobOf u j).desc = le d 8 8 ∧ (jobOf u j).part = BitVec.ofNat 3 n ∧
      (jobOf u j).client = BitVec.ofNat 8 (byteAt d 24) ∧ (jobOf u j).save = le d 16 8 ∧
      (jobOf u j).header = decodeJobHeader (storeRead x.region (le d 8 8) 64) ∧
      (jobOf u j).hostSeq = BitVec.ofNat 32 (le d 4 4) ∧ (jobOf u j).held = [] ∧ (jobOf u j).order = s.orders ∧
      clientOf y (byteAt d 24) = { clientOf x (byteAt d 24) with
        started := satInc (clientOf x (byteAt d 24)).started, active := satInc (clientOf x (byteAt d 24)).active } ∧
      (∀ k, k ≠ j → jobOf u k = jobOf s k) ∧ Only [.jobs, .parts, .orders] s u) ∧
  (∀ (s : State) (slot : Fin 10) (x : Partition), Can.partCommand s slot 0x0420 [(8, 1), (10, 2)] x = true →
    le (cmdDesc s slot) 10 2 ≤ 1024 →
    let d := cmdDesc s slot
    exec (.cmdClientLimit slot) s = .next (complete (setPart s (descPart d)
      { x with clients := tset x.clients (byteAt d 8) (
          let c := clientOf x (byteAt d 8)
          { c with limit := BitVec.ofNat 16 (le d 10 2) }) }) slot stOk [])) ∧
  (∀ (s : State) (slot : Fin 10) (x : Partition), Can.partCommand s slot 0x0421 [(8, 8)] x = true →
    le (cmdDesc s slot) 8 8 % 64 = 0 → ∃ b : Bytes, b.length = 4096 ∧
      (∀ c, c < 256 → slice b (16 * c) 16 = clientBytes (clientOf x c)) ∧
      exec (.cmdClientStats slot) s = .next (complete
        (hostWrite s (slotFn s slot) (le (cmdDesc s slot) 8 8) b) slot stOk []))

/-- JOB_DISPATCH, CMD_JOB_ABORT, TIME_LIMIT, CMD_JOB_PREEMPT, SAVE_COMPLETE, CMD_JOB_RESUME, RESTORE_COMPLETE and
JOB_END. JOB_DISPATCH makes a WAITING job that may run RUNNING and gives it every spindle it lists, with its
program at offset 0; a job with sequences then takes its first step. CMD_JOB_ABORT of a job not yet ENDING makes
it ENDING with ST_ABORTED and cause 1 and waits; TIME_LIMIT does so with cause 2. CMD_JOB_PREEMPT of a
preemptible RUNNING job makes it SAVING and waits; SAVE_COMPLETE makes it PREEMPTED, counts it and frees its
units, or, where its save area meets a half in error, makes it ENDING with ST_UNCORRECTABLE; CMD_JOB_RESUME
makes it RESUMING; RESTORE_COMPLETE of a readable save without recorded counts makes a RESTORING job RUNNING.
JOB_END of an ENDING job, its last records formed, leaves it in the terminal state of its outcome with its units
free, counts it for its client, and only then goes on to the pipeline it came from. -/
def Obligations.JobRuns : Prop :=
  (∀ (s : State) (j : Fin 1024) (x : Partition), Can.jobDispatch s j.val x = true → ∃ t,
    exec (.jobDispatch j) s = .next (if (jobOf s j.val).header.sequences then seqStep t j.val else t) ∧
    jobOf t j.val = { jobOf s j.val with state := 2, banks := x.images.map (fun i => (i.base, i.active)) } ∧
    (∀ e ∈ listedSpindles s j.val, (spindleOf t e.spindle).job = some j.val ∧ (spindleOf t e.spindle).agen.next = 0 ∧
      (spindleOf t e.spindle).agen.state = 1 ∧ (spindleOf t e.spindle).busy = 0 ∧
      (spindleOf t e.spindle).acc = (spindleOf s e.spindle).acc ∧
      (spindleOf t e.spindle).cache = (spindleOf s e.spindle).cache ∧
      (spindleOf t e.spindle).scale.slots = (spindleOf s e.spindle).scale.slots) ∧
    (∀ p, (∀ e ∈ listedSpindles s j.val, e.spindle ≠ p) → spindleOf t p = spindleOf s p) ∧
    Only [.jobs, .spindles, .spires] s t) ∧
  (∀ (s : State) (slot : Fin 10) (j : Nat), Can.jobCommand s slot 0x0411 j = true → (jobOf s j).state.toNat < 7 →
    ∃ t, exec (.cmdJobAbort slot) s = .next t ∧ (jobOf t j).state = 7 ∧ (jobOf t j).outcome = stAborted ∧
      (jobOf t j).cause = 1 ∧ (∀ r, runningOf t slot = some r → r.waiting = true)) ∧
  (∀ (s : State) (j : Fin 1024), ((jobOf s j.val).state = 2 ∨ (jobOf s j.val).state = 3 ∨ (jobOf s j.val).state = 6) →
    (jobOf s j.val).header.timeLimit ≤ (jobOf s j.val).time → ∃ t, exec (.timeLimit j) s = .next t ∧
      (jobOf t j.val).state = 7 ∧ (jobOf t j.val).outcome = stAborted ∧ (jobOf t j.val).cause = 2) ∧
  (∀ (s : State) (slot : Fin 10) (j : Nat), Can.jobCommand s slot 0x0412 j = true → (jobOf s j).state = 2 →
    (jobOf s j).header.preemptible = true → (jobOf s j).header.skeinBarriers = 0 →
    exec (.cmdJobPreempt slot) s = .next (deferCompletion
      (setJob s j { jobOf s j with state := 3, preemptor := some slot }) slot)) ∧
  (∀ (s : State) (j : Fin 1024), Can.saveComplete s j.val = true → ∃ t, exec (.saveComplete j) s = .next t ∧
    (jobOf t j.val).state = 4 ∧ (jobOf t j.val).preemptions = satInc (jobOf s j.val).preemptions ∧
    (jobOf t j.val).saved.isSome = true ∧ (∀ p, (spindleOf t p).job ≠ some j.val) ∧
    (∀ i, (spireOf t i).stem.job ≠ some j.val)) ∧
  (∀ (s : State) (j : Fin 1024), Can.savePoint s j.val = true → saveAreaBad s j.val = true →
    ∃ t, exec (.saveComplete j) s = .next t ∧ (jobOf t j.val).state = 7 ∧ (jobOf t j.val).outcome = stUncorrectable) ∧
  (∀ (s : State) (slot : Fin 10) (j : Nat), Can.jobCommand s slot 0x0413 j = true → (jobOf s j).state = 4 →
    exec (.cmdJobResume slot) s = .next (complete
      (setJob (ordered s) j { jobOf s j with state := 5, order := s.orders }) slot stOk [])) ∧
  (∀ (s : State) (j : Fin 1024) (sv : SavedJob) (p : Partition), (jobOf s j.val).state = 6 →
    (jobOf s j.val).saved = some sv → sv.counts = [] → partOf s (jobOf s j.val).part.toNat = some p →
    restoreWaits s j.val = false → badRead p (jobOf s j.val).save (jobOf s j.val).saveBytes = false →
    ∃ t, exec (.restoreComplete j true) s = .next t ∧ (jobOf t j.val).state = 2 ∧ (jobOf t j.val).saved = none ∧
      Only [.jobs, .spindles, .spires, .draws] s t) ∧
  (∀ (s : State) (j : Fin 1024), Can.jobEnd s j.val = true → ∃ t u, exec (.jobEnd j) s = .next t ∧
    let r := if (jobOf s j.val).endFormed then s else endSteps s j.val
    let x := jobOf r j.val
    t = (match x.origin with | none => u | some o => stageJobEnded u x.part.toNat o x.outcome) ∧
    (jobOf u j.val).state = terminalState x.outcome ∧ (jobOf u j.val).status = x.outcome ∧
    (∀ p, (spindleOf u p).job ≠ some j.val) ∧ (∀ i, (spireOf u i).stem.job ≠ some j.val) ∧
    (∀ q, partOf r x.part.toNat = some q → ∃ q', partOf u x.part.toNat = some q' ∧
      let c := clientOf q x.client.toNat
      clientOf q' x.client.toNat = { c with
        active := c.active - 1
        done := if x.outcome = stOk then satInc c.done else c.done
        endedOtherwise := if x.outcome = stOk then c.endedOtherwise else satInc c.endedOtherwise }))

/-- ANSWER_PART, CMD_SEQ_JOIN, CMD_SEQ_LEAVE and SEQUENCE_STEP. ANSWER_PART of a job with an answer takes one unit
of its semaphore, and the job has sent so many more bytes of its answer as there are whole characters new in its
bobbin. CMD_SEQ_JOIN that passes its checks completes with ST_OK and a new ticket and leaves the join pending
behind the others. CMD_SEQ_LEAVE of a live ticket marks the sequence to leave. SEQUENCE_STEP takes one unit of
the step semaphore of a RUNNING job and counts one step of its set. -/
def Obligations.AnswersAndSequences : Prop :=
  (∀ (s : State) (j : Fin 1024) (p : Partition) (b : Bytes),
    let x := jobOf s j.val
    let v := semOf s x.header.answerSpire x.header.answerSem
    let off := x.args.getD x.header.answerArg 0
    let written := le (storeRead p.region off 4) 0 4
    x.header.answer = true → 2 ≤ x.state.toNat → x.state.toNat ≤ 6 → v.barrier = false → v.value ≠ 0 →
    partOf s x.part.toNat = some p → badRead p off 4 = false →
    badRead p (off + 64 + x.answerSent) (written - x.answerSent) = false →
    storeRead p.region (off + 64 + x.answerSent) (written - x.answerSent) = b →
    ∃ t, exec (.answerPart j) s = .next t ∧
      semOf t x.header.answerSpire x.header.answerSem = { v with value := v.value - 1 } ∧
      (jobOf t j.val).answerSent = x.answerSent + (b.take (wholeChars b)).length ∧
      (0 < (b.take (wholeChars b)).length → (jobOf t j.val).answerPart = x.answerPart + 1) ∧
      (jobOf t j.val).state = x.state ∧ Only [.spires, .jobs, .orings, .hif, .out, .draws] s t) ∧
  (∀ (s : State) (slot : Fin 10) (j : Nat) (q : SeqSet) (x : Partition), Can.seqJoin s slot j q x = true → ∃ p,
    let d := cmdDesc s slot
    exec (.cmdSeqJoin slot) s = .next (complete (setSeqs s j
        { q with nextTicket := q.nextTicket + 1, joins := q.joins ++ [p] }) slot stOk (toLE 4 q.nextTicket)) ∧
      p.ticket = q.nextTicket ∧ p.tag.toNat = le d 12 4 ∧ p.input = le d 16 8 ∧ p.inputLength = le d 24 4 ∧
      p.pools.length = byteAt d 28 ∧ p.deferred = false ∧ p.cancel = false) ∧
  (∀ (s : State) (slot : Fin 10) (j : Nat) (q : SeqSet), Can.seqCommand s slot 0x0431 [(8, 8)] j q = true →
    q.live.any (fun e => e.ticket == le (cmdDesc s slot) 12 4 && !e.leave) = true →
    exec (.cmdSeqLeave slot) s = .next (complete (setSeqs s j { q with
      live := q.live.map (fun e => if e.ticket = le (cmdDesc s slot) 12 4 then { e with leave := true } else e) })
      slot stOk [])) ∧
  (∀ (s : State) (j : Fin 1024) (q : SeqSet) (p : Partition),
    let x := jobOf s j.val
    let v := semOf s x.header.stepSpire x.header.stepSem
    x.state = 2 → x.seqs = some q → v.barrier = false → v.value ≠ 0 → partOf s x.part.toNat = some p →
    badRead p (x.args.getD x.header.seqTableArg 0) (tableBytes x.header) = false →
    (x.header.goSpire, x.header.goSem) ≠ (x.header.stepSpire, x.header.stepSem) →
    ∃ t, exec (.sequenceStep j) s = .next t ∧ (jobOf t j.val).seqs.map (·.step) = some (q.step + 1) ∧
      (semOf t x.header.stepSpire x.header.stepSem).value = v.value - 1 ∧
      (∀ e ∈ ((jobOf t j.val).seqs.getD {}).joins, e.deferred = true))

/-- LAN_MB_CFG_WRITE and the doorbells. LAN_MB_CFG_WRITE of a disabled mailbox takes the ring sizes; with ENABLE it
enables a mailbox whose bases and sizes are valid, its command and event counts zero and its completion counts
zero but for held reports, and shows state 4 where they are not. Clearing ENABLE disables an enabled mailbox,
which stops behind the command in progress. A doorbell of an enabled mailbox with a value in its range becomes
the count; one outside it is counted and changes nothing else. -/
def Obligations.MailboxRegisters : Prop :=
  (∀ (s : State) (fn : Fn) (m : Fin 9) (v : Word), Can.mailboxWrite s fn.val m.val false = true →
    ∃ t, exec (.lanMbCfgWrite fn m v) s = .next t ∧
    let b := mailboxSized (mailboxOf s m.val) v
    let b' := mailboxOf t m.val
    (v.getLsbD 31 = false → t = setMailbox s m.val b) ∧
    (v.getLsbD 31 = true → mailboxSound b = false → t = setMailbox s m.val { b with state := 4 }) ∧
    (v.getLsbD 31 = true → mailboxSound b = true →
      b'.enable = true ∧ b'.state = (if (runningOf s m.val).isSome then 2 else 1) ∧ b'.cmdLog2 = b.cmdLog2 ∧
      b'.cplLog2 = b.cplLog2 ∧ b'.evtLog2 = b.evtLog2 ∧ b'.cmdProduced = 0 ∧ b'.cmdConsumed = 0 ∧ b'.cplConsumed = 0 ∧
      b'.evtConsumed = 0 ∧ (b.held = [] → b'.cplProduced = 0) ∧ (m.val ≠ 8 → b'.evtProduced = 0))) ∧
  (∀ (s : State) (fn : Fn) (m : Fin 9) (v : Word), Can.mailboxWrite s fn.val m.val true = true → v.getLsbD 31 = false →
    exec (.lanMbCfgWrite fn m v) s = .next (setMailbox s m.val { mailboxOf s m.val with
      enable := false, stopping := (runningOf s m.val).isSome
      state := if (runningOf s m.val).isSome then 2 else 0 })) ∧
  (∀ (s : State) (fn : Fn) (m : Fin 9) (v : Word), Can.mailboxWrite s fn.val m.val true = true →
    let b := mailboxOf s m.val
    let bad := setMailbox s m.val { b with badDoorbell := satInc b.badDoorbell }
    exec (.lanMbCmdDoorbell fn m v) s = .next (
      if countDiff b.cmdProduced b.cmdConsumed ≤ countDiff v b.cmdConsumed ∧ countDiff v b.cmdConsumed ≤ 2 ^ b.cmdLog2.toNat
      then setMailbox s m.val { b with cmdProduced := v } else bad) ∧
    exec (.lanMbEvtDoorbell fn m v) s = .next (
      if countDiff v b.evtConsumed ≤ countDiff b.evtProduced b.evtConsumed
      then setMailbox s m.val { b with evtConsumed := v } else bad) ∧
    (b.held = [] → b.state ≠ 3 → exec (.lanMbCplDoorbell fn m v) s = .next (
      if countDiff v b.cplConsumed ≤ countDiff b.cplProduced b.cplConsumed
      then setMailbox s m.val { b with cplConsumed := v } else bad)) ∧
    (countDiff v b.cplConsumed ≤ countDiff b.cplProduced b.cplConsumed → ∃ t,
      exec (.lanMbCplDoorbell fn m v) s = .next t ∧ (mailboxOf t m.val).cplConsumed = v))

/-- COMMAND_BEGIN and RELAYED_COMMAND. COMMAND_BEGIN of the mailbox served next takes its head entry: the consumed
count goes on, the mailbox shows the opcode and is served last. A descriptor that fails a check completes at
once with that status and is not carried out; one without flag bit 0 that passes runs in its slot unchecked. A
critical one runs checked, with its counter committed, exactly where R398 passes it. A head whose read times out
is taken all the same and completes at once. A mailbox that has a head but no completion space shows state 3.
RELAYED_COMMAND does the same for slot 9, checked as from the mailbox of its partition. -/
def Obligations.CommandsBegin : Prop :=
  (∀ (s : State) (m : Fin 9) (b : Bytes), Can.takeHead s m.val = true → ∃ t, exec (.commandBegin m (some b)) s = .next t ∧
    let d := fit 128 b
    let u := takeHeadEntry s m.val (le d 0 2)
    let u' := { u with running := tset u.running m.val { desc := d } }
    (mailboxOf u m.val).cmdConsumed = (mailboxOf s m.val).cmdConsumed + 1 ∧
    (mailboxOf u m.val).opcode = BitVec.ofNat 16 (le d 0 2) ∧ (mailboxOf u m.val).state = 2 ∧ u.lastServed = m.val ∧
    (∀ st, descriptorFailure u m.val d = some st → t = complete u' m.val st []) ∧
    (descriptorFailure u m.val d = none → bitOf (byteAt d 2) 0 = false →
      runningOf t m.val = some { desc := d } ∧ (hostNeed d = none → t = u')) ∧
    (descriptorFailure u m.val d = none → bitOf (byteAt d 2) 0 = true →
      (∀ st, keyedCheck u' d = .error st → t = complete u' m.val st []) ∧
      (∀ k, tfind s.sec.keys (descPart d) = some k → fit 24 (Config.hmacSha512 k.key (d.take 104)) = slice d 104 24 →
        k.last < le d 96 8 → runningOf t m.val = some { desc := d, checked := true } ∧
          (tfind t.sec.keys (descPart d)).map (·.last) = some (le d 96 8)))) ∧
  (∀ (s : State) (m : Fin 9), Can.takeHead s m.val = true → ∃ t, exec (.commandBegin m none) s = .next t ∧
    (mailboxOf t m.val).cmdConsumed = (mailboxOf s m.val).cmdConsumed + 1 ∧ runningOf t m.val = none ∧
    (mailboxOf t m.val).cplProduced = (mailboxOf s m.val).cplProduced + 1 ∧
    t.hif.cplTimeout = satInc s.hif.cplTimeout) ∧
  (∀ (s : State) (m : Fin 9) (b : Option Bytes), headWaits s m.val = true → headReady s m.val = false →
    exec (.commandBegin m b) s = .next (setMailbox s m.val { mailboxOf s m.val with state := 3 })) ∧
  (∀ (s : State) (b : Bytes), Can.relayed s = true → ∃ t, exec (.relayedCommand b) s = .next t ∧
    let d := fit 128 b
    let u := { s with running := tset s.running 9 { desc := d } }
    (∀ st, descriptorFailure u (descPart d) d = some st → t = complete u 9 st []) ∧
    (descriptorFailure u (descPart d) d = none → bitOf (byteAt d 2) 0 = false →
      runningOf t 9 = some { desc := d } ∧ (hostNeed d = none → t = u)))

/-- CMD_DEV_INFO, and what the completion of a command is. CMD_DEV_INFO completes with ST_OK and the firmware
version, the security version, the debug flag, the number of partitions and protocol version 1. A command of
mailbox m that completes leaves its slot, counts one completion produced, and leaves its mailbox idle or
stopped. Where host memory is written at once, no read of the slot is outstanding and no interrupt is asked for,
two writes leave the module: the 32-byte entry in the ring, with KIND 1, CHECKED, STATUS, HOST_SEQ, OPCODE,
PARTITION, RESULT and TIME, and the produced count in the status block. -/
def Obligations.CompletionWritten : Prop :=
  (∀ (s : State) (slot : Fin 10), Can.command s slot 0x0101 [] = true → ∃ r : Bytes, r.length = 8 ∧
    le r 0 4 = s.sec.fwVersion.toNat ∧ byteAt r 4 = s.sec.svRunning % 256 ∧ byteAt r 5 = flag s.sec.debugDisabled ∧
    byteAt r 6 = s.parts.length % 256 ∧ byteAt r 7 = 1 ∧
    exec (.cmdDevInfo slot) s = .next (complete s slot stOk r)) ∧
  (∀ (s : State) (m : Fin 9) (r : Running) (st : Status) (res : Bytes), runningOf s m.val = some r → r.discard = false →
    let t := complete s m.val st res
    let b := mailboxOf s m.val
    runningOf t m.val = none ∧ (mailboxOf t m.val).cplProduced = b.cplProduced + 1 ∧
    (b.enable = true → (mailboxOf t m.val).state = 1) ∧
    (r.desc.length = 128 → bitOf (byteAt r.desc 2) 1 = false → readOf s (.lantern m.val) = none →
      Can.postNow s m.val = true → ∃ e : Bytes, e.length = 32 ∧
      t.out = .hostWrite (fnOfMailbox m.val) (b.statBase.toNat + 8) (toLE 8 (b.cplProduced + 1).toNat)
        :: .hostWrite (fnOfMailbox m.val) (b.cplBase.toNat + 32 * (b.cplProduced.toNat % 2 ^ b.cplLog2.toNat)) e :: s.out ∧
      byteAt e 0 = 1 ∧ byteAt e 1 = flag r.checked ∧ le e 2 2 = st.toNat ∧ slice e 4 4 = slice r.desc 4 4 ∧
      le e 8 2 = le r.desc 0 2 ∧ byteAt e 10 = byteAt r.desc 3 ∧ zeros e 11 5 = true ∧ slice e 16 8 = fit 8 res ∧
      le e 24 8 = s.time.toNat))

/-- CMD_MODEL_LOAD, CMD_MODEL_UNLOAD, CMD_ADAPTER_INSTALL and CMD_MEM_WRITE. CMD_MODEL_LOAD of an image that opens
completes with ST_OK, its model in the region at the destination and its image recorded; of one that does not it
completes with ST_BAD_CHECK, zeros at the destination and no image recorded. CMD_MODEL_UNLOAD takes the image
from the record. CMD_ADAPTER_INSTALL copies the bytes into the bank not active and makes it active.
CMD_MEM_WRITE writes the host bytes at the offset and no other byte. -/
def Obligations.ModelMemory : Prop :=
  (∀ (s : State) (slot : Fin 10) (b : Bytes) (x : Partition), Can.modelLoad s slot b x = true → ∃ t,
    exec (.cmdModelLoad slot (some b)) s = .next t ∧
    let d := cmdDesc s slot
    let a := le d 24 8
    let u := endReads s (fun r => r.reader == .lantern slot.val)
    (∀ m, openImage s b (le d 16 8) = some m → ∃ y, t = complete (setPart u (descPart d) y) slot stOk (toLE 4 (le b 72 8)) ∧
      y.images = x.images ++ [imageRecord b a] ∧
      (∀ k, storeGet y.region k = if a ≤ k ∧ k < a + m.length then m.getD (k - a) 0 else storeGet x.region k)) ∧
    (openImage s b (le d 16 8) = none → ∃ y, t = complete (setPart u (descPart d) y) slot stBadCheck [] ∧
      y.images = x.images ∧
      (∀ k, storeGet y.region k = if a ≤ k ∧ k < a + le b 72 8 then 0 else storeGet x.region k))) ∧
  (∀ (s : State) (slot : Fin 10) (x : Partition) (i : ModelImage), Can.modelUnload s slot x i = true →
    exec (.cmdModelUnload slot) s = .next (complete (setPart s (descPart (cmdDesc s slot))
      { x with images := x.images.filter (fun j => j.base ≠ le (cmdDesc s slot) 8 8) }) slot stOk [])) ∧
  (∀ (s : State) (slot : Fin 10) (x y : Partition) (i : ModelImage), Can.adapterInstall s slot x y i = true → ∃ z,
    let d := cmdDesc s slot
    let dst := if i.active then i.bank0 else i.bank1
    exec (.cmdAdapterInstall slot) s =
      .next (complete (setPart s (descPart d) z) slot stOk (toLE 1 (flag (!i.active)))) ∧
    (∀ k, storeGet z.region k = if dst ≤ k ∧ k < dst + le d 24 4 then storeGet y.region (le d 16 8 + (k - dst))
      else storeGet x.region k) ∧
    (∀ j ∈ z.images, j.base = i.base → j.active = !i.active)) ∧
  (∀ (s : State) (slot : Fin 10) (b : Bytes) (x : Partition), Can.memWrite s slot x = true → ∃ y,
    let d := cmdDesc s slot
    let a := le d 16 8
    exec (.cmdMemWrite slot (some b)) s = .next (complete
      (setPart (endReads s (fun r => r.reader == .lantern slot.val)) (descPart d) y) slot stOk []) ∧
    (∀ k, storeGet y.region k = if a ≤ k ∧ k < a + le d 24 4 then b.getD (k - a) 0 else storeGet x.region k))

/-- CMD_IDENTITY_GET, CMD_ATTEST and CMD_AUDIT_EXPORT. With a destination at a multiple of 64, CMD_IDENTITY_GET
writes the endorsement record to host memory and completes with ST_OK. CMD_ATTEST writes a report of 384 bytes
whose fields are the nonce of the command, the identity key, the hash of the firmware, the fuse counters, the
time, the owner key and the skein binding, signed under the identity key, and keeps the hash of the report as
the newest of at most four. CMD_AUDIT_EXPORT writes the counts of both areas, the first SEQ of the ring, the
identity key, every entry of 64 bytes in order and a signature over it all. Another destination completes with
ST_BAD_ARGUMENT and changes nothing else. -/
def Obligations.IdentityAndAttestation : Prop :=
  (∀ (s : State) (slot : Fin 10), Can.command s slot 0x0801 [(8, 8)] = true →
    let a := le (cmdDesc s slot) 8 8
    (a % 64 = 0 → exec (.cmdIdentityGet slot) s
      = .next (complete (hostWrite s (slotFn s slot) a (fit 256 s.sec.endorsement)) slot stOk [])) ∧
    (a % 64 ≠ 0 → exec (.cmdIdentityGet slot) s = .next (complete s slot stBadArgument []))) ∧
  (∀ (s : State) (slot : Fin 10), Can.command s slot 0x0802 [(8, 40)] = true →
    let d := cmdDesc s slot
    (le d 8 8 % 64 = 0 → ∃ b : Bytes, b.length = 320 ∧
      let r := b ++ signed s b
      r.length = 384 ∧ le r 0 4 = 0x54515441 ∧ le r 4 4 = 384 ∧ slice r 8 32 = fit 32 (identityKey s) ∧
      slice r 40 32 = fit 32 (slice d 16 32) ∧ slice r 72 64 = fit 64 s.sec.fwHash ∧ byteAt r 136 = s.sec.svFused % 256 ∧
      byteAt r 137 = s.sec.svRunning % 256 ∧ bitOf (byteAt r 138) 0 = s.sec.debugDisabled ∧
      bitOf (byteAt r 138) 1 = s.sec.ownerKey.isSome ∧ bitOf (byteAt r 138) 2 = (s.skein.state == 2) ∧
      byteAt r 140 = s.sec.skeinSteps % 256 ∧ byteAt r 141 = s.sec.ceilSteps % 256 ∧ le r 152 8 = s.time.toNat ∧
      slice r 160 32 = (match s.sec.ownerKey with | none => zeroBytes 32 | some k => fit 32 (Config.sha512 k)) ∧
      slice r 192 32 = fit 32 s.sec.skeinId ∧ zeros r 290 30 = true ∧
      exec (.cmdAttest slot) s = .next (complete
        (hostWrite (setSec s { s.sec with reports := (Config.sha512 r :: s.sec.reports).take 4 }) (slotFn s slot) (le d 8 8) r)
        slot stOk [])) ∧
    (le d 8 8 % 64 ≠ 0 → exec (.cmdAttest slot) s = .next (complete s slot stBadArgument []))) ∧
  (∀ (s : State) (slot : Fin 10), Can.command s slot 0x0803 [(8, 8)] = true →
    let a := le (cmdDesc s slot) 8 8
    let n := s.sec.permanent.length
    let k := s.sec.ring.length
    (a % 64 = 0 → ∃ b : Bytes, b.length = 64 + 64 * (n + k) ∧ le b 0 4 = n % 2 ^ 32 ∧ le b 4 4 = k % 2 ^ 32 ∧
      (∀ e rest, s.sec.ring = e :: rest → le b 8 4 = e.seq % 2 ^ 32) ∧ slice b 12 32 = fit 32 (identityKey s) ∧
      zeros b 44 20 = true ∧
      (∀ i e, s.sec.permanent[i]? = some e → slice b (64 + 64 * i) 64 = auditBytes e) ∧
      (∀ i e, s.sec.ring[i]? = some e → slice b (64 + 64 * (n + i)) 64 = auditBytes e) ∧
      exec (.cmdAuditExport slot) s = .next (complete (hostWrite s (slotFn s slot) a (b ++ signed s b)) slot stOk [])) ∧
    (a % 64 ≠ 0 → exec (.cmdAuditExport slot) s = .next (complete s slot stBadArgument [])))

/-- CMD_OWNER_ENROLL, CMD_SESSION_OPEN and CMD_SESSION_CLOSE. A record or request that fails a check completes with
the first status that applies and leaves keys, counter and log as they were. An owner record that passes sets
the owner key and its counter and logs an enrolment or a change with the counter of the command and the first 20
bytes of the hash of the key. A session request that passes draws an ephemeral key: where the shared secret is
all zero it completes with ST_BAD_ARGUMENT, else it commits the owner counter, installs a command key for the
partition with its counter at 0, logs entry 3 and writes the reply. CMD_SESSION_CLOSE removes the key and logs
entry 4. Without the host bytes a command completes with ST_HOST_TIMEOUT. -/
def Obligations.OwnersAndSessions : Prop :=
  (∀ (s : State) (slot : Fin 10) (b : Bytes), Can.command s slot 0x0804 [(8, 8)] = true →
    let d := cmdDesc s slot
    let r := fit 256 b
    let u := endReads s (fun x => x.reader == .lantern slot)
    (∀ st, ownerFailure u d r = some st → exec (.cmdOwnerEnroll slot (some b)) s = .next (complete u slot st [])) ∧
    (ownerFailure u d r = none → ∃ t : State, exec (.cmdOwnerEnroll slot (some b)) s = .next (complete t slot stOk []) ∧
      t.sec.ownerKey = some (r.take 32) ∧ t.sec.ownerCounter = le r 32 8 ∧ s.sec.ownerCounter < le r 32 8 ∧
      (∃ e : AuditEntry, t.sec.ring.getLast? = some e ∧
        e.kind = (if s.sec.ownerKey.isSome then 2#8 else 1#8) ∧ e.part = 0xFF#8 ∧
        e.counter = BitVec.ofNat 64 (le d 96 8) ∧ e.detail = detailOf (r.take 32) ∧ e.chain = chainOf s.sec.ring) ∧
      t.sec.keys = s.sec.keys ∧ t.sec.permanent = s.sec.permanent ∧ Only [.sec] u t)) ∧
  (∀ (s : State) (slot : Fin 10) (b : Bytes), Can.command s slot 0x0805 [(8, 16)] = true →
    let d := cmdDesc s slot
    let r := fit 256 b
    let u := endReads s (fun x => x.reader == .lantern slot)
    let eph := clamp (Config.entropy s.draws 32)
    let shared := Config.x25519 eph (r.take 32)
    (le d 8 8 % 64 ≠ 0 ∨ le d 16 8 % 64 ≠ 0 →
      exec (.cmdSessionOpen slot (some b)) s = .next (complete u slot stBadArgument [])) ∧
    (le d 8 8 % 64 = 0 → le d 16 8 % 64 = 0 →
      (∀ st, sessionFailure u d r = some st → exec (.cmdSessionOpen slot (some b)) s = .next (complete u slot st [])) ∧
      (sessionFailure u d r = none → shared.all (· == 0) = true →
        exec (.cmdSessionOpen slot (some b)) s = .next (complete (drawn u) slot stBadArgument [])) ∧
      (sessionFailure u d r = none → shared.all (· == 0) = false → ∃ (t : State) (reply : Bytes),
        exec (.cmdSessionOpen slot (some b)) s
          = .next (complete (hostWrite t (slotFn t slot) (le d 16 8) reply) slot stOk []) ∧
        reply.length = 256 ∧ slice reply 0 32 = fit 32 (Config.x25519Public eph) ∧
        slice reply 32 64 = fit 64 (Config.sha512 r) ∧ zeros reply 160 96 = true ∧
        slice reply 96 64 = signed s (ascii "MOAJO-REPLY" ++ reply.take 96) ∧
        tfind t.sec.keys (descPart d) = some ⟨sessionKey r shared, 0⟩ ∧
        (∀ n, n ≠ descPart d → tfind t.sec.keys n = tfind s.sec.keys n) ∧ t.sec.ownerCounter = le r 40 8 ∧
        s.sec.ownerCounter < le r 40 8 ∧ t.sec.ownerKey = s.sec.ownerKey ∧
        (∃ e : AuditEntry, t.sec.ring.getLast? = some e ∧ e.kind = 3#8 ∧ e.part = BitVec.ofNat 8 (descPart d) ∧
          e.counter = BitVec.ofNat 64 (le d 96 8)) ∧ Only [.sec, .draws] u t))) ∧
  (∀ (s : State) (slot : Fin 10), Can.command s slot 0x0806 [] = true → ∃ t : State,
    let d := cmdDesc s slot
    exec (.cmdSessionClose slot) s = .next (complete t slot stOk []) ∧ tfind t.sec.keys (descPart d) = none ∧
    (∀ n, n ≠ descPart d → tfind t.sec.keys n = tfind s.sec.keys n) ∧
    (∃ e : AuditEntry, t.sec.ring.getLast? = some e ∧ e.kind = 4#8 ∧ e.part = BitVec.ofNat 8 (descPart d) ∧
      e.counter = BitVec.ofNat 64 (le d 96 8)) ∧
    t.sec.ownerCounter = s.sec.ownerCounter ∧ Only [.sec] s t) ∧
  (∀ (s : State) (slot : Fin 10), Can.command s slot 0x0804 [(8, 8)] = true →
    exec (.cmdOwnerEnroll slot none) s = .next (complete (raiseHostTimeout
      (endReads s (fun x => x.reader == .lantern slot)) (some (descPart (cmdDesc s slot))) 2 (le (cmdDesc s slot) 8 8))
      slot stHostTimeout []))

/-- CMD_SV_ADVANCE, CMD_CEILING_LOWER, CMD_SKEIN_BIND and CMD_DEBUG_DISABLE. A setting command that passes its
checks burns exactly the steps between the setting and the one asked for, never fewer than it held, logs them
DONE in the permanent area with the counter of the command, the partition and the number of steps burnt, and
completes with ST_OK; CMD_CEILING_LOWER also brings the limit down to the new ceiling. CMD_SV_ADVANCE above 64,
CMD_CEILING_LOWER beyond 16 steps, CMD_SKEIN_BIND with 8 steps burnt and CMD_DEBUG_DISABLE where the flag is set
complete with ST_FUSE_EXHAUSTED and burn nothing. An advance above the running version or not above the burnt
one, and a binding of zero and a lowering by 0 complete with ST_BAD_ARGUMENT; a binding while the module is a
member, with ST_NOT_PERMITTED. -/
def Obligations.FuseCommands : Prop :=
  let burnt := fun (s t : State) (d : Bytes) (kind steps : Nat) =>
    ∃ e : AuditEntry, t.sec.permanent = s.sec.permanent ++ [e] ∧ e.seq = s.sec.permanent.length ∧
      e.kind = BitVec.ofNat 8 kind ∧ e.state = 1#8 ∧ e.part = BitVec.ofNat 8 (descPart d) ∧
      e.value = BitVec.ofNat 8 steps ∧ e.counter = BitVec.ofNat 64 (le d 96 8) ∧
      e.chain = chainOf s.sec.permanent ∧ t.sec.ring = s.sec.ring ∧ t.sec.keys = s.sec.keys
  (∀ (s : State) (slot : Fin 10), Can.command s slot 0x0810 [(8, 1)] = true →
    let d := cmdDesc s slot
    let n := byteAt d 8
    (64 < n → exec (.cmdSvAdvance slot) s = .next (complete s slot stFuseExhausted [])) ∧
    (n ≤ 64 → s.sec.svRunning < n ∨ n ≤ s.sec.svFused →
      exec (.cmdSvAdvance slot) s = .next (complete s slot stBadArgument [])) ∧
    (n ≤ 64 → n ≤ s.sec.svRunning → s.sec.svFused < n → ∃ t : State,
      exec (.cmdSvAdvance slot) s = .next (complete t slot stOk []) ∧ t.sec.svFused = n ∧
      burnt s t d 0x10 (n - s.sec.svFused) ∧ t.sec.ceilSteps = s.sec.ceilSteps ∧ t.sec.skeinSteps = s.sec.skeinSteps ∧
      t.sec.debugDisabled = s.sec.debugDisabled ∧ Only [.sec] s t)) ∧
  (∀ (s : State) (slot : Fin 10), Can.command s slot 0x0811 [(8, 1)] = true →
    let d := cmdDesc s slot
    let n := byteAt d 8
    (n = 0 → exec (.cmdCeilingLower slot) s = .next (complete s slot stBadArgument [])) ∧
    (n ≠ 0 → 16 < s.sec.ceilSteps + n → exec (.cmdCeilingLower slot) s = .next (complete s slot stFuseExhausted [])) ∧
    (n ≠ 0 → s.sec.ceilSteps + n ≤ 16 → ∃ t : State,
      exec (.cmdCeilingLower slot) s = .next (complete t slot stOk []) ∧ t.sec.ceilSteps = s.sec.ceilSteps + n ∧
      burnt s t d 0x11 n ∧ t.power.limit.toNat = min s.power.limit.toNat (ceilingMw t) ∧
      t.sec.svFused = s.sec.svFused ∧ Only [.sec, .power] s t)) ∧
  (∀ (s : State) (slot : Fin 10), Can.command s slot 0x0812 [(8, 32)] = true →
    let d := cmdDesc s slot
    let zero := (slice d 8 32).all (· == 0)
    (zero = true → exec (.cmdSkeinBind slot) s = .next (complete s slot stBadArgument [])) ∧
    (zero = false → s.skein.state = 2 → exec (.cmdSkeinBind slot) s = .next (complete s slot stNotPermitted [])) ∧
    (zero = false → s.skein.state ≠ 2 → 8 ≤ s.sec.skeinSteps →
      exec (.cmdSkeinBind slot) s = .next (complete s slot stFuseExhausted [])) ∧
    (zero = false → s.skein.state ≠ 2 → s.sec.skeinSteps < 8 → ∃ t : State,
      exec (.cmdSkeinBind slot) s = .next (complete t slot stOk []) ∧ t.sec.skeinSteps = s.sec.skeinSteps + 1 ∧
      t.sec.skeinId = slice d 8 32 ∧ burnt s t d 0x12 1 ∧ t.sec.svFused = s.sec.svFused ∧
      t.sec.ceilSteps = s.sec.ceilSteps ∧ Only [.sec] s t)) ∧
  (∀ (s : State) (slot : Fin 10), Can.command s slot 0x0813 [] = true →
    (s.sec.debugDisabled = true → exec (.cmdDebugDisable slot) s = .next (complete s slot stFuseExhausted [])) ∧
    (s.sec.debugDisabled = false → ∃ t : State,
      exec (.cmdDebugDisable slot) s = .next (complete t slot stOk []) ∧ t.sec.debugDisabled = true ∧
      burnt s t (cmdDesc s slot) 0x13 1 ∧ t.sec.svFused = s.sec.svFused ∧ t.sec.skeinId = s.sec.skeinId ∧ Only [.sec] s t))

/-- PORT_UP, PORT_DOWN, CMD_SKEIN_PORT, FLIT and NAK. PORT_UP of an enabled port opens it with empty buffers and 32
hop credits for every class. PORT_DOWN of an open port that carries no route to the module at its far end closes
it, drops its buffers, credits and link keys, counts it and raises EV_LINK_DOWN. CMD_SKEIN_PORT enables or
disables a port. A FLIT that is broken or out of order is counted where its check failed and answered with a NAK
of the number expected; one in order is taken: a message flit for this module returns its hop credit at once,
one for another module leaves by the port of its route with the subclass the route sets. A NAK replays from the
flit it names, counted, and the eighth replay of one flit closes the port. -/
def Obligations.LinkPorts : Prop :=
  (∀ (s : State) (p : Fin 4), (linkPortOf s p.val).enabled = true → (linkPortOf s p.val).state ≠ 2 → ∃ t,
    exec (.portUp p) s = .next t ∧ (let x := linkPortOf s p.val; let y := linkPortOf t p.val
      y.state = 2 ∧ y.replay = [] ∧ y.replays = 0 ∧ y.tx = [] ∧ y.owed = [] ∧ y.nextSend = 0 ∧ y.expected = 0 ∧
      (∀ k, k < 8 → tget y.credits k 0 = 32) ∧ y.crc = x.crc ∧ y.fec = x.fec ∧ y.retry = x.retry ∧ y.keyed = x.keyed) ∧
    (∀ q, q ≠ p.val → linkPortOf t q = linkPortOf s q) ∧ t.skein = { s.skein with ports := t.skein.ports } ∧
    Only [.skein] s t) ∧
  (∀ (s : State) (p : Fin 4) (c : PortCause), (linkPortOf s p.val).state = 2 →
    (reachesNeighbour s p.val = false → ∃ u, exec (.portDown p c) s = .next (raiseLinkDown u p.val 0xFF (causeCode c)) ∧
      closedPort s u p.val c ∧ (linkPortOf u p.val).tx = [] ∧
      (∀ q, q ≠ p.val → linkPortOf u q = linkPortOf s q) ∧ Only [.skein, .boot] s u) ∧
    (∀ m : Fin 16, reachesNeighbour s p.val = true → s.skein.manager = true → (linkPortOf s p.val).neighbour = BitVec.ofNat 4 m.val →
      m.val ≠ 0 → ∃ t, exec (.portDown p c) s = .next t ∧ closedPort s t p.val c ∧ skeinLive t m.val = false) ∧
    (reachesNeighbour s p.val = true → s.skein.manager = false → (linkPortOf s p.val).neighbour = 0 → ∃ t,
      exec (.portDown p c) s = .next t ∧ closedPort s t p.val c ∧ standalone t)) ∧
  (∀ (s : State) (slot : Fin 10), Can.command s slot 0x0910 [(8, 2)] = true →
    let d := cmdDesc s slot
    let p := byteAt d 8
    let x := linkPortOf s p
    (4 ≤ p ∨ 2 ≤ byteAt d 9 → exec (.cmdSkeinPort slot) s = .next (complete s slot stBadArgument [])) ∧
    (p < 4 → byteAt d 9 = 0 → portRouted s p = true →
      exec (.cmdSkeinPort slot) s = .next (complete s slot stNotPermitted [])) ∧
    (p < 4 → byteAt d 9 = 0 → portRouted s p = false → x.state ≠ 2 → exec (.cmdSkeinPort slot) s
      = .next (complete (setLinkPort s p { x with enabled := false, state := 0 }) slot stOk [])) ∧
    (p < 4 → byteAt d 9 = 0 → portRouted s p = false → x.state = 2 → ∃ u,
      exec (.cmdSkeinPort slot) s = .next (complete u slot stOk []) ∧ closedPort s u p .disabled ∧
      (linkPortOf u p).enabled = false) ∧
    (p < 4 → byteAt d 9 = 1 → x.enabled = false → exec (.cmdSkeinPort slot) s
      = .next (complete (setLinkPort s p { x with enabled := true, state := 1 }) slot stOk [])) ∧
    (p < 4 → byteAt d 9 = 1 → x.enabled = true → exec (.cmdSkeinPort slot) s = .next (complete s slot stOk []))) ∧
  (∀ (s : State) (p : Fin 4) (f : Flit), (linkPortOf s p.val).state = 2 →
    let x := linkPortOf s p.val
    let inOrder := f.crcOk && f.fecOk && f.seq == x.expected
    (inOrder = false → exec (.flit p f) s = .next (emit (setLinkPort s p.val { x with
      crc := if f.crcOk then x.crc else satInc x.crc
      fec := if f.fecOk then x.fec else satInc x.fec }) (.nakOut p.val x.expected))) ∧
    (inOrder = true → f.kind ≠ 1 → x.tx = [] → x.owed = [] → exec (.flit p f) s = .next (setLinkPort s p.val (ackReplay
      { x with
        expected := x.expected + 1
        credits := tset x.credits (creditKey f.crVc.toNat (flag f.crSub))
          (tget x.credits (creditKey f.crVc.toNat (flag f.crSub)) 0 + f.crCount.toNat) } f.ack))) ∧
    (inOrder = true → f.kind = 1 → f.last = true → f.authOk = false → reachesNeighbour s p.val = false → ∃ t,
      exec (.flit p f) s = .next t ∧ closedPort s t p.val .authentication) ∧
    (inOrder = true → f.kind = 1 → (f.last = true → f.authOk = true) → (skeinFormed s = false ∨ f.dest = s.skein.index) →
      x.tx = [] → x.owed = [] → x.replay.length < 64 → ∃ t g, exec (.flit p f) s = .next t ∧
      t.out = .flitOut p.val g :: s.out ∧ g.kind = 0 ∧ g.crCount = 1 ∧ g.crVc = f.vc ∧ g.crSub = f.sub ∧ g.ack = f.seq ∧
      g.seq = x.nextSend ∧ (linkPortOf t p.val).expected = x.expected + 1 ∧ Only [.skein, .out] s t) ∧
    (∀ q, inOrder = true → f.kind = 1 → f.first = true → (f.last = true → f.authOk = true) → skeinFormed s = true →
      f.dest ≠ s.skein.index → routeValid (routeOf s.skein.routes f.dest.toNat) = true →
      routePort (routeOf s.skein.routes f.dest.toNat) = q → q ≠ p.val → (linkPortOf s q).state = 2 →
      (linkPortOf s q).tx = [] → (linkPortOf s q).current = [] → (linkPortOf s q).replay.length < 64 →
      (∀ k, 0 < tget (linkPortOf s q).credits k 0) → ∃ t g, exec (.flit p f) s = .next t ∧ .flitOut q g ∈ t.out ∧
      g.payload = f.payload ∧ g.dest = f.dest ∧ g.src = f.src ∧ g.vc = f.vc ∧
      g.sub = (f.sub || routeDateline (routeOf s.skein.routes f.dest.toNat)) ∧ g.seq = (linkPortOf s q).nextSend ∧
      (linkPortOf t p.val).expected = x.expected + 1)) ∧
  (∀ (s : State) (p : Fin 4) (q : BitVec 8) (i : Nat), (linkPortOf s p.val).state = 2 →
    (linkPortOf s p.val).replay.findIdx? (fun f => f.seq == q) = some i →
    let x := linkPortOf s p.val
    let n := (if i = 0 then x.replays else 0) + 1
    (n < 8 → ∃ u, exec (.nak p q) s = .next ((x.replay.drop i).foldl (fun t f => emit t (.flitOut p.val f)) u) ∧
      linkPortOf u p.val = { x with
        replay := x.replay.drop i, replays := n, retry := satInc x.retry, lastEvent := (linkPortOf u p.val).lastEvent } ∧
      u.boot.life.portRetry = tbump s.boot.life.portRetry p.val) ∧
    (8 ≤ n → reachesNeighbour s p.val = false → ∃ t, exec (.nak p q) s = .next t ∧ (linkPortOf t p.val).state = 3 ∧
      (linkPortOf t p.val).replay = [] ∧ (linkPortOf t p.val).keyed = false))

/-- CMD_SKEIN_FORM, LINK_KEY_EXCHANGE, ADMIT_MESSAGE, ADMIT_REPLY, FORMATION_TIMEOUT, CMD_SKEIN_DISSOLVE and
SKEIN_DISSOLVE_NOTICE. CMD_SKEIN_FORM of a standalone module with a binding and a sound table starts a
formation: ADMIT goes to member 1, and the command waits. A key exchange whose signature holds gives the port
its keys, its peer and its place, and answers with a signature of its own; another changes nothing outside a
formation. ADMIT makes a standalone module a worker with its routes where the report of the manager is sound,
and is refused otherwise. A reply of the member that was asked goes on to the next member, or completes the
formation with this module the manager, or ends it. A formation that ends leaves the module standalone and
completes with ST_NOT_PERMITTED and the member. Dissolving tells every live member and leaves the module
standalone. -/
def Obligations.SkeinFormation : Prop :=
  (∀ (s : State) (slot : Fin 10) (b : Bytes), Can.command s slot 0x0901 [(8, 10)] = true →
    let d := cmdDesc s slot
    let n := byteAt d 16
    let u := endReads s (fun x => x.reader == .lantern slot)
    let l := tableEntries b n
    (n < 2 ∨ 16 < n ∨ 2 ≤ byteAt d 17 ∨ le d 8 8 % 64 ≠ 0 →
      exec (.cmdSkeinForm slot (some b)) s = .next (complete s slot stBadArgument [])) ∧
    (2 ≤ n → n ≤ 16 → byteAt d 17 < 2 → le d 8 8 % 64 = 0 →
      (s.skein.state ≠ 0 ∨ (fit 32 s.sec.skeinId).all (· == 0) = true →
        exec (.cmdSkeinForm slot (some b)) s = .next (complete s slot stNotPermitted [])) ∧
      (s.skein.state = 0 → (fit 32 s.sec.skeinId).all (· == 0) = false → ∃ t, exec (.cmdSkeinForm slot (some b)) s = .next t ∧
        (if tableSound u b n then
          t.skein.state = 1 ∧ t.skein.routes = (l.map (·.2)).getD 0 0 ∧
          t.skein.forming = some ⟨slot, l.map (·.1), l.map (·.2), 1, bitOf (byteAt d 17) 0⟩ ∧
          (runningOf t slot.val).map (·.waiting) = some true ∧
          (∃ data, .skControl "ADMIT" 1 [1, n - 1, flag (bitOf (byteAt d 17) 0)] data ∈ t.out) ∧
          (∀ f : Field, f ∈ [Field.jobs, .parts, .sec, .mailboxes, .spires, .spindles] → Keeps s t f)
        else t = complete u slot stBadArgument []))) ∧
    (2 ≤ n → n ≤ 16 → byteAt d 17 < 2 → le d 8 8 % 64 = 0 → s.skein.state = 0 →
      (fit 32 s.sec.skeinId).all (· == 0) = false → exec (.cmdSkeinForm slot none) s
      = .next (complete (raiseHostTimeout u (some (descPart d)) 2 (le d 8 8)) slot stHostTimeout []))) ∧
  (∀ (s : State) (p : Fin 4) (peer eph sig : Bytes), (linkPortOf s p.val).state = 2 → s.skein.forming = none → ∃ t,
    exec (.linkKeyExchange p peer eph sig) s = .next t ∧
    let own := fit 32 (identityKey s)
    let lower := decide (leNat own.reverse < leNat (fit 32 peer).reverse)
    let both := if lower then own ++ fit 32 peer else fit 32 peer ++ own
    let priv := clamp (Config.entropy s.draws 32)
    let pub := fit 32 (Config.x25519Public priv)
    if Config.ed25519Verify (fit 32 peer) (ascii "BURAVA-LINK" ++ both ++ eph) sig then
      linkPortOf t p.val = { linkPortOf s p.val with
        keyed := true, peer := fit 32 peer
        keys := Config.hkdfSha512 (if lower then pub ++ eph else eph ++ pub) (Config.x25519 priv eph) (ascii "BURAVA") 64 } ∧
      t.out = .linkHello p.val pub (signed s (ascii "BURAVA-LINK" ++ both ++ pub)) :: s.out ∧
      t.draws = s.draws + 1 ∧ (∀ q, q ≠ p.val → linkPortOf t q = linkPortOf s q) ∧ Only [.skein, .draws, .out] s t
    else t = s) ∧
  (∀ (s : State) (a : AdmitInfo), s.skein.state = 0 → ∃ t, exec (.admitMessage a) s = .next t ∧
    if reportSound s a.report (a.members.getD 0 []) then
      t.skein.state = 2 ∧ t.skein.manager = false ∧ t.skein.size = a.size ∧ t.skein.index = a.index ∧
      t.skein.pace = a.pace ∧ t.skein.routes = a.routes ∧ t.skein.live.toNat = 2 ^ (a.size.toNat + 1) - 1 ∧
      t.skein.ceiling = 0xFFFF#16 ∧ .skControl "ADMIT_REPLY" 0 [a.index.toNat, 1] [] ∈ t.out ∧ t.sec = s.sec ∧ t.jobs = s.jobs
    else t = emit s (.skControl "ADMIT_REPLY" 0 [a.index.toNat, 0] [])) ∧
  (∀ (s : State) (m : BitVec 4) (f : Formation), s.skein.forming = some f → m.toNat = f.next →
    (f.next + 1 < f.members.length → ∃ t data, exec (.admitReply m true) s = .next t ∧
      t.skein.forming = some { f with next := f.next + 1 } ∧ t.skein.state = s.skein.state ∧
      .skControl "ADMIT" (f.next + 1) [f.next + 1, f.members.length - 1, flag f.pace] data ∈ t.out) ∧
    (f.members.length ≤ f.next + 1 → f.members.length ≤ 16 → exec (.admitReply m true) s = .next (complete
      (setSkein s { s.skein with
        state := 2, manager := true, size := BitVec.ofNat 4 (f.members.length - 1), index := 0, pace := f.pace
        live := BitVec.ofNat 16 (2 ^ f.members.length - 1), forming := none }) f.slot.val stOk [])) ∧
    (∃ u, exec (.admitReply m false) s = .next (complete u f.slot.val stNotPermitted (toLE 1 m.toNat)) ∧ standalone u ∧
      ∀ k, 1 ≤ k → k < f.next → .skControl "DISSOLVE" k [] [] ∈ u.out)) ∧
  (∀ (s : State) (f : Formation), s.skein.forming = some f → ∃ u,
    exec .formationTimeout s = .next (complete u f.slot.val stNotPermitted (toLE 1 f.next)) ∧ standalone u ∧
    (∀ k, 1 ≤ k → k < f.next → .skControl "DISSOLVE" k [] [] ∈ u.out) ∧ u.jobs = s.jobs ∧ u.sec = s.sec) ∧
  (∀ (s : State) (slot : Fin 10) (jobs : Bool), Can.command s slot 0x0902 [] = true →
    let free := skeinManager s && !jobs && (jobsWhere s skeinJob).isEmpty
    (free = false → exec (.cmdSkeinDissolve slot jobs) s = .next (complete s slot stNotPermitted [])) ∧
    (free = true → ∃ u, exec (.cmdSkeinDissolve slot jobs) s = .next (complete u slot stOk []) ∧ standalone u ∧
      (∀ k, k < 16 → skeinLive s k = true → k ≠ ownIndex s → .skControl "DISSOLVE" k [] [] ∈ u.out) ∧
      u.jobs = s.jobs ∧ u.sec = s.sec)) ∧
  (∀ s : State, skeinFormed s = true → s.skein.manager = false → ∃ t,
    exec .skeinDissolveNotice s = .next t ∧ standalone t ∧ t.skein.ports = s.skein.ports ∧ Only [.parts, .skein] s t)

/-- CMD_SKEIN_EXCLUDE, LOSS_NOTICE, MANAGER_LOST, HEARTBEAT, HEARTBEAT_ARRIVAL, CMD_SKEIN_RELAY and
RELAY_COMPLETION. A worker excluded by the manager, or silent for three heartbeats, is no longer live, its route
is closed, its credit pools and the barriers that count it are gone, every other live member is told, and jobs
that name a queue or a barrier of the skein end. A worker acts the same on the notice of a loss, and becomes
standalone when it loses its manager. A worker answers a heartbeat; the manager sends one to each live worker.
CMD_SKEIN_RELAY hands a descriptor to a live worker and completes when the completion of that worker is written
to the host. -/
def Obligations.SkeinLossAndRelays : Prop :=
  (∀ (s : State) (slot : Fin 10), Can.command s slot 0x0904 [(8, 1)] = true →
    let m := byteAt (cmdDesc s slot) 8
    (m < 1 ∨ 15 < m → exec (.cmdSkeinExclude slot) s = .next (complete s slot stBadArgument [])) ∧
    (1 ≤ m → m ≤ 15 → (skeinManager s && skeinLive s m) = false →
      exec (.cmdSkeinExclude slot) s = .next (complete s slot stNotPermitted [])) ∧
    (1 ≤ m → m ≤ 15 → skeinManager s = true → skeinLive s m = true → ∃ u,
      exec (.cmdSkeinExclude slot) s = .next (complete u slot stOk []) ∧ memberGone s u m ∧
      (∀ k, k < 16 → skeinLive s k = true → k ≠ ownIndex s → k ≠ m → .skControl "LOSS" k [m] [] ∈ u.out) ∧
      (∀ r ∈ u.skein.relays, r.member ≠ m))) ∧
  (∀ (s : State) (m : BitVec 4), skeinFormed s = true → s.skein.manager = false → m ≠ s.skein.index → ∃ t,
    exec (.lossNotice m) s = .next t ∧ memberGone s t m.toNat ∧ t.skein.state = 2 ∧ t.skein.index = s.skein.index) ∧
  (∀ s : State, skeinFormed s = true → s.skein.manager = false → ∃ t, exec .managerLost s = .next t ∧ standalone t ∧
    skeinJobsEnd s t) ∧
  (∀ (s : State) (answered : BitVec 16) (m : Nat), skeinManager s = true → m < 16 → skeinLive s m = true → m ≠ ownIndex s →
    s.skein.index = 0 → ∃ t, exec (.heartbeat answered) s = .next t ∧
    (3 ≤ tget s.skein.unanswered m 0 → bitOf answered.toNat m = false → skeinLive t m = false) ∧
    (tget s.skein.unanswered m 0 < 3 ∨ bitOf answered.toNat m = true → skeinLive t m = true ∧
      .skControl "HEARTBEAT" m [] [] ∈ t.out ∧
      tget t.skein.unanswered m 0 = (if bitOf answered.toNat m then 1 else tget s.skein.unanswered m 0 + 1))) ∧
  (∀ s : State, skeinFormed s = true → s.skein.manager = false → ∃ t, exec .heartbeatArrival s = .next t ∧
    .skControl "HEARTBEAT_ANSWER" 0 [ownIndex s] [] ∈ t.out ∧ t.jobs = s.jobs ∧ t.parts = s.parts) ∧
  (∀ (s : State) (slot : Fin 10) (b : Bytes), Can.command s slot 0x0903 [(8, 1), (16, 16)] = true →
    let d := cmdDesc s slot
    let m := byteAt d 8
    let u := endReads s (fun x => x.reader == .lantern slot)
    (m < 1 ∨ 15 < m ∨ le d 16 8 % 128 ≠ 0 ∨ le d 24 8 % 32 ≠ 0 →
      exec (.cmdSkeinRelay slot (some b)) s = .next (complete s slot stBadArgument [])) ∧
    (1 ≤ m → m ≤ 15 → le d 16 8 % 128 = 0 → le d 24 8 % 32 = 0 →
      (byteAt b 1 = 9 ∨ (skeinManager s && skeinLive s m) = false →
        exec (.cmdSkeinRelay slot (some b)) s = .next (complete u slot stNotPermitted [])) ∧
      (byteAt b 1 ≠ 9 → skeinManager s = true → skeinLive s m = true → ∃ t, exec (.cmdSkeinRelay slot (some b)) s = .next t ∧
        t.skein.relays = s.skein.relays ++ [⟨slot, m, le d 24 8⟩] ∧ .skControl "RELAY" m [] (fit 128 b) ∈ t.out ∧
        (runningOf t slot.val).map (·.waiting) = some true ∧ t.jobs = s.jobs))) ∧
  (∀ (s : State) (m : BitVec 4) (b : Bytes) (r : Relay),
    s.skein.relays.find? (fun r => r.member == m.toNat) = some r → exec (.relayCompletion m b) s = .next (complete
      (hostWrite (setSkein s { s.skein with relays := s.skein.relays.erase r }) (slotFn s r.slot.val) r.cpl (fit 32 b))
      r.slot.val stOk []))

/-- CMD_SKEIN_PLACE, CMD_SKEIN_QUEUE, CREDIT_GRANT, CREDIT_GRANT_ACK, SEND_ENTRY, CREDIT_RETURN, MESSAGE and
SLOT_FREE. CMD_SKEIN_PLACE writes an expert-table entry, only with a newer epoch where a valid one stands.
CMD_SKEIN_QUEUE binds a queue that stands its checks: with no grants to others it completes at once, else when
the last of them is acknowledged. A grant adds a credit pool and is acknowledged; a refused one undoes the
binding with ST_NO_BUFFER. SEND_ENTRY takes one unit of SEM and its entry leaves while a credit is there: the
message, one credit fewer, one entry outstanding. A credit that comes back ends the entry and refills the pool.
A message of an older epoch, for an entry not valid or of a later epoch, or for an idle queue takes no slot and
is counted; an accepted one fills the next slot with header and payload. SLOT_FREE takes a unit of FREE_SEM and
frees the oldest slot. -/
def Obligations.SkeinQueues : Prop :=
  (∀ (s : State) (slot : Fin 10) (x : Partition), Can.partCommand s slot 0x0920 [(8, 7)] x = true →
    let d := cmdDesc s slot
    let e := le d 8 2
    let old := tget x.experts e {}
    let bad := decide (4096 ≤ e) || decide (16 ≤ byteAt d 10) || decide (8 ≤ byteAt d 11) || decide (2 ≤ byteAt d 14)
      || (byteAt d 14 == 1 && old.valid && !epochOlder old.epoch.toNat (le d 12 2))
    (bad = true → exec (.cmdSkeinPlace slot) s = .next (complete s slot stBadArgument [])) ∧
    (bad = false → (skeinFormed s && skeinLive s (byteAt d 10)) = false →
      exec (.cmdSkeinPlace slot) s = .next (complete s slot stNotPermitted [])) ∧
    (bad = false → skeinFormed s = true → skeinLive s (byteAt d 10) = true → exec (.cmdSkeinPlace slot) s
      = .next (complete (setPart s (descPart d) { x with
        experts := tset x.experts e ⟨BitVec.ofNat 4 (byteAt d 10), BitVec.ofNat 3 (byteAt d 11), BitVec.ofNat 16 (le d 12 2),
          byteAt d 14 == 1⟩ }) slot stOk []))) ∧
  (∀ (s : State) (slot : Fin 10) (x : Partition), Can.partCommand s slot 0x0921 [(8, 8), (16, 10), (32, 16)] x = true →
    let d := cmdDesc s slot
    let n := descPart d
    let q := byteAt d 8
    let v := queueRecord d
    let bytes := v.slots * (if v.receive then slotBytes v else 32)
    let sound := skeinFormed s && partOwnsSpire s n v.semSpire && partOwnsSpire s n v.freeSpire
      && decide (v.base + bytes ≤ regionBytes x) && !touchesAnyImage x v.base bytes && !touchesCtrl x v.base bytes
      && (v.grants.zipIdx.filter (fun e => e.1 ≠ 0)).all (fun e => skeinLive s e.2)
    (queueFields d = false ∨ (queueOf x q).isSome ≠ bitOf (byteAt d 9) 1 →
      exec (.cmdSkeinQueue slot) s = .next (complete s slot stBadArgument [])) ∧
    (queueFields d = true → (queueOf x q).isSome = true → bitOf (byteAt d 9) 1 = true → (queueJobs s n q).isEmpty = true →
      exec (.cmdSkeinQueue slot) s = .next (complete (setPart s n { x with skQueues := tdel x.skQueues q }) slot stOk [])) ∧
    (queueFields d = true → (queueOf x q).isSome = false → bitOf (byteAt d 9) 1 = false →
      (sound = false → exec (.cmdSkeinQueue slot) s = .next (complete s slot stNotPermitted [])) ∧
      (sound = true → v.grants.all (· == 0) = true → exec (.cmdSkeinQueue slot) s = .next (complete
        (setPart s n { x with skQueues := tset x.skQueues q { v with awaiting := [] } }) slot stOk [])) ∧
      (∀ m, sound = true → v.grants.getD m 0 ≠ 0 → v.grants.getD (ownIndex s) 0 = 0 → ∃ t,
        exec (.cmdSkeinQueue slot) s = .next t ∧ (runningOf t slot.val).map (·.waiting) = some true ∧
        .skControl "GRANT" m [n, q, v.slotClass, v.grants.getD m 0] [] ∈ t.out ∧
        ∃ y w, partOf t n = some y ∧ queueOf y q = some w ∧ m ∈ w.awaiting))) ∧
  (∀ (s : State) (part : Fin 8) (dest queue : BitVec 4) (dstPart : BitVec 3) (c k : Nat), skeinFormed s = true → ∃ t,
    exec (.creditGrant part dest dstPart queue c k) s = .next t ∧
    let p : CreditPool := ⟨part, dest, dstPart, queue, 256 * 2 ^ c, k⟩
    (s.skein.pools.length < 1024 → p ∈ t.skein.pools ∧
      .skControl "GRANT_ACK" dest.toNat [dstPart.toNat, queue.toNat, 1] [] ∈ t.out) ∧
    (addPool s p = none → t.skein.pools = s.skein.pools ∧
      .skControl "GRANT_ACK" dest.toNat [dstPart.toNat, queue.toNat, 0] [] ∈ t.out)) ∧
  (∀ (s : State) (m : BitVec 4) (part : Fin 8) (q : Fin 16) (x : Partition) (v : SkQueue), partOf s part.val = some x →
    queueOf x q.val = some v → m.toNat ∈ v.awaiting →
    let left := v.awaiting.filter (· ≠ m.toNat)
    let bound := setPart s part.val { x with skQueues := tset x.skQueues q.val { v with awaiting := left } }
    (left ≠ [] → exec (.creditGrantAck m part q true) s = .next bound) ∧
    (left = [] → exec (.creditGrantAck m part q true) s = .next (completeQueue bound part.val q.val stOk)) ∧
    (∃ u, exec (.creditGrantAck m part q false) s = .next (completeQueue u part.val q.val stNoBuffer) ∧
      (∃ y, partOf u part.val = some y ∧ queueOf y q.val = none) ∧
      ∀ k, v.grants.getD k 0 ≠ 0 → k ≠ ownIndex s → k ∉ v.awaiting → .skControl "WITHDRAW" k [part.val, q.val] [] ∈ u.out)) ∧
  (∀ (s : State) (part : Fin 8) (q : Fin 16) (x : Partition) (v : SkQueue) (e : SendEntry) (p : CreditPool),
    Can.sendEntry s part.val q.val x v e p = true → ∃ u, exec (.sendEntry part q) s = .next (freeEntry u part.val q.val
      { v with taken := 1 }) ∧
    (∃ m : SkMessage, .skMessage e.dest m ∈ u.out ∧ m.payload = storeRead x.region e.addr e.length ∧
      m.queue.toNat = e.queue % 16 ∧ m.expert.toNat = e.expert % 4096 ∧ m.epoch.toNat = e.epoch % 65536 ∧
      m.srcModule = s.skein.index ∧ m.srcPart.toNat = part.val) ∧
    (∃ y, partOf u part.val = some y ∧ y.outstanding.length = x.outstanding.length + 1 ∧
      queueOf y q.val = some { v with next := (v.next + 1) % v.slots, taken := 0 }) ∧
    (poolFor u part.val e).map (·.credits) = some (p.credits - 1) ∧
    (semOf u v.semSpire v.sem).value = (semOf s v.semSpire v.sem).value - 1) ∧
  (∀ (s : State) (part : Fin 8) (dest queue : BitVec 4) (dstPart : BitVec 3) (expert : BitVec 12) (epoch : BitVec 16)
      (x : Partition), partOf s part.val = some x → x.outstanding.contains ⟨dest, dstPart, queue, expert, epoch⟩ = true →
    (∀ k v, queueOf x k = some v → v.taken = 0) → exec (.creditReturn part dest dstPart queue expert epoch) s = .next
      (setSkein (setPart s part.val { x with outstanding := x.outstanding.erase ⟨dest, dstPart, queue, expert, epoch⟩ })
        { s.skein with pools := s.skein.pools.map (fun p =>
          if p.part = part ∧ p.dest = dest ∧ p.dstPart = dstPart ∧ p.queue = queue then
            { p with credits := p.credits + 1 } else p) })) ∧
  (∀ (s : State) (m : SkMessage) (x : Partition), partOf s m.dstPart.toNat = some x →
    let n := m.dstPart.toNat
    (judgeMessage s n x m ≠ .accepted → ∃ u, exec (.message m) s = .next (giveCredit u n m.queue.toNat m.srcModule.toNat
        m.srcPart.toNat m.expert.toNat m.epoch.toNat) ∧
      partOf u n = some (match judgeMessage s n x m with
        | .stale => { x with staleCount := satInc x.staleCount }
        | .early => { x with earlyCount := satInc x.earlyCount }
        | _ => { x with idleCount := satInc x.idleCount }) ∧ Only [.parts, .jobs] s u) ∧
    (∀ v, judgeMessage s n x m = .accepted → queueOf x m.queue.toNat = some v → v.filled.length < v.slots →
      64 + m.payload.length ≤ slotBytes v → Can.pulse s v.semSpire v.sem = true → ∃ t y, exec (.message m) s = .next t ∧
      partOf t n = some y ∧
      storeRead y.region (v.base + slotBytes v * v.next) (64 + m.payload.length) = slotHeader m ++ m.payload ∧
      queueOf y m.queue.toNat = some { v with
        next := (v.next + 1) % v.slots, filled := v.filled ++ [(m.srcModule, m.srcPart, m.expert, m.epoch)] } ∧
      (semOf t v.semSpire v.sem).value = (semOf s v.semSpire v.sem).value + 1)) ∧
  (∀ (s : State) (part : Fin 8) (q : Fin 16) (x : Partition) (v : SkQueue) (m : BitVec 4) (p : BitVec 3) (e : BitVec 12)
      (ep : BitVec 16) (rest : List (BitVec 4 × BitVec 3 × BitVec 12 × BitVec 16)), partOf s part.val = some x →
    queueOf x q.val = some v → v.receive = true → v.filled = (m, p, e, ep) :: rest →
    (semOf s v.freeSpire v.freeSem).barrier = false → (semOf s v.freeSpire v.freeSem).value ≠ 0 → ∃ u,
    exec (.slotFree part q) s = .next (giveCredit u part.val q.val m.toNat p.toNat e.toNat ep.toNat) ∧
    partOf u part.val = some { x with skQueues := tset x.skQueues q.val { v with filled := rest } } ∧
    (semOf u v.freeSpire v.freeSem).value = (semOf s v.freeSpire v.freeSem).value - 1 ∧ Only [.spires, .parts] s u)

/-- CMD_SKEIN_BARRIER, SKEIN_BARRIER, ARRIVE, SKEIN_RELEASE, PACE_REPORT, PACE_PUBLISH and PACE_CEILING.
CMD_SKEIN_BARRIER binds a barrier number to a semaphore of its partition, or unbinds it. A SYNC of a spindle at
a bound semaphore is one local arrival; the last local one sends ARRIVE to the manager, or arrives there. The
manager records arrivals, and the last module releases all. A release ends barrier use with VALUE 0 and the next
generation. A report shows the rate of the module; a publication sends the floor of 1.1 times the least rate of
the live members to each and takes it as the ceiling here; a ceiling lowers the issue fraction of every dome
above it unless a job holds its rate fixed. -/
def Obligations.SkeinBarriersAndPace : Prop :=
  (∀ (s : State) (slot : Fin 10), Can.command s slot 0x0930 [(8, 9)] = true →
    let d := cmdDesc s slot
    let b := byteAt d 8
    let n := descPart d
    (byteAt d 16 = 1 → b < 16 → byteAt d 11 = 0 → ∀ k, tfind s.skein.barriers b = some k → k.part.val = n →
      exec (.cmdSkeinBarrier slot) s
        = .next (complete (setSkein s { s.skein with barriers := tdel s.skein.barriers b }) slot stOk [])) ∧
    (byteAt d 16 = 1 → tfind s.skein.barriers b = none →
      exec (.cmdSkeinBarrier slot) s = .next (complete s slot stBadArgument [])) ∧
    (byteAt d 16 = 0 → b < 16 → byteAt d 11 = 0 → byteAt d 9 < 32 → byteAt d 10 < 32 → 1 ≤ le d 12 2 → le d 12 2 ≤ 288 →
      tfind s.skein.barriers b = none → bitOf (le d 14 2) (ownIndex s) = true →
      (bitsSet 16 (le d 14 2)).all (skeinLive s) = true →
      exec (.cmdSkeinBarrier slot) s = .next (
        if skeinFormed s && partOwnsSpire s n (byteAt d 10) then
          complete (setSkein s { s.skein with
            barriers := tset s.skein.barriers b
              ⟨Fin.ofNat 8 n, byteAt d 9, byteAt d 10, le d 12 2, BitVec.ofNat 16 (le d 14 2), 0⟩ }) slot stOk []
        else complete s slot stNotPermitted []))) ∧
  (∀ (s : State) (p : Fin 256) (j spire n c b : Nat) (k : SkBarrier), Can.skeinSync s p.val j spire n c b k = true → ∃ t,
    exec (.skeinBarrier p) s = .next t ∧
    let v := semOf s spire n
    ((v.value + 1).toNat ≠ c → semOf t spire n = { v with
      barrier := true, need := c, value := v.value + 1, arrivals := v.arrivals ++ [.spindle p.val] } ∧
      (spindleOf t p.val).agen.syncWaiting = true ∧ Only [.spindles, .spires] s t) ∧
    ((v.value + 1).toNat = c → skeinManager s = false → (spindleOf t p.val).agen.syncWaiting = true ∧ .skControl "ARRIVE" 0 [ownIndex s, b] [] ∈ t.out) ∧
    ((v.value + 1).toNat = c → skeinManager s = true → bitOf k.members.toNat (ownIndex s) = true →
      k.arrived ||| BitVec.ofNat 16 (2 ^ ownIndex s) ≠ k.members →
      (tfind t.skein.barriers b).map (·.arrived) = some (k.arrived ||| BitVec.ofNat 16 (2 ^ ownIndex s)))) ∧
  (∀ (s : State) (m : BitVec 4) (b : Fin 16) (k : SkBarrier), tfind s.skein.barriers b.val = some k → skeinManager s = true →
    bitOf k.members.toNat m.toNat = true →
    let got := k.arrived ||| BitVec.ofNat 16 (2 ^ m.toNat)
    (got ≠ k.members → exec (.arrive m b) s
      = .next (setSkein s { s.skein with barriers := tset s.skein.barriers b.val { k with arrived := got } })) ∧
    (got = k.members → ∃ t, exec (.arrive m b) s = .next t ∧ (tfind t.skein.barriers b.val).map (·.arrived) = some 0 ∧
      ∀ i, i < 16 → bitOf k.members.toNat i = true → i ≠ ownIndex s → .skControl "RELEASE" i [b.val] [] ∈ t.out)) ∧
  (∀ (s : State) (b : Fin 16) (k : SkBarrier), tfind s.skein.barriers b.val = some k → (semOf s k.spire k.sem).barrier = true →
    (semOf s k.spire k.sem).queue = [] → (∀ w ∈ (semOf s k.spire k.sem).arrivals, ∃ p, w = .spindle p) →
    (semOf s k.spire k.sem).pendingReturn = 0 →
    ∃ t, exec (.skeinRelease b) s = .next t ∧ (semOf t k.spire k.sem).value = 0 ∧ (semOf t k.spire k.sem).barrier = false ∧
    (semOf t k.spire k.sem).gen = (semOf s k.spire k.sem).gen + 1 ∧ (semOf t k.spire k.sem).arrivals = [] ∧
    t.skein = s.skein) ∧
  (∀ s : State, skeinFormed s = true → s.skein.pace = true → ∃ t, exec .paceReport s = .next t ∧
    t.skein.own = BitVec.ofNat 16 (ownRate s) ∧
    (s.skein.manager = true → tfind t.skein.reported 0 = some (BitVec.ofNat 16 (ownRate s))) ∧
    (s.skein.manager = false → .skControl "PACE_REPORT" 0 [ownIndex s, ownRate s] [] ∈ t.out) ∧
    t.domes = s.domes ∧ t.jobs = s.jobs) ∧
  (∀ (s : State) (m : BitVec 4) (e : BitVec 16), skeinManager s = true → s.skein.pace = true → skeinLive s m.toNat = true →
    s.skein.reported = [] → ∃ t, exec (.pacePublish [(m, e)]) s = .next t ∧
    let c := min (e.toNat * 11 / 10) 0xFFFF
    t.skein.ceiling.toNat = c ∧ tfind t.skein.reported m.toNat = some e ∧
    ∀ k, k < 16 → skeinLive s k = true → k ≠ ownIndex s → .skControl "PACE" k [c] [] ∈ t.out) ∧
  (∀ (s : State) (c : BitVec 16), skeinFormed s = true → s.skein.pace = true → ∃ t, exec (.paceCeiling c) s = .next t ∧
    t.skein = { s.skein with ceiling := c } ∧
    (s.jobs.any (fun e => fixedRateJob e.2) = true → t.domes = s.domes) ∧
    (s.jobs.any (fun e => fixedRateJob e.2) = false → ∀ d, d < 4 →
      let x := domeOf s d
      domeOf t d = (if x.rate.toNat * x.fraction.toNat / 255 ≤ c.toNat then x
        else { x with fraction := BitVec.ofNat 8 (c.toNat * 255 / x.rate.toNat) })) ∧ Only [.domes, .skein] s t)

/-- The stream, port, ring and reorder commands of stream intake. Covers CMD_STREAM_OPEN, CMD_STREAM_CLOSE,
STREAM_DRAIN_END, MED_RING_DOORBELL, RING_ENTRY_READ, CHUNK_COPY_COMPLETE, CMD_PORT_CONFIG, ETH_LINK_CHANGE,
FRAME_RECEIVE and REORDER_TIMEOUT. Opening a closed stream puts it in SEEK with what the command declares and,
where the latency that LTR reports changes, sends it; closing it drops what has not begun, drains it and
completes when STREAM_DRAIN_END closes it. A doorbell of a count in range asks for the next entry, another is
counted. An entry that begins or goes on with a unit asks for its chunk; a broken one and a failed read are
counted and consumed. The bytes of a chunk stand behind those of the unit; the last piece consumes the entry,
and one with END completes the unit. CMD_PORT_CONFIG sets a port without flows; its link follows
ETH_LINK_CHANGE. A frame is counted by its failure, answered, or matched to a flow, where a packet in order puts
its bytes in the unit and a duplicate or late one is counted. After the reorder time the gap before the nearest
held packet is counted lost. -/
def Obligations.StreamsAndIntake : Prop :=
  (∀ (s : State) (slot : Fin 10) (p : Partition), Can.partCommand s slot 0x0501 [(8, 84)] p = true →
    let d := cmdDesc s slot
    let k := le d 8 2
    let x := streamOf s k
    (openFields p d = false → exec (.cmdStreamOpen slot) s = .next (complete s slot stBadArgument [])) ∧
    (openFields p d = true → x.state ≠ 0 → exec (.cmdStreamOpen slot) s
      = .next (complete s slot (if x.part.val = descPart d then stBadArgument else stNotPermitted) [])) ∧
    (openFields p d = true → x.state = 0 → flowRefused s d = true →
      exec (.cmdStreamOpen slot) s = .next (complete s slot stNotPermitted [])) ∧
    (openFields p d = true → x.state = 0 → flowRefused s d = false → ∃ y : Stream,
      exec (.cmdStreamOpen slot) s = .next (complete (reportLtr (liveRingOpen s) (setStream s k y)) slot stOk []) ∧ y.state = 1 ∧
      y.part = Fin.ofNat 8 (descPart d) ∧ y.source = byteAt d 10 ∧ y.auPool = Fin.ofNat 8 (byteAt d 11) ∧
      y.decode = slice d 12 16 ∧ y.ringBase = le d 28 8 ∧ y.ringStatus = le d 36 8 ∧ y.ringEntries = le d 44 4 ∧
      y.fn = slotFn s slot ∧ y.flow = slice d 48 44 ∧ y.produced = 0 ∧ y.consumed = 0 ∧ y.delivered = 0 ∧
      y.ready = [] ∧ y.refs = [] ∧ y.consumer = none)) ∧
  (∀ (s : State) (slot : Fin 10), Can.command s slot 0x0502 [(8, 3)] = true →
    let d := cmdDesc s slot
    let k := le d 8 2
    let x := streamOf s k
    (256 ≤ k ∨ 2 ≤ byteAt d 10 ∨ x.state = 0 ∨ x.state = 4 →
      exec (.cmdStreamClose slot) s = .next (complete s slot stBadArgument [])) ∧
    (k < 256 → byteAt d 10 < 2 → x.state ≠ 0 → x.state ≠ 4 →
      (x.part.val ≠ descPart d → exec (.cmdStreamClose slot) s = .next (complete s slot stNotOwner [])) ∧
      (x.part.val = descPart d → ∃ t, exec (.cmdStreamClose slot) s = .next t ∧
        (runningOf t slot.val).map (·.waiting) = some true ∧ streamOf t k = { x with
          state := 4, flush := byteAt d 10 == 1, ringStopped := true, entry := none, copied := 0, assembling := none
          skipUnit := false, held := [], ready := [], waitingPic := none, refs := [] } ∧
        (∀ i, i ≠ k → streamOf t i = streamOf s i) ∧ t.decoders = s.decoders ∧ t.suspended = s.suspended))) ∧
  (∀ (s : State) (k : Fin 256), (streamOf s k.val).state = 4 → decoding s k.val = false → ∃ t,
    exec (.streamDrainEnd k) s = .next t ∧ (streamOf t k.val).state = 0 ∧ (streamOf t k.val).reorder = [] ∧
    (streamOf t k.val).refs = [] ∧
    ∀ i r, i < 10 → runningOf s i = some r → r.waiting = true → le r.desc 0 2 = 0x0502 → le r.desc 8 2 = k.val →
      runningOf t i = none) ∧
  (∀ (s : State) (fn : Fn) (k : Fin 256) (v : Word), Can.ringDoorbell s fn.val k.val = true →
    let x := streamOf s k.val
    let inRange := decide (countDiff x.produced x.consumed ≤ countDiff v x.consumed)
      && decide (countDiff v x.consumed ≤ x.ringEntries)
    (inRange = false → exec (.medRingDoorbell fn k v) s
      = .next (setStream s k.val { x with badEntry := satInc x.badEntry })) ∧
    (inRange = true → ∃ t, exec (.medRingDoorbell fn k v) s = .next t ∧ streamOf t k.val = { x with produced := v } ∧
      (x.entry = none → v ≠ x.consumed → readOf s (.intake k.val) = none → ∃ r ∈ t.hif.reads,
        r.reader = .intake k.val ∧ r.fn = x.fn ∧ r.bytes = 32 ∧
        r.addr = x.ringBase + 32 * (x.consumed.toNat % x.ringEntries)) ∧ Only [.streams, .hif, .out] s t)) ∧
  (∀ (s : State) (k : Fin 256) (b : Bytes) (r : HostRead), readOf s (.intake k.val) = some r → streamRuns (streamOf s k.val) = true →
    (streamOf s k.val).entry = none →
    let x := streamOf s k.val
    let e := fit 32 b
    let fl := byteAt e 12
    let u := endReads s (fun q => q.reader == .intake k.val)
    let taken := modStream u k.val (fun y => { y with entry := some e })
    (entryBroken e = false → fl % 2 = 0 → fl < 4 → x.assembling.isSome = true →
      exec (.ringEntryRead k (some b)) s = .next (readPiece taken k.val)) ∧
    (entryBroken e = false → fl % 2 = 1 → fl < 4 → x.assembling = none →
      (beginUnit taken k.val (BitVec.ofNat 64 (le e 16 8)) 0).2 = true → exec (.ringEntryRead k (some b)) s
        = .next (readPiece (beginUnit taken k.val (BitVec.ofNat 64 (le e 16 8)) 0).1 k.val)) ∧
    (entryBroken e = true → ∃ t, exec (.ringEntryRead k (some b)) s = .next t ∧
      (streamOf t k.val).badEntry = satInc x.badEntry ∧ (streamOf t k.val).consumed = x.consumed + 1 ∧
      (streamOf t k.val).entry = none ∧ (streamOf t k.val).aus = x.aus) ∧
    (∃ t, exec (.ringEntryRead k none) s = .next t ∧ (streamOf t k.val).badEntry = satInc x.badEntry ∧
      (streamOf t k.val).consumed = x.consumed + 1)) ∧
  (∀ (s : State) (k : Fin 256) (b e : Bytes) (r : HostRead) (a : AccessUnit) (p : Partition),
    readOf s (.intake k.val) = some r → (streamOf s k.val).entry = some e → (streamOf s k.val).assembling = some a →
    partOf s (streamOf s k.val).part.val = some p →
    let x := streamOf s k.val
    let n := min 4096 (le e 8 4 - x.copied)
    a.bytes + n ≤ (bobbinRange p a.handle).2 → ∃ t q, exec (.chunkCopyComplete k (some b)) s = .next t ∧
    partOf t x.part.val = some q ∧ storeRead q.region ((bobbinRange p a.handle).1 + a.bytes) n = fit n b ∧
    (x.copied + n < le e 8 4 → (streamOf t k.val).copied = x.copied + n ∧ (streamOf t k.val).entry = some e ∧
      (streamOf t k.val).assembling = some { a with bytes := a.bytes + n } ∧ ∃ w ∈ t.hif.reads, w.reader = .intake k.val ∧
        w.addr = le e 0 8 + x.copied + n) ∧
    (le e 8 4 ≤ x.copied + n → (streamOf t k.val).consumed = x.consumed + 1 ∧ (streamOf t k.val).entry = none ∧
      (bitOf (byteAt e 12) 1 = false → (streamOf t k.val).assembling = some { a with bytes := a.bytes + n }) ∧
      (bitOf (byteAt e 12) 1 = true → (streamOf t k.val).assembling = none ∧ (streamOf t k.val).aus = satInc x.aus ∧
        (streamOf t k.val).ready = x.ready ++ [{ a with bytes := a.bytes + n, order := s.orders }]))) ∧
  (∀ (s : State) (slot : Fin 10), Can.command s slot 0x0510 [(8, 10), (20, 20)] = true →
    let d := cmdDesc s slot
    let p := byteAt d 8
    let fl := byteAt d 9
    p < 2 → fl < 16 → field fl 2 2 ≠ 3 → (bitOf fl 1 = true → 1 ≤ le d 10 2 ∧ le d 10 2 ≤ 4094) →
    (bitOf fl 1 = false → le d 10 2 = 0) → bitOf (byteAt d 12) 0 = false →
    exec (.cmdPortConfig slot) s = .next (
      if s.streams.any (fun e => flowOn e.2 p) then complete s slot stNotPermitted []
      else complete (setNetPort s p { netPortOf s p with
        link := false, enabled := bitOf fl 0, fec := BitVec.ofNat 2 (field fl 2 2)
        vlan := if bitOf fl 1 then some (BitVec.ofNat 12 (le d 10 2)) else none
        mac := BitVec.ofNat 48 (le d 12 6), ipv4 := BitVec.ofNat 32 (le d 20 4), ipv6 := BitVec.ofNat 128 (le d 24 16) })
        slot stOk [])) ∧
  (∀ (s : State) (p : Fin 2) (up : Bool), exec (.ethLinkChange p up) s = .next (setNetPort s p.val
    { netPortOf s p.val with link := up && (netPortOf s p.val).enabled })) ∧
  (∀ (s : State) (p : Fin 2) (f : Frame) (stamp : BitVec 64), (netPortOf s p.val).link = true →
    (netPortOf s p.val).enabled = true → ∃ t, exec (.frameReceive p f stamp) s = .next t ∧
    let x := { netPortOf s p.val with counter := stamp }
    let ours := macAccepts x f.dstMac && (x.vlan.isNone || x.vlan == f.vlan)
    let y := netPortOf t p.val
    y.counter = stamp ∧
    (f.fcsOk = false → y = { x with fcs := satInc x.fcs } ∧ Only [.netPorts] s t) ∧
    (f.fcsOk = true → ours = false → y = x ∧ Only [.netPorts] s t) ∧
    (f.fcsOk = true → ours = true → f.malformed = true → y = { x with malformed := satInc x.malformed } ∧ Only [.netPorts] s t) ∧
    (f.fcsOk = true → ours = true → f.malformed = false → f.body = .other →
      y = { x with unmatched := satInc x.unmatched } ∧ Only [.netPorts] s t) ∧
    (∀ a b m, f.fcsOk = true → ours = true → f.malformed = false → f.body = .arpRequest a b m → x.ipv4 ≠ 0 → a = x.ipv4 →
      t.out = .ethReply p.val m (BitVec.ofNat 128 b.toNat) :: s.out ∧ Only [.netPorts, .out] s t) ∧
    (∀ a b m, f.fcsOk = true → ours = true → f.malformed = false → f.body = .neighbour a b m → x.ipv6 ≠ 0 → a = x.ipv6 →
      t.out = .ethReply p.val m b :: s.out ∧ Only [.netPorts, .out] s t) ∧
    (∀ ssrc ntp rtp k, f.fcsOk = true → ours = true → f.malformed = false → f.body = .senderReport ssrc ntp rtp →
      matchingFlow s p.val (fun w => w.reports && filtersMatch w f ssrc && w.udp + 1 == f.udpPort.toNat) = some k →
      streamOf t k = { streamOf s k with srNtp := ntp, srRtp := rtp, srStamp := stamp.truncate 32 } ∧
      Only [.netPorts, .streams] s t) ∧
    (∀ pt seq ts mk ssrc pl k, f.fcsOk = true → ours = true → f.malformed = false → f.body = .rtp pt seq ts mk ssrc pl →
      matchingFlow s p.val (fun w => filtersMatch w f ssrc && w.udp == f.udpPort.toNat && w.pt == pt) = some k →
      y.rx = satInc x.rx ∧
      (let w := streamOf s k
       ((w.held.any (fun h => h.seq == seq) || seqAhead w seq == 65535) = true →
        streamOf t k = { w with dup := satInc w.dup } ∧ Only [.netPorts, .streams] s t) ∧
       (w.held.any (fun h => h.seq == seq) = false → 32768 ≤ seqAhead w seq → seqAhead w seq < 65535 →
        streamOf t k = { w with late := satInc w.late } ∧ Only [.netPorts, .streams] s t) ∧
       (∀ a b q, w.held = [] → w.nextSeq = some seq → w.assembling = some a → w.lastTs = some ts → pl = some b → mk = false →
        partOf s w.part.val = some q → a.bytes + b.length ≤ (bobbinRange q a.handle).2 →
        streamOf t k = { w with nextSeq := some (seq + 1), assembling := some { a with bytes := a.bytes + b.length } } ∧
        ∃ q', partOf t w.part.val = some q' ∧
          storeRead q'.region ((bobbinRange q a.handle).1 + a.bytes) b.length = b)))) ∧
  (∀ (s : State) (k : Fin 256) (h : HeldPacket), streamRuns (streamOf s k.val) = true → (streamOf s k.val).held = [h] → ∃ t,
    exec (.reorderTimeout k) s = .next t ∧
    (streamOf t k.val).gaps = satAdd (streamOf s k.val).gaps (seqAhead (streamOf s k.val) h.seq) ∧
    (streamOf t k.val).held = [] ∧ (streamOf t k.val).nextSeq = some (h.seq + 1))

/-- PICTURE_START, WAIT_BUF_RETRY, PICTURE_DROP, CONTEXT_SWITCH, PICTURE_COMPLETE, PICTURE_REJECT, PICTURE_ABANDON,
MOTION_SEARCH_REQUEST and MOTION_SEARCH_COMPLETE. A free engine takes the picture next in order: a saved or
granted one goes on; a unit in SEEK that is no random-access point is discarded, one whose header fails is
rejected, one without bobbins waits, any other runs. A wait ends with the bobbins, or with the drop of the
picture past its limit. A review picture gives its engine up to a live one. A completed picture within its
budget frees the engine and updates the average of its class; one above it is abandoned; a rejected or abandoned
picture is counted, sends the stream to SEEK and removes its references. A motion search that fails a check is
answered at once; any other holds its unit until the results of every block stand in the region of its
partition. -/
def Obligations.PicturesAndMotion : Prop :=
  (∀ (s : State) (e : Fin 8) (i : PicInfo) (k : Nat), (decoderOf s e.val).state = 0 →
    let v := decoderOf s e.val
    let running := if (streamDecl (streamOf s k)).review then 2#4 else 1#4
    let x := streamOf s k
    (∀ p, nextReady s = some (.saved k p) → exec (.pictureStart e i) s = .next (setDecoder
      { s with suspended := s.suspended.filter (fun u => u.1 ≠ k) } e.val { v with
        state := running, row := p.row, valid := true, stream := BitVec.ofNat 8 k, picture := some p })) ∧
    (∀ p, nextReady s = some (.granted k p) → ∃ t, exec (.pictureStart e i) s = .next t ∧
      streamOf t k = { x with waitingPic := none } ∧ decoderOf t e.val = { v with
        state := running, row := p.row, valid := true, stream := BitVec.ofNat 8 k
        picture := some { p with start := s.time.toNat } } ∧ Only [.streams, .decoders] s t) ∧
    (∀ a, nextReady s = some (.unit k a) →
      let j := knownInfo x i
      let p : Picture := { number := x.pictures, info := some j, au := a, start := s.time.toNat }
      let u := setStream (setDecoder s e.val { v with state := 0 }) k { x with ready := x.ready.tail, pictures := x.pictures + 1 }
      (x.state = 1 → j.rap = false → ∃ t, exec (.pictureStart e i) s = .next t ∧ streamOf t k = { x with
        ready := x.ready.tail, discarded := satInc x.discarded, dropped := x.dropped + 1 } ∧ decoderOf t e.val = v) ∧
      (x.state ≠ 1 → i.rasl = true → x.seekEntered = true → j.rap = false → ∃ t, exec (.pictureStart e i) s = .next t ∧
        streamOf t k = { x with ready := x.ready.tail, dropped := x.dropped + 1 } ∧ decoderOf t e.val = v) ∧
      (j.rap = true ∨ (x.state ≠ 1 ∧ (i.rasl && x.seekEntered) = false) →
        (∀ st, headerFailure x a j = some st → ∃ t, exec (.pictureStart e i) s = .next t ∧
          (streamOf t k).rejected = satInc x.rejected ∧ (streamOf t k).lastStatus = st ∧ (streamOf t k).state = 1 ∧
          (streamOf t k).refs = [] ∧ (streamOf t k).dropped = x.dropped + 1 ∧ (decoderOf t e.val).state = 0 ∧
          (decoderOf t e.val).pics = satInc v.pics) ∧
        (∀ w p', headerFailure x a j = none → acquirePicture u k p j = (w, some p') → ∃ t,
          exec (.pictureStart e i) s = .next t ∧ (streamOf t k).state = 2 ∧
          (j.rap = true → (streamOf t k).seekEntered = (x.state == 1)) ∧ (streamOf t k).ready = x.ready.tail ∧
          decoderOf t e.val = { v with
            state := running, row := p'.row, valid := true, stream := BitVec.ofNat 8 k, picture := some p' }) ∧
        (∀ w, headerFailure x a j = none → acquirePicture u k p j = (w, none) → ∃ t,
          exec (.pictureStart e i) s = .next t ∧ (streamOf t k).state = 3 ∧ (decoderOf t e.val).state = 0 ∧
          (streamOf t k).waitingPic = some { p with since := s.time.toNat })))) ∧
  (∀ (s : State) (k : Fin 256) (p : Picture) (i : PicInfo), (streamOf s k.val).state = 3 →
    (streamOf s k.val).waitingPic = some p → p.info = some i → ∃ t, exec (.waitBufRetry k) s = .next t ∧
    (∀ w p', acquirePicture s k.val p i = (w, some p') → (streamOf t k.val).state = 2 ∧
      (streamOf t k.val).waitingPic = some p') ∧
    (∀ w, acquirePicture s k.val p i = (w, none) → t = w ∧ (streamOf t k.val).state = 3)) ∧
  (∀ (s : State) (k : Fin 256) (p : Picture), (streamOf s k.val).state = 3 → (streamOf s k.val).waitingPic = some p →
    (streamDecl (streamOf s k.val)).review = false →
    p.since + (streamDecl (streamOf s k.val)).waitLimit < s.time.toNat → ∃ t, exec (.pictureDrop k) s = .next t ∧
    streamOf t k.val = { streamOf s k.val with
      waitingPic := none, discarded := satInc (streamOf s k.val).discarded, dropped := (streamOf s k.val).dropped + 1
      lastStatus := stNoBuffer, state := 1, seekEntered := true, refs := [] } ∧ t.decoders = s.decoders) ∧
  (∀ (s : State) (e : Fin 8) (row : BitVec 12) (p : Picture), (decoderOf s e.val).picture = some p →
    (decoderOf s e.val).state = 2 → (∀ k, k < 8 → (decoderOf s k).state ≠ 0) → liveReady s = true →
    exec (.contextSwitch e row) s = .next (setDecoder
      { s with suspended := s.suspended ++ [((decoderOf s e.val).stream.toNat, { p with row := row })] } e.val
      { decoderOf s e.val with state := 3, row := 0, valid := false, picture := none })) ∧
  (∀ (s : State) (e : Fin 8) (p : Picture) (i : PicInfo) (q : Partition) (sym : Nat) (luma chroma : Bytes),
    (decoderOf s e.val).state = 1 ∨ (decoderOf s e.val).state = 2 → (decoderOf s e.val).picture = some p → p.info = some i →
    let v := decoderOf s e.val
    let k := v.stream.toNat
    let x := streamOf s k
    partOf s x.part.val = some q → sym ≤ budgetOf x p → pictureBad q x p = false → ∃ t,
    exec (.pictureComplete e sym luma chroma) s = .next t ∧
    decoderOf t e.val = { v with state := 0, valid := false, picture := none, row := 0, pics := satInc v.pics } ∧
    (streamOf t k).lastStatus = stOk ∧
    (intraClass p = true → (streamOf t k).avgIntra = newAverage x.avgIntra sym ∧ (streamOf t k).avgInter = x.avgInter) ∧
    (intraClass p = false → (streamOf t k).avgInter = newAverage x.avgInter sym ∧ (streamOf t k).avgIntra = x.avgIntra) ∧
    (streamOf t k).refs = x.refs.filter (fun r => !i.unmarked.contains r.1)
      ++ (match p.slot with | none => [] | some h => [(p.number, h)]) ∧
    (i.outputs = true → i.flush = false → (streamDecl x).codec < 2 → x.reorder.length < i.reorder →
      (streamOf t k).reorder = x.reorder ++ [{ p with finish := s.time.toNat, symbols := sym }] ∧
      (streamOf t k).delivered = x.delivered)) ∧
  (∀ (s : State) (e : Fin 8) (p : Picture) (i : PicInfo) (sym : Nat) (st : Status),
    (decoderOf s e.val).state = 1 ∨ (decoderOf s e.val).state = 2 → (decoderOf s e.val).picture = some p → p.info = some i →
    let v := decoderOf s e.val
    let k := v.stream.toNat
    let x := streamOf s k
    x.state ≠ 0 → x.state ≠ 4 →
    (sym ≤ budgetOf x p → st = stBadArgument ∨ st = stDimExceeds ∨ st = stUncorrectable → ∃ t,
      exec (.pictureReject e sym st) s = .next t ∧ (streamOf t k).rejected = satInc x.rejected ∧
      (streamOf t k).lastStatus = st ∧ (streamOf t k).state = 1 ∧ (streamOf t k).refs = [] ∧ (decoderOf t e.val).state = 0 ∧
      (decoderOf t e.val).pics = satInc v.pics) ∧
    (∀ c, c = .pictureAbandon e ∨ (budgetOf x p < sym ∧ c = .pictureReject e sym st) → ∃ t,
      exec c s = .next t ∧ (streamOf t k).abandoned = satInc x.abandoned ∧
      (streamOf t k).lastStatus = stBudgetExceeded ∧ (streamOf t k).state = 1 ∧ (streamOf t k).refs = [] ∧
      (decoderOf t e.val).state = 0 ∧ (decoderOf t e.val).picture = none)) ∧
  (∀ (s : State) (u : Fin 2) (n : Fin 8) (o : BitVec 16) (b : Bytes) (x : Partition), partOf s n.val = some x →
    (motionOf s u.val).state = 0 → exec (.motionSearchRequest u n o b) s = .next (
      match searchFailure x o (fit 64 b) with
      | some st => emit s (.requestDone n.val st)
      | none => setMotion s u.val { state := 1, remaining := BitVec.ofNat 13 (decodeSearch (fit 64 b)).count, part := n
                                    owner := o, request := fit 64 b })) ∧
  (∀ (s : State) (u : Fin 2) (x : Partition), (motionOf s u.val).state = 1 → (motionOf s u.val).step = none →
    partOf s (motionOf s u.val).part.val = some x →
    let m := motionOf s u.val
    let q := decodeSearch m.request
    searchBad x q.cur q.ref = false → badRead x q.list (8 * q.count) = false → badRead x q.out (8 * q.count) = false → ∃ t y,
    exec (.motionSearchComplete u) s = .next t ∧ motionOf t u.val = {} ∧ t.out = .requestDone m.part.val stOk :: s.out ∧
    partOf t m.part.val = some y ∧
    storeRead y.region q.out (8 * q.count) = (searchBlocks x q).flatMap (fun b =>
      resultBytes (blockResult (searchPair x q.cur q.ref) q b.1 b.2.1 b.2.2.1 b.2.2.2)) ∧
    Only [.motion, .parts, .out] s t)

/-- PREPARATION_REQUEST, WORK_ITEM_START, WORK_ITEM_COMPLETE, BATCH_COMPLETE, BATCH_OPEN_RETRY, LIVE_REQUEST_DROP
and RESULT_BOBBIN_RETRY. A request that fails a check has no effect but the report of an uncorrectable error.
One box of a request takes the next slot of the open batch and becomes a work item; without an open batch, a
request goes on where its pool grants one, and else waits. A free unit takes the next item, LIVE ones first, and
reads a host image for a host slot. A completed item fills its slot: pad values for an empty box, else the
packed pixels, or the host image, and its counts of saturations and underflows are added. A closed batch whose
slots are all filled gets its header and goes to its network. A LIVE request past its limit leaves the queue. A
batch that waits for a result bobbin tries again, or ends with ST_NO_BUFFER where it is LIVE and past its limit. -/
def Obligations.PreparationAndBatches : Prop :=
  (∀ (s : State) (pipe : Fin 256) (b : Bytes) (x : Partition), (pipeOf s pipe.val).valid = true →
    partOf s (pipeOf s pipe.val).part.val = some x →
    let n := (pipeOf s pipe.val).part.val
    let q := fit 64 b
    let p := decodePrep q
    (∀ st, prepFailure x pipe.val q none = some st → exec (.preparationRequest pipe b) s
      = .next (if st = stUncorrectable then dramUncorrectable s n [(p.boxes, 16 * p.boxCount)] 0xFFFFFFFF 0xFFFF else s)) ∧
    (∀ v batch box, prepFailure x pipe.val q none = none → boundQueue x p.queue = some v → v.waiting = [] →
      openBatch v = some batch → requestBoxes x p = [box] → p.close = false →
      batch.slots.length + 1 < (decodeDecl v.decl).slots → ∃ t y w,
      let r : PrepReq := { number := s.orders, pipe := pipe.val, bytes := q, boxes := [box], since := s.time.toNat }
      exec (.preparationRequest pipe b) s = .next t ∧ partOf t n = some y ∧ boundQueue y p.queue = some w ∧ w.waiting = [] ∧
      openBatch w = some { batch with slots := batch.slots ++ [slotOf x (decodeDecl v.decl) r 0 box] } ∧
      t.workItems = s.workItems ++ [{ part := (pipeOf s pipe.val).part, queue := p.queue, seq := batch.seq,
                                      slot := batch.slots.length, number := s.orders, pipe := pipe.val, live := p.live,
                                      request := q, box := box }] ∧
      t.orders = s.orders + 1)) ∧
  (∀ (s : State) (u : Fin 4) (w : WorkItem), (prepUnitOf s u.val).state = 0 → nextItem s.workItems = some w → ∃ t,
    exec (.workItemStart u) s = .next t ∧
    let host := (decodePrep w.request).host
    prepUnitOf t u.val = { state := if host then 2 else 1, part := BitVec.ofNat 3 w.part.val,
                           queue := BitVec.ofNat 4 w.queue, item := some w } ∧
    t.workItems = s.workItems.erase w ∧ (host = false → Only [.workItems, .prepUnits] s t) ∧
    (host = true → ∃ r ∈ t.hif.reads, r.reader = .hostSlot u.val ∧ r.fn = w.part.val + 1 ∧
      r.addr = (decodePrep w.request).boxes)) ∧
  (∀ (s : State) (u : Fin 4) (w : WorkItem) (x : Partition) (v : BatchQueue) (b : Batch) (slot : BatchSlot) (img : Bytes),
    (prepUnitOf s u.val).item = some w → itemSlot s w = some (x, v, b, slot) → slot.done = false →
    slotBad x v b w.slot = false →
    let d := decodeDecl v.decl
    let p := decodePrep w.request
    let f := frameInfo x p.src
    let px := cropPixels x.region f d p slot
    let flat := px.flatten
    let place := slotPlace x d b.handle w.slot
    (p.host = true → ∃ t y v' b', exec (.workItemComplete u (some img)) s = .next t ∧ prepUnitOf t u.val = {} ∧
      itemSlot t w = some (y, v', b', { slot with done := true }) ∧
      storeRead y.region place (slotSize d) = hostSlotBytes d p img) ∧
    (p.host = false → frameBad x f = false → ∃ t y v' b', exec (.workItemComplete u none) s = .next t ∧
      prepUnitOf t u.val = {} ∧
      (bitOf slot.flags.toNat 4 = true → itemSlot t w = some (y, v', b', { slot with done := true }) ∧
        storeRead y.region place (slotSize d) = padSlot d ∧ t.prepSat = s.prepSat ∧ t.prepUfl = s.prepUfl) ∧
      (bitOf slot.flags.toNat 4 = false → itemSlot t w = some (y, v', b', { slot with
          done := true
          flags := slot.flags ||| BitVec.ofNat 8 (packBits [(2, flag (flat.any (·.outside))), (3, flag (whollyOutside slot))]) }) ∧
        storeRead y.region place (slotSize d) = packSlot d (px.map (fun r => r.map (·.elems))) ∧
        t.prepSat = satAdd s.prepSat (flat.map (·.sat)).sum ∧ t.prepUfl = satAdd s.prepUfl (flat.map (·.ufl)).sum) ∧
      t.workItems = s.workItems)) ∧
  (∀ (s : State) (n : Fin 8) (q : Fin 16) (x : Partition) (v : BatchQueue) (b : Batch), partOf s n.val = some x →
    boundQueue x q.val = some v → v.batches.find? (fun b => !b.complete) = some b →
    ((b.closed && b.slots.all (·.done)) = false → exec (.batchComplete n q) s = .next s) ∧
    ((b.closed && b.slots.all (·.done)) = true → ∃ u y, exec (.batchComplete n q) s = .next (runBatches u n.val q.val) ∧
      partOf u n.val = some y ∧ storeRead y.region (bobbinRange x b.handle).1 (headerSize (decodeDecl v.decl))
        = fit (headerSize (decodeDecl v.decl)) (batchHeader (decodeDecl v.decl) b) ∧
      boundQueue y q.val = some (modBatch v b.seq (fun b => { b with complete := true, since := s.time.toNat })) ∧
      Only [.parts] s u)) ∧
  (∀ (s : State) (n : Fin 8) (q : Fin 16) (x : Partition) (v : BatchQueue) (r : PrepReq), partOf s n.val = some x →
    boundQueue x q.val = some v → v.waiting = [r] → r.assigned + 1 = r.boxes.length → openBatch v = none →
    (decodePrep r.bytes).close = false → 2 ≤ (decodeDecl v.decl).slots →
    (∀ w, openNewBatch s n.val q.val v (pipeOf s v.pipe).live = (w, none) →
      exec (.batchOpenRetry n q) s = .next (settlePipe w v.pipe)) ∧
    (∀ w v', openNewBatch s n.val q.val v (pipeOf s v.pipe).live = (w, some v') → ∃ u,
      exec (.batchOpenRetry n q) s = .next (settlePipe u v.pipe) ∧ u.workItems = s.workItems ++
        [{ part := n, queue := q.val, seq := v.nextSeq, slot := 0, number := r.number, pipe := r.pipe,
           live := (decodePrep r.bytes).live, request := r.bytes, box := r.boxes.getD r.assigned (0, 0, 0, 0) }] ∧
      ∃ y v2 b, partOf u n.val = some y ∧ boundQueue y q.val = some v2 ∧ v2.waiting = [] ∧ openBatch v2 = some b ∧
        b.seq = v.nextSeq ∧ b.slots.length = 1 ∧ v2.nextSeq = v.nextSeq + 1)) ∧
  (∀ (s : State) (n : Fin 8) (q : Fin 16) (x : Partition) (v : BatchQueue) (r : PrepReq) (rest : List PrepReq),
    partOf s n.val = some x → boundQueue x q.val = some v → v.waiting = r :: rest →
    let late := (decodePrep r.bytes).live && decide (r.since + (decodeDecl v.decl).waitLimit < s.time.toNat)
    (late = false → exec (.liveRequestDrop n q) s = .next s) ∧
    (late = true → ∃ u y, exec (.liveRequestDrop n q) s = .next (settlePipe (runQueue u n.val q.val) r.pipe) ∧
      partOf u n.val = some y ∧ boundQueue y q.val = some { v with waiting := rest } ∧
      (∀ e ∈ (pipeOf u r.pipe).pictures, e.requests.any (fun k => k.2 == r.number) = true → e.status ≠ stOk) ∧
      Only [.parts, .pipes] s u)) ∧
  (∀ (s : State) (i : Fin 256) (k : Fin 8) (x : Partition) (v : BatchQueue) (b : Batch), (pipeOf s i.val).valid = true →
    let n := (pipeOf s i.val).part.val
    let q := byteAt (stageAt (pipeOf s i.val) (stageInput (pipeOf s i.val) k.val)) 4
    netOfQueue (pipeOf s i.val) q = some k.val → partOf s n = some x → boundQueue x q = some v → batchToStart v = some b →
    (batchLate s v b = true → exec (.resultBobbinRetry i k) s = .next (runBatches
      (setBatchQueue s n q (modBatch v b.seq (fun b => { b with ended := some stNoBuffer }))) n q)) ∧
    (∀ w, batchLate s v b = false → b.result = none → v.pipe = i.val →
      acquireBobbin s n (byteAt (stageAt (pipeOf s i.val) k.val) 4) (ownerPipe i.val) = (w, none) → ∃ m,
      exec (.resultBobbinRetry i k) s = .next (settlePipe (passBatches n q m w) i.val)))

/-- CMD_PIPE_CREATE, CMD_PIPE_REMOVE, CMD_QUEUE_CREATE, CMD_PIPE_ATTACH, CMD_PIPE_DETACH, CMD_PREP_SUBMIT and
TRACK_STEP. A pipeline is created of stages that stand their checks, on a ring of its partition. A removal cuts
its streams off and, without flush, ends its jobs with ST_ABORTED, cause 4, and drops what waits in its queues.
A queue is bound by a valid declaration; a stream without a consumer is attached and its track numbers begin at
1; a detach cuts it off and completes once its pictures are finished. CMD_PREP_SUBMIT completes with the status
of its request. TRACK_STEP with tracks and a previous picture of the same size begins one motion search; a
detection that no track takes and that reaches the least score becomes a track with the next number and a
bobbin. -/
def Obligations.Pipelines : Prop :=
  (∀ (s : State) (slot : Fin 10) (x : Partition) (b : Bytes), Can.partCommand s slot 0x0601 [(8, 13)] x = true →
    let d := cmdDesc s slot
    let i := le d 8 2
    let p := pipeOf s i
    let u := endReads s (fun r => r.reader == .lantern slot)
    let ring := oringOf s (byteAt d 20)
    let new : Pipe :=
      { valid := true, live := byteAt d 10 == 1, part := Fin.ofNat 8 (descPart d), ring := byteAt d 20
        stages := (List.range (byteAt d 11)).map (fun k => fit 32 (slice b (32 * k) 32)) }
    i < 256 → byteAt d 10 < 2 → 2 ≤ byteAt d 11 → byteAt d 11 ≤ 8 → le d 12 8 % 32 = 0 → byteAt d 20 < 64 → ring.valid = true →
    (stagesSound x new = false → exec (.cmdPipeCreate slot (some b)) s = .next (complete u slot stBadArgument [])) ∧
    (stagesSound x new = true → p.valid = true → exec (.cmdPipeCreate slot (some b)) s
      = .next (complete u slot (if p.part.val = descPart d then stBadArgument else stNotPermitted) [])) ∧
    (stagesSound x new = true → p.valid = false → exec (.cmdPipeCreate slot (some b)) s = .next (
      if ring.part.val = descPart d then complete (setPipe u i new) slot stOk [] else complete u slot stNotPermitted []))) ∧
  (∀ (s : State) (slot : Fin 10) (i : Nat) (p : Pipe), Can.pipeCommand s slot 0x0602 [(8, 3)] i p = true →
    let flush := byteAt (cmdDesc s slot) 10
    (2 ≤ flush ∨ p.removing = true → exec (.cmdPipeRemove slot) s = .next (complete s slot stBadArgument [])) ∧
    (flush < 2 → p.removing = false → ∃ u, exec (.cmdPipeRemove slot) s = .next (settlePipe u i) ∧
      pipeOf u i = { p with removing := true, flush := flush == 1 } ∧
      (runningOf u slot.val).map (·.waiting) = some true ∧ (∀ k, (streamOf u k).consumer ≠ some i) ∧
      (flush = 0 → (∀ j ∈ pipeJobs s i, 1 ≤ (jobOf s j).state.toNat → (jobOf s j).state.toNat ≤ 6 →
          (jobOf u j).state = 7 ∧ (jobOf u j).outcome = stAborted ∧ (jobOf u j).cause = 4) ∧
        (∀ w ∈ u.workItems, w.pipe ≠ i) ∧
        ∀ x q v, partOf u p.part.val = some x → boundQueue x q = some v → v.pipe = i → v.waiting = []) ∧
      (flush = 1 → u.jobs = s.jobs ∧ u.workItems = s.workItems ∧ u.parts = s.parts))) ∧
  (∀ (s : State) (slot : Fin 10) (i : Nat) (p : Pipe) (x : Partition),
    Can.pipeCommand s slot 0x0603 [(8, 1), (10, 2), (16, 64)] i p = true → partOf s p.part.val = some x →
    let d := cmdDesc s slot
    let q := byteAt d 8
    exec (.cmdQueueCreate slot) s = .next (
      if q < 16 ∧ declValid x (slice d 16 64) = true ∧ boundQueue x q = none ∧ p.removing = false then
        complete (setPart s p.part.val { x with batchQueues := tset x.batchQueues q { pipe := i, decl := slice d 16 64 } })
          slot stOk []
      else complete s slot stBadArgument [])) ∧
  (∀ (s : State) (slot : Fin 10) (i : Nat) (p : Pipe), Can.pipeCommand s slot 0x0604 [(8, 4)] i p = true →
    let d := cmdDesc s slot
    let k := le d 10 2
    let x := streamOf s k
    (256 ≤ k ∨ x.state = 0 → exec (.cmdPipeAttach slot) s = .next (complete s slot stBadArgument [])) ∧
    (k < 256 → x.state ≠ 0 → x.part.val ≠ descPart d →
      exec (.cmdPipeAttach slot) s = .next (complete s slot stNotPermitted [])) ∧
    (k < 256 → x.state ≠ 0 → x.part.val = descPart d → p.removing = false → x.consumer = none →
      s.pipes.any (fun e => e.2.leaving.any (fun l => l.1 == k)) = false → exec (.cmdPipeAttach slot) s
        = .next (complete (setStream s k { x with consumer := some i, nextTrackId := 1 }) slot stOk []))) ∧
  (∀ (s : State) (slot : Fin 10) (i : Nat) (p : Pipe), Can.pipeCommand s slot 0x0605 [(8, 4)] i p = true →
    let d := cmdDesc s slot
    let k := le d 10 2
    let x := streamOf s k
    k < 256 → x.state ≠ 0 → x.part.val = descPart d →
    (x.consumer ≠ some i → exec (.cmdPipeDetach slot) s = .next (complete s slot stBadArgument [])) ∧
    (x.consumer = some i → ∃ u, exec (.cmdPipeDetach slot) s = .next (settlePipe u i) ∧
      streamOf u k = { x with consumer := none } ∧ pipeOf u i = { p with leaving := p.leaving ++ [(k, 3)] } ∧
      (runningOf u slot.val).map (·.waiting) = some true ∧ Only [.streams, .pipes, .running] s u)) ∧
  (∀ (s : State) (slot : Fin 10) (i : Nat) (p : Pipe), Can.pipeCommand s slot 0x0606 [(8, 2), (16, 64)] i p = true →
    let b := slice (cmdDesc s slot) 16 64
    (p.removing = true → exec (.cmdPrepSubmit slot) s = .next (complete s slot stBadArgument [])) ∧
    (∀ x st, p.removing = false → partOf s p.part.val = some x → prepFailure x i b none = some st → st ≠ stUncorrectable →
      exec (.cmdPrepSubmit slot) s = .next (complete s slot st [])) ∧
    (∀ x, p.removing = false → partOf s p.part.val = some x → prepFailure x i b none = none →
      exec (.cmdPrepSubmit slot) s = .next (complete (enterRequest s p.part.val i b false none) slot stOk []))) ∧
  (∀ (s : State) (i : Fin 256) (stream : Fin 256) (k a : Nat) (q : PipePicture), Can.trackStep s i.val stream.val k a q = true →
    let p := pipeOf s i.val
    let b := stageAt p k
    let entered := modPicture s i.val a (enterStage k)
    (∀ prev x u, (tracksOf s i.val stream.val).isEmpty = false → previousPicture p a k stream.val = some prev →
      partOf s p.part.val = some x → (List.range 2).find? (fun u => (motionOf s u).state = 0) = some u →
      (frameInfo x q.handle).width = (frameInfo x prev.handle).width →
      (frameInfo x q.handle).height = (frameInfo x prev.handle).height →
      (frameInfo x q.handle).pitch = (frameInfo x prev.handle).pitch →
      exec (.trackStep i stream) s = .next (setMotion entered u
        { state := 1, remaining := BitVec.ofNat 13 (tracksOf s i.val stream.val).length, part := p.part
          owner := ownerPipe i.val, step := some (i.val, stream.val)
          request := stepSearch b q.handle prev.handle (tracksOf s i.val stream.val).length })) ∧
    (∀ det e h w, tracksOf s i.val stream.val = [] → (∀ j ∈ p.deferred, j.stream ≠ stream.val) → byteAt b 4 = 0xFF →
      detectionsAt q (stageInput p k) = [det] → isNaN (fp32 det.score) = false →
      isNaN (fp32 (BitVec.ofNat 32 (le b 16 4))) = false →
      numLt (fp32 det.score) (fp32 (BitVec.ofNat 32 (le b 16 4))) = false → 1 ≤ le b 8 2 → freeTrack s = some e →
      acquireBobbin { entered with draws := s.draws + 2 } p.part.val (byteAt b 6) (ownerTrack e) = (w, some h) → ∃ u,
      exec (.trackStep i stream) s = .next (settlePipe u i.val) ∧ tfind u.tracks e = some
        { pipe := i.val, stream := stream.val, id := (streamOf s stream.val).nextTrackId, handle := h, box := det, steps := 1 } ∧
      (streamOf u stream.val).nextTrackId = (if (streamOf s stream.val).nextTrackId = 0xFFFFFFFF#32 then 1
        else (streamOf s stream.val).nextTrackId + 1) ∧
      (((pipeOf u i.val).pictures[a]?).map (fun r => (r.matched, r.joined, r.leaves, r.deferred))) = some (0, 1, 0, 0) ∧
      (((pipeOf u i.val).pictures[a]?).map (fun r => r.left.contains k)) = some true))

/-- The inputs of the Belfry: encoder, trigger, camera, calls, watchdog, tamper, brownout and lines. Covers
ENCODER_EDGE, TRIGGER, CSI_FRAME, PAIR_TIMEOUT, CALL_RETURN, CALL_DEADLINE, CORE_WATCHDOG, TAMPER_SAMPLE,
VBLF_FALLING, VBLF_IN_RANGE, IDENTITY_LINE and FAULT_LINE. One edge of one channel counts by one in its
direction; an edge that is too fast or of both channels is an error of the record. A trigger is taken once
enough counts have passed, and drops a pair not yet whole. Two good frames of both inputs make a pair, which the
firmware is called with in turn. A valid return values its interval into the record in progress, an invalid one
or a deadline is a gap, and a boundary reached closes the record: totals with remainders kept, a signed record
of 160 bytes with the next number, and a commit of both to the slot whose turn it is. Three agreeing samples
change the loop: an open loop breaks the seal and counts an event. A loss of VBLF closes the record as PARTIAL;
VBLF in range restarts from the later slot. The lines are those of the indicator. The direction of A before B,
which the spec does not state, is the choice of the model (log entry 40). -/
def Obligations.BelfryMeasuring : Prop :=
  (∀ (s : State) (a b fast : Bool), s.belfry.powered = true → (a != s.belfry.encA || b != s.belfry.encB) = true →
    let x := s.belfry
    let forward := (quadPlace a b + 4 - quadPlace x.encA x.encB) % 4 == 1
    let c := if forward != x.params.direction then x.count + 1 else x.count - 1
    exec (.encoderEdge a b fast) s = .next (setBelfry s (
      if fast || (a != x.encA && b != x.encB) then
        { x with encA := a, encB := b, encErrors := x.encErrors + 1, openRec := { x.openRec with encError := true } }
      else { x with encA := a, encB := b, count := c, totals := { x.totals with high := max x.totals.high c } }))) ∧
  (∀ s : State, s.belfry.powered = true → s.belfry.state = 2 → ∃ t, exec .trigger s = .next t ∧
    let b := s.belfry
    ((b.count - b.lastTrigger).natAbs < b.params.triggerCounts → t = s) ∧
    (b.params.triggerCounts ≤ (b.count - b.lastTrigger).natAbs → t.out = .fsync :: s.out ∧
      t.belfry.triggered = some b.count ∧ t.belfry.lastTrigger = b.count ∧ t.belfry.frames = [] ∧
      t.belfry.badPairs = b.badPairs + (if b.triggered.isSome then 1 else 0) ∧ t.belfry.openRec = b.openRec ∧
      Only [.belfry, .out] s t)) ∧
  (∀ (s : State) (i : Fin 2) (w : Bytes) (c : Int), s.belfry.powered = true → s.belfry.triggered = some c →
    i ∉ s.belfry.frames → s.belfry.frames.length < 2 → ∃ t, exec (.csiFrame i 0 true true w) s = .next t ∧
    tfind t.belfry.windows i.val = some w ∧ Only [.belfry] s t ∧
    (s.belfry.frames = [] → t.belfry.frames = [i] ∧ t.belfry.triggered = some c ∧ t.belfry.pairs = s.belfry.pairs) ∧
    (s.belfry.frames ≠ [] → t.belfry.frames = [] ∧ t.belfry.triggered = none ∧ t.belfry.pairs = s.belfry.pairs + 1 ∧
      (∀ c', s.belfry.calling = some c' → t.belfry.calling = some c' ∧ t.belfry.waiting = s.belfry.waiting ++ [c]) ∧
      (s.belfry.calling = none → s.belfry.waiting = [] → t.belfry.calling = some c ∧ t.belfry.waiting = []))) ∧
  (∀ (s : State) (i : Fin 2) (ch : BitVec 2) (k v : Bool) (w : Bytes), (ch != 0 || !k || !v || s.belfry.frames.contains i) = true →
    exec (.csiFrame i ch k v w) s = .next s) ∧
  (∀ s : State, s.belfry.powered = true → exec .pairTimeout s = .next (setBelfry s (
    if s.belfry.triggered.isSome then { s.belfry with triggered := none, frames := [], badPairs := s.belfry.badPairs + 1 }
    else s.belfry))) ∧
  (∀ (s : State) (area : BitVec 32) (st : BitVec 2) (c0 c1 : Int), s.belfry.calling = some c1 → s.belfry.interval = some c0 →
    let b := s.belfry
    let o := b.openRec
    let d := c1 - c0
    let gap := 2 ≤ st.toNat ∨ b.params.maxInterval < d.natAbs
    let next := fun (t : State) => t.belfry.interval = some c1 ∧ t.belfry.calling = b.waiting.head? ∧
      t.belfry.waiting = b.waiting.tail ∧ t.belfry.count = b.count
    (c1 < b.totals.boundary → ∃ t, exec (.callReturn area st) s = .next t ∧ next t ∧ t.belfry.totals = b.totals ∧
      t.belfry.records = b.records ∧ Only [.belfry] s t ∧
      (gap → t.belfry.openRec = { o with reverse := o.reverse || decide (d < 0), gapCounts := o.gapCounts + d.natAbs }) ∧
      (¬ gap → t.belfry.openRec = { o with
        reverse := o.reverse || decide (d < 0), units := o.units + area.toNat * d * b.params.dpc
        overrange := o.overrange || st == 1, pairs := o.pairs + 1 })) ∧
    (c1 < b.totals.boundary → ∃ t, exec .callDeadline s = .next t ∧ next t ∧ t.belfry.totals = b.totals ∧
      t.belfry.openRec = { o with reverse := o.reverse || decide (d < 0), gapCounts := o.gapCounts + d.natAbs }) ∧
    (¬ gap → c0 < c1 → c1 = b.totals.boundary → 1 ≤ b.params.n → ∃ t r line,
      let units := o.units + area.toNat * d * b.params.dpc
      let volume := (b.totals.vrem + units).fdiv (10 ^ 9)
      let mass := (b.totals.mrem + volume * b.params.density).fdiv (10 ^ 6)
      let totals : Totals :=
        { volTotal := b.totals.volTotal + volume, massTotal := b.totals.massTotal + mass
          partialMass := if b.partialReset then 0 else b.totals.partialMass + mass
          vrem := (b.totals.vrem + units).fmod (10 ^ 9), mrem := (b.totals.mrem + volume * b.params.density).fmod (10 ^ 6)
          high := b.totals.high, boundary := b.totals.boundary + b.params.n, count := b.count, seq := b.totals.seq + 1
          countEnd := c1 }
      exec (.callReturn area st) s = .next t ∧ next t ∧ t.belfry.totals = totals ∧
      t.belfry.records.getLast? = some r ∧ r.length = 160 ∧ le r 8 8 = b.totals.seq % 2 ^ 64 ∧
      le r 16 8 = unsignedOf 64 c1 ∧ le r 28 4 = unsignedOf 32 volume ∧ le r 32 4 = unsignedOf 32 mass ∧
      bitOf (byteAt r 1) 0 = false ∧ slice r 96 64 = fit 64 (Config.ed25519Sign (blfSeed b) (ascii "BELFRY-REC" ++ r.take 96)) ∧
      (if b.slotNextB then t.belfry.slotB else t.belfry.slotA) = some totals ∧ t.belfry.slotNextB = !b.slotNextB ∧
      t.belfry.openRec = { first := false, tamper := b.tamperOpen } ∧ t.belfry.partialReset = false ∧
      t.belfry.mirSeq = BitVec.ofNat 64 b.totals.seq ∧ t.out = .indicator line :: s.out ∧ Only [.belfry, .out] s t)) ∧
  (∀ s : State, s.belfry.powered = true → s.belfry.state = 2 → ∃ t, exec .coreWatchdog s = .next t ∧
    t.belfry.openRec = { s.belfry.openRec with
      first := true
      gapCounts := s.belfry.openRec.gapCounts + (s.belfry.count - s.belfry.interval.getD s.belfry.totals.countEnd).natAbs } ∧
    t.belfry.interval = none ∧ t.belfry.calling = none ∧ t.belfry.waiting = [] ∧ t.belfry.triggered = none ∧
    t.belfry.count = s.belfry.count ∧ t.belfry.totals = s.belfry.totals ∧ Only [.belfry] s t) ∧
  (∀ (s : State) (ohms : Nat), s.belfry.powered = true → ∃ t, exec (.tamperSample ohms) s = .next t ∧
    let closed := decide (1800 ≤ ohms) && decide (ohms ≤ 2700)
    let b := s.belfry
    let three := decide (2 ≤ b.samples.length) && (b.samples.take 2).all (· == closed)
    t.belfry.samples = (closed :: b.samples).take 3 ∧ Only [.belfry] s t ∧
    (three && !closed && !b.tamperOpen → t.belfry.tamperOpen = true ∧ t.belfry.sealBroken = true ∧
      t.belfry.events = b.events + 1 ∧ t.belfry.openRec = { b.openRec with tamper := true } ∧ t.belfry.mirTamper = true ∧
      t.belfry.mirBroken = true ∧ t.belfry.mirEvents = b.events + 1) ∧
    (three && closed && b.tamperOpen → t.belfry.tamperOpen = false ∧ t.belfry.sealBroken = b.sealBroken ∧
      t.belfry.events = b.events ∧ t.belfry.mirTamper = false) ∧
    (!three || closed == !b.tamperOpen → t.belfry = { b with samples := (closed :: b.samples).take 3 })) ∧
  (∀ s : State, s.belfry.powered = true → ∃ t, exec .vblfFalling s = .next t ∧ t.belfry.powered = false ∧ t.belfry.state = 4 ∧
    t.belfry.mirState = 4 ∧ t.belfry.calling = none ∧ t.belfry.triggered = none ∧ Only [.belfry, .out] s t ∧
    (s.belfry.state ≠ 2 → t.belfry.totals = s.belfry.totals ∧ t.belfry.records = s.belfry.records) ∧
    (s.belfry.state = 2 → t.belfry.totals.seq = s.belfry.totals.seq + 1 ∧ t.belfry.totals.countEnd = s.belfry.count ∧
      (if s.belfry.slotNextB then t.belfry.slotB else t.belfry.slotA) = some t.belfry.totals ∧
      ∃ r, t.belfry.records.getLast? = some r ∧ r.length = 160 ∧ bitOf (byteAt r 1) 0 = true ∧
        le r 8 8 = s.belfry.totals.seq % 2 ^ 64 ∧ le r 16 8 = unsignedOf 64 s.belfry.count)) ∧
  (∀ s : State, s.belfry.powered = false → ∃ t, exec .vblfInRange s = .next t ∧ t.belfry.powered = true ∧
    let last := latestTotals s.belfry
    t.belfry.count = last.count ∧ t.belfry.totals.seq = last.seq ∧ t.belfry.totals.volTotal = last.volTotal ∧
    t.belfry.totals.boundary = max last.high last.count + s.belfry.params.n ∧ t.belfry.interval = none ∧
    t.belfry.calling = none ∧ t.belfry.stagedFwLen = 0 ∧ t.belfry.stagedParamLen = 0 ∧ t.belfry.openRec.first = true ∧
    t.belfry.state = (if s.belfry.verKey.isNone || s.belfry.sealGen == 0 then 1
      else if t.belfry.fwValid && t.belfry.paramsValid then 2 else 5) ∧
    t.belfry.mirState = t.belfry.state ∧
    (s.belfry.secret ≠ [] → t.belfry.secret = s.belfry.secret ∧ Only [.belfry, .out] s t)) ∧
  (∀ s : State, exec .identityLine s = .next (if s.belfry.powered then sendLine s (identityText s.belfry) else s)) ∧
  (∀ s : State, exec .faultLine s = .next (if s.belfry.powered && (s.belfry.state == 5 || s.belfry.state == 1)
    then sendLine s (faultText s.belfry) else s))

/-- The Belfry requests of the host and the notices of the Belfry. Covers CMD_BLF_REQUEST, CMD_BLF_RECORDS,
BELFRY_STATUS, BELFRY_IDENTITY, BELFRY_LOG, STAGE_FW, STAGE_PARAM, COMMIT, PARTIAL_RESET, INDICATOR_ID,
NEW_RECORD_NOTICE, TAMPER_NOTICE, SEAL_NOTICE and STATE_NOTICE. A request that names an operation goes into the
inbox and its command waits for the reply; any other completes with ST_BAD_ARGUMENT. A reply is written up to
its capacity, completes the request with its length and frees the inbox. CMD_BLF_RECORDS writes the records from
a number on. Status, identity and log answer with their bytes; staging puts data into the staging area; a commit
that fails a check answers with its status, and one that passes burns a seal step, counts an event, restores the
seal and logs it. PARTIAL_RESET waits for the next close, and INDICATOR_ID prints the identity line. The notices
of a record and of a state change nothing more; those of tamper and seal raise their events, and a seal is
logged in the audit ring. -/
def Obligations.BelfryRequests : Prop :=
  (∀ (s : State) (slot : Fin 10) (b : Bytes), s.belfry.powered = true → s.belfry.inboxFull = false →
    Can.command s slot 0x0B01 [(8, 24)] = true →
    let d := cmdDesc s slot
    let sound := le d 8 8 % 64 == 0 && decide (16 ≤ le d 16 4) && decide (le d 16 4 ≤ 65536) && le d 20 8 % 64 == 0
      && decide (64 ≤ le d 28 4) && decide (le d 28 4 ≤ 65536)
    (sound = false → exec (.cmdBlfRequest slot (some b)) s = .next (complete s slot stBadArgument [])) ∧
    (sound = true → blfOperations.contains (le b 0 2) = true → ∃ t, exec (.cmdBlfRequest slot (some b)) s = .next t ∧
      t.belfry = { s.belfry with inbox := fit (le d 16 4) b, inboxFull := true } ∧
      (runningOf t slot.val).map (·.waiting) = some true ∧ Only [.belfry, .running, .hif, .out] s t) ∧
    (sound = true → blfOperations.contains (le b 0 2) = false → waitingSlots s 0x0B01 (fun _ => true) = [] → ∃ t w,
      exec (.cmdBlfRequest slot (some b)) s = .next (complete (hostWrite t (slotFn t slot) (le d 20 8) []) slot w (toLE 4 0)) ∧
      w = stBadArgument ∧ t.belfry.inboxFull = false)) ∧
  (∀ (s : State) (st : Status) (reply : Bytes) (slot : Nat) (rest : List Nat) (r : Running),
    waitingSlots s 0x0B01 (fun _ => true) = slot :: rest → runningOf s slot = some r →
    blfReply s st reply = complete (hostWrite (setBelfry s { s.belfry with inboxFull := false, inbox := [] }) (slotFn s slot)
      (le r.desc 20 8) (reply.take (le r.desc 28 4))) slot st (toLE 4 (min (le r.desc 28 4) reply.length))) ∧
  (∀ (s : State) (slot : Fin 10), s.belfry.powered = true → Can.command s slot 0x0B02 [(8, 18)] = true →
    let d := cmdDesc s slot
    let l := (s.belfry.records.filter (fun r => decide (le d 16 8 ≤ le r 8 8))).take (le d 24 2)
    exec (.cmdBlfRecords slot) s = .next (
      if le d 8 8 % 64 = 0 ∧ 1 ≤ le d 24 2 ∧ le d 24 2 ≤ 256 then
        complete (hostWrite s (slotFn s slot) (le d 8 8) l.flatten) slot stOk (toLE 4 l.length)
      else complete s slot stBadArgument [])) ∧
  (∀ s : State, Can.blfOperation s 0x0001 = true → s.belfry.inbox.length = 16 → ∃ r : Bytes, r.length = 64 ∧
    byteAt r 0 = s.belfry.state.toNat ∧ byteAt r 2 = s.belfry.sealGen % 256 ∧ byteAt r 3 = flag s.belfry.tamperOpen ∧
    le r 4 2 = s.belfry.events.toNat ∧ le r 6 8 = lastSeq s.belfry % 2 ^ 64 ∧ le r 14 8 = unsignedOf 64 s.belfry.count ∧
    slice r 22 8 = fit 8 s.belfry.blfId ∧ slice r 30 8 = fit 8 s.belfry.paramId ∧
    exec .belfryStatus s = .next (blfReply s stOk r)) ∧
  (∀ s : State, Can.blfOperation s 0x0002 = true → exec .belfryIdentity s = .next (
    if s.belfry.inbox.length = 16 then blfReply s stOk (fit 256 s.belfry.endorsement) else blfReply s stBadArgument [])) ∧
  (∀ s : State, Can.blfOperation s 0x0003 = true → s.belfry.inbox.length = 20 →
    let first := le s.belfry.inbox 16 2
    let n := le s.belfry.inbox 18 2
    exec .belfryLog s = .next (
      if 1 ≤ n ∧ n ≤ 896 ∧ first < 896 then blfReply s stOk (((s.belfry.log.drop first).take n).flatMap blfLogBytes)
      else blfReply s stBadArgument [])) ∧
  (∀ s : State, Can.blfOperation s 0x0010 = true → 20 ≤ s.belfry.inbox.length →
    let at' := le s.belfry.inbox 16 4
    let data := s.belfry.inbox.drop 20
    (393216 < at' + data.length → exec .stageFw s = .next (blfReply s stBadArgument [])) ∧
    (at' + data.length ≤ 393216 → ∃ u, exec .stageFw s = .next (blfReply u stOk []) ∧
      storeRead u.belfry.stagedFw at' data.length = data ∧ u.belfry.stagedFwLen = max s.belfry.stagedFwLen (at' + data.length) ∧
      (∀ a, a < at' ∨ at' + data.length ≤ a → storeGet u.belfry.stagedFw a = storeGet s.belfry.stagedFw a) ∧
      u.belfry.stagedParam = s.belfry.stagedParam ∧ u.belfry.firmware = s.belfry.firmware ∧ Only [.belfry] s u)) ∧
  (∀ s : State, Can.blfOperation s 0x0011 = true → 20 ≤ s.belfry.inbox.length →
    let at' := le s.belfry.inbox 16 4
    let data := s.belfry.inbox.drop 20
    (65536 < at' + data.length → exec .stageParam s = .next (blfReply s stBadArgument [])) ∧
    (at' + data.length ≤ 65536 → ∃ u, exec .stageParam s = .next (blfReply u stOk []) ∧
      storeRead u.belfry.stagedParam at' data.length = data ∧
      u.belfry.stagedParamLen = max s.belfry.stagedParamLen (at' + data.length) ∧
      (∀ a, a < at' ∨ at' + data.length ≤ a → storeGet u.belfry.stagedParam a = storeGet s.belfry.stagedParam a) ∧
      u.belfry.stagedFw = s.belfry.stagedFw ∧ u.belfry.params = s.belfry.params ∧ Only [.belfry] s u)) ∧
  (∀ s : State, Can.blfOperation s 0x0020 = true → 17 ≤ s.belfry.inbox.length →
    let b := s.belfry
    let q := b.inbox
    (∀ st, commitFailure b q = some st → exec .commit s = .next (blfReply s st [])) ∧
    (commitFailure b q = none → ∃ u, exec .commit s = .next (blfReply u stOk []) ∧ u.belfry.sealGen = b.sealGen + 1 ∧
      u.belfry.verKey = keyAfter b q ∧ u.belfry.sealBroken = false ∧ u.belfry.events = b.events + 1 ∧
      (bitOf (byteAt q 16) 0 = true → u.belfry.firmware = stagedImage b) ∧
      (bitOf (byteAt q 16) 0 = false → u.belfry.firmware = b.firmware ∧ u.belfry.blfId = b.blfId) ∧
      (bitOf (byteAt q 16) 1 = true → u.belfry.params = decodeParams (stagedParams b)) ∧
      (bitOf (byteAt q 16) 1 = false → u.belfry.params = b.params ∧ u.belfry.paramId = b.paramId) ∧
      (∃ e, u.belfry.log = b.log ++ [e] ∧ e.kind = 1#8 ∧ e.state = 1#8 ∧ e.what = BitVec.ofNat 8 (byteAt q 16) ∧
        e.events = b.events + 1 ∧ e.gen = BitVec.ofNat 8 (b.sealGen + 1)) ∧
      u.belfry.stagedFwLen = 0 ∧ u.belfry.stagedParamLen = 0 ∧ Only [.belfry, .out] s u)) ∧
  (∀ s : State, Can.blfOperation s 0x0021 = true → s.belfry.inbox.length = 16 → exec .partialReset s
    = .next (blfReply (setBelfry s { s.belfry with partialReset := true }) stOk [])) ∧
  (∀ s : State, Can.blfOperation s 0x0030 = true → s.belfry.inbox.length = 16 → exec .indicatorId s
    = .next (blfReply (sendLine s (identityText s.belfry)) stOk [])) ∧
  (∀ s : State, exec .newRecordNotice s = .next s ∧ exec .stateNotice s = .next s) ∧
  (∀ s : State, s.boot.stage = 3 → exec .tamperNotice s
    = .next (raiseTamper (setSec s { s.sec with lastTamper := s.belfry.mirTamper }))) ∧
  (∀ s : State, s.boot.stage = 3 → ∃ t e, exec .sealNotice s = .next t ∧ t.sec.lastSeal = s.belfry.mirGen ∧
    t.sec.ring.getLast? = some e ∧ e.kind = 0x14#8 ∧ e.part = 0xFF#8 ∧ e.value.toNat = s.belfry.mirGen.toNat ∧
    e.chain = chainOf s.sec.ring ∧ t.sec.permanent = s.sec.permanent ∧ t.sec.keys = s.sec.keys)

/-- POWER_SAMPLE, POWER_DISAGREE, POWER_RECAL_FIT, CMD_POWER_LIMIT, CMD_POWER_RECAL, CMD_JOB_POWER, THERMAL_READ,
THERMAL_STEP and THERMAL_END. A sample enters the registers, moves the target point to the highest POINT held,
OP1 after 1 ms of quiet or OP8 under boost, lowered by throttling; it leaves every fraction at 255 while no dome
is limited and the limit stands, at 0 on a hot dome (whose fixed-rate jobs are breached), and within a pace
ceiling. Sixteen disagreeing samples raise their event and enter measured-only mode, which a refit ends; the
commands answer as R479 says; readings, throttling and its end follow R477, and 110 degrees stop the module.
That point and fraction under a limit are as chosen, that throttling lowers the candidate by the points it has
removed, and that the point keeps its place for the first millisecond without jobs is the model's choice (log
entries 8, 37). -/
def Obligations.PowerControl : Prop :=
  (∀ (s : State) (mv ma mw est uj : Nat), s.boot.started = true → ∃ t, exec (.powerSample mv ma mw est uj) s = .next t ∧
    let p := t.power
    let mean := fun (l : List Nat) => min 65535 (l.sum / (10 * l.length))
    let far := limitInForce p < 4 * (max mw est - min mw est)
    let c := if Can.boost s p then 8 else if heldPoints s = [] then (if 100 ≤ p.quietSamples then 1 else min 7 s.power.target.toNat)
      else (heldPoints s).foldl max 0
    p.voltage.toNat = min 65535 (mv / 10) ∧ p.current.toNat = min 65535 ma ∧ p.samples = ((mw, est) :: s.power.samples).take 100 ∧
    p.measured.toNat = mean (p.samples.map Prod.fst) ∧ p.estimate.toNat = mean (p.samples.map Prod.snd) ∧
    p.energy = s.power.energy + BitVec.ofNat 64 uj ∧ (p.low = true ↔ mv < 12000) ∧
    (far → p.disagree = s.power.disagree + 1) ∧ (¬ far → p.disagree = 0) ∧
    p.quietSamples = (if heldPoints s = [] then min 100 (s.power.quietSamples + 1) else 0) ∧
    p.limit = s.power.limit ∧ p.measuredOnly = s.power.measuredOnly ∧ p.thermal = s.power.thermal ∧ p.dip = s.power.dip ∧
    p.target.toNat = (if c ≤ 3 then c else max (max 3 (c - s.power.thermalDrop)) (fixedPoint s)) ∧
    ((∀ d, d < 4 → (domeOf s d).fraction = 0xFF#8) → limitPassed p = false → s.skein.ceiling = 0xFFFF#16 →
      ∀ d, d < 4 → (domeOf s d).hot = false → (domeOf s d).thermalCap = 0xFF#8 → (domeOf t d).fraction = 0xFF#8) ∧
    (∀ d, d < 4 → (domeOf s d).hot = true → (domeOf t d).fraction = 0 ∧ ∀ j, fixedHolder (jobOf s j) = true →
      runsInDome s j d = true → (jobOf t j).breached = true ∧ (jobOf t j).rateNotHeld = true) ∧
    (∀ d, d < 4 → (domeOf t d).fraction ≤ (domeOf s d).thermalCap ∧ (paceBinds s d = true →
      (domeOf s d).rate.toNat * (domeOf t d).fraction.toNat ≤ 255 * s.skein.ceiling.toNat)) ∧
    ((∀ e ∈ s.jobs, fixedHolder e.2 = false) → t.jobs = s.jobs ∧ t.boot = s.boot ∧ t.out = s.out) ∧
    Only [.power, .domes, .jobs, .draws, .boot, .mailboxes, .hif, .out] s t) ∧
  (∀ (s : State) (mv ma mw est uj : Nat), s.boot.started = false → exec (.powerSample mv ma mw est uj) s = .next s) ∧
  (∀ s : State, 16 ≤ s.power.disagree → s.power.measuredOnly = false → exec .powerDisagree s = .next (
    let e := raiseEvent s 0x0301 none (eventData [(0, toLE 4 (lastSample s.power).2), (4, toLE 4 (lastSample s.power).1),
      (8, toLE 4 (limitInForce s.power))])
    setPower (setLife e { s.boot.life with powerDisagree := satInc s.boot.life.powerDisagree })
      { s.power with measuredOnly := true, disagree := 0 })) ∧
  (∀ s : State, (decide (s.power.disagree < 16) || s.power.measuredOnly) = true → exec .powerDisagree s = .next s) ∧
  (∀ (s : State) (slot : Fin 10), Can.command s slot 0x0702 [] = true → ∃ t, exec (.cmdPowerRecal slot) s = .next t ∧
    t.power = { s.power with recal := s.power.recal ++ [slot] } ∧ (runningOf t slot.val).map (·.waiting) = some true ∧
    Only [.power, .running] s t) ∧
  (∀ (s : State) (slot : Fin 10) (rest : List (Fin 10)), s.power.recal = slot :: rest → exec .powerRecalFit s = .next (complete
    (setLife (setPower s { s.power with recal := rest, measuredOnly := false, disagree := 0 })
      { s.boot.life with powerRecal := satInc s.boot.life.powerRecal }) slot stOk [])) ∧
  (∀ (s : State) (slot : Fin 10), Can.command s slot 0x0701 [(8, 4)] = true →
    let l := le (cmdDesc s slot) 8 4
    exec (.cmdPowerLimit slot) s = .next (
      if l < 40000 then complete s slot stBadArgument []
      else if 120000 - 5000 * s.sec.ceilSteps < l then complete s slot stNotPermitted []
      else complete (setPower s { s.power with limit := BitVec.ofNat 17 l }) slot stOk (toLE 4 l))) ∧
  (∀ (s : State) (slot : Fin 10) (j : Nat), Can.command s slot 0x0703 [(8, 5)] = true →
    jobNamed s (descPart (cmdDesc s slot)) (le (cmdDesc s slot) 8 4) = .ok j →
    let b := byteAt (cmdDesc s slot) 12
    let x := jobOf s j
    exec (.cmdJobPower slot) s = .next (
      if 16 ≤ b then complete s slot stBadArgument []
      else if 8 ≤ x.state.toNat then complete s slot stAlreadyDone []
      else if bitOf b 3 ≠ bitOf x.power.toNat 3 then complete s slot stBadArgument []
      else complete (setJob s j { x with power := BitVec.ofNat 8 b }) slot stOk [])) ∧
  (∀ (s : State) (d : Fin 4) (l : List (BitVec 16)), s.boot.started = true → l.length = 4 →
    ∃ t, exec (.thermalRead d l) s = .next t ∧ ∃ T, T ∈ l ∧ (∀ x ∈ l, x.toInt ≤ T.toInt) ∧
    let x := domeOf s d
    let y := domeOf t d
    (110 * 16 ≤ T.toInt → stopped s t none) ∧
    (T.toInt < 110 * 16 → y.junction = T ∧ y.tempMax.toInt = max x.tempMax.toInt T.toInt ∧
      (y.secondMax.map BitVec.toInt) = some (max T.toInt ((x.secondMax.map BitVec.toInt).getD T.toInt)) ∧
      (y.throttling = true ↔ x.throttling = true ∨ 95 * 16 ≤ T.toInt) ∧
      (y.hot = true ↔ 105 * 16 ≤ T.toInt ∨ x.hot = true ∧ 100 * 16 < T.toInt) ∧
      (∀ k : Fin 4, k ≠ d → (domeOf t k) = { domeOf s k with op := (domeOf t k).op }) ∧
      (T.toInt < 95 * 16 → Only [.domes] s t ∧ y.fraction = x.fraction) ∧
      (95 * 16 ≤ T.toInt → x.throttling = false → t.power.thermal = true ∧
        t.power.target = (if s.power.target = 8 then 7 else s.power.target) ∧
        t.boot.life.thermalThrottle = satInc s.boot.life.thermalThrottle) ∧
      (105 * 16 ≤ T.toInt → x.hot = false → y.fraction = 0 ∧ ∀ j, fixedHolder (jobOf s j) = true →
        runsInDome s j d = true → (jobOf t j).breached = true) ∧
      Only [.domes, .power, .boot, .jobs, .mailboxes, .hif, .out] s t)) ∧
  (∀ (s : State) (d : Fin 4), (domeOf s d).throttling = true → 95 * 16 ≤ (domeOf s d).junction.toInt →
    ∃ t, exec (.thermalStep d) s = .next t ∧
    (max 3 (fixedPoint s) < s.power.target.toNat → t.power.target.toNat = s.power.target.toNat - 1 ∧
      t.power.thermalDrop = s.power.thermalDrop + 1 ∧ (∀ k : Fin 4, (domeOf t k).op = t.power.target) ∧ Only [.power, .domes] s t) ∧
    (s.power.target.toNat ≤ max 3 (fixedPoint s) → t.power = s.power ∧
      (domeOf t d).fraction ≤ (domeOf s d).fraction ∧ (domeOf t d).fraction ≤ (domeOf t d).thermalCap ∧
      ((domeOf s d).thermalCap ≠ 0 → (domeOf t d).thermalCap < (domeOf s d).thermalCap) ∧
      (∀ j, fixedHolder (jobOf s j) = true → runsInDome s j d = true → (jobOf t j).breached = true) ∧
      Only [.domes, .draws, .boot, .jobs, .mailboxes, .hif, .out] s t)) ∧
  (∀ (s : State) (d : Fin 4), (domeOf s d).throttling = true → (domeOf s d).junction.toInt ≤ 92 * 16 →
    ∃ t, exec (.thermalEnd d) s = .next t ∧ t.domes = (setDome s d { domeOf s d with throttling := false, thermalCap := 0xFF#8 }).domes ∧
    (t.power.thermal = true ↔ ∃ k : Fin 4, k ≠ d ∧ (domeOf s k).throttling = true) ∧
    t.power = { s.power with
      thermal := t.power.thermal
      thermalDrop := if t.power.thermal then s.power.thermalDrop else 0 } ∧
    Only [.domes, .power, .mailboxes, .hif, .out] s t) ∧
  (∀ (s : State) (d : Fin 4), (!(domeOf s d).throttling || decide ((domeOf s d).junction.toInt < 95 * 16)) = true →
    exec (.thermalStep d) s = .next s) ∧
  (∀ (s : State) (d : Fin 4), (!(domeOf s d).throttling || decide (92 * 16 < (domeOf s d).junction.toInt)) = true →
    exec (.thermalEnd d) s = .next s)

/-- START_CONDITION, RAIL_POWER_GOOD, RAIL_TIMEOUT, DIP_BEGIN, DIP_END, DIP_LIMIT, OVERVOLTAGE_WINDOW,
OVERVOLTAGE_75V, HOLD_BANK_CHARGED and HOLD_BANK_LOW. A start begins with no rail up; each rail in order adds
one, the eighth releases PG with VCMP at OP1, and a rail that misses its bound ends the start. A dip sets DIP,
and a low input within the start ends it; the end of a dip raises EV_SUPPLY_DIP and enters the dip in the life
log; the dip limit and both overvoltages stop the module with the event of R467 and the commits, the
overvoltages without a dip. HOLD_OK follows the bank. That an abandoned start enters its dip with the least
duration is the model's reading (log entry 41). -/
def Obligations.SupplyAndRails : Prop :=
  (∀ s : State, s.boot.started = false → exec .startCondition s
    = .next (setBoot s { s.boot with started := true, rails := 0, pg := false })) ∧
  (∀ s : State, s.boot.started = true → s.boot.rails < 7 → exec .railPowerGood s
    = .next (setBoot s { s.boot with rails := s.boot.rails + 1, pg := false })) ∧
  (∀ s : State, s.boot.started = true → s.boot.rails = 7 → ∃ t, exec .railPowerGood s = .next t ∧
    t.boot = { s.boot with rails := 8, pg := true } ∧
    (∀ d : Fin 4, domeOf t d = { domeOf s d with op := 1 }) ∧ Only [.boot, .domes] s t) ∧
  (∀ s : State, (!s.boot.started || decide (8 ≤ s.boot.rails)) = true → exec .railPowerGood s = .next s) ∧
  (∀ s : State, s.boot.started = true → s.boot.rails < 8 → exec .railTimeout s
    = .next (setBoot s { s.boot with started := false, rails := 0, pg := false })) ∧
  (∀ (s : State) (mv : Nat), s.boot.started = true → s.power.dip = false → s.boot.stage = 3 → exec (.dipBegin mv) s
    = .next (setPower s { s.power with dip := true, low := decide (mv < 12000) })) ∧
  (∀ (s : State) (mv : Nat), s.boot.started = true → s.power.dip = false → s.boot.stage ≠ 3 →
    ∃ t, exec (.dipBegin mv) s = .next t ∧ powerLost s t ∧ t.out = s.out ∧
    (s.boot.bootsCounted = true → committedTo s t
      { s.boot.life with dips := tbump s.boot.life.dips (dipCell mv 100) }) ∧
    (s.boot.bootsCounted = false → t.boot.slotA = s.boot.slotA ∧ t.boot.slotB = s.boot.slotB)) ∧
  (∀ (s : State) (mv us : Nat), s.power.dip = true → ∃ t, exec (.dipEnd mv us) s = .next t ∧
    t.power = { s.power with dip := false, low := false } ∧
    t.boot = { s.boot with life := { s.boot.life with dips := tbump s.boot.life.dips (dipCell mv us) } } ∧
    (let e := raiseEvent s 0x0304 none (eventData [(0, toLE 4 mv), (4, toLE 4 us), (8, [0])])
     t.out = e.out ∧ t.mailboxes = e.mailboxes ∧ t.hif = e.hif) ∧
    Only [.power, .boot, .mailboxes, .hif, .out] s t) ∧
  (∀ (s : State) (mv us : Nat), s.power.dip = false → exec (.dipEnd mv us) s = .next s ∧ exec (.dipLimit mv us) s = .next s) ∧
  (∀ (s : State) (mv us : Nat), s.power.dip = true → ∃ t, exec (.dipLimit mv us) s = .next t ∧ stopped s t (some (mv, us)) ∧
    t.out = (raiseEvent s 0x0304 none (eventData [(0, toLE 4 mv), (4, toLE 4 us), (8, [1])])).out) ∧
  (∀ (s : State) (mv us : Nat), s.boot.started = true →
    (∀ c ∈ [Instr.overvoltageWindow mv us, Instr.overvoltage75V mv us], ∃ t, exec c s = .next t ∧ stopped s t none ∧
      t.out = (raiseEvent s 0x0304 none (eventData [(0, toLE 4 mv), (4, toLE 4 us), (8, [3])])).out)) ∧
  (∀ s : State, s.boot.rails = 8 → exec .holdBankCharged s = .next (setPower s { s.power with holdOk := true })) ∧
  (∀ s : State, exec .holdBankLow s = .next (setPower s { s.power with holdOk := false }))

/-- ROM_LOADER_START, IMAGE_VERIFIED, FIRMWARE_START_END, LAN_BOOT_CTRL_WRITE, LAN_REC_GO, REC_READ_COMPLETE,
REC_PROGRAM_COMPLETE and REC_READ_BACK_COMPLETE. The loader starts with every rail up, waits while PERST# is
asserted, and stops in the fault stage for a blank fuse block; an image that passes R516 runs, any other and a
held request enter recovery with BOOTS counted, the log committed and, for a failure, its audit entry. Firmware
start trains channels, bypasses columns, enables the Burava ports, sets limit and point, takes the Belfry's
state and opens mailbox 8 once configuration requests are answered. A recovery goes through its states, ends
with the status of its failure, and runs the new image. That flash contents seen written stand before what the
command finds, and how an erased flash reads, is the model's choice (log entry 42). -/
def Obligations.StartAndRecovery : Prop :=
  (∀ s : State, Can.romStart s = true → ∃ t, exec (.romLoaderStart true) s = .next t ∧ t.boot.romRunning = true ∧
    t.boot.stage = 5 ∧ t.boot.cause = 7 ∧ lifeTaken s t ∧ Only [.boot] s t) ∧
  (∀ s : State, Can.romStart s = true → ∃ t, exec (.romLoaderStart false) s = .next t ∧
    t.boot = { s.boot with romRunning := true, stage := if s.boot.perst then 0 else 1, cause := 0 } ∧
    (s.sec.secret ≠ [] → Only [.boot] s t) ∧
    (s.sec.secret = [] → t.sec.secret = Config.entropy s.draws 32 ∧ t.sec.endorsement.length = 256 ∧
      le t.sec.endorsement 0 8 = t.sec.dieId.toNat ∧ slice t.sec.endorsement 8 32 = fit 32 (identityKey t) ∧
      slice t.sec.endorsement 40 32 = fit 32 (encryptionKey t) ∧ byteAt t.sec.endorsement 72 < 4 ∧
      zeros t.sec.endorsement 73 55 = true ∧ zeros t.sec.endorsement 192 64 = true ∧ Only [.boot, .sec, .draws] s t)) ∧
  (∀ (s : State) (b : Bool), Can.romStart s = false → exec (.romLoaderStart b) s = .next s) ∧
  (∀ (s : State) (found : FwImage), Can.readImage s = true → s.boot.requested = true →
    ∃ t, exec (.imageVerified found) s = .next t ∧ recoveryEntered s t 6 ∧ Only [.boot] s t) ∧
  (∀ (s : State) (found : FwImage), Can.readImage s = true → s.boot.requested = false →
    ∃ t, exec (.imageVerified found) s = .next t ∧
    let i := s.boot.flash.getD found
    let h := fit 256 i.header
    let n := le h 4 4
    let c := if i.readable = false then 5
      else if le h 0 4 ≠ 0x4C514657 ∨ zeros h 10 2 = false ∨ zeros h 144 112 = false ∨ 67108608 < n then 1
      else if 4 ≤ byteAt h 9 ∨ Config.ed25519Verify (Config.firmwareKey (byteAt h 9)) (h.take 80) (slice h 80 64) = false then 2
      else if i.body.length < n ∨ slice h 16 64 ≠ fit 64 (Config.sha512 (i.body.take n)) then 3
      else if byteAt h 8 < s.sec.svFused then 4 else 0
    (c = 0 → runsImage t i ∧ t.boot = { s.boot with stage := 2, image := some i } ∧ t.sec.ring = s.sec.ring) ∧
    (c ≠ 0 → recoveryEntered s t c ∧ ∃ e, t.sec.ring.getLast? = some e ∧ e.kind = 5 ∧ e.part = 0xFF#8 ∧
      e.boot = t.boot.life.boots ∧ e.time = s.time ∧ e.chain = chainOf s.sec.ring ∧
      e.detail = if c = 5 then [] else (Config.sha512 (h.take 80)).take 20) ∧ Only [.boot, .sec] s t) ∧
  (∀ (s : State) (found : FwImage), Can.readImage s = false → exec (.imageVerified found) s = .next s) ∧
  (∀ (s : State) (f : StartFindings), s.boot.stage = 2 → s.boot.firmwareEnded = false →
    ∃ t, exec (.firmwareStartEnd f) s = .next t ∧ t.boot.firmwareEnded = true ∧ t.boot.bootsCounted = true ∧
    t.boot.life.boots = (if s.boot.bootsCounted then s.boot.life.boots else satInc ((latestLife s.boot).getD {}).boots) ∧
    t.boot.stage = (if s.hif.configReady then 3 else 2) ∧
    (s.hif.configReady = true → mailboxOf t 8 = { present := true }) ∧ (s.hif.configReady = false → t.mailboxes = s.mailboxes) ∧
    (∀ c : Fin 24, (channelOf t c).state = if f.failedChannels.contains c then 4 else 2) ∧
    t.boot.trainFailed.toNat = (List.finRange 24).countP (fun c => f.failedChannels.contains c) ∧
    (∀ (p : Fin 256) (k : Fin 32), (spindleOf t p).arr.bypass.getLsbD k
      = ((spindleOf s p).arr.bypass.getLsbD k || f.badColumns.contains (p, k))) ∧
    t.boot.offline.toNat = (List.range 256).countP (fun p => widthOf (spindleOf t p).arr == 0) ∧
    t.power.limit.toNat = 120000 - 5000 * s.sec.ceilSteps ∧ t.power.target = 1 ∧
    (∀ p : Fin 4, linkPortOf t p = { linkPortOf s p with enabled := true, state := 1 }) ∧
    (s.belfry.powered = true → t.sec.lastSeal = s.belfry.mirGen ∧ t.sec.lastTamper = s.belfry.mirTamper ∧
      (t.boot.owedSeal = true ↔ s.belfry.mirGen ≠ s.sec.lastSeal) ∧ t.boot.owedTamper = s.belfry.mirTamper) ∧
    Only [.boot, .channels, .domes, .mailboxes, .power, .sec, .skein, .spindles] s t) ∧
  (∀ (s : State) (f : StartFindings), (s.boot.stage != 2 || s.boot.firmwareEnded) = true →
    exec (.firmwareStartEnd f) s = .next s) ∧
  (∀ (s : State) (fn : Fn) (v : Word), exec (.lanBootCtrlWrite fn v) s = .next (
    if fn = 0 then setBoot s { s.boot with requested := decide (v = 0x52454356#32) } else s)) ∧
  (∀ (s : State) (fn : Fn) (v : Word), exec (.lanRecGo fn v) s = .next (
    let b := s.boot
    if fn ≠ 0 ∨ b.stage ≠ 4 ∨ v.getLsbD 0 = false ∨ b.recState ∈ [1, 2, 3, 4] then s
    else if b.recAddr.toNat % 64 ≠ 0 ∨ b.recLength.toNat < 256 ∨ 67108864 < b.recLength.toNat then
      setBoot s { b with recState := 6, recStatus := stBadArgument }
    else issueRead (setBoot s { b with recState := 1 }) 0 b.recAddr.toNat b.recLength.toNat .recovery)) ∧
  (∀ s : State, s.boot.recState = 1 → ∃ t, exec (.recReadComplete none) s = .next t ∧
    t.boot = { s.boot with recState := 6, recStatus := stHostTimeout } ∧
    (∀ r ∈ t.hif.reads, r.reader ≠ .recovery) ∧ Only [.boot, .hif, .mailboxes, .out] s t) ∧
  (∀ (s : State) (b : Bytes), s.boot.recState = 1 → ∃ t, exec (.recReadComplete (some b)) s = .next t ∧
    let d := fit s.boot.recLength.toNat b
    let i : FwImage := { readable := true, header := d.take 256, body := d.drop 256 }
    let c := imageCause s i
    t.boot = (if c = 0 then { s.boot with
        recState := 3, staged := some i, flash := some { readable := true, header := [], body := [] } }
      else { s.boot with recState := 6, recStatus := if c = 4 then stNotPermitted else stBadCheck }) ∧
    (∀ r ∈ t.hif.reads, r.reader ≠ .recovery) ∧ Only [.boot, .hif, .out] s t) ∧
  (∀ s : State, s.boot.recState = 3 → s.boot.stage = 4 →
    exec (.recProgramComplete true) s = .next (setBoot s { s.boot with recState := 4 }) ∧
    exec (.recProgramComplete false) s = .next (setBoot s { s.boot with recState := 6, recStatus := stUncorrectable })) ∧
  (∀ (s : State) (i : FwImage), s.boot.recState = 4 → s.boot.stage = 4 → s.boot.staged = some i →
    exec (.recReadBackComplete false) s = .next (setBoot s { s.boot with recState := 6, recStatus := stUncorrectable }) ∧
    ∃ t, exec (.recReadBackComplete true) s = .next t ∧ runsImage t i ∧ t.boot = { s.boot with
      recState := 5, recStatus := stOk, flash := some i, staged := none, requested := false, stage := 2, image := some i } ∧
      Only [.boot, .sec] s t) ∧
  (∀ (s : State) (i : FwImage) (ok : Bool), s.boot.recState = 4 → s.boot.stage = 0 → s.boot.romRunning = true →
    s.boot.perst = false → s.boot.staged = some i → ∃ t, exec (.recReadBackComplete ok) s = .next t ∧ t.boot.stage = 1 ∧
    t.boot.recState = 0 ∧ t.boot.flash = (if ok then some i else s.boot.flash) ∧ Only [.boot] s t) ∧
  (∀ (s : State) (o : Option Bytes) (ok : Bool), (s.boot.recState ≠ 1 → exec (.recReadComplete o) s = .next s) ∧
    (s.boot.recState ≠ 3 → s.boot.stage = 4 → exec (.recProgramComplete ok) s = .next s) ∧
    (s.boot.recState ≠ 4 → s.boot.stage = 4 → exec (.recReadBackComplete ok) s = .next s))

/-- PATROL_SCRUB, FATAL_RESTART, LIFELOG_SECOND, LIFELOG_COMMIT_TIMER, CMD_LIFELOG_EXPORT and CMD_LIFELOG_COMMIT. A
word with one wrong bit is corrected and counted for its dome or the module; with more it is counted,
EV_ECC_UNCORRECTABLE names the owner of its spire, and an operand or spire word stays in error. A fatal restart
counts its error and itself in the committed life log, keeps the Belfry and the local time and starts afresh. A
second advances the counters of R508 in the bins of R509; a commit writes the working copy to the other or older
slot; an export writes the snapshot of R510 with its signature. Three or more wrong bits are taken as detected
(log entry 43), and the signature is uninterpreted (log entry 5). -/
def Obligations.ErrorsAndLifeLog : Prop :=
  (∀ (s : State) (place : ScrubPlace), exec (.patrolScrub place 0) s = .next s) ∧
  (∀ (s : State) (place : ScrubPlace) (i : Nat), placeSpire place = some i →
    (∃ t, exec (.patrolScrub place 1) s = .next t ∧ let d := i / 8
      domeOf t d = { domeOf s d with sramCorr := satInc (domeOf s d).sramCorr } ∧ (∀ k, k ≠ d → domeOf t k = domeOf s k) ∧
      t.boot = { s.boot with life := { s.boot.life with sramCorr := tbump s.boot.life.sramCorr d } } ∧ Only [.domes, .boot] s t) ∧
    (∀ n, 2 ≤ n → ∃ t, exec (.patrolScrub place n) s = .next t ∧ let d := i / 8
      domeOf t d = { domeOf s d with sramUncorr := satInc (domeOf s d).sramUncorr } ∧ (∀ k, k ≠ d → domeOf t k = domeOf s k) ∧
      t.boot = { s.boot with life := { s.boot.life with sramUncorr := tbump s.boot.life.sramUncorr d } } ∧
      (let owner := (spireOf s i).owner.map Fin.val
       t.out = (raiseEvent s 0x0402 owner (eventData [(0, [0xFF]), (1, toLE 1 (owner.getD 0xFF)), (2, toLE 2 0xFF),
         (4, toLE 4 0xFFFFFFFF), (8, toLE 2 0xFFFF)])).out) ∧
      (∀ p w, place = .operandWord p w → w.val ∈ (spindleOf t p).bad ∧
        (∀ v, v ≠ w.val → (v ∈ (spindleOf t p).bad ↔ v ∈ (spindleOf s p).bad)) ∧
        spindleOf t p = { spindleOf s p with bad := (spindleOf t p).bad }) ∧
      (∀ j w, place = .spireWord j w → w.val ∈ (spireOf t j).bad ∧
        (∀ v, v ≠ w.val → (v ∈ (spireOf t j).bad ↔ v ∈ (spireOf s j).bad)) ∧
        spireOf t j = { spireOf s j with bad := (spireOf t j).bad }) ∧
      (∀ p, (∀ q w, place = .operandWord q w → q.val ≠ p) → spindleOf t p = spindleOf s p) ∧
      (∀ j, (∀ q w, place = .spireWord q w → q.val ≠ j) → spireOf t j = spireOf s j) ∧
      Only [.domes, .boot, .spindles, .spires, .mailboxes, .hif, .out] s t)) ∧
  (∀ (s : State) (o : Option (Fin 8)), ∃ t, exec (.patrolScrub (.module o) 1) s = .next t ∧ t.boot = { s.boot with
      lanSramCorr := satInc s.boot.lanSramCorr
      life := { s.boot.life with sramCorr := tbump s.boot.life.sramCorr 4 } } ∧ Only [.boot] s t) ∧
  (∀ (s : State) (o : Option (Fin 8)) (n : Nat), 2 ≤ n → ∃ t, exec (.patrolScrub (.module o) n) s = .next t ∧ t.boot = { s.boot with
      lanSramUncorr := satInc s.boot.lanSramUncorr
      life := { s.boot.life with sramUncorr := tbump s.boot.life.sramUncorr 4 } } ∧
    t.out = (raiseEvent s 0x0402 (o.map Fin.val) (eventData [(0, [0xFF]), (1, toLE 1 ((o.map Fin.val).getD 0xFF)), (2, toLE 2 0xFF),
      (4, toLE 4 0xFFFFFFFF), (8, toLE 2 0xFFFF)])).out ∧ Only [.boot, .mailboxes, .hif, .out] s t) ∧
  (∀ s : State, s.boot.stage = 3 → ∃ t, exec .fatalRestart s = .next t ∧ t.boot.perst = false ∧ t.boot.stage = 0 ∧
    t.boot.romRunning = false ∧ t.boot.rails = s.boot.rails ∧ t.boot.flash = s.boot.flash ∧ t.boot.requested = s.boot.requested ∧
    t.boot.lanSramUncorr = satInc s.boot.lanSramUncorr ∧
    committedTo s t { s.boot.life with
      fatalRestarts := satInc s.boot.life.fatalRestarts, sramUncorr := tbump s.boot.life.sramUncorr 4 } ∧
    t.jobs = [] ∧ t.parts = [] ∧ t.mailboxes = [] ∧ t.running = [] ∧ t.streams = [] ∧ t.pipes = [] ∧ t.orings = [] ∧
    t.hif.linkUp = false ∧ t.hif.reads = [] ∧ t.sec = keptSecurity s.sec ∧ t.time = s.time ∧
    t.spindles = keptMaps s.spindles ∧ Only (allBut [.belfry]) s t) ∧
  (∀ s : State, s.boot.stage ≠ 3 → exec .fatalRestart s = .next s) ∧
  (∀ s : State, s.boot.bootsCounted = true → ∃ t, exec .lifelogSecond s = .next t ∧
    let l := s.boot.life
    let inBin := fun (k : Nat) (T : BitVec 16) => (k = 0 ∧ T.toInt < -640) ∨
      (1 ≤ k ∧ k ≤ 30 ∧ 80 * (k : Int) - 720 ≤ T.toInt ∧ T.toInt < 80 * (k : Int) - 640) ∨ (k = 31 ∧ 1760 ≤ T.toInt)
    t.boot = { s.boot with
      age := satInc s.boot.age
      life := { l with
        powerOnS := satInc l.powerOnS, op := tbump l.op (s.power.target.toNat - 1), temp := t.boot.life.temp } } ∧
    (∀ (d : Fin 4) (k : Nat), k < 32 →
      (∀ T, (domeOf s d).secondMax = some T → inBin k T →
        tget t.boot.life.temp (32 * d.val + k) 0 = satInc (tget l.temp (32 * d.val + k) 0)) ∧
      ((∀ T, (domeOf s d).secondMax = some T → ¬ inBin k T) →
        tget t.boot.life.temp (32 * d.val + k) 0 = tget l.temp (32 * d.val + k) 0)) ∧
    (∀ d : Fin 4, domeOf t d = { domeOf s d with secondMax := none }) ∧ Only [.boot, .domes] s t) ∧
  (∀ s : State, s.boot.bootsCounted = true → ∃ t, exec .lifelogCommitTimer s = .next t ∧ committedTo s t s.boot.life ∧
    t.boot.life = { s.boot.life with commits := satInc s.boot.life.commits } ∧ t.boot.age = 0 ∧ Only [.boot] s t) ∧
  (∀ s : State, s.boot.bootsCounted = false → exec .lifelogSecond s = .next s ∧ exec .lifelogCommitTimer s = .next s) ∧
  (∀ (s : State) (slot : Fin 10), Can.command s slot 0x0A02 [] = true → ∃ u,
    exec (.cmdLifelogCommit slot) s = .next (complete u slot stOk []) ∧ committedTo s u s.boot.life ∧
    u.boot.life = { s.boot.life with commits := satInc s.boot.life.commits } ∧ u.boot.age = 0 ∧ Only [.boot] s u) ∧
  (∀ (s : State) (slot : Fin 10), Can.command s slot 0x0A01 [(8, 40)] = true →
    let d := cmdDesc s slot
    (le d 8 8 % 64 ≠ 0 → exec (.cmdLifelogExport slot) s = .next (complete s slot stBadArgument [])) ∧
    (le d 8 8 % 64 = 0 → ∃ b : Bytes, b.length = 9600 ∧
      exec (.cmdLifelogExport slot) s = .next (complete (hostWrite s (slotFn s slot) (le d 8 8)
        (b ++ fit 64 (Config.ed25519Sign (identitySeed s) (ascii "QBN-LIFELOG" ++ b)))) slot stOk []) ∧
      let l := s.boot.life
      let at4 := fun (a : Nat) (x : Word) => le b a 4 = x.toNat
      le b 0 4 = 0x474C4651 ∧ le b 4 4 = 9664 ∧ le b 8 8 = s.sec.dieId.toNat ∧ at4 16 l.boots ∧ at4 20 l.powerOnS ∧
      le b 24 8 = s.time.toNat ∧ at4 32 l.commits ∧ byteAt b 36 = flag s.boot.rebuilt ∧ zeros b 37 27 = true ∧
      slice b 0x40 32 = fit 32 (slice d 16 32) ∧ at4 0x60 l.orderlyStops ∧ at4 0x64 l.fatalRestarts ∧ at4 0x68 l.decodeAbandon ∧
      at4 0x6C l.decodeReject ∧ at4 0x70 l.powerDisagree ∧ at4 0x74 l.powerRecal ∧ at4 0x78 l.fixedBreach ∧ at4 0x7C l.thermalThrottle ∧
      (∀ n, n < 8 → at4 (0x80 + 4 * n) (tget l.op n 0)) ∧ (∀ n, n < 16 → at4 (0xA0 + 4 * n) (tget l.dips n 0)) ∧
      (∀ n, n < 4 → at4 (0xE0 + 4 * n) (tget l.portRetry n 0) ∧ at4 (0xF0 + 4 * n) (tget l.portDown n 0) ∧
        at4 (0x380 + 4 * n) (tget l.droopHold n 0)) ∧
      (∀ n, n < 128 → at4 (0x100 + 4 * n) (tget l.temp n 0)) ∧ (∀ n, n < 32 → at4 (0x300 + 4 * n) (tget l.droop n 0)) ∧
      (∀ n, n < 5 → at4 (0x390 + 8 * n) (tget l.sramCorr n 0) ∧ at4 (0x394 + 8 * n) (tget l.sramUncorr n 0)) ∧
      zeros b 0x3B8 8 = true ∧
      (∀ c, c < 24 → at4 (0x3C0 + 16 * c) (tget l.linkCorr c 0) ∧ at4 (0x3C4 + 16 * c) (tget l.inlineCorr c 0) ∧
        at4 (0x3C8 + 16 * c) (tget l.uncorr c 0) ∧ at4 (0x3CC + 16 * c) (tget l.retrain c 0)) ∧
      le b 0x540 4 = l.columns.length % 2 ^ 32 ∧ at4 0x544 l.columnsLost ∧ zeros b 0x548 56 = true ∧
      (∀ k, k < 1024 → slice b (0x580 + 8 * k) 8 = fit 8 (l.columns.getD k []))))

/-- PERST_ASSERT, PERST_RELEASE, HOT_RESET, DL_DOWN, PF_FLR, VF_ENABLE_CLEARED, VF_FLR, BUS_MASTER_ENABLE_CLEARED,
PCIE_LINK_UP, CONFIG_READY and RECEIVED_TLP_ERROR. PERST# on a running module causes host loss, commits the life
log and ends every partition and job until its release; in a start it sends the start back to step 5 and leaves
flash work running. Hot reset, DL_Down, FLR and VF Enable cleared cause the host loss of their functions, show
their cause and set the configuration of those functions to its defaults; bus mastering only holds requests. The
link comes up in L0, and step 6 opens mailbox 8 once firmware start has ended. A received error is counted in
its class. That an FLR of the physical function resets its configuration is taken from the PCI Express
specification (log entry 7). -/
def Obligations.PcieResets : Prop :=
  (∀ s : State, s.boot.perst = true → exec .perstAssert s = .next s) ∧
  (∀ s : State, s.boot.perst = false → s.boot.stage = 3 → ∃ t, exec .perstAssert s = .next t ∧ t.boot.perst = true ∧
    t.boot.held = true ∧ t.boot.stage = 0 ∧ t.boot.romRunning = false ∧ t.boot.rails = s.boot.rails ∧
    t.boot.requested = s.boot.requested ∧ t.boot.flash = s.boot.flash ∧
    (∃ l, committedTo s t l ∧ (s.pipes = [] → l = s.boot.life)) ∧
    t.jobs = [] ∧ t.parts = [] ∧ t.streams = [] ∧ t.pipes = [] ∧ t.orings = [] ∧ t.mailboxes = [] ∧ t.running = [] ∧
    t.sec.keys = [] ∧ t.hif.linkUp = false ∧ t.hif.configReady = false ∧ t.hif.reads = [] ∧ shownLoss t 6 0 ∧
    t.hif.hostLosses = satInc s.hif.hostLosses ∧ t.time = s.time ∧ Only (allBut [.belfry]) s t) ∧
  (∀ s : State, s.boot.perst = false → s.boot.stage ≠ 3 → ∃ t, exec .perstAssert s = .next t ∧ t.boot.perst = true ∧
    t.boot.stage = (if s.boot.stage = 5 then 5 else 0) ∧ t.boot.romRunning = s.boot.romRunning ∧
    t.boot.bootsCounted = s.boot.bootsCounted ∧ t.boot.requested = s.boot.requested ∧ t.boot.flash = s.boot.flash ∧
    (s.boot.bootsCounted = true → ∃ l, committedTo s t l ∧ (s.pipes = [] → l = s.boot.life)) ∧
    (s.boot.bootsCounted = false → t.boot.slotA = s.boot.slotA ∧ t.boot.slotB = s.boot.slotB) ∧
    ((∀ r ∈ s.hif.reads, r.reader ≠ .recovery) → flashBusy s.boot = true →
      t.boot.recState = s.boot.recState ∧ t.boot.staged = s.boot.staged) ∧
    (flashBusy s.boot = false → t.boot.recState = 0) ∧ t.hif.linkUp = false ∧ t.hif.configReady = false ∧ shownLoss t 6 0 ∧
    t.parts = [] ∧ t.mailboxes = [] ∧ t.time = s.time ∧ Only (allBut [.belfry]) s t) ∧
  (∀ s : State, exec .perstRelease s = .next (
    if s.boot.romRunning = true ∧ s.boot.stage = 0 ∧ flashBusy s.boot = false then
      setBoot s { s.boot with perst := false, held := false, stage := 1, recState := 0 }
    else setBoot s { s.boot with perst := false, held := false })) ∧
  (∀ s : State, s.hif.linkUp = true → ∀ c ∈ [(Instr.hotReset, 1), (Instr.dlDown, 2)], ∃ t, exec c.1 s = .next t ∧
    hostGone s t allFns ∧ shownLoss t c.2 0 ∧ configDefault t allFns ∧ t.hif.vfEnable = false ∧ t.hif.numVfs = 0 ∧
    t.hif.linkUp = false ∧ t.hif.speed = 0 ∧ t.hif.width = 0 ∧ t.hif.pm = 0 ∧ t.hif.configReady = s.hif.configReady ∧
    Only lossParts s t) ∧
  (∀ s : State, s.hif.linkUp = false → exec .hotReset s = .next s ∧ exec .dlDown s = .next s) ∧
  (∀ s : State, s.hif.configReady = true → ∃ t, exec .pfFlr s = .next t ∧ hostGone s t allFns ∧ shownLoss t 3 0 ∧
    configDefault t allFns ∧ t.hif.vfEnable = false ∧ t.hif.linkUp = s.hif.linkUp ∧ Only lossParts s t) ∧
  (∀ s : State, s.hif.vfEnable = true → ∃ t, exec .vfEnableCleared s = .next t ∧ hostGone s t allFns ∧ shownLoss t 4 0 ∧
    configDefault t (allFns.drop 1) ∧ cfgOf t 0 = cfgOf s 0 ∧ t.hif.vfEnable = false ∧ t.hif.linkUp = s.hif.linkUp ∧ Only lossParts s t) ∧
  (∀ s : State, s.hif.vfEnable = false → exec .vfEnableCleared s = .next s) ∧
  (∀ (s : State) (m : Fin 8), s.hif.vfEnable = true → m.val < s.hif.numVfs → ∃ t, exec (.vfFlr m) s = .next t ∧
    hostGone s t [m.val + 1] ∧ shownLoss t 5 (m.val + 1) ∧ configDefault t [m.val + 1] ∧
    (∀ fn, fn ≠ m.val + 1 → cfgOf t fn = cfgOf s fn) ∧ t.hif.vfEnable = true ∧ t.hif.numVfs = s.hif.numVfs ∧
    t.hif.linkUp = s.hif.linkUp ∧ Only lossParts s t) ∧
  (∀ (s : State) (m : Fin 8), (!s.hif.vfEnable || decide (s.hif.numVfs ≤ m.val)) = true → exec (.vfFlr m) s = .next s) ∧
  (∀ (s : State) (fn : Fn), ∃ t, exec (.busMasterEnableCleared fn) s = .next t ∧
    cfgOf t fn = { cfgOf s fn with busMaster := false } ∧ (∀ k, k ≠ fn.val → cfgOf t k = cfgOf s k) ∧
    t = setHif s { s.hif with cfg := t.hif.cfg }) ∧
  (∀ (s : State) (v w : BitVec 4), exec (.pcieLinkUp v w) s = .next (
    if s.boot.romRunning = true ∧ s.boot.perst = false then
      setHif s { s.hif with linkUp := true, speed := v, width := w, pm := 0 } else s)) ∧
  (∀ s : State, s.boot.romRunning = true → s.boot.perst = false → exec .configReady s = .next (
    let t := setHif s { s.hif with configReady := true }
    if s.boot.firmwareEnded = true ∧ s.boot.stage = 2 then
      setMailbox (setBoot t { s.boot with stage := 3 }) 8 { present := true } else t)) ∧
  (∀ s : State, (!s.boot.romRunning || s.boot.perst) = true → exec .configReady s = .next s) ∧
  (∀ s : State, let h := s.hif
    exec (.receivedTlpError .correctable) s = .next (setHif s { h with correctable := h.correctable + 1 }) ∧
    exec (.receivedTlpError .poisonedWrite) s
      = .next (setHif s { h with poisoned := satInc h.poisoned, nonFatal := h.nonFatal + 1 }) ∧
    exec (.receivedTlpError .ecrc) s = .next (setHif s { h with nonFatal := h.nonFatal + 1 }) ∧
    exec (.receivedTlpError .fatal) s = .next (setHif s { h with fatal := h.fatal + 1, fatalWait := true }) ∧
    exec (.receivedTlpError .surpriseDown) s = exec .dlDown (setHif s { h with fatal := h.fatal + 1 }))

/-- Host reads, translations, interrupt windows, link idling and requests of the host interface. Covers
HOST_READ_COMPLETION, COMPLETION_TIMEOUT, MSI_X_WINDOW, INVALIDATION_REQUEST, TRANSLATION_COMPLETION,
ASPM_L1_IDLE, L1_EXIT, CONFIGURATION_REQUEST and BAR0_BAD_ACCESS. A good completion answers its read; a failing
one, or a timeout, counts its class and fails the read once, and a completion for no open read is discarded and
counted. A window's end sends a held cause. An invalidation removes its entries at once and is answered when no
read uses them; a translation joins the cache unless its range was invalidated, when it is asked for again. L1
is requested when enabled and quiet. A configuration request is retried before step 6, and then answered by
functions that exist; a whole dword written is the write of the setting it holds, at the place of the PCI
Express specification (log entry 7); a bad BAR0 access is counted, and aborted for a read. Which entry leaves a
full cache is a free choice (log entry 3), dwords and defaults the spec does not state are those of log entry 7,
and the moment an invalidation is answered is the model's (log entry 13). -/
def Obligations.PcieRequests : Prop :=
  (∀ (s : State) (tag : Nat) (r : HostRead), openRead s tag = some r → ∃ t, exec (.hostReadCompletion tag .ok) s = .next t ∧
    (∀ x, x ∈ t.hif.reads ↔ ∃ y ∈ s.hif.reads, x = if y.tag = tag then { y with answered := true } else y) ∧
    t = setHif s { s.hif with reads := t.hif.reads }) ∧
  (∀ (s : State) (tag : Nat) (r : HostRead), openRead s tag = some r →
    (∀ c ∈ [(Instr.hostReadCompletion tag .poisoned, 1, 0), (Instr.hostReadCompletion tag .unsupported, 0, 0),
        (Instr.hostReadCompletion tag .completerAbort, 0, 0), (Instr.completionTimeout tag, 0, 1)],
      exec c.1 s = .next (failRead (setHif s { s.hif with
        poisoned := satAdd s.hif.poisoned c.2.1
        cplTimeout := satAdd s.hif.cplTimeout c.2.2
        nonFatal := s.hif.nonFatal + 1 }) r)) ∧
    (∀ x ∈ (failRead s r).hif.reads, x.tag ≠ tag)) ∧
  (∀ (s : State) (tag : Nat) (r : HostRead) (slot : Fin 9) (x : Running), openRead s tag = some r →
    r.reader = .lantern slot.val → runningOf s slot.val = some x → le x.desc 0 2 = 0x0311 → reservedZero x.desc [(8, 20)] = true →
    x.waiting = false → ∃ t, exec (.completionTimeout tag) s = .next t ∧ runningOf t slot.val = none ∧ t.parts = s.parts) ∧
  (∀ (s : State) (tag : Nat) (o : ReadResult), openRead s tag = none → exec (.completionTimeout tag) s = .next s ∧
    ∃ t, exec (.hostReadCompletion tag o) s = .next t ∧ t.hif.unexpected = satInc s.hif.unexpected ∧
      t.hif.advisory = (if tag ∈ s.hif.abandoned then s.hif.advisory else s.hif.advisory + 1) ∧
      (∀ k, k ∈ t.hif.abandoned ↔ k ∈ s.hif.abandoned ∧ k ≠ tag) ∧ t.hif.reads = s.hif.reads ∧ Only [.hif] s t) ∧
  (∀ (s : State) (fn : Fn) (k : Fin 3), exec (.msiXWindow fn k) s = .next (
    let v := vecOf s fn k
    let t := setVec s fn k { v with window := false, heldCause := false }
    if v.heldCause then raiseVector t fn k else t)) ∧
  (∀ (s : State) (fn : Fn) (base length : Nat), ∃ t, exec (.invalidationRequest fn base length) s = .next t ∧
    let hit := fun (page : Nat) => base < page * 4096 + 4096 ∧ page * 4096 < base + length
    let waits := ∃ r ∈ s.hif.reads, r.fn = fn.val ∧ r.sent = true ∧ (cfgOf s fn).ats = true ∧
      base < r.addr + r.bytes ∧ r.addr < base + length
    (∀ e, e ∈ t.hif.cache ↔ e ∈ s.hif.cache ∧ ¬ (e.fn = fn.val ∧ hit e.page)) ∧
    (∀ p b, (fn.val, p, b) ∈ t.hif.xlateSent ↔
      ((fn.val, p, b) ∈ s.hif.xlateSent ∧ ¬ hit p) ∨ (hit p ∧ b = true ∧ ∃ c, (fn.val, p, c) ∈ s.hif.xlateSent)) ∧
    t.hif.reads = s.hif.reads ∧ Only [.hif, .out] s t ∧
    (s.hif.invWaiting = [] → waits → t.out = s.out ∧ t.hif.invalidations = s.hif.invalidations ∧ t.hif.invWaiting ≠ []) ∧
    (s.hif.invWaiting = [] → ¬ waits → t.out = .invalidationDone fn :: s.out ∧
      t.hif.invalidations = satInc s.hif.invalidations ∧ t.hif.invWaiting = [])) ∧
  (∀ (s : State) (fn : Fn) (page target : Nat) (r w stale : Bool),
    s.hif.xlateSent.find? (fun e => e.1 == fn.val && e.2.1 == page) = some (fn.val, page, stale) →
    ∃ t, exec (.translationCompletion fn page target r w) s = .next t ∧
    (stale = true → t.out = .translationRequest fn page :: s.out ∧ (fn.val, page, false) ∈ t.hif.xlateSent ∧
      t.hif.cache = s.hif.cache ∧ t.hif.reads = s.hif.reads ∧ Only [.hif, .out] s t) ∧
    (stale = false → r = true → (⟨fn.val, page, target, r, w⟩ : Translation) ∈ t.hif.cache ∧
      (∀ e ∈ t.hif.cache, e.fn = fn.val → e.page = page → e = ⟨fn.val, page, target, r, w⟩) ∧
      (∀ e ∈ t.hif.cache, e ∈ s.hif.cache ∨ e = ⟨fn.val, page, target, r, w⟩) ∧
      t.hif.reads.map (·.tag) = s.hif.reads.map (·.tag)) ∧
    (stale = false → r = false → w = false → ∀ e ∈ t.hif.cache, ¬ (e.fn = fn.val ∧ e.page = page))) ∧
  (∀ (s : State) (fn : Fn) (page target : Nat) (r w : Bool),
    s.hif.xlateSent.find? (fun e => e.1 == fn.val && e.2.1 == page) = none →
    exec (.translationCompletion fn page target r w) s = .next s) ∧
  (∀ s : State, exec .aspmL1Idle s = .next (
    let h := s.hif
    if h.linkUp = true ∧ h.aspm = true ∧ h.pm = 0 ∧ linkQuiet h = true then
      emit (setHif s { h with pm := if h.l12 then 3 else if h.l11 then 2 else 1, l1Entries := satInc h.l1Entries }) .requestL1
    else s)) ∧
  (∀ s : State, exec .l1Exit s = .next (setHif s { s.hif with pm := 0 })) ∧
  (∀ (s : State) (fn : Fn) (op : CfgOp), s.hif.linkUp = false → exec (.configurationRequest fn op) s = .next s) ∧
  (∀ (s : State) (fn : Fn) (op : CfgOp), s.hif.linkUp = true → s.hif.configReady = false →
    exec (.configurationRequest fn op) s = .next (emit s (.requestRetry fn))) ∧
  (∀ (s : State) (fn : Fn) (op : CfgOp), s.hif.linkUp = true → s.hif.configReady = true → fn.val ≠ 0 →
    (!s.hif.vfEnable || decide (s.hif.numVfs < fn.val)) = true → exec (.configurationRequest fn op) s = .next s) ∧
  (∀ (s : State) (fn : Fn), s.hif.linkUp = true → s.hif.configReady = true →
    (fn.val == 0 || (s.hif.vfEnable && decide (fn.val ≤ s.hif.numVfs))) = true →
    let c := cfgOf s fn
    (∀ off, exec (.configurationRequest fn (.read off)) s = .next (emit s (.configAnswer fn (cfgDwordOf s fn off)))) ∧
    exec (.configurationRequest fn (.busMaster false)) s = .next (setCfg s fn { c with busMaster := false }) ∧
    exec (.configurationRequest fn (.busMaster true)) s = .next (releaseHeld (setCfg s fn { c with busMaster := true })) ∧
    (∀ on, exec (.configurationRequest fn (.ats on)) s = .next (releaseHeld (setCfg s fn { c with ats := on }))) ∧
    (∀ us, exec (.configurationRequest fn (.timeout us)) s = .next (setCfg s fn { c with timeoutUs := us })) ∧
    (∀ e m, exec (.configurationRequest fn (.msix e m)) s
      = .next (sendAllPending (setCfg s fn { c with msixEnable := e, msixMask := m }) fn)) ∧
    (∀ a b d, exec (.configurationRequest fn (.aspm a b d)) s
      = .next (if fn = 0 then setHif s { s.hif with aspm := a, l11 := b, l12 := d } else s)) ∧
    (∀ n, exec (.configurationRequest fn (.vfs true n)) s
      = .next (if fn = 0 then setHif s { s.hif with vfEnable := true, numVfs := min n 8 } else s)) ∧
    (∀ n, fn = 0 → s.hif.vfEnable = true → ∃ t, exec (.configurationRequest fn (.vfs false n)) s = .next t ∧
      hostGone s t allFns ∧ shownLoss t 4 0 ∧ t.hif.vfEnable = false ∧ t.hif.numVfs = min n 8 ∧ Only lossParts s t) ∧
    (∀ off v, let u := setCfg s fn { c with words := tset c.words off v }
      (off = 0x04 → exec (.configurationRequest fn (.write off v)) s
        = exec (.configurationRequest fn (.busMaster (v.getLsbD 2))) u) ∧
      (off = 0x50 → exec (.configurationRequest fn (.write off v)) s
        = exec (.configurationRequest fn (.msix (v.getLsbD 31) (v.getLsbD 30))) u) ∧
      (off = 0x78 → v.getLsbD 15 = true → exec (.configurationRequest fn (.write off v)) s
        = if h : fn.val = 0 then exec .pfFlr u else exec (.vfFlr ⟨fn.val - 1, by omega⟩) u) ∧
      (off = (if fn = 0 then 0x1C4 else 0x154) → exec (.configurationRequest fn (.write off v)) s
        = exec (.configurationRequest fn (.ats (v.getLsbD 31))) u) ∧
      (fn = 0 → off = 0x44 → exec (.configurationRequest fn (.write off v)) s = .next (
        let d3 := decide (v.extractLsb' 0 2 = 3#2)
        let w := if c.d3hot && !d3 then cfgDefaults u [0] else u
        setCfg w 0 { cfgOf w 0 with d3hot := d3 })) ∧
      (fn = 0 → off = 0x188 → exec (.configurationRequest fn (.write off v)) s
        = exec (.configurationRequest fn (.vfs (v.getLsbD 0) s.hif.numVfs)) u) ∧
      ((∀ k ∈ [0x04, 0x44, 0x50, 0x78, 0x80, 0x98, 0x154, 0x188, 0x190, 0x1C4, 0x1D8], off ≠ k) →
        exec (.configurationRequest fn (.write off v)) s = .next u))) ∧
  (∀ s : State, cfgDwordOf s 0 0x00 = 0x72561F2E#32 ∧ cfgDwordOf s 0 0x08 = 0x12000001#32 ∧ cfgDwordOf s 0 0x2C = 0x00011F2E#32 ∧
    cfgDwordOf s 0 0x14C = s.sec.dieId.extractLsb' 0 32 ∧ cfgDwordOf s 0 0x150 = s.sec.dieId.extractLsb' 32 32 ∧
    cfgDwordOf s 0 0x54 = 0xF000#32 ∧ cfgDwordOf s 0 0x58 = 0xF800#32 ∧
    (cfgDwordOf s 0 0x40).extractLsb' 0 16 = 0x5001#16 ∧ (cfgDwordOf s 0 0x188).getLsbD 0 = s.hif.vfEnable) ∧
  (∀ (s : State) (fn : Fn), (cfgDwordOf s fn 0x04).getLsbD 2 = (cfgOf s fn).busMaster ∧
    (cfgDwordOf s fn 0x50).getLsbD 31 = (cfgOf s fn).msixEnable ∧ (cfgDwordOf s fn 0x50).extractLsb' 16 11 = 2#11) ∧
  (∀ (s : State) (fn : Fn), let t := setHif s { s.hif with advisory := s.hif.advisory + 1 }
    exec (.bar0BadAccess fn true) s = .next t ∧ exec (.bar0BadAccess fn false) s = .next (emit t (.completerAbort fn)))

/-- REGISTER_WRITE, LAN_LOCAL_TIME_LO_READ, NET_FLOW_ARRIVAL_LO_READ, NET_FLOW_SR_NTP_LO_READ, PWR_ENERGY_LO_READ,
BLF_SEQ_LO_READ and BLF_ID_LO_READ. A write of a base of a disabled mailbox through a function that may write it
sets that half of the base; a write of a doorbell, a configuration, a recovery or an MSI-X register acts as its
own command does or sets its word; before the module runs, and at misaligned and unassigned offsets, a write
changes nothing. A read of a LO register returns the low half and latches the high half for its function, which
the HI register then shows; a foreign stream reads zero and latches nothing; before the module runs such reads
return zero. -/
def Obligations.Registers : Prop :=
  (∀ (s : State) (fn : Fn) (m : Fin 9) (k : Fin 4) (hi : Bool) (v : Word), s.boot.stage = 3 → Can.mailboxWrite s fn m false = true →
    ∃ t, exec (.registerWrite fn (BitVec.ofNat 28 (0x1000 + 0x100 * m.val + 8 * k.val + if hi then 4 else 0)) v) s = .next t ∧
    let b := mailboxOf s m
    let half := fun (x : BitVec 64) => (if hi then v ++ x.extractLsb' 0 32 else x.extractLsb' 32 32 ++ v : BitVec 64)
    mailboxOf t m = (match k with
      | 0 => { b with cmdBase := half b.cmdBase }
      | 1 => { b with cplBase := half b.cplBase }
      | 2 => { b with evtBase := half b.evtBase }
      | 3 => { b with statBase := half b.statBase }) ∧
    (∀ n, n ≠ m.val → mailboxOf t n = mailboxOf s n) ∧ Only [.mailboxes] s t) ∧
  (∀ (s : State) (fn : Fn) (m : Fin 9) (k : Fin 8) (v : Word), s.boot.stage = 3 → Can.mailboxWrite s fn m false = false →
    exec (.registerWrite fn (BitVec.ofNat 28 (0x1000 + 0x100 * m.val + 4 * k.val)) v) s = .next s) ∧
  (∀ (s : State) (fn : Fn) (m : Fin 9) (v : Word), s.boot.stage = 3 →
    let at' := fun (o : Nat) => exec (.registerWrite fn (BitVec.ofNat 28 (0x1000 + 0x100 * m.val + o)) v) s
    at' 0x20 = exec (.lanMbCfgWrite fn m v) s ∧ at' 0x24 = exec (.lanMbCmdDoorbell fn m v) s ∧
    at' 0x28 = exec (.lanMbCplDoorbell fn m v) s ∧ at' 0x2C = exec (.lanMbEvtDoorbell fn m v) s) ∧
  (∀ (s : State) (fn : Fn) (r : Fin 64) (k : Fin 256) (v : Word), s.boot.stage = 3 →
    exec (.registerWrite fn (BitVec.ofNat 28 (0x6000 + 16 * r.val)) v) s = exec (.lanOringDoorbell fn r v) s ∧
    exec (.registerWrite fn (BitVec.ofNat 28 (0x5010018 + 0x40 * k.val)) v) s = exec (.medRingDoorbell fn k v) s) ∧
  (∀ (s : State) (fn : Fn) (k : Fin 3) (v : Word), s.boot.stage = 3 →
    let at' := fun (o : Nat) => exec (.registerWrite fn (BitVec.ofNat 28 (0xF000 + 16 * k.val + o)) v) s
    let x := vecOf s fn k
    at' 0 = .next (setVec s fn k { x with addrLo := v }) ∧ at' 4 = .next (setVec s fn k { x with addrHi := v }) ∧
    at' 8 = .next (setVec s fn k { x with data := v }) ∧
    (v.getLsbD 0 = true ∨ x.pendingBit = false ∨ (cfgOf s fn).msixEnable = false ∨ (cfgOf s fn).msixMask = true → at' 12 = .next (setVec s fn k { x with masked := v.getLsbD 0 })) ∧
    (v.getLsbD 0 = false → x.pendingBit = true → (cfgOf s fn).msixEnable = true → (cfgOf s fn).msixMask = false →
      at' 12 = .next (raiseVector (setVec s fn k { x with masked := false, pendingBit := false }) fn k))) ∧
  (∀ (s : State) (v : Word), let at' := fun (o : Nat) => exec (.registerWrite 0 (BitVec.ofNat 28 o) v) s
    let b := s.boot
    at' 0x700 = exec (.lanBootCtrlWrite 0 v) s ∧ at' 0x710 = exec (.lanRecGo 0 v) s ∧
    at' 0x704 = .next (setBoot s { b with recAddr := (b.recAddr.extractLsb' 32 32 ++ v : BitVec 64) }) ∧
    at' 0x708 = .next (setBoot s { b with recAddr := (v ++ b.recAddr.extractLsb' 0 32 : BitVec 64) }) ∧
    at' 0x70C = .next (setBoot s { b with recLength := v })) ∧
  (∀ (s : State) (fn : Fn) (off : BitVec 28) (v : Word), (off.toNat % 4 != 0
      || (s.boot.stage != 3 && !(decide (0x700 ≤ off.toNat) && decide (off.toNat < 0x718)))
      || (fn.val != 0 && decide (0x700 ≤ off.toNat) && decide (off.toNat < 0x718))
      || decide (off.toNat < 0x700) || (decide (0x718 ≤ off.toNat) && decide (off.toNat < 0x1000))
      || (decide (0x1900 ≤ off.toNat) && decide (off.toNat < 0x6000)) || (decide (0x6400 ≤ off.toNat) && decide (off.toNat < 0xF000))
      || (decide (0xF030 ≤ off.toNat) && decide (off.toNat < 0x5010000)) || decide (0x5014000 ≤ off.toNat)) = true →
    exec (.registerWrite fn off v) s = .next s) ∧
  (∀ (s : State) (fn : Fn), s.boot.stage = 3 → ∀ c ∈ [(Instr.lanLocalTimeLoRead fn, 0x200, s.time),
      (Instr.pwrEnergyLoRead fn, 0x9000014, s.power.energy), (Instr.blfSeqLoRead fn, 0x8000004, s.belfry.mirSeq),
      (Instr.blfIdLoRead fn, 0x800000C, s.belfry.mirId)],
    ∃ t, exec c.1 s = .next t ∧ t.out = .regValue fn c.2.1 (c.2.2.extractLsb' 0 32) :: s.out ∧
    registerValue t fn (c.2.1 + 4) = c.2.2.extractLsb' 32 32 ∧
    (∀ k, k ≠ fn.val → registerValue t k (c.2.1 + 4) = registerValue s k (c.2.1 + 4)) ∧
    t.hif = { s.hif with latches := t.hif.latches } ∧ Only [.hif, .out] s t) ∧
  (∀ (s : State) (fn : Fn) (k : Fin 256), s.boot.stage = 3 → shows fn (streamOwner s k) = true →
    let x := streamOf s k
    (∃ t, exec (.netFlowArrivalLoRead fn k) s = .next t ∧
      t.out = .regValue fn (0x6010004 + 0x20 * k.val) (x.arrival.extractLsb' 0 32) :: s.out ∧
      registerValue t fn (0x6010008 + 0x20 * k.val) = x.arrival.extractLsb' 32 32 ∧
      t.hif = { s.hif with latches := t.hif.latches } ∧ Only [.hif, .out] s t) ∧
    (∃ t, exec (.netFlowSrNtpLoRead fn k) s = .next t ∧
      t.out = .regValue fn (0x601000C + 0x20 * k.val) (x.srNtp.extractLsb' 0 32) :: s.out ∧
      registerValue t fn (0x6010010 + 0x20 * k.val) = x.srNtp.extractLsb' 32 32 ∧
      registerValue t fn (0x6010014 + 0x20 * k.val) = x.srRtp ∧ registerValue t fn (0x6010018 + 0x20 * k.val) = x.srStamp ∧
      t.hif = { s.hif with latches := t.hif.latches } ∧ Only [.hif, .out] s t)) ∧
  (∀ (s : State) (fn : Fn) (k : Fin 256), s.boot.stage = 3 → shows fn (streamOwner s k) = false →
    exec (.netFlowArrivalLoRead fn k) s = .next (emit s (.regValue fn (0x6010004 + 0x20 * k.val) 0)) ∧
    exec (.netFlowSrNtpLoRead fn k) s = .next (emit s (.regValue fn (0x601000C + 0x20 * k.val) 0))) ∧
  (∀ (s : State) (fn : Fn) (k : Fin 256), s.boot.stage ≠ 3 →
    ∀ c ∈ [(Instr.lanLocalTimeLoRead fn, 0x200), (Instr.pwrEnergyLoRead fn, 0x9000014), (Instr.blfSeqLoRead fn, 0x8000004),
      (Instr.blfIdLoRead fn, 0x800000C), (Instr.netFlowArrivalLoRead fn k, 0x6010004 + 0x20 * k.val),
      (Instr.netFlowSrNtpLoRead fn k, 0x601000C + 0x20 * k.val)], exec c.1 s = .next (emit s (.regValue fn c.2 0))) ∧
  (∀ s : State, registerValue s 0 0 = 0x51567256#32 ∧ (∀ fn, s.boot.stage = 3 → registerValue s fn 0 = 0x51567256#32) ∧
    (∀ fn j, s.boot.stage = 3 → j < 1024 → fn ≠ 0 → (jobOf s j).state ≠ 0 → fn ≠ (jobOf s j).part.toNat + 1 →
      registerValue s fn (0x8000 + 16 * j) = 0))

/-- A step runs the command at the front of the queue. With command c at the front of its queue a step is exec of c
on the state with the queue's rest, and exec leaves that queue alone. On an empty queue a step answers a next
state in which, while every rail is up, LAN_LOCAL_TIME and the time of each job that runs, saves or restores
have advanced by one tick, and in which the rest of the state but the issue buckets and the load register
stands; with a rail down nothing changes. The queue and the tick on an empty queue are the model's choice (log
entry 10). -/
def Obligations.StepRunsCommand : Prop :=
  (∀ (c : Instr) (s : State), step { s with pending := c :: s.pending } = exec c s) ∧
  (∀ (c : Instr) (s t : State), exec c s = .next t → t.pending = s.pending) ∧
  (∀ s : State, s.pending = [] → s.boot.rails = 8 → ∃ t, step s = .next t ∧ t.time = s.time + 1 ∧
    (∀ j, (jobOf t j).time = (jobOf s j).time + (if (jobOf s j).state ∈ [2, 3, 6] then 1 else 0) ∧
      jobOf t j = { jobOf s j with time := (jobOf t j).time }) ∧
    (∀ p, (spindleOf s p).arr.tokens ≤ 64 * 255 → (spindleOf s p).arr.tokens ≤ (spindleOf t p).arr.tokens ∧
      (spindleOf t p).arr.tokens ≤ 64 * 255) ∧
    Only [.time, .jobs, .spindles, .prepBusy, .prepLoad] s t) ∧
  (∀ s : State, s.pending = [] → s.boot.rails ≠ 8 → step s = .next s)

/-- The state right after reset. After reset no command waits, no partition, job or mailbox exists, no memory is
listed, no rail is up, the stage is ROM checks with PERST# asserted, and the registers read as their reset
columns say: DOM_STEP_RATE.OP 5, PWR_STATUS.OP 1 with ceiling 120 W, the limit at the ceiling, issue fractions
255 and no reading of a sensor; no stream, pipeline, ring or skein exists; no limited-change setting has used a
step. That PERST# is asserted at reset is the model's choice (log entry 1). -/
def Obligations.ResetState : Prop :=
  State.reset.pending = [] ∧ State.reset.parts = [] ∧ State.reset.jobs = [] ∧ State.reset.mailboxes = [] ∧
  State.reset.spindles = [] ∧ State.reset.spires = [] ∧ State.reset.boot.rails = 0 ∧ State.reset.boot.stage = 0 ∧
  State.reset.boot.perst = true ∧ bootReg State.reset = 0 ∧
  (∀ d : Fin 4, domeReg State.reset d 0 = 0x50000000#32 ∧ domeReg State.reset d 4 = 0 ∧ domeReg State.reset d 0xC = 0) ∧
  powerReg State.reset 0 0 = 0x10000078#32 ∧ powerReg State.reset 0 4 = 120000#32 ∧ powerReg State.reset 0 0x10 = 0xFFFFFFFF#32 ∧
  (∀ d : Fin 4, powerReg State.reset 0 (0x20 + 4 * d.val) = 0x80008000#32) ∧
  (∀ k : Fin 4, spireOwnerReg State.reset k = 0) ∧ seqsReg State.reset = 0 ∧ tracksReg State.reset = 0 ∧
  State.reset.streams = [] ∧ State.reset.pipes = [] ∧ State.reset.orings = [] ∧ State.reset.channels = [] ∧
  State.reset.skein = {} ∧ State.reset.hif = {} ∧ State.reset.belfry = {} ∧
  FuseInv State.reset

/-- Limited-change settings only ever burn steps. Whatever a step or a command does, from any state: the steps used
by the security version, the Belfry seal generation, the skein identity binding and the power ceiling never fall
and debug once disabled stays disabled; each setting changes only by its own command; from a state within the
number of fuses of each setting the next state is within them; and the registers show the values that R424 gives
for the steps used: SV_FUSED, the seal generation, the binding and ceiling steps, the ceiling of 120 W less 5 W
per step, and debug disabled. -/
def Obligations.FusesNeverUnburnt : Prop :=
  (∀ s t : State, step s = .next t → unburntNever s t ∧ (FuseInv s → FuseInv t)) ∧
  (∀ (c : Instr) (s t : State), exec c s = .next t → unburntNever s t ∧ changesSetting c s t ∧ (FuseInv s → FuseInv t)) ∧
  (∀ s : State, s.boot.stage = 3 → FuseInv s →
    (registerValue s 0 0x500).toNat / 2 ^ 16 % 2 ^ 7 = s.sec.svFused ∧
    (registerValue s 0 0x500).getLsbD 31 = s.sec.debugDisabled ∧
    (registerValue s 0 0x504).toNat = 2 ^ 24 * s.belfry.sealGen + 2 ^ 16 * s.sec.skeinSteps + 2 ^ 8 * s.sec.ceilSteps ∧
    (registerValue s 0 0x9000000).toNat % 2 ^ 8 = 120 - 5 * s.sec.ceilSteps)

/-- Only its own inputs and the relay's inbox reach the Belfry. No command but the Belfry's own inputs and the
operations of its relay changes anything of the Belfry beyond the bytes in its inbox: no reset, restart, PCIe
event, partition change or skein event does. What its own inputs make of the Belfry, and what it sends, depend
on the Belfry alone: two modules that agree on the Belfry, its fuse secret burnt, agree on it afterwards and
have sent the same. Its supply is lost and comes back only by its own events. -/
def Obligations.BelfrySeparation : Prop :=
  (∀ (c : Instr) (s t : State), belfryInput c = false → belfryRequest c = false → exec c s = .next t →
    t.belfry = { s.belfry with inbox := t.belfry.inbox, inboxFull := t.belfry.inboxFull }) ∧
  (∀ (c : Instr) (s s' : State), belfryInput c = true → s.belfry.secret ≠ [] → s.belfry = s'.belfry →
    ∃ t t' l, exec c s = .next t ∧ exec c s' = .next t' ∧ t.belfry = t'.belfry ∧ t.out = l ++ s.out ∧ t'.out = l ++ s'.out ∧
      Only [.belfry, .out] s t) ∧
  (∀ (c : Instr) (s t : State), exec c s = .next t → t.belfry.powered ≠ s.belfry.powered → c = .vblfFalling ∨ c = .vblfInRange)

/-- Every command answers, and changes only its own parts of the state. Every command answers a next state from
every state, and that state agrees with the one before in every part of the machine that the command does not
name: of the 34 parts, spindles, spires, domes, channels, partitions, jobs, mailboxes, streams, decoders,
pipelines, the skein, keys and fuses, the Belfry, power, the host interface and the start, only those listed for
the command change, and never the queue. -/
def Obligations.FramesOfCommands : Prop :=
  ∀ (c : Instr) (s : State), ∃ t, exec c s = .next t ∧ Only (touches c) s t ∧ t.pending = s.pending

/-- A fetch from a work counter. A fetch from a work counter, one command, takes VALUE and counts it up while VALUE
is below LIMIT; an exhausted counter gives 0xFFFFFFFF and stays as it is; LIMIT and every other counter stand. -/
def Obligations.WorkCounterFetch : Prop :=
  ∀ (s : State) (p : Fin 256) (j : Nat), Can.workFetch s p j = true → ∃ t, exec (.workFetch p) s = .next t ∧
    let h := decodeHead (descAt s p)
    let w := workOf s h.wcSpire h.wc
    let v := workOf t h.wcSpire h.wc
    (w.value < w.limit → (spindleOf t p).agen.workItem = w.value ∧ v.value = w.value + 1 ∧ v.limit = w.limit) ∧
    (w.limit ≤ w.value → (spindleOf t p).agen.workItem = 0xFFFFFFFF#32 ∧ v = w) ∧
    (∀ i n, (i, n) ≠ (h.wcSpire, h.wc) → workOf t i n = workOf s i n) ∧ Only [.spindles, .spires] s t

end
end

