-- ==== Sys2Proof/Laws/Only.lean ====
section
/-! SUPPORT. How the parts of the state that an operation leaves alone follow from those its steps leave alone. -/

namespace Sys2Proof

open Machine

theorem Only.refl (F : List Field) (s : State) : Only F s s := by
  refine ⟨fun f _ => ?_⟩
  cases f <;> rfl

theorem Only.trans {F : List Field} {s t u : State} (h : Only F s t) (k : Only F t u) : Only F s u := by
  refine ⟨fun f hf => ?_⟩
  have a := h.keeps f hf
  have b := k.keeps f hf
  cases f <;> exact b.trans a

theorem Only.mono {F G : List Field} {s t : State} (h : Only F s t) (sub : F.all (G.contains ·) = true) :
    Only G s t := by
  refine ⟨fun f hf => h.keeps f (fun hF => hf ?_)⟩
  have := List.all_eq_true.mp sub f hF
  simpa using this

/-- One more operation, of a smaller footprint. -/
theorem Only.step {F G : List Field} {s t u : State} (h : Only G s t) (k : Only F t u)
    (sub : F.all (G.contains ·) = true) : Only G s u :=
  h.trans (k.mono sub)

theorem Only.symm {F : List Field} {s t : State} (h : Only F s t) : Only F t s := by
  refine ⟨fun f hf => ?_⟩
  have a := h.keeps f hf
  cases f <;> exact a.symm

/-- An operation of a smaller footprint neither makes nor breaks agreement. -/
theorem Only.op_iff {F G : List Field} {s t r : State} (k : Only F s t) (sub : F.all (G.contains ·) = true) :
    Only G r t ↔ Only G r s :=
  ⟨fun h => h.trans (k.mono sub).symm, fun h => h.trans (k.mono sub)⟩

theorem Only.ite_iff {F : List Field} {s t u : State} {c : Prop} [Decidable c] :
    Only F s (if c then t else u) ↔ (c → Only F s t) ∧ (¬c → Only F s u) := by
  by_cases h : c <;> simp [h]

theorem Only.ite {F : List Field} {s t u : State} {c : Prop} [Decidable c] (h : Only F s t) (k : Only F s u) :
    Only F s (if c then t else u) := by
  split
  · exact h
  · exact k

theorem Only.guarded {F : List Field} {r s t : State} {c : Bool} (h : Only F r s) (k : Only F r t) :
    Only F r (guarded c s t) := by
  unfold Machine.guarded; exact Only.ite k h

theorem Only.foldl {F : List Field} {α : Type} (f : State → α → State) (hf : ∀ s a, Only F s (f s a))
    (l : List α) {s t : State} (h : Only F s t) : Only F s (l.foldl f t) := by
  induction l generalizing t with
  | nil => exact h
  | cons a r ih => exact ih (h.trans (hf t a))

/-- The outcome of a command has the parts of the effect it gives, and its own queue. -/
theorem Only.finish {F : List Field} {s b t : State} (h : Only F s b) (e : finish s b = .next t) : Only F s t := by
  cases e
  refine ⟨fun f hf => ?_⟩
  have := h.keeps f hf
  cases f <;> first | rfl | exact this

/-- What an operation that may not apply gives, where it applies, agrees outside `F`. -/
structure OnlyIf (F : List Field) (s : State) (o : Option State) : Prop where
  only : ∀ t, o = some t → Only F s t

theorem OnlyIf.none_iff {F : List Field} {s : State} : OnlyIf F s none ↔ True :=
  ⟨fun _ => trivial, fun _ => ⟨fun _ h => by cases h⟩⟩
theorem OnlyIf.some_iff {F : List Field} {s t : State} : OnlyIf F s (some t) ↔ Only F s t :=
  ⟨fun h => h.only t rfl, fun h => ⟨fun u e => by cases e; exact h⟩⟩

theorem OnlyIf.ite_iff {F : List Field} {s : State} {t u : Option State} {c : Prop} [Decidable c] :
    OnlyIf F s (if c then t else u) ↔ (c → OnlyIf F s t) ∧ (¬c → OnlyIf F s u) := by
  by_cases h : c <;> simp [h]

theorem OnlyIf.of_eq {F : List Field} {s t : State} {o : Option State} (h : OnlyIf F s o) (e : o = some t) :
    Only F s t := h.only t e

theorem OnlyIf.getD {F : List Field} {s : State} {o : Option State} (h : OnlyIf F s o) : Only F s (o.getD s) := by
  cases o with
  | none => exact Only.refl _ _
  | some t => exact h.only t rfl

theorem OnlyIf.map {F : List Field} {s : State} {o : Option State} {f : State → State} (h : OnlyIf F s o)
    (hf : ∀ t, Only F t (f t)) : OnlyIf F s (o.map f) := by
  cases o with
  | none => exact OnlyIf.none_iff.mpr trivial
  | some t => exact OnlyIf.some_iff.mpr ((h.only t rfl).trans (hf t))

/-! ### One update -/

theorem only_with_draws (x : State) (v0) : Only [.draws] x { x with draws := v0 } :=
  ⟨fun f hf => by cases f <;> first | rfl | exact absurd (by decide) hf⟩

theorem only_with_out (x : State) (v0) : Only [.out] x { x with out := v0 } :=
  ⟨fun f hf => by cases f <;> first | rfl | exact absurd (by decide) hf⟩

theorem only_with_orders (x : State) (v0) : Only [.orders] x { x with orders := v0 } :=
  ⟨fun f hf => by cases f <;> first | rfl | exact absurd (by decide) hf⟩

theorem only_with_spindles (x : State) (v0) : Only [.spindles] x { x with spindles := v0 } :=
  ⟨fun f hf => by cases f <;> first | rfl | exact absurd (by decide) hf⟩

theorem only_with_spires (x : State) (v0) : Only [.spires] x { x with spires := v0 } :=
  ⟨fun f hf => by cases f <;> first | rfl | exact absurd (by decide) hf⟩

theorem only_with_domes (x : State) (v0) : Only [.domes] x { x with domes := v0 } :=
  ⟨fun f hf => by cases f <;> first | rfl | exact absurd (by decide) hf⟩

theorem only_with_channels (x : State) (v0) : Only [.channels] x { x with channels := v0 } :=
  ⟨fun f hf => by cases f <;> first | rfl | exact absurd (by decide) hf⟩

theorem only_with_parts (x : State) (v0) : Only [.parts] x { x with parts := v0 } :=
  ⟨fun f hf => by cases f <;> first | rfl | exact absurd (by decide) hf⟩

theorem only_with_jobs (x : State) (v0) : Only [.jobs] x { x with jobs := v0 } :=
  ⟨fun f hf => by cases f <;> first | rfl | exact absurd (by decide) hf⟩

theorem only_with_mailboxes (x : State) (v0) : Only [.mailboxes] x { x with mailboxes := v0 } :=
  ⟨fun f hf => by cases f <;> first | rfl | exact absurd (by decide) hf⟩

theorem only_with_running (x : State) (v0) : Only [.running] x { x with running := v0 } :=
  ⟨fun f hf => by cases f <;> first | rfl | exact absurd (by decide) hf⟩

theorem only_with_lastServed (x : State) (v0) : Only [.lastServed] x { x with lastServed := v0 } :=
  ⟨fun f hf => by cases f <;> first | rfl | exact absurd (by decide) hf⟩

theorem only_with_streams (x : State) (v0) : Only [.streams] x { x with streams := v0 } :=
  ⟨fun f hf => by cases f <;> first | rfl | exact absurd (by decide) hf⟩

theorem only_with_decoders (x : State) (v0) : Only [.decoders] x { x with decoders := v0 } :=
  ⟨fun f hf => by cases f <;> first | rfl | exact absurd (by decide) hf⟩

theorem only_with_suspended (x : State) (v0) : Only [.suspended] x { x with suspended := v0 } :=
  ⟨fun f hf => by cases f <;> first | rfl | exact absurd (by decide) hf⟩

theorem only_with_motion (x : State) (v0) : Only [.motion] x { x with motion := v0 } :=
  ⟨fun f hf => by cases f <;> first | rfl | exact absurd (by decide) hf⟩

theorem only_with_prepUnits (x : State) (v0) : Only [.prepUnits] x { x with prepUnits := v0 } :=
  ⟨fun f hf => by cases f <;> first | rfl | exact absurd (by decide) hf⟩

theorem only_with_workItems (x : State) (v0) : Only [.workItems] x { x with workItems := v0 } :=
  ⟨fun f hf => by cases f <;> first | rfl | exact absurd (by decide) hf⟩

theorem only_with_prepBusy (x : State) (v0) : Only [.prepBusy] x { x with prepBusy := v0 } :=
  ⟨fun f hf => by cases f <;> first | rfl | exact absurd (by decide) hf⟩

theorem only_with_netPorts (x : State) (v0) : Only [.netPorts] x { x with netPorts := v0 } :=
  ⟨fun f hf => by cases f <;> first | rfl | exact absurd (by decide) hf⟩

theorem only_with_pipes (x : State) (v0) : Only [.pipes] x { x with pipes := v0 } :=
  ⟨fun f hf => by cases f <;> first | rfl | exact absurd (by decide) hf⟩

theorem only_with_tracks (x : State) (v0) : Only [.tracks] x { x with tracks := v0 } :=
  ⟨fun f hf => by cases f <;> first | rfl | exact absurd (by decide) hf⟩

theorem only_with_orings (x : State) (v0) : Only [.orings] x { x with orings := v0 } :=
  ⟨fun f hf => by cases f <;> first | rfl | exact absurd (by decide) hf⟩

theorem only_with_skein (x : State) (v0) : Only [.skein] x { x with skein := v0 } :=
  ⟨fun f hf => by cases f <;> first | rfl | exact absurd (by decide) hf⟩

theorem only_with_sec (x : State) (v0) : Only [.sec] x { x with sec := v0 } :=
  ⟨fun f hf => by cases f <;> first | rfl | exact absurd (by decide) hf⟩

theorem only_with_belfry (x : State) (v0) : Only [.belfry] x { x with belfry := v0 } :=
  ⟨fun f hf => by cases f <;> first | rfl | exact absurd (by decide) hf⟩

theorem only_with_power (x : State) (v0) : Only [.power] x { x with power := v0 } :=
  ⟨fun f hf => by cases f <;> first | rfl | exact absurd (by decide) hf⟩

theorem only_with_hif (x : State) (v0) : Only [.hif] x { x with hif := v0 } :=
  ⟨fun f hf => by cases f <;> first | rfl | exact absurd (by decide) hf⟩

theorem only_with_boot (x : State) (v0) : Only [.boot] x { x with boot := v0 } :=
  ⟨fun f hf => by cases f <;> first | rfl | exact absurd (by decide) hf⟩

theorem only_with_draws_tracks (x : State) (v0 v1) : Only [.draws, .tracks] x { x with draws := v0, tracks := v1 } :=
  ⟨fun f hf => by cases f <;> first | rfl | exact absurd (by decide) hf⟩

theorem only_with_streams_orings (x : State) (v0 v1) : Only [.streams, .orings] x { x with streams := v0, orings := v1 } :=
  ⟨fun f hf => by cases f <;> first | rfl | exact absurd (by decide) hf⟩

theorem only_with_prepBusy_prepLoad (x : State) (v0 v1) : Only [.prepBusy, .prepLoad] x { x with prepBusy := v0, prepLoad := v1 } :=
  ⟨fun f hf => by cases f <;> first | rfl | exact absurd (by decide) hf⟩

theorem only_with_prepSat_prepUfl (x : State) (v0 v1) : Only [.prepSat, .prepUfl] x { x with prepSat := v0, prepUfl := v1 } :=
  ⟨fun f hf => by cases f <;> first | rfl | exact absurd (by decide) hf⟩

theorem only_with_time_spindles_jobs (x : State) (v0 v1 v2) : Only [.time, .spindles, .jobs] x { x with time := v0, spindles := v1, jobs := v2 } :=
  ⟨fun f hf => by cases f <;> first | rfl | exact absurd (by decide) hf⟩

theorem only_with_spires_parts_mailboxes_running (x : State) (v0 v1 v2 v3) : Only [.spires, .parts, .mailboxes, .running] x { x with spires := v0, parts := v1, mailboxes := v2, running := v3 } :=
  ⟨fun f hf => by cases f <;> first | rfl | exact absurd (by decide) hf⟩

theorem only_with_domes_channels_decoders_netPorts_skein_power_hif_boot (x : State) (v0 v1 v2 v3 v4 v5 v6 v7) : Only [.domes, .channels, .decoders, .netPorts, .skein, .power, .hif, .boot] x { x with domes := v0, channels := v1, decoders := v2, netPorts := v3, skein := v4, power := v5, hif := v6, boot := v7 } :=
  ⟨fun f hf => by cases f <;> first | rfl | exact absurd (by decide) hf⟩

end Sys2Proof
end

