-- ==== Sys2Proof/Laws/FrameOps.lean ====
section
/-! SUPPORT. The parts of the state that an operation can change, one lemma an operation: the shared operations, synchronisation, memory requests, the arrays and the vector engine. -/

set_option linter.unusedSimpArgs false
set_option linter.unusedTactic false
set_option linter.unreachableTactic false

namespace Sys2Proof

open Machine

theorem only_setDecoder : ∀ a0 a1 a2, Only [.decoders] a0 (setDecoder a0 a1 a2) := by
  intro a0 a1 a2
  unfold setDecoder
  repeat' first
    | with_reducible exact Only.refl _ _
    | assumption
    | simp (disch := decide) only [Only.op_iff (only_with_decoders _ _), Only.refl, Only.ite_iff, implies_true,
        and_self, and_true, true_and]
    | refine Only.foldl _ (fun _ _ => ?_) _ ?_
    | refine And.intro ?_ ?_
    | intro _
    | split

theorem only_emit : ∀ a0 a1, Only [.out] a0 (emit a0 a1) := by
  intro a0 a1
  unfold emit
  repeat' first
    | with_reducible exact Only.refl _ _
    | assumption
    | simp (disch := decide) only [Only.op_iff (only_with_out _ _), Only.refl, Only.ite_iff, implies_true, and_self,
        and_true, true_and]
    | refine Only.foldl _ (fun _ _ => ?_) _ ?_
    | refine And.intro ?_ ?_
    | intro _
    | split

theorem only_setHif : ∀ a0 a1, Only [.hif] a0 (setHif a0 a1) := by
  intro a0 a1
  unfold setHif
  repeat' first
    | with_reducible exact Only.refl _ _
    | assumption
    | simp (disch := decide) only [Only.op_iff (only_with_hif _ _), Only.refl, Only.ite_iff, implies_true, and_self,
        and_true, true_and]
    | refine Only.foldl _ (fun _ _ => ?_) _ ?_
    | refine And.intro ?_ ?_
    | intro _
    | split

theorem only_askTranslation : ∀ a0 a1 a2, Only [.out, .hif] a0 (askTranslation a0 a1 a2) := by
  intro a0 a1 a2
  unfold askTranslation
  repeat' first
    | with_reducible exact Only.refl _ _
    | assumption
    | simp (disch := decide) only [Only.op_iff (only_emit _ _), Only.op_iff (only_setHif _ _), Only.refl,
        Only.ite_iff, implies_true, and_self, and_true, true_and]
    | refine Only.foldl _ (fun _ _ => ?_) _ ?_
    | refine And.intro ?_ ?_
    | intro _
    | split

theorem only_holdWrite : ∀ a0 a1, Only [.hif] a0 (holdWrite a0 a1) := by
  intro a0 a1
  unfold holdWrite
  repeat' first
    | with_reducible exact Only.refl _ _
    | assumption
    | simp (disch := decide) only [Only.op_iff (only_setHif _ _), Only.refl, Only.ite_iff, implies_true, and_self,
        and_true, true_and]
    | refine Only.foldl _ (fun _ _ => ?_) _ ?_
    | refine And.intro ?_ ?_
    | intro _
    | split

theorem only_issuePosted : ∀ a0 a1, Only [.out, .hif] a0 (issuePosted a0 a1) := by
  intro a0 a1
  unfold issuePosted
  repeat' first
    | with_reducible exact Only.refl _ _
    | assumption
    | simp (disch := decide) only [Only.op_iff (only_askTranslation _ _ _), Only.op_iff (only_emit _ _), Only.op_iff
        (only_holdWrite _ _), Only.op_iff (only_setHif _ _), Only.refl, Only.ite_iff, implies_true, and_self,
        and_true, true_and]
    | refine Only.foldl _ (fun _ _ => ?_) _ ?_
    | refine And.intro ?_ ?_
    | intro _
    | split

theorem only_hostWrite : ∀ a0 a1 a2 a3, Only [.out, .hif] a0 (hostWrite a0 a1 a2 a3) := by
  intro a0 a1 a2 a3
  unfold hostWrite
  repeat' first
    | with_reducible exact Only.refl _ _
    | assumption
    | simp (disch := decide) only [Only.op_iff (only_issuePosted _ _), Only.refl, Only.ite_iff, implies_true,
        and_self, and_true, true_and]
    | refine Only.foldl _ (fun _ _ => ?_) _ ?_
    | refine And.intro ?_ ?_
    | intro _
    | split

theorem only_setVec : ∀ a0 a1 a2 a3, Only [.hif] a0 (setVec a0 a1 a2 a3) := by
  intro a0 a1 a2 a3
  unfold setVec
  repeat' first
    | with_reducible exact Only.refl _ _
    | assumption
    | simp (disch := decide) only [Only.op_iff (only_setHif _ _), Only.refl, Only.ite_iff, implies_true, and_self,
        and_true, true_and]
    | refine Only.foldl _ (fun _ _ => ?_) _ ?_
    | refine And.intro ?_ ?_
    | intro _
    | split

theorem only_raiseVector : ∀ a0 a1 a2, Only [.out, .hif] a0 (raiseVector a0 a1 a2) := by
  intro a0 a1 a2
  unfold raiseVector
  repeat' first
    | with_reducible exact Only.refl _ _
    | assumption
    | simp (disch := decide) only [Only.op_iff (only_issuePosted _ _), Only.op_iff (only_setVec _ _ _ _), Only.refl,
        Only.ite_iff, implies_true, and_self, and_true, true_and]
    | refine Only.foldl _ (fun _ _ => ?_) _ ?_
    | refine And.intro ?_ ?_
    | intro _
    | split

theorem only_setMailbox : ∀ a0 a1 a2, Only [.mailboxes] a0 (setMailbox a0 a1 a2) := by
  intro a0 a1 a2
  unfold setMailbox
  repeat' first
    | with_reducible exact Only.refl _ _
    | assumption
    | simp (disch := decide) only [Only.op_iff (only_with_mailboxes _ _), Only.refl, Only.ite_iff, implies_true,
        and_self, and_true, true_and]
    | refine Only.foldl _ (fun _ _ => ?_) _ ?_
    | refine And.intro ?_ ?_
    | intro _
    | split

theorem only_eventTo : ∀ a0 a1 a2 a3 a4, Only [.out, .mailboxes, .hif] a0 (eventTo a0 a1 a2 a3 a4) := by
  intro a0 a1 a2 a3 a4
  unfold eventTo
  repeat' first
    | with_reducible exact Only.refl _ _
    | assumption
    | simp (disch := decide) only [Only.op_iff (only_hostWrite _ _ _ _), Only.op_iff (only_raiseVector _ _ _),
        Only.op_iff (only_setMailbox _ _ _), Only.refl, Only.ite_iff, implies_true, and_self, and_true, true_and]
    | refine Only.foldl _ (fun _ _ => ?_) _ ?_
    | refine And.intro ?_ ?_
    | intro _
    | split

theorem only_raiseEvent : ∀ a0 a1 a2 a3, Only [.out, .mailboxes, .hif] a0 (raiseEvent a0 a1 a2 a3) := by
  intro a0 a1 a2 a3
  unfold raiseEvent
  repeat' first
    | with_reducible exact Only.refl _ _
    | assumption
    | simp (disch := decide) only [Only.op_iff (only_eventTo _ _ _ _ _), Only.refl, Only.ite_iff, implies_true,
        and_self, and_true, true_and]
    | refine Only.foldl _ (fun _ _ => ?_) _ ?_
    | refine And.intro ?_ ?_
    | intro _
    | split

theorem only_raiseUncorrectable : ∀ a0 a1 a2 a3 a4 a5, Only [.out, .mailboxes, .hif] a0 (raiseUncorrectable a0 a1 a2
    a3 a4 a5) := by
  intro a0 a1 a2 a3 a4 a5
  unfold raiseUncorrectable
  repeat' first
    | with_reducible exact Only.refl _ _
    | assumption
    | simp (disch := decide) only [Only.op_iff (only_raiseEvent _ _ _ _), Only.refl, Only.ite_iff, implies_true,
        and_self, and_true, true_and]
    | refine Only.foldl _ (fun _ _ => ?_) _ ?_
    | refine And.intro ?_ ?_
    | intro _
    | split

theorem only_setChannel : ∀ a0 a1 a2, Only [.channels] a0 (setChannel a0 a1 a2) := by
  intro a0 a1 a2
  unfold setChannel
  repeat' first
    | with_reducible exact Only.refl _ _
    | assumption
    | simp (disch := decide) only [Only.op_iff (only_with_channels _ _), Only.refl, Only.ite_iff, implies_true,
        and_self, and_true, true_and]
    | refine Only.foldl _ (fun _ _ => ?_) _ ?_
    | refine And.intro ?_ ?_
    | intro _
    | split

theorem only_setLife : ∀ a0 a1, Only [.boot] a0 (setLife a0 a1) := by
  intro a0 a1
  unfold setLife
  repeat' first
    | with_reducible exact Only.refl _ _
    | assumption
    | simp (disch := decide) only [Only.op_iff (only_with_boot _ _), Only.refl, Only.ite_iff, implies_true,
        and_self, and_true, true_and]
    | refine Only.foldl _ (fun _ _ => ?_) _ ?_
    | refine And.intro ?_ ?_
    | intro _
    | split

theorem only_dramUncorrectable : ∀ a0 a1 a2 a3 a4, Only [.out, .channels, .mailboxes, .hif, .boot] a0
    (dramUncorrectable a0 a1 a2 a3 a4) := by
  intro a0 a1 a2 a3 a4
  unfold dramUncorrectable
  repeat' first
    | with_reducible exact Only.refl _ _
    | assumption
    | simp (disch := decide) only [Only.op_iff (only_raiseUncorrectable _ _ _ _ _ _), Only.op_iff (only_setChannel _
        _ _), Only.op_iff (only_setLife _ _), Only.refl, Only.ite_iff, implies_true, and_self, and_true, true_and]
    | refine Only.foldl _ (fun _ _ => ?_) _ ?_
    | refine And.intro ?_ ?_
    | intro _
    | split

theorem only_setPart : ∀ a0 a1 a2, Only [.parts] a0 (setPart a0 a1 a2) := by
  intro a0 a1 a2
  unfold setPart
  repeat' first
    | with_reducible exact Only.refl _ _
    | assumption
    | simp (disch := decide) only [Only.op_iff (only_with_parts _ _), Only.refl, Only.ite_iff, implies_true,
        and_self, and_true, true_and]
    | refine Only.foldl _ (fun _ _ => ?_) _ ?_
    | refine And.intro ?_ ?_
    | intro _
    | split

theorem only_setStream : ∀ a0 a1 a2, Only [.streams] a0 (setStream a0 a1 a2) := by
  intro a0 a1 a2
  unfold setStream
  repeat' first
    | with_reducible exact Only.refl _ _
    | assumption
    | simp (disch := decide) only [Only.op_iff (only_with_streams _ _), Only.refl, Only.ite_iff, implies_true,
        and_self, and_true, true_and]
    | refine Only.foldl _ (fun _ _ => ?_) _ ?_
    | refine And.intro ?_ ?_
    | intro _
    | split

theorem only_setBoot : ∀ a0 a1, Only [.boot] a0 (setBoot a0 a1) := by
  intro a0 a1
  unfold setBoot
  repeat' first
    | with_reducible exact Only.refl _ _
    | assumption
    | simp (disch := decide) only [Only.op_iff (only_with_boot _ _), Only.refl, Only.ite_iff, implies_true,
        and_self, and_true, true_and]
    | refine Only.foldl _ (fun _ _ => ?_) _ ?_
    | refine And.intro ?_ ?_
    | intro _
    | split

theorem only_setPrepUnit : ∀ a0 a1 a2, Only [.prepUnits] a0 (setPrepUnit a0 a1 a2) := by
  intro a0 a1 a2
  unfold setPrepUnit
  repeat' first
    | with_reducible exact Only.refl _ _
    | assumption
    | simp (disch := decide) only [Only.op_iff (only_with_prepUnits _ _), Only.refl, Only.ite_iff, implies_true,
        and_self, and_true, true_and]
    | refine Only.foldl _ (fun _ _ => ?_) _ ?_
    | refine And.intro ?_ ?_
    | intro _
    | split

theorem only_answerInvalidations : ∀ s l, Only [.out, .hif] s (answerInvalidations s l) := by
  intro s l
  induction l generalizing s with
  | nil => exact only_setHif _ _ |>.mono (by decide)
  | cons a r ih =>
    unfold answerInvalidations
    dsimp only
    split
    · refine Only.trans ?_ (ih _)
      exact ((only_setHif _ _).mono (by decide)).step (only_emit _ _) (by decide)
    · exact (only_setHif _ _).mono (by decide)

theorem only_endReads : ∀ a0 a1, Only [.out, .hif] a0 (endReads a0 a1) := by
  intro a0 a1
  unfold endReads
  repeat' first
    | with_reducible exact Only.refl _ _
    | assumption
    | simp (disch := decide) only [Only.op_iff (only_answerInvalidations _ _), Only.op_iff (only_setHif _ _),
        Only.refl, Only.ite_iff, implies_true, and_self, and_true, true_and]
    | refine Only.foldl _ (fun _ _ => ?_) _ ?_
    | refine And.intro ?_ ?_
    | intro _
    | split

theorem only_endSlotReads : ∀ a0 a1, Only [.out, .hif] a0 (endSlotReads a0 a1) := by
  intro a0 a1
  unfold endSlotReads
  repeat' first
    | with_reducible exact Only.refl _ _
    | assumption
    | simp (disch := decide) only [Only.op_iff (only_endReads _ _), Only.refl, Only.ite_iff, implies_true, and_self,
        and_true, true_and]
    | refine Only.foldl _ (fun _ _ => ?_) _ ?_
    | refine And.intro ?_ ?_
    | intro _
    | split

theorem only_mailboxRest : ∀ a0 a1, Only [.mailboxes] a0 (mailboxRest a0 a1) := by
  intro a0 a1
  unfold mailboxRest
  repeat' first
    | with_reducible exact Only.refl _ _
    | assumption
    | simp (disch := decide) only [Only.op_iff (only_setMailbox _ _ _), Only.refl, Only.ite_iff, implies_true,
        and_self, and_true, true_and]
    | refine Only.foldl _ (fun _ _ => ?_) _ ?_
    | refine And.intro ?_ ?_
    | intro _
    | split

theorem only_postCompletionEntry : ∀ a0 a1 a2 a3, Only [.out, .mailboxes, .hif] a0 (postCompletionEntry a0 a1 a2 a3)
    := by
  intro a0 a1 a2 a3
  unfold postCompletionEntry
  repeat' first
    | with_reducible exact Only.refl _ _
    | assumption
    | simp (disch := decide) only [Only.op_iff (only_hostWrite _ _ _ _), Only.op_iff (only_raiseVector _ _ _),
        Only.op_iff (only_setMailbox _ _ _), Only.refl, Only.ite_iff, implies_true, and_self, and_true, true_and]
    | refine Only.foldl _ (fun _ _ => ?_) _ ?_
    | refine And.intro ?_ ?_
    | intro _
    | split

theorem only_completeAs : ∀ a0 a1 a2 a3 a4, Only [.out, .mailboxes, .running, .hif] a0 (completeAs a0 a1 a2 a3 a4)
    := by
  intro a0 a1 a2 a3 a4
  unfold completeAs
  repeat' first
    | with_reducible exact Only.refl _ _
    | assumption
    | simp (disch := decide) only [Only.op_iff (only_emit _ _), Only.op_iff (only_endSlotReads _ _), Only.op_iff
        (only_mailboxRest _ _), Only.op_iff (only_postCompletionEntry _ _ _ _), Only.op_iff (only_with_running _ _),
        Only.refl, Only.ite_iff, implies_true, and_self, and_true, true_and]
    | refine Only.foldl _ (fun _ _ => ?_) _ ?_
    | refine And.intro ?_ ?_
    | intro _
    | split

theorem only_complete : ∀ a0 a1 a2 a3, Only [.out, .mailboxes, .running, .hif] a0 (complete a0 a1 a2 a3) := by
  intro a0 a1 a2 a3
  unfold complete
  repeat' first
    | with_reducible exact Only.refl _ _
    | assumption
    | simp (disch := decide) only [Only.op_iff (only_completeAs _ _ _ _ _), Only.refl, Only.ite_iff, implies_true,
        and_self, and_true, true_and]
    | refine Only.foldl _ (fun _ _ => ?_) _ ?_
    | refine And.intro ?_ ?_
    | intro _
    | split

theorem only_setSkein : ∀ a0 a1, Only [.skein] a0 (setSkein a0 a1) := by
  intro a0 a1
  unfold setSkein
  repeat' first
    | with_reducible exact Only.refl _ _
    | assumption
    | simp (disch := decide) only [Only.op_iff (only_with_skein _ _), Only.refl, Only.ite_iff, implies_true,
        and_self, and_true, true_and]
    | refine Only.foldl _ (fun _ _ => ?_) _ ?_
    | refine And.intro ?_ ?_
    | intro _
    | split

theorem only_ordered : ∀ a0, Only [.orders] a0 (ordered a0) := by
  intro a0
  unfold ordered
  repeat' first
    | with_reducible exact Only.refl _ _
    | assumption
    | simp (disch := decide) only [Only.op_iff (only_with_orders _ _), Only.refl, Only.ite_iff, implies_true,
        and_self, and_true, true_and]
    | refine Only.foldl _ (fun _ _ => ?_) _ ?_
    | refine And.intro ?_ ?_
    | intro _
    | split

theorem only_setNetPort : ∀ a0 a1 a2, Only [.netPorts] a0 (setNetPort a0 a1 a2) := by
  intro a0 a1 a2
  unfold setNetPort
  repeat' first
    | with_reducible exact Only.refl _ _
    | assumption
    | simp (disch := decide) only [Only.op_iff (only_with_netPorts _ _), Only.refl, Only.ite_iff, implies_true,
        and_self, and_true, true_and]
    | refine Only.foldl _ (fun _ _ => ?_) _ ?_
    | refine And.intro ?_ ?_
    | intro _
    | split

theorem only_setJob : ∀ a0 a1 a2, Only [.jobs] a0 (setJob a0 a1 a2) := by
  intro a0 a1 a2
  unfold setJob
  repeat' first
    | with_reducible exact Only.refl _ _
    | assumption
    | simp (disch := decide) only [Only.op_iff (only_with_jobs _ _), Only.refl, Only.ite_iff, implies_true,
        and_self, and_true, true_and]
    | refine Only.foldl _ (fun _ _ => ?_) _ ?_
    | refine And.intro ?_ ?_
    | intro _
    | split

theorem only_holdUnits : ∀ a0 a1 a2 a3, Only [.jobs] a0 (holdUnits a0 a1 a2 a3) := by
  intro a0 a1 a2 a3
  unfold holdUnits
  repeat' first
    | with_reducible exact Only.refl _ _
    | assumption
    | simp (disch := decide) only [Only.op_iff (only_setJob _ _ _), Only.refl, Only.ite_iff, implies_true, and_self,
        and_true, true_and]
    | refine Only.foldl _ (fun _ _ => ?_) _ ?_
    | refine And.intro ?_ ?_
    | intro _
    | split

theorem only_setSpindle : ∀ a0 a1 a2, Only [.spindles] a0 (setSpindle a0 a1 a2) := by
  intro a0 a1 a2
  unfold setSpindle
  repeat' first
    | with_reducible exact Only.refl _ _
    | assumption
    | simp (disch := decide) only [Only.op_iff (only_with_spindles _ _), Only.refl, Only.ite_iff, implies_true,
        and_self, and_true, true_and]
    | refine Only.foldl _ (fun _ _ => ?_) _ ?_
    | refine And.intro ?_ ?_
    | intro _
    | split

theorem only_setSpire : ∀ a0 a1 a2, Only [.spires] a0 (setSpire a0 a1 a2) := by
  intro a0 a1 a2
  unfold setSpire
  repeat' first
    | with_reducible exact Only.refl _ _
    | assumption
    | simp (disch := decide) only [Only.op_iff (only_with_spires _ _), Only.refl, Only.ite_iff, implies_true,
        and_self, and_true, true_and]
    | refine Only.foldl _ (fun _ _ => ?_) _ ?_
    | refine And.intro ?_ ?_
    | intro _
    | split

theorem only_resumeUnits : ∀ a0 a1, Only [.spindles, .spires, .jobs] a0 (resumeUnits a0 a1) := by
  intro a0 a1
  unfold resumeUnits
  repeat' first
    | with_reducible exact Only.refl _ _
    | assumption
    | simp (disch := decide) only [Only.op_iff (only_setJob _ _ _), Only.op_iff (only_setSpindle _ _ _), Only.op_iff
        (only_setSpire _ _ _), Only.refl, Only.ite_iff, implies_true, and_self, and_true, true_and]
    | refine Only.foldl _ (fun _ _ => ?_) _ ?_
    | refine And.intro ?_ ?_
    | intro _
    | split

theorem only_resumeWaiter : ∀ a0 a1 a2, Only [.spindles, .spires, .jobs] a0 (resumeWaiter a0 a1 a2) := by
  intro a0 a1 a2
  unfold resumeWaiter
  repeat' first
    | with_reducible exact Only.refl _ _
    | assumption
    | simp (disch := decide) only [Only.op_iff (only_resumeUnits _ _), Only.op_iff (only_setJob _ _ _), Only.op_iff
        (only_setSpindle _ _ _), Only.op_iff (only_setSpire _ _ _), Only.refl, Only.ite_iff, implies_true, and_self,
        and_true, true_and]
    | refine Only.foldl _ (fun _ _ => ?_) _ ?_
    | refine And.intro ?_ ?_
    | intro _
    | split

theorem only_setSem : ∀ a0 a1 a2 a3, Only [.spires] a0 (setSem a0 a1 a2 a3) := by
  intro a0 a1 a2 a3
  unfold setSem
  repeat' first
    | with_reducible exact Only.refl _ _
    | assumption
    | simp (disch := decide) only [Only.op_iff (only_setSpire _ _ _), Only.refl, Only.ite_iff, implies_true,
        and_self, and_true, true_and]
    | refine Only.foldl _ (fun _ _ => ?_) _ ?_
    | refine And.intro ?_ ?_
    | intro _
    | split

theorem only_grantHeads : ∀ a0 a1 a2 a3, Only [.spindles, .spires, .jobs] a3 (grantHeads a0 a1 a2 a3) := by
  intro a0 a1 n
  induction n with
  | zero => intro a3; exact Only.refl _ _
  | succ n ih =>
    intro a3
    unfold grantHeads
    repeat' first
      | with_reducible exact Only.refl _ _
      | assumption
      | simp (disch := decide) only [Only.op_iff (ih _), Only.op_iff (only_holdUnits _ _ _ _), Only.op_iff
          (only_resumeWaiter _ _ _), Only.op_iff (only_setSem _ _ _ _), Only.refl, Only.ite_iff, implies_true, and_self,
          and_true, true_and]
      | refine Only.foldl _ (fun _ _ => ?_) _ ?_
      | refine And.intro ?_ ?_
      | intro _
      | split

theorem only_grantAll : ∀ a0 a1 a2, Only [.spindles, .spires, .jobs] a0 (grantAll a0 a1 a2) := by
  intro a0 a1 a2
  unfold grantAll
  repeat' first
    | with_reducible exact Only.refl _ _
    | assumption
    | simp (disch := decide) only [Only.op_iff (only_grantHeads _ _ _ _), Only.refl, Only.ite_iff, implies_true,
        and_self, and_true, true_and]
    | refine Only.foldl _ (fun _ _ => ?_) _ ?_
    | refine And.intro ?_ ?_
    | intro _
    | split

theorem only_acquireUnits : ∀ a0 a1 a2 a3 a4 t, acquireUnits a0 a1 a2 a3 a4 = some t → Only [.spindles, .spires,
    .jobs] a0 t := by
  intro a0 a1 a2 a3 a4 t h
  unfold acquireUnits at h
  repeat' first
    | contradiction
    | (cases h; done)
    | dsimp only at h
    | split at h
  all_goals try cases h
  all_goals
    repeat' first
      | with_reducible exact Only.refl _ _
      | assumption
      | simp (disch := decide) only [Only.op_iff (only_grantAll _ _ _), Only.op_iff (only_setSem _ _ _ _), Only.refl,
          Only.ite_iff, implies_true, and_self, and_true, true_and]
      | refine Only.foldl _ (fun _ _ => ?_) _ ?_
      | refine And.intro ?_ ?_
      | intro _
      | split

theorem only_completeWaiting : ∀ a0 a1 a2 a3 a4, Only [.out, .mailboxes, .running, .hif] a0 (completeWaiting a0 a1
    a2 a3 a4) := by
  intro a0 a1 a2 a3 a4
  unfold completeWaiting
  repeat' first
    | with_reducible exact Only.refl _ _
    | assumption
    | simp (disch := decide) only [Only.op_iff (only_complete _ _ _ _), Only.refl, Only.ite_iff, implies_true,
        and_self, and_true, true_and]
    | refine Only.foldl _ (fun _ _ => ?_) _ ?_
    | refine And.intro ?_ ?_
    | intro _
    | split

theorem only_endJobWith : ∀ a0 a1 a2 a3 a4 a5, Only [.out, .jobs, .mailboxes, .running, .hif] a0 (endJobWith a0 a1
    a2 a3 a4 a5) := by
  intro a0 a1 a2 a3 a4 a5
  unfold endJobWith
  repeat' first
    | with_reducible exact Only.refl _ _
    | assumption
    | simp (disch := decide) only [Only.op_iff (only_completeWaiting _ _ _ _ _), Only.op_iff (only_setJob _ _ _),
        Only.refl, Only.ite_iff, implies_true, and_self, and_true, true_and]
    | refine Only.foldl _ (fun _ _ => ?_) _ ?_
    | refine And.intro ?_ ?_
    | intro _
    | split

theorem only_admitArray : ∀ a0 a1, Only [.spindles] a0 (admitArray a0 a1) := by
  intro a0 a1
  unfold admitArray
  repeat' first
    | with_reducible exact Only.refl _ _
    | assumption
    | simp (disch := decide) only [Only.op_iff (only_setSpindle _ _ _), Only.refl, Only.ite_iff, implies_true,
        and_self, and_true, true_and]
    | refine Only.foldl _ (fun _ _ => ?_) _ ?_
    | refine And.intro ?_ ?_
    | intro _
    | split

theorem only_setLinkPort : ∀ a0 a1 a2, Only [.skein] a0 (setLinkPort a0 a1 a2) := by
  intro a0 a1 a2
  unfold setLinkPort
  repeat' first
    | with_reducible exact Only.refl _ _
    | assumption
    | simp (disch := decide) only [Only.op_iff (only_with_skein _ _), Only.refl, Only.ite_iff, implies_true,
        and_self, and_true, true_and]
    | refine Only.foldl _ (fun _ _ => ?_) _ ?_
    | refine And.intro ?_ ?_
    | intro _
    | split

theorem only_syncPass : ∀ a0 a1, Only [.spindles] a0 (syncPass a0 a1) := by
  intro a0 a1
  unfold syncPass
  repeat' first
    | with_reducible exact Only.refl _ _
    | assumption
    | simp (disch := decide) only [Only.op_iff (only_setSpindle _ _ _), Only.refl, Only.ite_iff, implies_true,
        and_self, and_true, true_and]
    | refine Only.foldl _ (fun _ _ => ?_) _ ?_
    | refine And.intro ?_ ?_
    | intro _
    | split

theorem only_syncWait : ∀ a0 a1, Only [.spindles] a0 (syncWait a0 a1) := by
  intro a0 a1
  unfold syncWait
  repeat' first
    | with_reducible exact Only.refl _ _
    | assumption
    | simp (disch := decide) only [Only.op_iff (only_setSpindle _ _ _), Only.refl, Only.ite_iff, implies_true,
        and_self, and_true, true_and]
    | refine Only.foldl _ (fun _ _ => ?_) _ ?_
    | refine And.intro ?_ ?_
    | intro _
    | split

theorem only_passDrain : ∀ a0 a1, Only [.spindles] a0 (passDrain a0 a1) := by
  intro a0 a1
  unfold passDrain
  repeat' first
    | with_reducible exact Only.refl _ _
    | assumption
    | simp (disch := decide) only [onDesc, Only.op_iff (only_syncPass _ _), Only.op_iff (only_syncWait _ _),
        Only.refl, Only.ite_iff, implies_true, and_self, and_true, true_and]
    | refine Only.foldl _ (fun _ _ => ?_) _ ?_
    | refine And.intro ?_ ?_
    | intro _
    | split

theorem only_passWaitLocal : ∀ a0 a1, Only [.spindles] a0 (passWaitLocal a0 a1) := by
  intro a0 a1
  unfold passWaitLocal
  repeat' first
    | with_reducible exact Only.refl _ _
    | assumption
    | simp (disch := decide) only [onDesc, Only.op_iff (only_setSpindle _ _ _), Only.op_iff (only_syncPass _ _),
        Only.op_iff (only_syncWait _ _), Only.refl, Only.ite_iff, implies_true, and_self, and_true, true_and]
    | refine Only.foldl _ (fun _ _ => ?_) _ ?_
    | refine And.intro ?_ ?_
    | intro _
    | split

theorem only_afterPulse : ∀ a0 a1, Only [.spindles] a0 (afterPulse a0 a1) := by
  intro a0 a1
  unfold afterPulse
  repeat' first
    | with_reducible exact Only.refl _ _
    | assumption
    | simp (disch := decide) only [Only.op_iff (only_passDrain _ _), Only.op_iff (only_passWaitLocal _ _),
        Only.refl, Only.ite_iff, implies_true, and_self, and_true, true_and]
    | refine Only.foldl _ (fun _ _ => ?_) _ ?_
    | refine And.intro ?_ ?_
    | intro _
    | split

theorem only_agenStop : ∀ a0 a1, Only [.spindles] a0 (agenStop a0 a1) := by
  intro a0 a1
  unfold agenStop
  repeat' first
    | with_reducible exact Only.refl _ _
    | assumption
    | simp (disch := decide) only [Only.op_iff (only_setSpindle _ _ _), Only.refl, Only.ite_iff, implies_true,
        and_self, and_true, true_and]
    | refine Only.foldl _ (fun _ _ => ?_) _ ?_
    | refine And.intro ?_ ?_
    | intro _
    | split

theorem only_spindleError : ∀ a0 a1 a2 a3, Only [.out, .jobs, .mailboxes, .running, .hif] a0 (spindleError a0 a1 a2
    a3) := by
  intro a0 a1 a2 a3
  unfold spindleError
  repeat' first
    | with_reducible exact Only.refl _ _
    | assumption
    | simp (disch := decide) only [Only.op_iff (only_endJobWith _ _ _ _ _ _), Only.refl, Only.ite_iff, implies_true,
        and_self, and_true, true_and]
    | refine Only.foldl _ (fun _ _ => ?_) _ ?_
    | refine And.intro ?_ ?_
    | intro _
    | split

theorem only_agenError : ∀ a0 a1 a2 a3, Only [.out, .spindles, .jobs, .mailboxes, .running, .hif] a0 (agenError a0
    a1 a2 a3) := by
  intro a0 a1 a2 a3
  unfold agenError
  repeat' first
    | with_reducible exact Only.refl _ _
    | assumption
    | simp (disch := decide) only [Only.op_iff (only_agenStop _ _), Only.op_iff (only_spindleError _ _ _ _),
        Only.refl, Only.ite_iff, implies_true, and_self, and_true, true_and]
    | refine Only.foldl _ (fun _ _ => ?_) _ ?_
    | refine And.intro ?_ ?_
    | intro _
    | split

theorem only_setOring : ∀ a0 a1 a2, Only [.orings] a0 (setOring a0 a1 a2) := by
  intro a0 a1 a2
  unfold setOring
  repeat' first
    | with_reducible exact Only.refl _ _
    | assumption
    | simp (disch := decide) only [Only.op_iff (only_with_orings _ _), Only.refl, Only.ite_iff, implies_true,
        and_self, and_true, true_and]
    | refine Only.foldl _ (fun _ _ => ?_) _ ?_
    | refine And.intro ?_ ?_
    | intro _
    | split

theorem only_drawn : ∀ a0, Only [.draws] a0 (drawn a0) := by
  intro a0
  unfold drawn
  repeat' first
    | with_reducible exact Only.refl _ _
    | assumption
    | simp (disch := decide) only [Only.op_iff (only_with_draws _ _), Only.refl, Only.ite_iff, implies_true,
        and_self, and_true, true_and]
    | refine Only.foldl _ (fun _ _ => ?_) _ ?_
    | refine And.intro ?_ ?_
    | intro _
    | split

theorem only_setSec : ∀ a0 a1, Only [.sec] a0 (setSec a0 a1) := by
  intro a0 a1
  unfold setSec
  repeat' first
    | with_reducible exact Only.refl _ _
    | assumption
    | simp (disch := decide) only [Only.op_iff (only_with_sec _ _), Only.refl, Only.ite_iff, implies_true, and_self,
        and_true, true_and]
    | refine Only.foldl _ (fun _ _ => ?_) _ ?_
    | refine And.intro ?_ ?_
    | intro _
    | split

theorem only_setWork : ∀ a0 a1 a2 a3, Only [.spires] a0 (setWork a0 a1 a2 a3) := by
  intro a0 a1 a2 a3
  unfold setWork
  repeat' first
    | with_reducible exact Only.refl _ _
    | assumption
    | simp (disch := decide) only [Only.op_iff (only_setSpire _ _ _), Only.refl, Only.ite_iff, implies_true,
        and_self, and_true, true_and]
    | refine Only.foldl _ (fun _ _ => ?_) _ ?_
    | refine And.intro ?_ ?_
    | intro _
    | split

theorem only_armCounter : ∀ a0 a1, Only [.out, .spindles, .spires, .jobs, .mailboxes, .running, .hif] a0 (armCounter
    a0 a1) := by
  intro a0 a1
  unfold armCounter
  repeat' first
    | with_reducible exact Only.refl _ _
    | assumption
    | simp (disch := decide) only [Only.op_iff (only_agenError _ _ _ _), onDesc, Only.op_iff (only_setSpindle _ _
        _), Only.op_iff (only_setWork _ _ _ _), Only.refl, Only.ite_iff, implies_true, and_self, and_true, true_and]
    | refine Only.foldl _ (fun _ _ => ?_) _ ?_
    | refine And.intro ?_ ?_
    | intro _
    | split

theorem only_arrayIdle : ∀ a0 a1, Only [.spindles] a0 (arrayIdle a0 a1) := by
  intro a0 a1
  unfold arrayIdle
  repeat' first
    | with_reducible exact Only.refl _ _
    | assumption
    | simp (disch := decide) only [Only.op_iff (only_setSpindle _ _ _), Only.refl, Only.ite_iff, implies_true,
        and_self, and_true, true_and]
    | refine Only.foldl _ (fun _ _ => ?_) _ ?_
    | refine And.intro ?_ ?_
    | intro _
    | split

theorem only_closeBarrier : ∀ a0 a1 a2 a3 a4, Only [.spindles, .spires, .jobs] a0 (closeBarrier a0 a1 a2 a3 a4) := by
  intro a0 a1 a2 a3 a4
  unfold closeBarrier
  repeat' first
    | with_reducible exact Only.refl _ _
    | assumption
    | simp (disch := decide) only [Only.op_iff (only_grantAll _ _ _), Only.op_iff (only_setSem _ _ _ _), Only.refl,
        Only.ite_iff, implies_true, and_self, and_true, true_and]
    | refine Only.foldl _ (fun _ _ => ?_) _ ?_
    | refine And.intro ?_ ?_
    | intro _
    | split

theorem only_putRead : ∀ a0 a1 a2, Only [.out, .hif] a0 (putRead a0 a1 a2) := by
  intro a0 a1 a2
  unfold putRead
  repeat' first
    | with_reducible exact Only.refl _ _
    | assumption
    | simp (disch := decide) only [Only.op_iff (only_emit _ _), Only.op_iff (only_setHif _ _), Only.refl,
        Only.ite_iff, implies_true, and_self, and_true, true_and]
    | refine Only.foldl _ (fun _ _ => ?_) _ ?_
    | refine And.intro ?_ ?_
    | intro _
    | split

theorem only_sendRead : ∀ a0 a1, Only [.out, .hif] a0 (sendRead a0 a1) := by
  intro a0 a1
  unfold sendRead
  repeat' first
    | with_reducible exact Only.refl _ _
    | assumption
    | simp (disch := decide) only [Only.op_iff (only_askTranslation _ _ _), Only.op_iff (only_putRead _ _ _),
        Only.refl, Only.ite_iff, implies_true, and_self, and_true, true_and]
    | refine Only.foldl _ (fun _ _ => ?_) _ ?_
    | refine And.intro ?_ ?_
    | intro _
    | split

theorem only_issueRead : ∀ a0 a1 a2 a3 a4, Only [.out, .hif] a0 (issueRead a0 a1 a2 a3 a4) := by
  intro a0 a1 a2 a3 a4
  unfold issueRead
  repeat' first
    | with_reducible exact Only.refl _ _
    | assumption
    | simp (disch := decide) only [Only.op_iff (only_sendRead _ _), Only.op_iff (only_setHif _ _), Only.refl,
        Only.ite_iff, implies_true, and_self, and_true, true_and]
    | refine Only.foldl _ (fun _ _ => ?_) _ ?_
    | refine And.intro ?_ ?_
    | intro _
    | split

theorem only_modPart : ∀ a0 a1 a2, Only [.parts] a0 (modPart a0 a1 a2) := by
  intro a0 a1 a2
  unfold modPart
  repeat' first
    | with_reducible exact Only.refl _ _
    | assumption
    | simp (disch := decide) only [Only.op_iff (only_setPart _ _ _), Only.refl, Only.ite_iff, implies_true,
        and_self, and_true, true_and]
    | refine Only.foldl _ (fun _ _ => ?_) _ ?_
    | refine And.intro ?_ ?_
    | intro _
    | split

theorem only_barrierArrive : ∀ a0 a1 a2 a3 a4 t, barrierArrive a0 a1 a2 a3 a4 = some t → Only [.spindles, .spires,
    .jobs] a0 t := by
  intro a0 a1 a2 a3 a4 t h
  unfold barrierArrive at h
  repeat' first
    | contradiction
    | (cases h; done)
    | dsimp only at h
    | split at h
  all_goals try cases h
  all_goals
    repeat' first
      | with_reducible exact Only.refl _ _
      | assumption
      | simp (disch := decide) only [Only.op_iff (only_closeBarrier _ _ _ _ _), Only.op_iff (only_resumeWaiter _ _ _),
          Only.op_iff (only_setSem _ _ _ _), Only.refl, Only.ite_iff, implies_true, and_self, and_true, true_and]
      | refine Only.foldl _ (fun _ _ => ?_) _ ?_
      | refine And.intro ?_ ?_
      | intro _
      | split

theorem only_setPipe : ∀ a0 a1 a2, Only [.pipes] a0 (setPipe a0 a1 a2) := by
  intro a0 a1 a2
  unfold setPipe
  repeat' first
    | with_reducible exact Only.refl _ _
    | assumption
    | simp (disch := decide) only [Only.op_iff (only_with_pipes _ _), Only.refl, Only.ite_iff, implies_true,
        and_self, and_true, true_and]
    | refine Only.foldl _ (fun _ _ => ?_) _ ?_
    | refine And.intro ?_ ?_
    | intro _
    | split

theorem only_setDome : ∀ a0 a1 a2, Only [.domes] a0 (setDome a0 a1 a2) := by
  intro a0 a1 a2
  unfold setDome
  repeat' first
    | with_reducible exact Only.refl _ _
    | assumption
    | simp (disch := decide) only [Only.op_iff (only_with_domes _ _), Only.refl, Only.ite_iff, implies_true,
        and_self, and_true, true_and]
    | refine Only.foldl _ (fun _ _ => ?_) _ ?_
    | refine And.intro ?_ ?_
    | intro _
    | split

theorem only_setPower : ∀ a0 a1, Only [.power] a0 (setPower a0 a1) := by
  intro a0 a1
  unfold setPower
  repeat' first
    | with_reducible exact Only.refl _ _
    | assumption
    | simp (disch := decide) only [Only.op_iff (only_with_power _ _), Only.refl, Only.ite_iff, implies_true,
        and_self, and_true, true_and]
    | refine Only.foldl _ (fun _ _ => ?_) _ ?_
    | refine And.intro ?_ ?_
    | intro _
    | split

theorem only_setBelfry : ∀ a0 a1, Only [.belfry] a0 (setBelfry a0 a1) := by
  intro a0 a1
  unfold setBelfry
  repeat' first
    | with_reducible exact Only.refl _ _
    | assumption
    | simp (disch := decide) only [Only.op_iff (only_with_belfry _ _), Only.refl, Only.ite_iff, implies_true,
        and_self, and_true, true_and]
    | refine Only.foldl _ (fun _ _ => ?_) _ ?_
    | refine And.intro ?_ ?_
    | intro _
    | split

theorem only_setCfg : ∀ a0 a1 a2, Only [.hif] a0 (setCfg a0 a1 a2) := by
  intro a0 a1 a2
  unfold setCfg
  repeat' first
    | with_reducible exact Only.refl _ _
    | assumption
    | simp (disch := decide) only [Only.op_iff (only_setHif _ _), Only.refl, Only.ite_iff, implies_true, and_self,
        and_true, true_and]
    | refine Only.foldl _ (fun _ _ => ?_) _ ?_
    | refine And.intro ?_ ?_
    | intro _
    | split

theorem only_raiseHostTimeout : ∀ a0 a1 a2 a3, Only [.out, .mailboxes, .hif] a0 (raiseHostTimeout a0 a1 a2 a3) := by
  intro a0 a1 a2 a3
  unfold raiseHostTimeout
  repeat' first
    | with_reducible exact Only.refl _ _
    | assumption
    | simp (disch := decide) only [Only.op_iff (only_raiseEvent _ _ _ _), Only.refl, Only.ite_iff, implies_true,
        and_self, and_true, true_and]
    | refine Only.foldl _ (fun _ _ => ?_) _ ?_
    | refine And.intro ?_ ?_
    | intro _
    | split

theorem only_deferCompletion : ∀ a0 a1, Only [.running] a0 (deferCompletion a0 a1) := by
  intro a0 a1
  unfold deferCompletion
  repeat' first
    | with_reducible exact Only.refl _ _
    | assumption
    | simp (disch := decide) only [Only.op_iff (only_with_running _ _), Only.refl, Only.ite_iff, implies_true,
        and_self, and_true, true_and]
    | refine Only.foldl _ (fun _ _ => ?_) _ ?_
    | refine And.intro ?_ ?_
    | intro _
    | split

theorem only_regionWrite : ∀ a0 a1 a2 a3, Only [.parts] a0 (regionWrite a0 a1 a2 a3) := by
  intro a0 a1 a2 a3
  unfold regionWrite
  repeat' first
    | with_reducible exact Only.refl _ _
    | assumption
    | simp (disch := decide) only [Only.op_iff (only_modPart _ _ _), Only.refl, Only.ite_iff, implies_true,
        and_self, and_true, true_and]
    | refine Only.foldl _ (fun _ _ => ?_) _ ?_
    | refine And.intro ?_ ?_
    | intro _
    | split

theorem only_setMotion : ∀ a0 a1 a2, Only [.motion] a0 (setMotion a0 a1 a2) := by
  intro a0 a1 a2
  unfold setMotion
  repeat' first
    | with_reducible exact Only.refl _ _
    | assumption
    | simp (disch := decide) only [Only.op_iff (only_with_motion _ _), Only.refl, Only.ite_iff, implies_true,
        and_self, and_true, true_and]
    | refine Only.foldl _ (fun _ _ => ?_) _ ?_
    | refine And.intro ?_ ?_
    | intro _
    | split

theorem only_releaseWrites : ∀ a0, Only [.out, .hif] a0 (releaseWrites a0) := by
  intro a0
  unfold releaseWrites
  repeat' first
    | with_reducible exact Only.refl _ _
    | assumption
    | simp (disch := decide) only [Only.op_iff (only_issuePosted _ _), Only.op_iff (only_setHif _ _), Only.refl,
        Only.ite_iff, implies_true, and_self, and_true, true_and]
    | refine Only.foldl _ (fun _ _ => ?_) _ ?_
    | refine And.intro ?_ ?_
    | intro _
    | split

theorem only_releaseHeld : ∀ a0, Only [.out, .hif] a0 (releaseHeld a0) := by
  intro a0
  unfold releaseHeld
  repeat' first
    | with_reducible exact Only.refl _ _
    | assumption
    | simp (disch := decide) only [Only.op_iff (only_releaseWrites _), Only.op_iff (only_sendRead _ _), Only.refl,
        Only.ite_iff, implies_true, and_self, and_true, true_and]
    | refine Only.foldl _ (fun _ _ => ?_) _ ?_
    | refine And.intro ?_ ?_
    | intro _
    | split

theorem only_sramUncorrectable : ∀ a0 a1 a2 a3 a4, Only [.out, .domes, .mailboxes, .hif, .boot] a0
    (sramUncorrectable a0 a1 a2 a3 a4) := by
  intro a0 a1 a2 a3 a4
  unfold sramUncorrectable
  repeat' first
    | with_reducible exact Only.refl _ _
    | assumption
    | simp (disch := decide) only [Only.op_iff (only_raiseUncorrectable _ _ _ _ _ _), Only.op_iff (only_setDome _ _
        _), Only.op_iff (only_setLife _ _), Only.refl, Only.ite_iff, implies_true, and_self, and_true, true_and]
    | refine Only.foldl _ (fun _ _ => ?_) _ ?_
    | refine And.intro ?_ ?_
    | intro _
    | split

theorem only_releaseUnits : ∀ a0 a1 a2 a3 a4 t, releaseUnits a0 a1 a2 a3 a4 = some t → Only [.spindles, .spires,
    .jobs] a0 t := by
  intro a0 a1 a2 a3 a4 t h
  unfold releaseUnits at h
  repeat' first
    | contradiction
    | (cases h; done)
    | dsimp only at h
    | split at h
  all_goals try cases h
  all_goals
    repeat' first
      | with_reducible exact Only.refl _ _
      | assumption
      | simp (disch := decide) only [Only.op_iff (only_grantAll _ _ _), Only.op_iff (only_holdUnits _ _ _ _),
          Only.op_iff (only_setSem _ _ _ _), Only.refl, Only.ite_iff, implies_true, and_self, and_true, true_and]
      | refine Only.foldl _ (fun _ _ => ?_) _ ?_
      | refine And.intro ?_ ?_
      | intro _
      | split

theorem only_countAt : ∀ a0 a1 a2 a3, Only [.spindles] a0 (countAt a0 a1 a2 a3) := by
  intro a0 a1 a2 a3
  unfold countAt
  repeat' first
    | with_reducible exact Only.refl _ _
    | assumption
    | simp (disch := decide) only [Only.op_iff (only_setSpindle _ _ _), Only.refl, Only.ite_iff, implies_true,
        and_self, and_true, true_and]
    | refine Only.foldl _ (fun _ _ => ?_) _ ?_
    | refine And.intro ?_ ?_
    | intro _
    | split

theorem only_writeHeld : ∀ a0 a1 a2, Only [.out, .mailboxes, .hif] a2 (writeHeld a0 a1 a2) := by
  intro a0 n
  induction n with
  | zero => intro a2; exact Only.refl _ _
  | succ n ih =>
    intro a2
    unfold writeHeld
    repeat' first
      | with_reducible exact Only.refl _ _
      | assumption
      | simp (disch := decide) only [Only.op_iff (ih _), Only.op_iff (only_postCompletionEntry _ _ _ _), Only.op_iff
          (only_setMailbox _ _ _), Only.refl, Only.ite_iff, implies_true, and_self, and_true, true_and]
      | refine Only.foldl _ (fun _ _ => ?_) _ ?_
      | refine And.intro ?_ ?_
      | intro _
      | split

theorem only_jobError : ∀ a0 a1 a2, Only [.out, .jobs, .mailboxes, .running, .hif] a0 (jobError a0 a1 a2) := by
  intro a0 a1 a2
  unfold jobError
  repeat' first
    | with_reducible exact Only.refl _ _
    | assumption
    | simp (disch := decide) only [Only.op_iff (only_endJobWith _ _ _ _ _ _), Only.refl, Only.ite_iff, implies_true,
        and_self, and_true, true_and]
    | refine Only.foldl _ (fun _ _ => ?_) _ ?_
    | refine And.intro ?_ ?_
    | intro _
    | split

theorem only_descriptorFetch : ∀ a0 a1, Only [.out, .spindles, .channels, .jobs, .mailboxes, .running, .hif, .boot]
    a0 (descriptorFetch a0 a1) := by
  intro a0 a1
  unfold descriptorFetch
  repeat' first
    | with_reducible exact Only.refl _ _
    | assumption
    | simp (disch := decide) only [Only.op_iff (only_agenError _ _ _ _), Only.op_iff (only_dramUncorrectable _ _ _ _
        _), Only.op_iff (only_setSpindle _ _ _), Only.refl, Only.ite_iff, implies_true, and_self, and_true, true_and]
    | refine Only.foldl _ (fun _ _ => ?_) _ ?_
    | refine And.intro ?_ ?_
    | intro _
    | split

theorem only_performWrite : ∀ a0 a1 a2, Only [.out, .channels, .parts, .jobs, .mailboxes, .running, .hif, .boot] a0
    (performWrite a0 a1 a2) := by
  intro a0 a1 a2
  unfold performWrite
  repeat' first
    | with_reducible exact Only.refl _ _
    | assumption
    | simp (disch := decide) only [Only.op_iff (only_dramUncorrectable _ _ _ _ _), Only.op_iff (only_setPart _ _ _),
        Only.op_iff (only_spindleError _ _ _ _), Only.refl, Only.ite_iff, implies_true, and_self, and_true, true_and]
    | refine Only.foldl _ (fun _ _ => ?_) _ ?_
    | refine And.intro ?_ ?_
    | intro _
    | split

theorem only_drainWrites : ∀ a0 a1 a2, Only [.out, .channels, .parts, .jobs, .mailboxes, .running, .hif, .boot] a2
    (drainWrites a0 a1 a2) := by
  intro a0 n
  induction n with
  | zero => intro a2; exact Only.refl _ _
  | succ n ih =>
    intro a2
    unfold drainWrites
    repeat' first
      | with_reducible exact Only.refl _ _
      | assumption
      | simp (disch := decide) only [Only.op_iff (ih _), Only.op_iff (only_performWrite _ _ _), Only.op_iff
          (only_setChannel _ _ _), Only.refl, Only.ite_iff, implies_true, and_self, and_true, true_and]
      | refine Only.foldl _ (fun _ _ => ?_) _ ?_
      | refine And.intro ?_ ?_
      | intro _
      | split

theorem only_droopEvent : ∀ a0 a1, Only [.domes, .boot] a0 (droopEvent a0 a1) := by
  intro a0 a1
  unfold droopEvent
  repeat' first
    | with_reducible exact Only.refl _ _
    | assumption
    | simp (disch := decide) only [Only.op_iff (only_setDome _ _ _), Only.op_iff (only_setLife _ _), Only.refl,
        Only.ite_iff, implies_true, and_self, and_true, true_and]
    | refine Only.foldl _ (fun _ _ => ?_) _ ?_
    | refine And.intro ?_ ?_
    | intro _
    | split

theorem only_modDome : ∀ a0 a1 a2, Only [.spindles] a0 (modDome a0 a1 a2) := by
  intro a0 a1 a2
  unfold modDome
  repeat' first
    | with_reducible exact Only.refl _ _
    | assumption
    | simp (disch := decide) only [Only.op_iff (only_with_spindles _ _), Only.refl, Only.ite_iff, implies_true,
        and_self, and_true, true_and]
    | refine Only.foldl _ (fun _ _ => ?_) _ ?_
    | refine And.intro ?_ ?_
    | intro _
    | split

theorem only_droopHold : ∀ a0 a1, Only [.spindles, .domes, .boot] a0 (droopHold a0 a1) := by
  intro a0 a1
  unfold droopHold
  repeat' first
    | with_reducible exact Only.refl _ _
    | assumption
    | simp (disch := decide) only [Only.op_iff (only_modDome _ _ _), Only.op_iff (only_setDome _ _ _), Only.op_iff
        (only_setLife _ _), Only.refl, Only.ite_iff, implies_true, and_self, and_true, true_and]
    | refine Only.foldl _ (fun _ _ => ?_) _ ?_
    | refine And.intro ?_ ?_
    | intro _
    | split

theorem only_droopRecovered : ∀ a0 a1, Only [.domes] a0 (droopRecovered a0 a1) := by
  intro a0 a1
  unfold droopRecovered
  repeat' first
    | with_reducible exact Only.refl _ _
    | assumption
    | simp (disch := decide) only [Only.op_iff (only_setDome _ _ _), Only.refl, Only.ite_iff, implies_true,
        and_self, and_true, true_and]
    | refine Only.foldl _ (fun _ _ => ?_) _ ?_
    | refine And.intro ?_ ?_
    | intro _
    | split

theorem only_tryDone : ∀ a0 a1, Only [.out, .jobs, .mailboxes, .running, .hif] a0 (tryDone a0 a1) := by
  intro a0 a1
  unfold tryDone
  repeat' first
    | with_reducible exact Only.refl _ _
    | assumption
    | simp (disch := decide) only [Only.op_iff (only_endJobWith _ _ _ _ _ _), Only.refl, Only.ite_iff, implies_true,
        and_self, and_true, true_and]
    | refine Only.foldl _ (fun _ _ => ?_) _ ?_
    | refine And.intro ?_ ?_
    | intro _
    | split

theorem only_endProgram : ∀ a0 a1, Only [.out, .spindles, .jobs, .mailboxes, .running, .hif] a0 (endProgram a0 a1)
    := by
  intro a0 a1
  unfold endProgram
  repeat' first
    | with_reducible exact Only.refl _ _
    | assumption
    | simp (disch := decide) only [onDesc, Only.op_iff (only_setSpindle _ _ _), Only.op_iff (only_tryDone _ _),
        Only.refl, Only.ite_iff, implies_true, and_self, and_true, true_and]
    | refine Only.foldl _ (fun _ _ => ?_) _ ?_
    | refine And.intro ?_ ?_
    | intro _
    | split

theorem only_returnUnits : ∀ a0 a1 a2 a3, Only [.spindles, .spires, .jobs] a0 (returnUnits a0 a1 a2 a3) := by
  intro a0 a1 a2 a3
  unfold returnUnits
  repeat' first
    | with_reducible exact Only.refl _ _
    | assumption
    | simp (disch := decide) only [Only.op_iff (only_grantAll _ _ _), Only.op_iff (only_setSem _ _ _ _), Only.refl,
        Only.ite_iff, implies_true, and_self, and_true, true_and]
    | refine Only.foldl _ (fun _ _ => ?_) _ ?_
    | refine And.intro ?_ ?_
    | intro _
    | split

theorem only_withdrawFrom : ∀ a0 a1 a2 a3, Only [.spindles, .spires, .jobs] a0 (withdrawFrom a0 a1 a2 a3) := by
  intro a0 a1 a2 a3
  unfold withdrawFrom
  repeat' first
    | with_reducible exact Only.refl _ _
    | assumption
    | simp (disch := decide) only [Only.op_iff (only_closeBarrier _ _ _ _ _), Only.op_iff (only_grantAll _ _ _),
        Only.op_iff (only_setSem _ _ _ _), Only.refl, Only.ite_iff, implies_true, and_self, and_true, true_and]
    | refine Only.foldl _ (fun _ _ => ?_) _ ?_
    | refine And.intro ?_ ?_
    | intro _
    | split

theorem only_withdrawAll : ∀ a0 a1, Only [.spindles, .spires, .jobs] a0 (withdrawAll a0 a1) := by
  intro a0 a1
  unfold withdrawAll
  repeat' first
    | with_reducible exact Only.refl _ _
    | assumption
    | simp (disch := decide) only [Only.op_iff (only_withdrawFrom _ _ _ _), Only.refl, Only.ite_iff, implies_true,
        and_self, and_true, true_and]
    | refine Only.foldl _ (fun _ _ => ?_) _ ?_
    | refine And.intro ?_ ?_
    | intro _
    | split

theorem only_syncAcquire : ∀ a0 a1, Only [.out, .spindles, .spires, .jobs, .mailboxes, .running, .hif] a0
    (syncAcquire a0 a1) := by
  intro a0 a1
  unfold syncAcquire
  repeat' first
    | with_reducible exact Only.refl _ _
    | assumption
    | simp (disch := decide) only [atSem, onSync, Only.op_iff (only_syncWait _ _), onDesc, Only.op_iff
        (only_agenError _ _ _ _), Only.refl, Only.ite_iff, implies_true, and_self, and_true, true_and]
    | refine Only.step ?_ (only_acquireUnits _ _ _ _ _ _ (by assumption)) (by decide)
    | refine Only.foldl _ (fun _ _ => ?_) _ ?_
    | refine And.intro ?_ ?_
    | intro _
    | split

theorem only_syncBarrier : ∀ a0 a1, Only [.out, .spindles, .spires, .jobs, .mailboxes, .running, .hif] a0
    (syncBarrier a0 a1) := by
  intro a0 a1
  unfold syncBarrier
  repeat' first
    | with_reducible exact Only.refl _ _
    | assumption
    | simp (disch := decide) only [atSem, onSync, Only.op_iff (only_syncWait _ _), onDesc, Only.op_iff
        (only_agenError _ _ _ _), Only.refl, Only.ite_iff, implies_true, and_self, and_true, true_and]
    | refine Only.step ?_ (only_barrierArrive _ _ _ _ _ _ (by assumption)) (by decide)
    | refine Only.foldl _ (fun _ _ => ?_) _ ?_
    | refine And.intro ?_ ?_
    | intro _
    | split

theorem only_startOperation : ∀ a0 a1, Only [.spindles] a0 (startOperation a0 a1) := by
  intro a0 a1
  unfold startOperation
  repeat' first
    | with_reducible exact Only.refl _ _
    | assumption
    | simp (disch := decide) only [onDesc, Only.op_iff (only_setSpindle _ _ _), Only.refl, Only.ite_iff,
        implies_true, and_self, and_true, true_and]
    | refine Only.foldl _ (fun _ _ => ?_) _ ?_
    | refine And.intro ?_ ?_
    | intro _
    | split

theorem only_holdResume : ∀ a0 a1, Only [.spindles, .domes] a0 (holdResume a0 a1) := by
  intro a0 a1
  unfold holdResume
  repeat' first
    | with_reducible exact Only.refl _ _
    | assumption
    | simp (disch := decide) only [Only.op_iff (only_modDome _ _ _), Only.op_iff (only_setDome _ _ _), Only.refl,
        Only.ite_iff, implies_true, and_self, and_true, true_and]
    | refine Only.foldl _ (fun _ _ => ?_) _ ?_
    | refine And.intro ?_ ?_
    | intro _
    | split

theorem only_postJobEnd : ∀ a0 a1 a2 a3, Only [.out, .mailboxes, .hif] a0 (postJobEnd a0 a1 a2 a3) := by
  intro a0 a1 a2 a3
  unfold postJobEnd
  repeat' first
    | with_reducible exact Only.refl _ _
    | assumption
    | simp (disch := decide) only [Only.op_iff (only_postCompletionEntry _ _ _ _), Only.op_iff (only_setMailbox _ _
        _), Only.refl, Only.ite_iff, implies_true, and_self, and_true, true_and]
    | refine Only.foldl _ (fun _ _ => ?_) _ ?_
    | refine And.intro ?_ ?_
    | intro _
    | split

theorem only_jumpBack : ∀ a0 a1, Only [.spindles] a0 (jumpBack a0 a1) := by
  intro a0 a1
  unfold jumpBack
  repeat' first
    | with_reducible exact Only.refl _ _
    | assumption
    | simp (disch := decide) only [onDesc, Only.op_iff (only_setSpindle _ _ _), Only.refl, Only.ite_iff,
        implies_true, and_self, and_true, true_and]
    | refine Only.foldl _ (fun _ _ => ?_) _ ?_
    | refine And.intro ?_ ?_
    | intro _
    | split

theorem only_memoryRequest : ∀ a0 a1 a2 a3 a4, Only [.out, .spindles, .channels, .parts, .jobs, .mailboxes,
    .running, .hif, .boot] a0 (memoryRequest a0 a1 a2 a3 a4) := by
  intro a0 a1 a2 a3 a4
  unfold memoryRequest
  repeat' first
    | with_reducible exact Only.refl _ _
    | assumption
    | simp (disch := decide) only [Only.op_iff (only_agenError _ _ _ _), Only.op_iff (only_drainWrites _ _ _),
        Only.op_iff (only_setChannel _ _ _), Only.refl, Only.ite_iff, implies_true, and_self, and_true, true_and]
    | refine Only.foldl _ (fun _ _ => ?_) _ ?_
    | refine And.intro ?_ ?_
    | intro _
    | split

theorem only_raiseSatLimit : ∀ a0 a1 a2 a3 a4 a5, Only [.out, .mailboxes, .hif] a0 (raiseSatLimit a0 a1 a2 a3 a4 a5)
    := by
  intro a0 a1 a2 a3 a4 a5
  unfold raiseSatLimit
  repeat' first
    | with_reducible exact Only.refl _ _
    | assumption
    | simp (disch := decide) only [Only.op_iff (only_raiseEvent _ _ _ _), Only.refl, Only.ite_iff, implies_true,
        and_self, and_true, true_and]
    | refine Only.foldl _ (fun _ _ => ?_) _ ?_
    | refine And.intro ?_ ?_
    | intro _
    | split

theorem only_judgeFinal : ∀ a0 a1 a2, Only [.out, .spindles, .mailboxes, .hif] a0 (judgeFinal a0 a1 a2) := by
  intro a0 a1 a2
  unfold judgeFinal
  repeat' first
    | with_reducible exact Only.refl _ _
    | assumption
    | simp (disch := decide) only [Only.op_iff (only_raiseSatLimit _ _ _ _ _ _), Only.op_iff (only_setSpindle _ _
        _), Only.refl, Only.ite_iff, implies_true, and_self, and_true, true_and]
    | refine Only.foldl _ (fun _ _ => ?_) _ ?_
    | refine And.intro ?_ ?_
    | intro _
    | split

theorem only_judge : ∀ a0 a1, Only [.out, .spindles, .mailboxes, .hif] a0 (judge a0 a1) := by
  intro a0 a1
  unfold judge
  repeat' first
    | with_reducible exact Only.refl _ _
    | assumption
    | simp (disch := decide) only [Only.op_iff (only_judgeFinal _ _ _), Only.op_iff (only_setSpindle _ _ _),
        Only.refl, Only.ite_iff, implies_true, and_self, and_true, true_and]
    | refine Only.foldl _ (fun _ _ => ?_) _ ?_
    | refine And.intro ?_ ?_
    | intro _
    | split

theorem only_operationComplete : ∀ a0 a1, Only [.out, .spindles, .mailboxes, .hif] a0 (operationComplete a0 a1) := by
  intro a0 a1
  unfold operationComplete
  repeat' first
    | with_reducible exact Only.refl _ _
    | assumption
    | simp (disch := decide) only [Only.op_iff (only_judge _ _), Only.op_iff (only_setSpindle _ _ _), Only.refl,
        Only.ite_iff, implies_true, and_self, and_true, true_and]
    | refine Only.foldl _ (fun _ _ => ?_) _ ?_
    | refine And.intro ?_ ?_
    | intro _
    | split

theorem only_refreshDue : ∀ a0 a1 a2, Only [.out, .channels] a0 (refreshDue a0 a1 a2) := by
  intro a0 a1 a2
  unfold refreshDue
  repeat' first
    | with_reducible exact Only.refl _ _
    | assumption
    | simp (disch := decide) only [Only.op_iff (only_emit _ _), Only.op_iff (only_setChannel _ _ _), Only.refl,
        Only.ite_iff, implies_true, and_self, and_true, true_and]
    | refine Only.foldl _ (fun _ _ => ?_) _ ?_
    | refine And.intro ?_ ?_
    | intro _
    | split

theorem only_syncRelease : ∀ a0 a1, Only [.out, .spindles, .spires, .jobs, .mailboxes, .running, .hif] a0
    (syncRelease a0 a1) := by
  intro s p
  unfold syncRelease onSync
  unfold onDesc atSem
  repeat' first
    | simp (disch := decide) only [Only.ite_iff, Only.op_iff (only_agenError _ _ _ _), Only.refl, implies_true, and_self,
        and_true, true_and]
    | split
    | refine And.intro ?_ ?_
    | intro _
  refine OnlyIf.of_eq (OnlyIf.map ?_ (fun t => (only_syncPass t _).mono (by decide))) (by assumption)
  generalize hq : releaseUnits _ _ _ _ _ = o
  cases o with
  | none => exact OnlyIf.none_iff.mpr trivial
  | some u => exact OnlyIf.some_iff.mpr ((only_releaseUnits _ _ _ _ _ _ hq).mono (by decide))

theorem only_retrainPause : ∀ a0 a1 a2 a3, Only [.channels, .boot] a0 (retrainPause a0 a1 a2 a3) := by
  intro a0 a1 a2 a3
  unfold retrainPause
  repeat' first
    | with_reducible exact Only.refl _ _
    | assumption
    | simp (disch := decide) only [Only.op_iff (only_setChannel _ _ _), Only.op_iff (only_setLife _ _), Only.refl,
        Only.ite_iff, implies_true, and_self, and_true, true_and]
    | refine Only.foldl _ (fun _ _ => ?_) _ ?_
    | refine And.intro ?_ ?_
    | intro _
    | split

theorem only_retrainPauseEnd : ∀ a0 a1, Only [.out, .channels, .parts, .jobs, .mailboxes, .running, .hif, .boot] a0
    (retrainPauseEnd a0 a1) := by
  intro a0 a1
  unfold retrainPauseEnd
  repeat' first
    | with_reducible exact Only.refl _ _
    | assumption
    | simp (disch := decide) only [Only.op_iff (only_drainWrites _ _ _), Only.op_iff (only_setChannel _ _ _),
        Only.refl, Only.ite_iff, implies_true, and_self, and_true, true_and]
    | refine Only.foldl _ (fun _ _ => ?_) _ ?_
    | refine And.intro ?_ ?_
    | intro _
    | split

theorem only_spindleSramFail : ∀ a0 a1 a2, Only [.out, .spindles, .domes, .jobs, .mailboxes, .running, .hif, .boot]
    a0 (spindleSramFail a0 a1 a2) := by
  intro a0 a1 a2
  unfold spindleSramFail
  repeat' first
    | with_reducible exact Only.refl _ _
    | assumption
    | simp (disch := decide) only [Only.op_iff (only_agenError _ _ _ _), Only.op_iff (only_sramUncorrectable _ _ _ _
        _), Only.refl, Only.ite_iff, implies_true, and_self, and_true, true_and]
    | refine Only.foldl _ (fun _ _ => ?_) _ ?_
    | refine And.intro ?_ ?_
    | intro _
    | split

theorem only_raiseSkew : ∀ a0 a1 a2 a3 a4 a5, Only [.out, .mailboxes, .hif] a0 (raiseSkew a0 a1 a2 a3 a4 a5) := by
  intro a0 a1 a2 a3 a4 a5
  unfold raiseSkew
  repeat' first
    | with_reducible exact Only.refl _ _
    | assumption
    | simp (disch := decide) only [Only.op_iff (only_raiseEvent _ _ _ _), Only.refl, Only.ite_iff, implies_true,
        and_self, and_true, true_and]
    | refine Only.foldl _ (fun _ _ => ?_) _ ?_
    | refine And.intro ?_ ?_
    | intro _
    | split

theorem only_vecError : ∀ a0 a1 a2 a3 a4 a5, Only [.out, .spindles, .jobs, .mailboxes, .running, .hif] a0 (vecError
    a0 a1 a2 a3 a4 a5) := by
  intro a0 a1 a2 a3 a4 a5
  unfold vecError
  repeat' first
    | with_reducible exact Only.refl _ _
    | assumption
    | simp (disch := decide) only [Only.op_iff (only_agenError _ _ _ _), Only.op_iff (only_raiseSkew _ _ _ _ _ _),
        Only.op_iff (only_setSpindle _ _ _), Only.refl, Only.ite_iff, implies_true, and_self, and_true, true_and]
    | refine Only.foldl _ (fun _ _ => ?_) _ ?_
    | refine And.intro ?_ ?_
    | intro _
    | split

theorem only_vecIssue : ∀ a0 a1 a2 a3, Only [.out, .spindles, .domes, .jobs, .mailboxes, .running, .hif, .boot] a0
    (vecIssue a0 a1 a2 a3) := by
  intro a0 a1 a2 a3
  unfold vecIssue
  repeat' first
    | with_reducible exact Only.refl _ _
    | assumption
    | simp (disch := decide) only [Only.op_iff (only_judge _ _), Only.op_iff (only_setSpindle _ _ _), Only.op_iff
        (only_spindleSramFail _ _ _), Only.op_iff (only_vecError _ _ _ _ _ _), Only.refl, Only.ite_iff, implies_true,
        and_self, and_true, true_and]
    | refine Only.foldl _ (fun _ _ => ?_) _ ?_
    | refine And.intro ?_ ?_
    | intro _
    | split

theorem only_handBlock : ∀ a0 a1, Only [.spindles] a0 (handBlock a0 a1) := by
  intro a0 a1
  unfold handBlock
  repeat' first
    | with_reducible exact Only.refl _ _
    | assumption
    | simp (disch := decide) only [onDesc, Only.op_iff (only_setSpindle _ _ _), Only.refl, Only.ite_iff,
        implies_true, and_self, and_true, true_and]
    | refine Only.foldl _ (fun _ _ => ?_) _ ?_
    | refine And.intro ?_ ?_
    | intro _
    | split

theorem only_feedForward : ∀ a0 a1, Only [.draws, .domes, .power] a0 (feedForward a0 a1) := by
  intro a0 a1
  unfold feedForward
  repeat' first
    | with_reducible exact Only.refl _ _
    | assumption
    | simp (disch := decide) only [Only.op_iff (only_drawn _), Only.op_iff (only_setDome _ _ _), Only.op_iff
        (only_setPower _ _), Only.refl, Only.ite_iff, implies_true, and_self, and_true, true_and]
    | refine Only.foldl _ (fun _ _ => ?_) _ ?_
    | refine And.intro ?_ ?_
    | intro _
    | split

theorem only_waveAdmit : ∀ a0 a1, Only [.draws, .spindles, .domes, .power] a0 (waveAdmit a0 a1) := by
  intro a0 a1
  unfold waveAdmit
  repeat' first
    | with_reducible exact Only.refl _ _
    | assumption
    | simp (disch := decide) only [Only.op_iff (only_admitArray _ _), Only.op_iff (only_feedForward _ _),
        Only.op_iff (only_setDome _ _ _), Only.refl, Only.ite_iff, implies_true, and_self, and_true, true_and]
    | refine Only.foldl _ (fun _ _ => ?_) _ ?_
    | refine And.intro ?_ ?_
    | intro _
    | split

theorem only_skewStop : ∀ a0 a1 a2 a3 a4, Only [.out, .spindles, .jobs, .mailboxes, .running, .hif] a0 (skewStop a0
    a1 a2 a3 a4) := by
  intro a0 a1 a2 a3 a4
  unfold skewStop
  repeat' first
    | with_reducible exact Only.refl _ _
    | assumption
    | simp (disch := decide) only [Only.op_iff (only_agenError _ _ _ _), Only.op_iff (only_raiseSkew _ _ _ _ _ _),
        Only.op_iff (only_setSpindle _ _ _), Only.refl, Only.ite_iff, implies_true, and_self, and_true, true_and]
    | refine Only.foldl _ (fun _ _ => ?_) _ ?_
    | refine And.intro ?_ ?_
    | intro _
    | split

theorem only_issueStationaryWave : ∀ a0 a1 a2 a3, Only [.draws, .out, .spindles, .domes, .jobs, .mailboxes,
    .running, .hif, .boot] a0 (issueStationaryWave a0 a1 a2 a3) := by
  intro a0 a1 a2 a3
  unfold issueStationaryWave
  repeat' first
    | with_reducible exact Only.refl _ _
    | assumption
    | simp (disch := decide) only [Only.op_iff (only_drawn _), Only.op_iff (only_setSpindle _ _ _), Only.op_iff
        (only_skewStop _ _ _ _ _), Only.op_iff (only_spindleSramFail _ _ _), Only.refl, Only.ite_iff, implies_true,
        and_self, and_true, true_and]
    | refine Only.foldl _ (fun _ _ => ?_) _ ?_
    | refine And.intro ?_ ?_
    | intro _
    | split

theorem only_issueWeightWave : ∀ a0 a1 a2 a3, Only [.out, .spindles, .domes, .jobs, .mailboxes, .running, .hif,
    .boot] a0 (issueWeightWave a0 a1 a2 a3) := by
  intro a0 a1 a2 a3
  unfold issueWeightWave
  repeat' first
    | with_reducible exact Only.refl _ _
    | assumption
    | simp (disch := decide) only [Only.op_iff (only_setSpindle _ _ _), Only.op_iff (only_skewStop _ _ _ _ _),
        Only.op_iff (only_spindleSramFail _ _ _), Only.refl, Only.ite_iff, implies_true, and_self, and_true, true_and]
    | refine Only.foldl _ (fun _ _ => ?_) _ ?_
    | refine And.intro ?_ ?_
    | intro _
    | split

theorem only_wavefrontIssue : ∀ a0 a1, Only [.draws, .out, .spindles, .domes, .jobs, .mailboxes, .running, .hif,
    .boot] a0 (wavefrontIssue a0 a1) := by
  intro a0 a1
  unfold wavefrontIssue
  repeat' first
    | with_reducible exact Only.refl _ _
    | assumption
    | simp (disch := decide) only [Only.op_iff (only_issueStationaryWave _ _ _ _), Only.op_iff (only_issueWeightWave
        _ _ _ _), Only.op_iff (only_setSpindle _ _ _), Only.refl, Only.ite_iff, implies_true, and_self, and_true,
        true_and]
    | refine Only.foldl _ (fun _ _ => ?_) _ ?_
    | refine And.intro ?_ ?_
    | intro _
    | split

theorem only_weightSetLoaded : ∀ a0 a1, Only [.out, .spindles, .domes, .jobs, .mailboxes, .running, .hif, .boot] a0
    (weightSetLoaded a0 a1) := by
  intro a0 a1
  unfold weightSetLoaded
  repeat' first
    | with_reducible exact Only.refl _ _
    | assumption
    | simp (disch := decide) only [Only.op_iff (only_setSpindle _ _ _), Only.op_iff (only_skewStop _ _ _ _ _),
        Only.op_iff (only_spindleSramFail _ _ _), Only.refl, Only.ite_iff, implies_true, and_self, and_true, true_and]
    | refine Only.foldl _ (fun _ _ => ?_) _ ?_
    | refine And.intro ?_ ?_
    | intro _
    | split

theorem only_workFetch : ∀ a0 a1, Only [.out, .spindles, .spires, .jobs, .mailboxes, .running, .hif] a0 (workFetch
    a0 a1) := by
  intro a0 a1
  unfold workFetch
  repeat' first
    | with_reducible exact Only.refl _ _
    | assumption
    | simp (disch := decide) only [Only.op_iff (only_agenError _ _ _ _), onDesc, Only.op_iff (only_setSpindle _ _
        _), Only.op_iff (only_setWork _ _ _ _), Only.refl, Only.ite_iff, implies_true, and_self, and_true, true_and]
    | refine Only.foldl _ (fun _ _ => ?_) _ ?_
    | refine And.intro ?_ ?_
    | intro _
    | split

end Sys2Proof
end

