-- ==== Sys2Proof/Laws/FrameUnits.lean ====
section
/-! SUPPORT. The parts of the state that an operation can change, one lemma an operation: security, Belfry, copies, errors, stem engines, programs, pools, preparation, motion units and rings. -/

set_option linter.unusedSimpArgs false
set_option linter.unusedTactic false
set_option linter.unreachableTactic false

namespace Sys2Proof

open Machine

theorem only_releaseBobbin : ∀ a0 a1 a2 a3, Only [.out, .channels, .parts, .mailboxes, .hif, .boot] a0
    (releaseBobbin a0 a1 a2 a3).1 := by
  intro a0 a1 a2 a3
  unfold releaseBobbin
  repeat' first
    | with_reducible exact Only.refl _ _
    | assumption
    | simp (disch := decide) only [Only.op_iff (only_dramUncorrectable _ _ _ _ _), Only.op_iff (only_setPart _ _ _),
        Only.refl, Only.ite_iff, implies_true, and_self, and_true, true_and]
    | refine Only.foldl _ (fun _ _ => ?_) _ ?_
    | refine And.intro ?_ ?_
    | intro _
    | split

theorem only_fillSlot : ∀ a0 a1 a2 a3 a4 a5 a6, Only [.parts] a0 (fillSlot a0 a1 a2 a3 a4 a5 a6) := by
  intro a0 a1 a2 a3 a4 a5 a6
  unfold fillSlot
  repeat' first
    | with_reducible exact Only.refl _ _
    | assumption
    | simp (disch := decide) only [Only.op_iff (only_setPart _ _ _), Only.refl, Only.ite_iff, implies_true,
        and_self, and_true, true_and]
    | refine Only.foldl _ (fun _ _ => ?_) _ ?_
    | refine And.intro ?_ ?_
    | intro _
    | split

theorem only_unitFree : ∀ a0 a1, Only [.prepUnits] a0 (unitFree a0 a1) := by
  intro a0 a1
  unfold unitFree
  repeat' first
    | with_reducible exact Only.refl _ _
    | assumption
    | simp (disch := decide) only [Only.op_iff (only_setPrepUnit _ _ _), Only.refl, Only.ite_iff, implies_true,
        and_self, and_true, true_and]
    | refine Only.foldl _ (fun _ _ => ?_) _ ?_
    | refine And.intro ?_ ?_
    | intro _
    | split

theorem only_groupAcquire : ∀ a0 a1 a2, Only [.draws, .parts] a0 (groupAcquire a0 a1 a2).1 := by
  intro a0 a1 a2
  unfold groupAcquire
  repeat' first
    | with_reducible exact Only.refl _ _
    | assumption
    | simp (disch := decide) only [Only.op_iff (only_setPart _ _ _), Only.op_iff (only_with_draws _ _), Only.refl,
        Only.ite_iff, implies_true, and_self, and_true, true_and]
    | refine Only.foldl _ (fun _ _ => ?_) _ ?_
    | refine And.intro ?_ ?_
    | intro _
    | split

theorem only_acquireBobbin : ∀ a0 a1 a2 a3, Only [.draws, .parts] a0 (acquireBobbin a0 a1 a2 a3).1 := by
  intro a0 a1 a2 a3
  unfold acquireBobbin
  repeat' first
    | with_reducible exact Only.refl _ _
    | assumption
    | simp (disch := decide) only [Only.op_iff (only_groupAcquire _ _ _), Only.refl, Only.ite_iff, implies_true,
        and_self, and_true, true_and]
    | refine Only.foldl _ (fun _ _ => ?_) _ ?_
    | refine And.intro ?_ ?_
    | intro _
    | split

theorem only_discardRecord : ∀ a0 a1 a2, Only [.orings] a0 (discardRecord a0 a1 a2) := by
  intro a0 a1 a2
  unfold discardRecord
  repeat' first
    | with_reducible exact Only.refl _ _
    | assumption
    | simp (disch := decide) only [Only.op_iff (only_setOring _ _ _), Only.refl, Only.ite_iff, implies_true,
        and_self, and_true, true_and]
    | refine Only.foldl _ (fun _ _ => ?_) _ ?_
    | refine And.intro ?_ ?_
    | intro _
    | split

theorem only_putRecord : ∀ a0 a1 a2, Only [.draws, .out, .orings, .hif] a0 (putRecord a0 a1 a2) := by
  intro a0 a1 a2
  unfold putRecord
  repeat' first
    | with_reducible exact Only.refl _ _
    | assumption
    | simp (disch := decide) only [Only.op_iff (only_drawn _), Only.op_iff (only_hostWrite _ _ _ _), Only.op_iff
        (only_raiseVector _ _ _), Only.op_iff (only_setOring _ _ _), Only.refl, Only.ite_iff, implies_true, and_self,
        and_true, true_and]
    | refine Only.foldl _ (fun _ _ => ?_) _ ?_
    | refine And.intro ?_ ?_
    | intro _
    | split

theorem only_writeRecord : ∀ a0 a1 a2 a3, Only [.draws, .out, .orings, .hif] a0 (writeRecord a0 a1 a2 a3) := by
  intro a0 a1 a2 a3
  unfold writeRecord
  repeat' first
    | with_reducible exact Only.refl _ _
    | assumption
    | simp (disch := decide) only [Only.op_iff (only_discardRecord _ _ _), Only.op_iff (only_putRecord _ _ _),
        Only.op_iff (only_setOring _ _ _), Only.refl, Only.ite_iff, implies_true, and_self, and_true, true_and]
    | refine Only.foldl _ (fun _ _ => ?_) _ ?_
    | refine And.intro ?_ ?_
    | intro _
    | split

theorem only_appendFuse : ∀ a0 a1 a2 a3 a4 a5, Only [.sec] a0 (appendFuse a0 a1 a2 a3 a4 a5) := by
  intro a0 a1 a2 a3 a4 a5
  unfold appendFuse
  repeat' first
    | with_reducible exact Only.refl _ _
    | assumption
    | simp (disch := decide) only [Only.op_iff (only_setSec _ _), Only.refl, Only.ite_iff, implies_true, and_self,
        and_true, true_and]
    | refine Only.foldl _ (fun _ _ => ?_) _ ?_
    | refine And.intro ?_ ?_
    | intro _
    | split

theorem only_appendRingWith : ∀ a0 a1 a2 a3 a4 a5, Only [.sec] a0 (appendRingWith a0 a1 a2 a3 a4 a5) := by
  intro a0 a1 a2 a3 a4 a5
  unfold appendRingWith
  repeat' first
    | with_reducible exact Only.refl _ _
    | assumption
    | simp (disch := decide) only [Only.op_iff (only_setSec _ _), Only.refl, Only.ite_iff, implies_true, and_self,
        and_true, true_and]
    | refine Only.foldl _ (fun _ _ => ?_) _ ?_
    | refine And.intro ?_ ?_
    | intro _
    | split

theorem only_appendRing : ∀ a0 a1 a2 a3 a4, Only [.sec] a0 (appendRing a0 a1 a2 a3 a4) := by
  intro a0 a1 a2 a3 a4
  unfold appendRing
  repeat' first
    | with_reducible exact Only.refl _ _
    | assumption
    | simp (disch := decide) only [Only.op_iff (only_appendRingWith _ _ _ _ _ _), Only.refl, Only.ite_iff,
        implies_true, and_self, and_true, true_and]
    | refine Only.foldl _ (fun _ _ => ?_) _ ?_
    | refine And.intro ?_ ?_
    | intro _
    | split

theorem only_raiseCorrected : ∀ a0 a1 a2 a3, Only [.out, .channels, .mailboxes, .hif] a0 (raiseCorrected a0 a1 a2
    a3) := by
  intro a0 a1 a2 a3
  unfold raiseCorrected
  repeat' first
    | with_reducible exact Only.refl _ _
    | assumption
    | simp (disch := decide) only [Only.op_iff (only_raiseEvent _ _ _ _), Only.op_iff (only_setChannel _ _ _),
        Only.refl, Only.ite_iff, implies_true, and_self, and_true, true_and]
    | refine Only.foldl _ (fun _ _ => ?_) _ ?_
    | refine And.intro ?_ ?_
    | intro _
    | split

theorem only_countInline : ∀ a0 a1, Only [.out, .channels, .mailboxes, .hif, .boot] a0 (countInline a0 a1) := by
  intro a0 a1
  unfold countInline
  repeat' first
    | with_reducible exact Only.refl _ _
    | assumption
    | simp (disch := decide) only [Only.op_iff (only_raiseCorrected _ _ _ _), Only.op_iff (only_setChannel _ _ _),
        Only.op_iff (only_setLife _ _), Only.refl, Only.ite_iff, implies_true, and_self, and_true, true_and]
    | refine Only.foldl _ (fun _ _ => ?_) _ ?_
    | refine And.intro ?_ ?_
    | intro _
    | split

theorem only_deliverRead : ∀ a0 a1, Only [.out] a0 (deliverRead a0 a1) := by
  intro a0 a1
  unfold deliverRead
  repeat' first
    | with_reducible exact Only.refl _ _
    | assumption
    | simp (disch := decide) only [Only.op_iff (only_emit _ _), Only.refl, Only.ite_iff, implies_true, and_self,
        and_true, true_and]
    | refine Only.foldl _ (fun _ _ => ?_) _ ?_
    | refine And.intro ?_ ?_
    | intro _
    | split

theorem only_failMemoryRead : ∀ a0 a1, Only [.out, .channels, .jobs, .mailboxes, .running, .hif, .boot] a0
    (failMemoryRead a0 a1) := by
  intro a0 a1
  unfold failMemoryRead
  repeat' first
    | with_reducible exact Only.refl _ _
    | assumption
    | simp (disch := decide) only [Only.op_iff (only_dramUncorrectable _ _ _ _ _), Only.op_iff (only_emit _ _),
        Only.op_iff (only_spindleError _ _ _ _), Only.refl, Only.ite_iff, implies_true, and_self, and_true, true_and]
    | refine Only.foldl _ (fun _ _ => ?_) _ ?_
    | refine And.intro ?_ ?_
    | intro _
    | split

theorem only_arrayError : ∀ a0 a1 a2 a3 a4, Only [.draws, .out, .channels, .parts, .jobs, .mailboxes, .running,
    .hif, .boot] a0 (arrayError a0 a1 a2 a3 a4) := by
  intro a0 a1 a2 a3 a4
  unfold arrayError
  repeat' first
    | with_reducible exact Only.refl _ _
    | assumption
    | simp (disch := decide) only [Only.op_iff (only_countInline _ _), Only.op_iff (only_deliverRead _ _),
        Only.op_iff (only_drawn _), Only.op_iff (only_failMemoryRead _ _), Only.op_iff (only_setPart _ _ _),
        Only.refl, Only.ite_iff, implies_true, and_self, and_true, true_and]
    | refine Only.foldl _ (fun _ _ => ?_) _ ?_
    | refine And.intro ?_ ?_
    | intro _
    | split

theorem only_assignBox : ∀ a0 a1 a2 a3 a4 a5, Only [.parts, .workItems] a0 (assignBox a0 a1 a2 a3 a4 a5) := by
  intro a0 a1 a2 a3 a4 a5
  unfold assignBox
  repeat' first
    | with_reducible exact Only.refl _ _
    | assumption
    | simp (disch := decide) only [Only.op_iff (only_setPart _ _ _), Only.op_iff (only_with_workItems _ _),
        Only.refl, Only.ite_iff, implies_true, and_self, and_true, true_and]
    | refine Only.foldl _ (fun _ _ => ?_) _ ?_
    | refine And.intro ?_ ?_
    | intro _
    | split

theorem only_setBatchQueue : ∀ a0 a1 a2 a3, Only [.parts] a0 (setBatchQueue a0 a1 a2 a3) := by
  intro a0 a1 a2 a3
  unfold setBatchQueue
  repeat' first
    | with_reducible exact Only.refl _ _
    | assumption
    | simp (disch := decide) only [Only.op_iff (only_modPart _ _ _), Only.refl, Only.ite_iff, implies_true,
        and_self, and_true, true_and]
    | refine Only.foldl _ (fun _ _ => ?_) _ ?_
    | refine And.intro ?_ ?_
    | intro _
    | split

theorem only_openNewBatch : ∀ a0 a1 a2 a3 a4, Only [.draws, .parts] a0 (openNewBatch a0 a1 a2 a3 a4).1 := by
  intro a0 a1 a2 a3 a4
  unfold openNewBatch
  repeat' first
    | with_reducible exact Only.refl _ _
    | assumption
    | simp (disch := decide) only [Only.op_iff (only_acquireBobbin _ _ _ _), Only.op_iff (only_setBatchQueue _ _ _
        _), Only.refl, Only.ite_iff, implies_true, and_self, and_true, true_and]
    | refine Only.foldl _ (fun _ _ => ?_) _ ?_
    | refine And.intro ?_ ?_
    | intro _
    | split

theorem only_openNewBatch_eq {a0 a1 a2 a3 a4 o t} (h : openNewBatch a0 a1 a2 a3 a4 = (t, o)) : Only [.draws, .parts]
    a0 t := by
  have e := only_openNewBatch a0 a1 a2 a3 a4
  rw [h] at e
  exact e


theorem only_requestDone : ∀ a0 a1 a2 a3 a4, Only [.parts] a0 (requestDone a0 a1 a2 a3 a4) := by
  intro a0 a1 a2 a3 a4
  unfold requestDone
  repeat' first
    | with_reducible exact Only.refl _ _
    | assumption
    | simp (disch := decide) only [Only.op_iff (only_modPart _ _ _), Only.op_iff (only_setBatchQueue _ _ _ _),
        Only.refl, Only.ite_iff, implies_true, and_self, and_true, true_and]
    | refine Only.foldl _ (fun _ _ => ?_) _ ?_
    | refine And.intro ?_ ?_
    | intro _
    | split

theorem only_assignQueue : ∀ a0 a1 a2 a3, Only [.draws, .parts, .workItems] a3 (assignQueue a0 a1 a2 a3) := by
  intro a0 a1 n
  induction n with
  | zero => intro a3; exact Only.refl _ _
  | succ n ih =>
    intro a3
    unfold assignQueue
    repeat' first
      | with_reducible exact Only.refl _ _
      | assumption
      | simp (disch := decide) only [Only.op_iff (ih _), Only.op_iff (only_assignBox _ _ _ _ _ _), Only.op_iff
          (only_openNewBatch _ _ _ _ _), Only.op_iff (only_requestDone _ _ _ _ _), Only.refl, Only.ite_iff,
          implies_true, and_self, and_true, true_and]
      | refine Only.foldl _ (fun _ _ => ?_) _ ?_
      | refine And.intro ?_ ?_
      | intro _
      | refine Only.step ?_ (only_openNewBatch_eq (by assumption)) (by decide)
      | split

theorem only_releaseHolds : ∀ a0 a1 a2, Only [.parts] a0 (releaseHolds a0 a1 a2) := by
  intro a0 a1 a2
  unfold releaseHolds
  repeat' first
    | with_reducible exact Only.refl _ _
    | assumption
    | simp (disch := decide) only [Only.op_iff (only_setPart _ _ _), Only.refl, Only.ite_iff, implies_true,
        and_self, and_true, true_and]
    | refine Only.foldl _ (fun _ _ => ?_) _ ?_
    | refine And.intro ?_ ?_
    | intro _
    | split

theorem only_runQueue : ∀ a0 a1 a2, Only [.draws, .parts, .workItems] a0 (runQueue a0 a1 a2) := by
  intro a0 a1 a2
  unfold runQueue
  repeat' first
    | with_reducible exact Only.refl _ _
    | assumption
    | simp (disch := decide) only [Only.op_iff (only_assignQueue _ _ _ _), Only.refl, Only.ite_iff, implies_true,
        and_self, and_true, true_and]
    | refine Only.foldl _ (fun _ _ => ?_) _ ?_
    | refine And.intro ?_ ?_
    | intro _
    | split

theorem only_enterRequest : ∀ a0 a1 a2 a3 a4 a5, Only [.draws, .orders, .parts, .workItems] a0 (enterRequest a0 a1
    a2 a3 a4 a5) := by
  intro a0 a1 a2 a3 a4 a5
  unfold enterRequest
  repeat' first
    | with_reducible exact Only.refl _ _
    | assumption
    | simp (disch := decide) only [Only.op_iff (only_ordered _), Only.op_iff (only_runQueue _ _ _), Only.op_iff
        (only_setBatchQueue _ _ _ _), Only.refl, Only.ite_iff, implies_true, and_self, and_true, true_and]
    | refine Only.foldl _ (fun _ _ => ?_) _ ?_
    | refine And.intro ?_ ?_
    | intro _
    | split

theorem only_submitRequest : ∀ a0 a1 a2 a3 a4, Only [.draws, .out, .orders, .channels, .parts, .mailboxes,
    .workItems, .hif, .boot] a0 (submitRequest a0 a1 a2 a3 a4).1 := by
  intro a0 a1 a2 a3 a4
  unfold submitRequest
  repeat' first
    | with_reducible exact Only.refl _ _
    | assumption
    | simp (disch := decide) only [Only.op_iff (only_dramUncorrectable _ _ _ _ _), Only.op_iff (only_enterRequest _
        _ _ _ _ _), Only.refl, Only.ite_iff, implies_true, and_self, and_true, true_and]
    | refine Only.foldl _ (fun _ _ => ?_) _ ?_
    | refine And.intro ?_ ?_
    | intro _
    | split

theorem only_modClient : ∀ a0 a1 a2 a3, Only [.parts] a0 (modClient a0 a1 a2 a3) := by
  intro a0 a1 a2 a3
  unfold modClient
  repeat' first
    | with_reducible exact Only.refl _ _
    | assumption
    | simp (disch := decide) only [Only.op_iff (only_modPart _ _ _), Only.refl, Only.ite_iff, implies_true,
        and_self, and_true, true_and]
    | refine Only.foldl _ (fun _ _ => ?_) _ ?_
    | refine And.intro ?_ ?_
    | intro _
    | split

theorem only_shareBobbin : ∀ a0 a1 a2 a3 a4, Only [.out, .channels, .parts, .mailboxes, .hif, .boot] a0 (shareBobbin
    a0 a1 a2 a3 a4).1 := by
  intro a0 a1 a2 a3 a4
  unfold shareBobbin
  repeat' first
    | with_reducible exact Only.refl _ _
    | assumption
    | simp (disch := decide) only [Only.op_iff (only_dramUncorrectable _ _ _ _ _), Only.op_iff (only_setPart _ _ _),
        Only.refl, Only.ite_iff, implies_true, and_self, and_true, true_and]
    | refine Only.foldl _ (fun _ _ => ?_) _ ?_
    | refine And.intro ?_ ?_
    | intro _
    | split

theorem only_shareArgs : ∀ s n j o l, Only [.out, .channels, .parts, .mailboxes, .hif, .boot] s (shareArgs s n j o
    l).1 := by
  intro s n j o l
  induction l generalizing s with
  | nil => exact Only.refl _ _
  | cons h r ih =>
    have e := (only_shareBobbin s n h o (ownerJob j)).mono (G := [.out, .channels, .parts, .mailboxes, .hif, .boot]) (by decide)
    unfold shareArgs
    dsimp only
    split
    · exact e.trans (ih _)
    · split
      · exact e
      · exact Only.refl _ _

theorem only_startJob : ∀ a0 a1, Only [.out, .orders, .channels, .parts, .jobs, .mailboxes, .hif, .boot] a0
    (startJob a0 a1).1 := by
  intro a0 a1
  unfold startJob
  repeat' first
    | with_reducible exact Only.refl _ _
    | assumption
    | simp (disch := decide) only [Only.op_iff (only_modClient _ _ _ _), Only.op_iff (only_ordered _), Only.op_iff
        (only_setJob _ _ _), Only.op_iff (only_shareArgs _ _ _ _ _), Only.refl, Only.ite_iff, implies_true, and_self,
        and_true, true_and]
    | refine Only.foldl _ (fun _ _ => ?_) _ ?_
    | refine And.intro ?_ ?_
    | intro _
    | split

theorem only_blfReply : ∀ a0 a1 a2, Only [.out, .mailboxes, .running, .belfry, .hif] a0 (blfReply a0 a1 a2) := by
  intro a0 a1 a2
  unfold blfReply
  repeat' first
    | with_reducible exact Only.refl _ _
    | assumption
    | simp (disch := decide) only [Only.op_iff (only_complete _ _ _ _), Only.op_iff (only_hostWrite _ _ _ _),
        Only.op_iff (only_setBelfry _ _), Only.refl, Only.ite_iff, implies_true, and_self, and_true, true_and]
    | refine Only.foldl _ (fun _ _ => ?_) _ ?_
    | refine And.intro ?_ ?_
    | intro _
    | split

theorem only_belfryLog : ∀ a0, Only [.out, .mailboxes, .running, .belfry, .hif] a0 (belfryLog a0) := by
  intro a0
  unfold belfryLog
  repeat' first
    | with_reducible exact Only.refl _ _
    | assumption
    | simp (disch := decide) only [Only.op_iff (only_blfReply _ _ _), onRequest, Only.refl, Only.ite_iff,
        implies_true, and_self, and_true, true_and]
    | refine Only.foldl _ (fun _ _ => ?_) _ ?_
    | refine And.intro ?_ ?_
    | intro _
    | split

theorem only_blfProvision : ∀ a0, Only [.draws, .belfry] a0 (blfProvision a0) := by
  intro a0
  unfold blfProvision
  repeat' first
    | with_reducible exact Only.refl _ _
    | assumption
    | simp (disch := decide) only [Only.op_iff (only_drawn _), Only.op_iff (only_setBelfry _ _), Only.refl,
        Only.ite_iff, implies_true, and_self, and_true, true_and]
    | refine Only.foldl _ (fun _ _ => ?_) _ ?_
    | refine And.intro ?_ ?_
    | intro _
    | split

theorem only_putBelfry : ∀ a0 a1, Only [.belfry] a0 (putBelfry a0 a1) := by
  intro a0 a1
  unfold putBelfry
  repeat' first
    | with_reducible exact Only.refl _ _
    | assumption
    | simp (disch := decide) only [Only.op_iff (only_setBelfry _ _), Only.refl, Only.ite_iff, implies_true,
        and_self, and_true, true_and]
    | refine Only.foldl _ (fun _ _ => ?_) _ ?_
    | refine And.intro ?_ ?_
    | intro _
    | split

theorem only_sendLine : ∀ a0 a1, Only [.out] a0 (sendLine a0 a1) := by
  intro a0 a1
  unfold sendLine
  repeat' first
    | with_reducible exact Only.refl _ _
    | assumption
    | simp (disch := decide) only [Only.op_iff (only_emit _ _), Only.refl, Only.ite_iff, implies_true, and_self,
        and_true, true_and]
    | refine Only.foldl _ (fun _ _ => ?_) _ ?_
    | refine And.intro ?_ ?_
    | intro _
    | split

theorem only_closeRecord : ∀ a0 a1 a2, Only [.out, .belfry] a0 (closeRecord a0 a1 a2) := by
  intro a0 a1 a2
  unfold closeRecord
  repeat' first
    | with_reducible exact Only.refl _ _
    | assumption
    | simp (disch := decide) only [Only.op_iff (only_putBelfry _ _), Only.op_iff (only_sendLine _ _), Only.refl,
        Only.ite_iff, implies_true, and_self, and_true, true_and]
    | refine Only.foldl _ (fun _ _ => ?_) _ ?_
    | refine And.intro ?_ ?_
    | intro _
    | split

theorem only_modOpen : ∀ a0 a1, Only [.belfry] a0 (modOpen a0 a1) := by
  intro a0 a1
  unfold modOpen
  repeat' first
    | with_reducible exact Only.refl _ _
    | assumption
    | simp (disch := decide) only [Only.op_iff (only_setBelfry _ _), Only.refl, Only.ite_iff, implies_true,
        and_self, and_true, true_and]
    | refine Only.foldl _ (fun _ _ => ?_) _ ?_
    | refine And.intro ?_ ?_
    | intro _
    | split

theorem only_gapSinceLast : ∀ a0, Only [.belfry] a0 (gapSinceLast a0) := by
  intro a0
  unfold gapSinceLast
  repeat' first
    | with_reducible exact Only.refl _ _
    | assumption
    | simp (disch := decide) only [Only.op_iff (only_modOpen _ _), Only.refl, Only.ite_iff, implies_true, and_self,
        and_true, true_and]
    | refine Only.foldl _ (fun _ _ => ?_) _ ?_
    | refine And.intro ?_ ?_
    | intro _
    | split

theorem only_closePartial : ∀ a0, Only [.out, .belfry] a0 (closePartial a0) := by
  intro a0
  unfold closePartial
  repeat' first
    | with_reducible exact Only.refl _ _
    | assumption
    | simp (disch := decide) only [Only.op_iff (only_closeRecord _ _ _), Only.op_iff (only_gapSinceLast _),
        Only.refl, Only.ite_iff, implies_true, and_self, and_true, true_and]
    | refine Only.foldl _ (fun _ _ => ?_) _ ?_
    | refine And.intro ?_ ?_
    | intro _
    | split

theorem only_passBoundary : ∀ a0, Only [.out, .belfry] a0 (passBoundary a0) := by
  intro a0
  unfold passBoundary
  repeat' first
    | with_reducible exact Only.refl _ _
    | assumption
    | simp (disch := decide) only [Only.op_iff (only_closeRecord _ _ _), Only.op_iff (only_setBelfry _ _),
        Only.refl, Only.ite_iff, implies_true, and_self, and_true, true_and]
    | refine Only.foldl _ (fun _ _ => ?_) _ ?_
    | refine And.intro ?_ ?_
    | intro _
    | split

theorem only_closeReached : ∀ a0 a1 a2, Only [.out, .belfry] a2 (closeReached a0 a1 a2) := by
  intro a0 n
  induction n with
  | zero => intro a2; exact Only.refl _ _
  | succ n ih =>
    intro a2
    unfold closeReached
    repeat' first
      | with_reducible exact Only.refl _ _
      | assumption
      | simp (disch := decide) only [Only.op_iff (ih _), Only.op_iff (only_passBoundary _), Only.refl, Only.ite_iff,
          implies_true, and_self, and_true, true_and]
      | refine Only.foldl _ (fun _ _ => ?_) _ ?_
      | refine And.intro ?_ ?_
      | intro _
      | split

theorem only_cmdAttest : ∀ a0 a1, Only [.out, .mailboxes, .running, .sec, .hif] a0 (cmdAttest a0 a1) := by
  intro a0 a1
  unfold cmdAttest
  repeat' first
    | with_reducible exact Only.refl _ _
    | assumption
    | simp (disch := decide) only [command, Only.op_iff (only_complete _ _ _ _), Only.op_iff (only_hostWrite _ _ _
        _), Only.op_iff (only_setSec _ _), onCommand, Only.refl, Only.ite_iff, implies_true, and_self, and_true,
        true_and]
    | refine Only.foldl _ (fun _ _ => ?_) _ ?_
    | refine And.intro ?_ ?_
    | intro _
    | split

theorem only_cmdAuditExport : ∀ a0 a1, Only [.out, .mailboxes, .running, .hif] a0 (cmdAuditExport a0 a1) := by
  intro a0 a1
  unfold cmdAuditExport
  repeat' first
    | with_reducible exact Only.refl _ _
    | assumption
    | simp (disch := decide) only [command, Only.op_iff (only_complete _ _ _ _), Only.op_iff (only_hostWrite _ _ _
        _), onCommand, Only.refl, Only.ite_iff, implies_true, and_self, and_true, true_and]
    | refine Only.foldl _ (fun _ _ => ?_) _ ?_
    | refine And.intro ?_ ?_
    | intro _
    | split

theorem only_cmdBlfRecords : ∀ a0 a1, Only [.out, .mailboxes, .running, .hif] a0 (cmdBlfRecords a0 a1) := by
  intro a0 a1
  unfold cmdBlfRecords
  repeat' first
    | with_reducible exact Only.refl _ _
    | assumption
    | simp (disch := decide) only [command, Only.op_iff (only_complete _ _ _ _), Only.op_iff (only_hostWrite _ _ _
        _), onCommand, Only.refl, Only.ite_iff, implies_true, and_self, and_true, true_and]
    | refine Only.foldl _ (fun _ _ => ?_) _ ?_
    | refine And.intro ?_ ?_
    | intro _
    | split

theorem only_cmdBlfRequest : ∀ a0 a1 a2, Only [.out, .mailboxes, .running, .belfry, .hif] a0 (cmdBlfRequest a0 a1
    a2) := by
  intro a0 a1 a2
  unfold cmdBlfRequest
  repeat' first
    | with_reducible exact Only.refl _ _
    | assumption
    | simp (disch := decide) only [Only.op_iff (only_blfReply _ _ _), command, Only.op_iff (only_complete _ _ _ _),
        Only.op_iff (only_deferCompletion _ _), Only.op_iff (only_setBelfry _ _), withHost, Only.op_iff (only_endReads
        _ _), Only.op_iff (only_raiseHostTimeout _ _ _ _), onCommand, Only.refl, Only.ite_iff, implies_true, and_self,
        and_true, true_and]
    | refine Only.foldl _ (fun _ _ => ?_) _ ?_
    | refine And.intro ?_ ?_
    | intro _
    | split

theorem only_cmdDebugDisable : ∀ a0 a1, Only [.out, .mailboxes, .running, .sec, .hif] a0 (cmdDebugDisable a0 a1) := by
  intro a0 a1
  unfold cmdDebugDisable
  repeat' first
    | with_reducible exact Only.refl _ _
    | assumption
    | simp (disch := decide) only [Only.op_iff (only_appendFuse _ _ _ _ _ _), command, Only.op_iff (only_complete _
        _ _ _), Only.op_iff (only_setSec _ _), onCommand, Only.refl, Only.ite_iff, implies_true, and_self, and_true,
        true_and]
    | refine Only.foldl _ (fun _ _ => ?_) _ ?_
    | refine And.intro ?_ ?_
    | intro _
    | split

theorem only_cmdIdentityGet : ∀ a0 a1, Only [.out, .mailboxes, .running, .hif] a0 (cmdIdentityGet a0 a1) := by
  intro a0 a1
  unfold cmdIdentityGet
  repeat' first
    | with_reducible exact Only.refl _ _
    | assumption
    | simp (disch := decide) only [command, Only.op_iff (only_complete _ _ _ _), Only.op_iff (only_hostWrite _ _ _
        _), onCommand, Only.refl, Only.ite_iff, implies_true, and_self, and_true, true_and]
    | refine Only.foldl _ (fun _ _ => ?_) _ ?_
    | refine And.intro ?_ ?_
    | intro _
    | split

theorem only_cmdJobDefine : ∀ a0 a1, Only [.out, .channels, .parts, .mailboxes, .running, .hif, .boot] a0
    (cmdJobDefine a0 a1) := by
  intro a0 a1
  unfold cmdJobDefine
  repeat' first
    | with_reducible exact Only.refl _ _
    | assumption
    | simp (disch := decide) only [command, Only.op_iff (only_complete _ _ _ _), Only.op_iff (only_dramUncorrectable
        _ _ _ _ _), Only.op_iff (only_setPart _ _ _), onCommand, Only.refl, Only.ite_iff, implies_true, and_self,
        and_true, true_and]
    | refine Only.foldl _ (fun _ _ => ?_) _ ?_
    | refine And.intro ?_ ?_
    | intro _
    | split

theorem only_cmdJobStart : ∀ a0 a1, Only [.out, .orders, .channels, .parts, .jobs, .mailboxes, .running, .hif,
    .boot] a0 (cmdJobStart a0 a1) := by
  intro a0 a1
  unfold cmdJobStart
  repeat' first
    | with_reducible exact Only.refl _ _
    | assumption
    | simp (disch := decide) only [command, Only.op_iff (only_complete _ _ _ _), Only.op_iff (only_startJob _ _),
        onCommand, Only.refl, Only.ite_iff, implies_true, and_self, and_true, true_and]
    | refine Only.foldl _ (fun _ _ => ?_) _ ?_
    | refine And.intro ?_ ?_
    | intro _
    | split

theorem only_cmdJobUndefine : ∀ a0 a1, Only [.out, .parts, .mailboxes, .running, .hif] a0 (cmdJobUndefine a0 a1) := by
  intro a0 a1
  unfold cmdJobUndefine
  repeat' first
    | with_reducible exact Only.refl _ _
    | assumption
    | simp (disch := decide) only [command, Only.op_iff (only_complete _ _ _ _), Only.op_iff (only_setPart _ _ _),
        onCommand, Only.refl, Only.ite_iff, implies_true, and_self, and_true, true_and]
    | refine Only.foldl _ (fun _ _ => ?_) _ ?_
    | refine And.intro ?_ ?_
    | intro _
    | split

theorem only_cmdOringCreate : ∀ a0 a1, Only [.out, .mailboxes, .running, .orings, .hif] a0 (cmdOringCreate a0 a1) :=
    by
  intro a0 a1
  unfold cmdOringCreate
  repeat' first
    | with_reducible exact Only.refl _ _
    | assumption
    | simp (disch := decide) only [command, Only.op_iff (only_complete _ _ _ _), Only.op_iff (only_setOring _ _ _),
        onCommand, Only.refl, Only.ite_iff, implies_true, and_self, and_true, true_and]
    | refine Only.foldl _ (fun _ _ => ?_) _ ?_
    | refine And.intro ?_ ?_
    | intro _
    | split

theorem only_cmdOringDestroy : ∀ a0 a1, Only [.out, .mailboxes, .running, .orings, .hif] a0 (cmdOringDestroy a0 a1)
    := by
  intro a0 a1
  unfold cmdOringDestroy
  repeat' first
    | with_reducible exact Only.refl _ _
    | assumption
    | simp (disch := decide) only [command, Only.op_iff (only_complete _ _ _ _), Only.op_iff (only_setOring _ _ _),
        onCommand, Only.refl, Only.ite_iff, implies_true, and_self, and_true, true_and]
    | refine Only.foldl _ (fun _ _ => ?_) _ ?_
    | refine And.intro ?_ ?_
    | intro _
    | split

theorem only_cmdOwnerEnroll : ∀ a0 a1 a2, Only [.out, .mailboxes, .running, .sec, .hif] a0 (cmdOwnerEnroll a0 a1 a2)
    := by
  intro a0 a1 a2
  unfold cmdOwnerEnroll
  repeat' first
    | with_reducible exact Only.refl _ _
    | assumption
    | simp (disch := decide) only [Only.op_iff (only_appendRing _ _ _ _ _), command, Only.op_iff (only_complete _ _
        _ _), Only.op_iff (only_setSec _ _), withHost, Only.op_iff (only_endReads _ _), Only.op_iff
        (only_raiseHostTimeout _ _ _ _), onCommand, Only.refl, Only.ite_iff, implies_true, and_self, and_true,
        true_and]
    | refine Only.foldl _ (fun _ _ => ?_) _ ?_
    | refine And.intro ?_ ?_
    | intro _
    | split

theorem only_cmdPoolCreate : ∀ a0 a1, Only [.out, .parts, .mailboxes, .running, .hif] a0 (cmdPoolCreate a0 a1) := by
  intro a0 a1
  unfold cmdPoolCreate
  repeat' first
    | with_reducible exact Only.refl _ _
    | assumption
    | simp (disch := decide) only [command, Only.op_iff (only_complete _ _ _ _), Only.op_iff (only_setPart _ _ _),
        onCommand, Only.refl, Only.ite_iff, implies_true, and_self, and_true, true_and]
    | refine Only.foldl _ (fun _ _ => ?_) _ ?_
    | refine And.intro ?_ ?_
    | intro _
    | split

theorem only_cmdPoolDestroy : ∀ a0 a1, Only [.out, .parts, .mailboxes, .running, .hif] a0 (cmdPoolDestroy a0 a1) := by
  intro a0 a1
  unfold cmdPoolDestroy
  repeat' first
    | with_reducible exact Only.refl _ _
    | assumption
    | simp (disch := decide) only [command, Only.op_iff (only_complete _ _ _ _), Only.op_iff (only_setPart _ _ _),
        onCommand, Only.refl, Only.ite_iff, implies_true, and_self, and_true, true_and]
    | refine Only.foldl _ (fun _ _ => ?_) _ ?_
    | refine And.intro ?_ ?_
    | intro _
    | split

theorem only_cmdSessionClose : ∀ a0 a1, Only [.out, .mailboxes, .running, .sec, .hif] a0 (cmdSessionClose a0 a1) := by
  intro a0 a1
  unfold cmdSessionClose
  repeat' first
    | with_reducible exact Only.refl _ _
    | assumption
    | simp (disch := decide) only [Only.op_iff (only_appendRing _ _ _ _ _), command, Only.op_iff (only_complete _ _
        _ _), Only.op_iff (only_setSec _ _), onCommand, Only.refl, Only.ite_iff, implies_true, and_self, and_true,
        true_and]
    | refine Only.foldl _ (fun _ _ => ?_) _ ?_
    | refine And.intro ?_ ?_
    | intro _
    | split

theorem only_cmdSessionOpen : ∀ a0 a1 a2, Only [.draws, .out, .mailboxes, .running, .sec, .hif] a0 (cmdSessionOpen
    a0 a1 a2) := by
  intro a0 a1 a2
  unfold cmdSessionOpen
  repeat' first
    | with_reducible exact Only.refl _ _
    | assumption
    | simp (disch := decide) only [Only.op_iff (only_appendRing _ _ _ _ _), command, Only.op_iff (only_complete _ _
        _ _), Only.op_iff (only_drawn _), Only.op_iff (only_endReads _ _), Only.op_iff (only_hostWrite _ _ _ _),
        Only.op_iff (only_setSec _ _), withHost, Only.op_iff (only_raiseHostTimeout _ _ _ _), onCommand, Only.refl,
        Only.ite_iff, implies_true, and_self, and_true, true_and]
    | refine Only.foldl _ (fun _ _ => ?_) _ ?_
    | refine And.intro ?_ ?_
    | intro _
    | split

theorem only_cmdSkeinBind : ∀ a0 a1, Only [.out, .mailboxes, .running, .sec, .hif] a0 (cmdSkeinBind a0 a1) := by
  intro a0 a1
  unfold cmdSkeinBind
  repeat' first
    | with_reducible exact Only.refl _ _
    | assumption
    | simp (disch := decide) only [Only.op_iff (only_appendFuse _ _ _ _ _ _), command, Only.op_iff (only_complete _
        _ _ _), Only.op_iff (only_setSec _ _), onCommand, Only.refl, Only.ite_iff, implies_true, and_self, and_true,
        true_and]
    | refine Only.foldl _ (fun _ _ => ?_) _ ?_
    | refine And.intro ?_ ?_
    | intro _
    | split

theorem only_cmdSvAdvance : ∀ a0 a1, Only [.out, .mailboxes, .running, .sec, .hif] a0 (cmdSvAdvance a0 a1) := by
  intro a0 a1
  unfold cmdSvAdvance
  repeat' first
    | with_reducible exact Only.refl _ _
    | assumption
    | simp (disch := decide) only [Only.op_iff (only_appendFuse _ _ _ _ _ _), command, Only.op_iff (only_complete _
        _ _ _), Only.op_iff (only_setSec _ _), onCommand, Only.refl, Only.ite_iff, implies_true, and_self, and_true,
        true_and]
    | refine Only.foldl _ (fun _ _ => ?_) _ ?_
    | refine And.intro ?_ ?_
    | intro _
    | split

theorem only_kernelStart : ∀ a0 a1, Only [.out, .belfry] a0 (kernelStart a0 a1) := by
  intro a0 a1
  unfold kernelStart
  repeat' first
    | with_reducible exact Only.refl _ _
    | assumption
    | simp (disch := decide) only [Only.op_iff (only_putBelfry _ _), Only.op_iff (only_sendLine _ _), Only.refl,
        Only.ite_iff, implies_true, and_self, and_true, true_and]
    | refine Only.foldl _ (fun _ _ => ?_) _ ?_
    | refine And.intro ?_ ?_
    | intro _
    | split

theorem only_commitSeal : ∀ a0, Only [.out, .mailboxes, .running, .belfry, .hif] a0 (commitSeal a0) := by
  intro a0
  unfold commitSeal
  repeat' first
    | with_reducible exact Only.refl _ _
    | assumption
    | simp (disch := decide) only [Only.op_iff (only_blfReply _ _ _), Only.op_iff (only_closePartial _), Only.op_iff
        (only_kernelStart _ _), onRequest, Only.op_iff (only_setBelfry _ _), Only.refl, Only.ite_iff, implies_true,
        and_self, and_true, true_and]
    | refine Only.foldl _ (fun _ _ => ?_) _ ?_
    | refine And.intro ?_ ?_
    | intro _
    | split

theorem only_completeCrop : ∀ a0 a1 a2 a3 a4 a5, Only [.parts, .prepSat, .prepUfl] a0 (completeCrop a0 a1 a2 a3 a4
    a5) := by
  intro a0 a1 a2 a3 a4 a5
  unfold completeCrop
  repeat' first
    | with_reducible exact Only.refl _ _
    | assumption
    | simp (disch := decide) only [Only.op_iff (only_fillSlot _ _ _ _ _ _ _), Only.op_iff (only_with_prepSat_prepUfl
        _ _ _), Only.refl, Only.ite_iff, implies_true, and_self, and_true, true_and]
    | refine Only.foldl _ (fun _ _ => ?_) _ ?_
    | refine And.intro ?_ ?_
    | intro _
    | split

theorem only_completeSearch : ∀ a0 a1, Only [.out, .channels, .parts, .mailboxes, .motion, .hif, .boot] a0
    (completeSearch a0 a1) := by
  intro a0 a1
  unfold completeSearch
  repeat' first
    | with_reducible exact Only.refl _ _
    | assumption
    | simp (disch := decide) only [Only.op_iff (only_dramUncorrectable _ _ _ _ _), Only.op_iff (only_emit _ _),
        Only.op_iff (only_regionWrite _ _ _ _), Only.op_iff (only_setMotion _ _ _), Only.refl, Only.ite_iff,
        implies_true, and_self, and_true, true_and]
    | refine Only.foldl _ (fun _ _ => ?_) _ ?_
    | refine And.intro ?_ ?_
    | intro _
    | split

theorem only_padRequest : ∀ a0 a1 a2, Only [.parts, .workItems] a0 (padRequest a0 a1 a2) := by
  intro a0 a1 a2
  unfold padRequest
  repeat' first
    | with_reducible exact Only.refl _ _
    | assumption
    | simp (disch := decide) only [Only.op_iff (only_modPart _ _ _), Only.op_iff (only_with_workItems _ _),
        Only.refl, Only.ite_iff, implies_true, and_self, and_true, true_and]
    | refine Only.foldl _ (fun _ _ => ?_) _ ?_
    | refine And.intro ?_ ?_
    | intro _
    | split

theorem only_finishItem : ∀ a0 a1 a2 a3, Only [.out, .channels, .parts, .mailboxes, .prepUnits, .workItems,
    .prepSat, .prepUfl, .hif, .boot] a0 (finishItem a0 a1 a2 a3).1 := by
  intro a0 a1 a2 a3
  unfold finishItem
  repeat' first
    | with_reducible exact Only.refl _ _
    | assumption
    | simp (disch := decide) only [Only.op_iff (only_completeCrop _ _ _ _ _ _), Only.op_iff (only_dramUncorrectable
        _ _ _ _ _), Only.op_iff (only_endReads _ _), Only.op_iff (only_fillSlot _ _ _ _ _ _ _), Only.op_iff
        (only_padRequest _ _ _), Only.op_iff (only_raiseHostTimeout _ _ _ _), Only.op_iff (only_unitFree _ _),
        Only.refl, Only.ite_iff, implies_true, and_self, and_true, true_and]
    | refine Only.foldl _ (fun _ _ => ?_) _ ?_
    | refine And.intro ?_ ?_
    | intro _
    | split

theorem only_spaceRestore : ∀ a0 a1 a2 a3 a4 a5, Only [.spindles, .spires, .parts] a0 (spaceRestore a0 a1 a2 a3 a4
    a5) := by
  intro a0 a1 a2 a3 a4 a5
  unfold spaceRestore
  repeat' first
    | with_reducible exact Only.refl _ _
    | assumption
    | simp (disch := decide) only [Only.op_iff (only_modPart _ _ _), Only.op_iff (only_setSpindle _ _ _),
        Only.op_iff (only_setSpire _ _ _), Only.refl, Only.ite_iff, implies_true, and_self, and_true, true_and]
    | refine Only.foldl _ (fun _ _ => ?_) _ ?_
    | refine And.intro ?_ ?_
    | intro _
    | split

theorem only_spaceUndef : ∀ a0 a1 a2 a3 a4 a5 a6, Only [.draws, .spindles, .spires, .parts] a0 (spaceUndef a0 a1 a2
    a3 a4 a5 a6) := by
  intro a0 a1 a2 a3 a4 a5 a6
  unfold spaceUndef
  repeat' first
    | with_reducible exact Only.refl _ _
    | assumption
    | simp (disch := decide) only [Only.op_iff (only_drawn _), Only.op_iff (only_modPart _ _ _), Only.op_iff
        (only_setSpindle _ _ _), Only.op_iff (only_setSpire _ _ _), Only.refl, Only.ite_iff, implies_true, and_self,
        and_true, true_and]
    | refine Only.foldl _ (fun _ _ => ?_) _ ?_
    | refine And.intro ?_ ?_
    | intro _
    | split

theorem only_undefDest : ∀ a0 a1 a2 a3 a4, Only [.draws, .spindles, .spires, .parts] a0 (undefDest a0 a1 a2 a3 a4)
    := by
  intro a0 a1 a2 a3 a4
  unfold undefDest
  repeat' first
    | with_reducible exact Only.refl _ _
    | assumption
    | simp (disch := decide) only [Only.op_iff (only_spaceUndef _ _ _ _ _ _ _), Only.refl, Only.ite_iff,
        implies_true, and_self, and_true, true_and]
    | refine Only.foldl _ (fun _ _ => ?_) _ ?_
    | refine And.intro ?_ ?_
    | intro _
    | split

theorem only_failedDest : ∀ a0 a1 a2 a3 a4, Only [.draws, .spindles, .spires, .parts] a0 (failedDest a0 a1 a2 a3 a4)
    := by
  intro a0 a1 a2 a3 a4
  unfold failedDest
  repeat' first
    | with_reducible exact Only.refl _ _
    | assumption
    | simp (disch := decide) only [Only.op_iff (only_spaceRestore _ _ _ _ _ _), Only.op_iff (only_undefDest _ _ _ _
        _), Only.refl, Only.ite_iff, implies_true, and_self, and_true, true_and]
    | refine Only.foldl _ (fun _ _ => ?_) _ ?_
    | refine And.intro ?_ ?_
    | intro _
    | split

theorem only_copyFails : ∀ a0 a1 a2 a3 a4, Only [.draws, .out, .spindles, .spires, .domes, .channels, .parts, .jobs,
    .mailboxes, .running, .hif, .boot] a0 (copyFails a0 a1 a2 a3 a4) := by
  intro a0 a1 a2 a3 a4
  unfold copyFails
  repeat' first
    | with_reducible exact Only.refl _ _
    | assumption
    | simp (disch := decide) only [Only.op_iff (only_agenError _ _ _ _), Only.op_iff (only_dramUncorrectable _ _ _ _
        _), Only.op_iff (only_failedDest _ _ _ _ _), Only.op_iff (only_setSpindle _ _ _), Only.op_iff
        (only_sramUncorrectable _ _ _ _ _), Only.refl, Only.ite_iff, implies_true, and_self, and_true, true_and]
    | refine Only.foldl _ (fun _ _ => ?_) _ ?_
    | refine And.intro ?_ ?_
    | intro _
    | split

theorem only_dmaStop : ∀ a0 a1, Only [.spindles] a0 (dmaStop a0 a1) := by
  intro a0 a1
  unfold dmaStop
  repeat' first
    | with_reducible exact Only.refl _ _
    | assumption
    | simp (disch := decide) only [Only.op_iff (only_setSpindle _ _ _), Only.refl, Only.ite_iff, implies_true,
        and_self, and_true, true_and]
    | refine Only.foldl _ (fun _ _ => ?_) _ ?_
    | refine And.intro ?_ ?_
    | intro _
    | split

theorem only_copyRefused : ∀ a0 a1 a2 a3, Only [.out, .spindles, .jobs, .mailboxes, .running, .hif] a0 (copyRefused
    a0 a1 a2 a3) := by
  intro a0 a1 a2 a3
  unfold copyRefused
  repeat' first
    | with_reducible exact Only.refl _ _
    | assumption
    | simp (disch := decide) only [Only.op_iff (only_agenError _ _ _ _), Only.op_iff (only_dmaStop _ _), Only.refl,
        Only.ite_iff, implies_true, and_self, and_true, true_and]
    | refine Only.foldl _ (fun _ _ => ?_) _ ?_
    | refine And.intro ?_ ?_
    | intro _
    | split

theorem only_copyPulse : ∀ a0 a1 a2 a3 a4, Only [.out, .spindles, .spires, .jobs, .mailboxes, .running, .hif] a0
    (copyPulse a0 a1 a2 a3 a4) := by
  intro a0 a1 a2 a3 a4
  unfold copyPulse
  repeat' first
    | with_reducible exact Only.refl _ _
    | assumption
    | simp (disch := decide) only [Only.op_iff (only_afterPulse _ _), Only.op_iff (only_copyRefused _ _ _ _),
        Only.op_iff (only_setSpindle _ _ _), Only.refl, Only.ite_iff, implies_true, and_self, and_true, true_and]
    | refine Only.step ?_ (only_releaseUnits _ _ _ _ _ _ (by assumption)) (by decide)
    | refine Only.foldl _ (fun _ _ => ?_) _ ?_
    | refine And.intro ?_ ?_
    | intro _
    | split

theorem only_dropCopy : ∀ a0 a1, Only [.spindles] a0 (dropCopy a0 a1) := by
  intro a0 a1
  unfold dropCopy
  repeat' first
    | with_reducible exact Only.refl _ _
    | assumption
    | simp (disch := decide) only [Only.op_iff (only_setSpindle _ _ _), Only.refl, Only.ite_iff, implies_true,
        and_self, and_true, true_and]
    | refine Only.foldl _ (fun _ _ => ?_) _ ?_
    | refine And.intro ?_ ?_
    | intro _
    | split

theorem only_spacePut : ∀ a0 a1 a2 a3 a4 a5 a6, Only [.spindles, .spires, .parts] a0 (spacePut a0 a1 a2 a3 a4 a5 a6)
    := by
  intro a0 a1 a2 a3 a4 a5 a6
  unfold spacePut
  repeat' first
    | with_reducible exact Only.refl _ _
    | assumption
    | simp (disch := decide) only [Only.op_iff (only_regionWrite _ _ _ _), Only.op_iff (only_setSpindle _ _ _),
        Only.op_iff (only_setSpire _ _ _), Only.refl, Only.ite_iff, implies_true, and_self, and_true, true_and]
    | refine Only.foldl _ (fun _ _ => ?_) _ ?_
    | refine And.intro ?_ ?_
    | intro _
    | split

theorem only_moveRows : ∀ a0 a1 a2 a3 a4, Only [.draws, .spindles, .spires, .parts] a0 (moveRows a0 a1 a2 a3 a4) := by
  intro a0 a1 a2 a3 a4
  unfold moveRows
  repeat' first
    | with_reducible exact Only.refl _ _
    | assumption
    | simp (disch := decide) only [Only.op_iff (only_setSpindle _ _ _), Only.op_iff (only_spacePut _ _ _ _ _ _ _),
        Only.op_iff (only_undefDest _ _ _ _ _), Only.refl, Only.ite_iff, implies_true, and_self, and_true, true_and]
    | refine Only.foldl _ (fun _ _ => ?_) _ ?_
    | refine And.intro ?_ ?_
    | intro _
    | split

theorem only_copyComplete : ∀ a0 a1, Only [.draws, .out, .spindles, .spires, .domes, .channels, .parts, .jobs,
    .mailboxes, .running, .hif, .boot] a0 (copyComplete a0 a1) := by
  intro a0 a1
  unfold copyComplete
  repeat' first
    | with_reducible exact Only.refl _ _
    | assumption
    | simp (disch := decide) only [Only.op_iff (only_copyFails _ _ _ _ _), Only.op_iff (only_copyPulse _ _ _ _ _),
        Only.op_iff (only_dropCopy _ _), Only.op_iff (only_moveRows _ _ _ _ _), Only.op_iff (only_setSpindle _ _ _),
        Only.refl, Only.ite_iff, implies_true, and_self, and_true, true_and]
    | refine Only.foldl _ (fun _ _ => ?_) _ ?_
    | refine And.intro ?_ ?_
    | intro _
    | split

theorem only_coreWatchdog : ∀ a0, Only [.belfry] a0 (coreWatchdog a0) := by
  intro a0
  unfold coreWatchdog
  repeat' first
    | with_reducible exact Only.refl _ _
    | assumption
    | simp (disch := decide) only [Only.op_iff (only_gapSinceLast _), Only.op_iff (only_modOpen _ _), Only.op_iff
        (only_putBelfry _ _), Only.refl, Only.ite_iff, implies_true, and_self, and_true, true_and]
    | refine Only.foldl _ (fun _ _ => ?_) _ ?_
    | refine And.intro ?_ ?_
    | intro _
    | split

theorem only_countLink : ∀ a0 a1, Only [.out, .channels, .mailboxes, .hif, .boot] a0 (countLink a0 a1) := by
  intro a0 a1
  unfold countLink
  repeat' first
    | with_reducible exact Only.refl _ _
    | assumption
    | simp (disch := decide) only [Only.op_iff (only_raiseCorrected _ _ _ _), Only.op_iff (only_setChannel _ _ _),
        Only.op_iff (only_setLife _ _), Only.refl, Only.ite_iff, implies_true, and_self, and_true, true_and]
    | refine Only.foldl _ (fun _ _ => ?_) _ ?_
    | refine And.intro ?_ ?_
    | intro _
    | split

theorem only_csiFrame : ∀ a0 a1 a2 a3 a4 a5, Only [.belfry] a0 (csiFrame a0 a1 a2 a3 a4 a5) := by
  intro a0 a1 a2 a3 a4 a5
  unfold csiFrame
  repeat' first
    | with_reducible exact Only.refl _ _
    | assumption
    | simp (disch := decide) only [Only.op_iff (only_setBelfry _ _), Only.refl, Only.ite_iff, implies_true,
        and_self, and_true, true_and]
    | refine Only.foldl _ (fun _ _ => ?_) _ ?_
    | refine And.intro ?_ ?_
    | intro _
    | split

theorem only_domeCorrected : ∀ a0 a1, Only [.domes, .boot] a0 (domeCorrected a0 a1) := by
  intro a0 a1
  unfold domeCorrected
  repeat' first
    | with_reducible exact Only.refl _ _
    | assumption
    | simp (disch := decide) only [Only.op_iff (only_setDome _ _ _), Only.op_iff (only_setLife _ _), Only.refl,
        Only.ite_iff, implies_true, and_self, and_true, true_and]
    | refine Only.foldl _ (fun _ _ => ?_) _ ?_
    | refine And.intro ?_ ?_
    | intro _
    | split

theorem only_raiseSealChange : ∀ a0, Only [.out, .mailboxes, .hif] a0 (raiseSealChange a0) := by
  intro a0
  unfold raiseSealChange
  repeat' first
    | with_reducible exact Only.refl _ _
    | assumption
    | simp (disch := decide) only [Only.op_iff (only_raiseEvent _ _ _ _), Only.refl, Only.ite_iff, implies_true,
        and_self, and_true, true_and]
    | refine Only.foldl _ (fun _ _ => ?_) _ ?_
    | refine And.intro ?_ ?_
    | intro _
    | split

theorem only_raiseTamper : ∀ a0, Only [.out, .mailboxes, .hif] a0 (raiseTamper a0) := by
  intro a0
  unfold raiseTamper
  repeat' first
    | with_reducible exact Only.refl _ _
    | assumption
    | simp (disch := decide) only [Only.op_iff (only_raiseEvent _ _ _ _), Only.refl, Only.ite_iff, implies_true,
        and_self, and_true, true_and]
    | refine Only.foldl _ (fun _ _ => ?_) _ ?_
    | refine And.intro ?_ ?_
    | intro _
    | split

theorem only_encoderEdge : ∀ a0 a1 a2 a3, Only [.belfry] a0 (encoderEdge a0 a1 a2 a3) := by
  intro a0 a1 a2 a3
  unfold encoderEdge
  repeat' first
    | with_reducible exact Only.refl _ _
    | assumption
    | simp (disch := decide) only [Only.op_iff (only_setBelfry _ _), Only.refl, Only.ite_iff, implies_true,
        and_self, and_true, true_and]
    | refine Only.foldl _ (fun _ _ => ?_) _ ?_
    | refine And.intro ?_ ?_
    | intro _
    | split

theorem only_giveUnits : ∀ a0 a1 a2 a3, Only [.belfry] a0 (giveUnits a0 a1 a2 a3) := by
  intro a0 a1 a2 a3
  unfold giveUnits
  repeat' first
    | with_reducible exact Only.refl _ _
    | assumption
    | simp (disch := decide) only [Only.op_iff (only_modOpen _ _), Only.refl, Only.ite_iff, implies_true, and_self,
        and_true, true_and]
    | refine Only.foldl _ (fun _ _ => ?_) _ ?_
    | refine And.intro ?_ ?_
    | intro _
    | split

theorem only_valueAcross : ∀ a0 a1 a2 a3 a4 a5, Only [.out, .belfry] a5 (valueAcross a0 a1 a2 a3 a4 a5) := by
  intro a0 a1 a2 n
  induction n with
  | zero => intro a4 a5; exact (only_giveUnits _ _ _ _).mono (by decide)
  | succ n ih =>
    intro a4 a5
    unfold valueAcross
    simp (disch := decide) only [Only.ite_iff, Only.op_iff (ih _ _), Only.op_iff (only_passBoundary _),
      Only.op_iff (only_giveUnits _ _ _ _), Only.refl, implies_true, and_self]

theorem only_valuePair : ∀ a0 a1 a2 a3, Only [.out, .belfry] a0 (valuePair a0 a1 a2 a3) := by
  intro a0 a1 a2 a3
  unfold valuePair
  repeat' first
    | with_reducible exact Only.refl _ _
    | assumption
    | simp (disch := decide) only [Only.op_iff (only_closeReached _ _ _), Only.op_iff (only_modOpen _ _),
        Only.op_iff (only_setBelfry _ _), Only.op_iff (only_valueAcross _ _ _ _ _ _), Only.refl, Only.ite_iff,
        implies_true, and_self, and_true, true_and]
    | refine Only.foldl _ (fun _ _ => ?_) _ ?_
    | refine And.intro ?_ ?_
    | intro _
    | split

theorem only_endCall : ∀ a0 a1 a2, Only [.out, .belfry] a0 (endCall a0 a1 a2) := by
  intro a0 a1 a2
  unfold endCall
  repeat' first
    | with_reducible exact Only.refl _ _
    | assumption
    | simp (disch := decide) only [Only.op_iff (only_setBelfry _ _), Only.op_iff (only_valuePair _ _ _ _),
        Only.refl, Only.ite_iff, implies_true, and_self, and_true, true_and]
    | refine Only.foldl _ (fun _ _ => ?_) _ ?_
    | refine And.intro ?_ ?_
    | intro _
    | split

theorem only_setStem : ∀ a0 a1 a2, Only [.spires] a0 (setStem a0 a1 a2) := by
  intro a0 a1 a2
  unfold setStem
  repeat' first
    | with_reducible exact Only.refl _ _
    | assumption
    | simp (disch := decide) only [Only.op_iff (only_setSpire _ _ _), Only.refl, Only.ite_iff, implies_true,
        and_self, and_true, true_and]
    | refine Only.foldl _ (fun _ _ => ?_) _ ?_
    | refine And.intro ?_ ?_
    | intro _
    | split

theorem only_stemError : ∀ a0 a1 a2 a3, Only [.out, .spires, .jobs, .mailboxes, .running, .hif] a0 (stemError a0 a1
    a2 a3) := by
  intro a0 a1 a2 a3
  unfold stemError
  repeat' first
    | with_reducible exact Only.refl _ _
    | assumption
    | simp (disch := decide) only [Only.op_iff (only_jobError _ _ _), Only.op_iff (only_setStem _ _ _), Only.refl,
        Only.ite_iff, implies_true, and_self, and_true, true_and]
    | refine Only.foldl _ (fun _ _ => ?_) _ ?_
    | refine And.intro ?_ ?_
    | intro _
    | split

theorem only_stemCompute : ∀ a0 a1 a2, Only [.spindles, .spires] a0 (stemCompute a0 a1 a2) := by
  intro a0 a1 a2
  unfold stemCompute
  repeat' first
    | with_reducible exact Only.refl _ _
    | assumption
    | simp (disch := decide) only [Only.op_iff (only_countAt _ _ _ _), Only.op_iff (only_setSpire _ _ _), Only.refl,
        Only.ite_iff, implies_true, and_self, and_true, true_and]
    | refine Only.foldl _ (fun _ _ => ?_) _ ?_
    | refine And.intro ?_ ?_
    | intro _
    | split

theorem only_stemNext : ∀ a0 a1, Only [.spires] a0 (stemNext a0 a1) := by
  intro a0 a1
  unfold stemNext
  repeat' first
    | with_reducible exact Only.refl _ _
    | assumption
    | simp (disch := decide) only [Only.op_iff (only_setStem _ _ _), Only.refl, Only.ite_iff, implies_true,
        and_self, and_true, true_and]
    | refine Only.foldl _ (fun _ _ => ?_) _ ?_
    | refine And.intro ?_ ?_
    | intro _
    | split

theorem only_stemRun : ∀ a0 a1 a2 a3, Only [.out, .spindles, .spires, .domes, .jobs, .mailboxes, .running, .hif,
    .boot] a0 (stemRun a0 a1 a2 a3) := by
  intro a0 a1 a2 a3
  unfold stemRun
  repeat' first
    | with_reducible exact Only.refl _ _
    | assumption
    | simp (disch := decide) only [Only.op_iff (only_sramUncorrectable _ _ _ _ _), Only.op_iff (only_stemCompute _ _
        _), Only.op_iff (only_stemError _ _ _ _), Only.op_iff (only_stemNext _ _), Only.refl, Only.ite_iff,
        implies_true, and_self, and_true, true_and]
    | refine Only.step ?_ (only_releaseUnits _ _ _ _ _ _ (by assumption)) (by decide)
    | refine Only.foldl _ (fun _ _ => ?_) _ ?_
    | refine And.intro ?_ ?_
    | intro _
    | split

theorem only_stemEntryRow : ∀ a0 a1 a2, Only [.out, .spindles, .spires, .domes, .channels, .jobs, .mailboxes,
    .running, .hif, .boot] a0 (stemEntryRow a0 a1 a2) := by
  intro a0 a1 a2
  unfold stemEntryRow
  repeat' first
    | with_reducible exact Only.refl _ _
    | assumption
    | simp (disch := decide) only [onStem, Only.op_iff (only_setStem _ _ _), Only.op_iff (only_stemError _ _ _ _),
        Only.op_iff (only_stemRun _ _ _ _), Only.op_iff (only_dramUncorrectable _ _ _ _ _), Only.refl, Only.ite_iff,
        implies_true, and_self, and_true, true_and]
    | refine Only.step ?_ (only_acquireUnits _ _ _ _ _ _ (by assumption)) (by decide)
    | refine Only.foldl _ (fun _ _ => ?_) _ ?_
    | refine And.intro ?_ ?_
    | intro _
    | split

theorem only_handCopy : ∀ a0 a1, Only [.out, .spindles, .jobs, .mailboxes, .running, .hif] a0 (handCopy a0 a1) := by
  intro a0 a1
  unfold handCopy
  repeat' first
    | with_reducible exact Only.refl _ _
    | assumption
    | simp (disch := decide) only [Only.op_iff (only_copyRefused _ _ _ _), onDesc, Only.op_iff (only_setSpindle _ _
        _), Only.refl, Only.ite_iff, implies_true, and_self, and_true, true_and]
    | refine Only.foldl _ (fun _ _ => ?_) _ ?_
    | refine And.intro ?_ ?_
    | intro _
    | split

theorem only_serveWaiting : ∀ a0 a1 a2, Only [.draws, .out, .parts] a0 (serveWaiting a0 a1 a2) := by
  intro a0 a1 a2
  unfold serveWaiting
  repeat' first
    | with_reducible exact Only.refl _ _
    | assumption
    | simp (disch := decide) only [Only.op_iff (only_acquireBobbin _ _ _ _), Only.op_iff (only_emit _ _), Only.refl,
        Only.ite_iff, implies_true, and_self, and_true, true_and]
    | refine Only.foldl _ (fun _ _ => ?_) _ ?_
    | refine And.intro ?_ ?_
    | intro _
    | split

theorem only_freeRingRefill : ∀ a0 a1 a2, Only [.draws, .out, .channels, .parts, .mailboxes, .hif, .boot] a0
    (freeRingRefill a0 a1 a2) := by
  intro a0 a1 a2
  unfold freeRingRefill
  repeat' first
    | with_reducible exact Only.refl _ _
    | assumption
    | simp (disch := decide) only [Only.op_iff (only_dramUncorrectable _ _ _ _ _), Only.op_iff (only_emit _ _),
        Only.op_iff (only_modPart _ _ _), Only.op_iff (only_serveWaiting _ _ _), Only.op_iff (only_setPart _ _ _),
        Only.refl, Only.ite_iff, implies_true, and_self, and_true, true_and]
    | refine Only.foldl _ (fun _ _ => ?_) _ ?_
    | refine And.intro ?_ ?_
    | intro _
    | split

theorem only_oringDoorbell : ∀ a0 a1 a2 a3, Only [.orings] a0 (oringDoorbell a0 a1 a2 a3) := by
  intro a0 a1 a2 a3
  unfold oringDoorbell
  repeat' first
    | with_reducible exact Only.refl _ _
    | assumption
    | simp (disch := decide) only [Only.op_iff (only_setOring _ _ _), Only.refl, Only.ite_iff, implies_true,
        and_self, and_true, true_and]
    | refine Only.foldl _ (fun _ _ => ?_) _ ?_
    | refine And.intro ?_ ?_
    | intro _
    | split

theorem only_returnRead : ∀ a0 a1 a2 a3, Only [.draws, .out, .channels, .parts, .jobs, .mailboxes, .running, .hif,
    .boot] a0 (returnRead a0 a1 a2 a3) := by
  intro a0 a1 a2 a3
  unfold returnRead
  repeat' first
    | with_reducible exact Only.refl _ _
    | assumption
    | simp (disch := decide) only [Only.op_iff (only_arrayError _ _ _ _ _), Only.op_iff (only_countLink _ _),
        Only.op_iff (only_deliverRead _ _), Only.op_iff (only_failMemoryRead _ _), Only.refl, Only.ite_iff,
        implies_true, and_self, and_true, true_and]
    | refine Only.foldl _ (fun _ _ => ?_) _ ?_
    | refine And.intro ?_ ?_
    | intro _
    | split

theorem only_memoryReadComplete : ∀ a0 a1 a2, Only [.draws, .out, .channels, .parts, .jobs, .mailboxes, .running,
    .hif, .boot] a0 (memoryReadComplete a0 a1 a2) := by
  intro a0 a1 a2
  unfold memoryReadComplete
  repeat' first
    | with_reducible exact Only.refl _ _
    | assumption
    | simp (disch := decide) only [Only.op_iff (only_drainWrites _ _ _), Only.op_iff (only_returnRead _ _ _ _),
        Only.op_iff (only_setChannel _ _ _), Only.refl, Only.ite_iff, implies_true, and_self, and_true, true_and]
    | refine Only.foldl _ (fun _ _ => ?_) _ ?_
    | refine And.intro ?_ ?_
    | intro _
    | split

theorem only_motionSearchRequest : ∀ a0 a1 a2 a3 a4, Only [.out, .motion] a0 (motionSearchRequest a0 a1 a2 a3 a4) :=
    by
  intro a0 a1 a2 a3 a4
  unfold motionSearchRequest
  repeat' first
    | with_reducible exact Only.refl _ _
    | assumption
    | simp (disch := decide) only [Only.op_iff (only_emit _ _), Only.op_iff (only_setMotion _ _ _), Only.refl,
        Only.ite_iff, implies_true, and_self, and_true, true_and]
    | refine Only.foldl _ (fun _ _ => ?_) _ ?_
    | refine And.intro ?_ ?_
    | intro _
    | split

theorem only_markBad : ∀ a0 a1, Only [.spindles, .spires] a0 (markBad a0 a1) := by
  intro a0 a1
  unfold markBad
  repeat' first
    | with_reducible exact Only.refl _ _
    | assumption
    | simp (disch := decide) only [Only.op_iff (only_setSpindle _ _ _), Only.op_iff (only_setSpire _ _ _),
        Only.refl, Only.ite_iff, implies_true, and_self, and_true, true_and]
    | refine Only.foldl _ (fun _ _ => ?_) _ ?_
    | refine And.intro ?_ ?_
    | intro _
    | split

theorem only_moduleCorrected : ∀ a0, Only [.boot] a0 (moduleCorrected a0) := by
  intro a0
  unfold moduleCorrected
  repeat' first
    | with_reducible exact Only.refl _ _
    | assumption
    | simp (disch := decide) only [Only.op_iff (only_setBoot _ _), Only.op_iff (only_setLife _ _), Only.refl,
        Only.ite_iff, implies_true, and_self, and_true, true_and]
    | refine Only.foldl _ (fun _ _ => ?_) _ ?_
    | refine And.intro ?_ ?_
    | intro _
    | split

theorem only_moduleUncorrectable : ∀ a0 a1, Only [.out, .mailboxes, .hif, .boot] a0 (moduleUncorrectable a0 a1) := by
  intro a0 a1
  unfold moduleUncorrectable
  repeat' first
    | with_reducible exact Only.refl _ _
    | assumption
    | simp (disch := decide) only [Only.op_iff (only_raiseUncorrectable _ _ _ _ _ _), Only.op_iff (only_setBoot _
        _), Only.op_iff (only_setLife _ _), Only.refl, Only.ite_iff, implies_true, and_self, and_true, true_and]
    | refine Only.foldl _ (fun _ _ => ?_) _ ?_
    | refine And.intro ?_ ?_
    | intro _
    | split

theorem only_patrolScrub : ∀ a0 a1 a2, Only [.out, .spindles, .spires, .domes, .mailboxes, .hif, .boot] a0
    (patrolScrub a0 a1 a2) := by
  intro a0 a1 a2
  unfold patrolScrub
  repeat' first
    | with_reducible exact Only.refl _ _
    | assumption
    | simp (disch := decide) only [Only.op_iff (only_domeCorrected _ _), Only.op_iff (only_markBad _ _), Only.op_iff
        (only_moduleCorrected _), Only.op_iff (only_moduleUncorrectable _ _), Only.op_iff (only_sramUncorrectable _ _
        _ _ _), Only.refl, Only.ite_iff, implies_true, and_self, and_true, true_and]
    | refine Only.foldl _ (fun _ _ => ?_) _ ?_
    | refine And.intro ?_ ?_
    | intro _
    | split

theorem only_poolAcquire : ∀ a0 a1 a2 a3, Only [.draws, .out, .parts] a0 (poolAcquire a0 a1 a2 a3) := by
  intro a0 a1 a2 a3
  unfold poolAcquire
  repeat' first
    | with_reducible exact Only.refl _ _
    | assumption
    | simp (disch := decide) only [Only.op_iff (only_acquireBobbin _ _ _ _), Only.op_iff (only_emit _ _),
        Only.op_iff (only_setPart _ _ _), Only.refl, Only.ite_iff, implies_true, and_self, and_true, true_and]
    | refine Only.foldl _ (fun _ _ => ?_) _ ?_
    | refine And.intro ?_ ?_
    | intro _
    | split

theorem only_poolGroup : ∀ a0 a1 a2, Only [.draws, .out, .parts] a0 (poolGroup a0 a1 a2) := by
  intro a0 a1 a2
  unfold poolGroup
  repeat' first
    | with_reducible exact Only.refl _ _
    | assumption
    | simp (disch := decide) only [Only.op_iff (only_emit _ _), Only.op_iff (only_groupAcquire _ _ _), Only.refl,
        Only.ite_iff, implies_true, and_self, and_true, true_and]
    | refine Only.foldl _ (fun _ _ => ?_) _ ?_
    | refine And.intro ?_ ?_
    | intro _
    | split

theorem only_replyStatus : ∀ n (r : State × Status), Only [.out] r.1 (replyStatus n r) := by
  intro n r
  unfold replyStatus
  exact only_emit _ _

theorem only_writeWaiting : ∀ a0 a1, Only [.draws, .out, .orings, .hif] a0 (writeWaiting a0 a1) := by
  intro a0 a1
  unfold writeWaiting
  repeat' first
    | with_reducible exact Only.refl _ _
    | assumption
    | simp (disch := decide) only [Only.op_iff (only_putRecord _ _ _), Only.op_iff (only_setOring _ _ _), Only.refl,
        Only.ite_iff, implies_true, and_self, and_true, true_and]
    | refine Only.foldl _ (fun _ _ => ?_) _ ?_
    | refine And.intro ?_ ?_
    | intro _
    | split

theorem only_stageFw : ∀ a0, Only [.out, .mailboxes, .running, .belfry, .hif] a0 (stageFw a0) := by
  intro a0
  unfold stageFw
  repeat' first
    | with_reducible exact Only.refl _ _
    | assumption
    | simp (disch := decide) only [Only.op_iff (only_blfReply _ _ _), onRequest, Only.op_iff (only_setBelfry _ _),
        Only.refl, Only.ite_iff, implies_true, and_self, and_true, true_and]
    | refine Only.foldl _ (fun _ _ => ?_) _ ?_
    | refine And.intro ?_ ?_
    | intro _
    | split

theorem only_stageParam : ∀ a0, Only [.out, .mailboxes, .running, .belfry, .hif] a0 (stageParam a0) := by
  intro a0
  unfold stageParam
  repeat' first
    | with_reducible exact Only.refl _ _
    | assumption
    | simp (disch := decide) only [Only.op_iff (only_blfReply _ _ _), onRequest, Only.op_iff (only_setBelfry _ _),
        Only.refl, Only.ite_iff, implies_true, and_self, and_true, true_and]
    | refine Only.foldl _ (fun _ _ => ?_) _ ?_
    | refine And.intro ?_ ?_
    | intro _
    | split

theorem only_tamperSample : ∀ a0 a1, Only [.belfry] a0 (tamperSample a0 a1) := by
  intro a0 a1
  unfold tamperSample
  repeat' first
    | with_reducible exact Only.refl _ _
    | assumption
    | simp (disch := decide) only [Only.op_iff (only_putBelfry _ _), Only.op_iff (only_setBelfry _ _), Only.refl,
        Only.ite_iff, implies_true, and_self, and_true, true_and]
    | refine Only.foldl _ (fun _ _ => ?_) _ ?_
    | refine And.intro ?_ ?_
    | intro _
    | split

theorem only_triggerPair : ∀ a0, Only [.out, .belfry] a0 (triggerPair a0) := by
  intro a0
  unfold triggerPair
  repeat' first
    | with_reducible exact Only.refl _ _
    | assumption
    | simp (disch := decide) only [Only.op_iff (only_emit _ _), Only.op_iff (only_setBelfry _ _), Only.refl,
        Only.ite_iff, implies_true, and_self, and_true, true_and]
    | refine Only.foldl _ (fun _ _ => ?_) _ ?_
    | refine And.intro ?_ ?_
    | intro _
    | split

theorem only_vblfFalling : ∀ a0, Only [.out, .belfry] a0 (vblfFalling a0) := by
  intro a0
  unfold vblfFalling
  repeat' first
    | with_reducible exact Only.refl _ _
    | assumption
    | simp (disch := decide) only [Only.op_iff (only_closePartial _), Only.op_iff (only_putBelfry _ _), Only.op_iff
        (only_setBelfry _ _), Only.refl, Only.ite_iff, implies_true, and_self, and_true, true_and]
    | refine Only.foldl _ (fun _ _ => ?_) _ ?_
    | refine And.intro ?_ ?_
    | intro _
    | split

theorem only_vblfInRange : ∀ a0, Only [.draws, .out, .belfry] a0 (vblfInRange a0) := by
  intro a0
  unfold vblfInRange
  repeat' first
    | with_reducible exact Only.refl _ _
    | assumption
    | simp (disch := decide) only [Only.op_iff (only_blfProvision _), Only.op_iff (only_kernelStart _ _),
        Only.op_iff (only_putBelfry _ _), Only.refl, Only.ite_iff, implies_true, and_self, and_true, true_and]
    | refine Only.foldl _ (fun _ _ => ?_) _ ?_
    | refine And.intro ?_ ?_
    | intro _
    | split

theorem only_workItemStart : ∀ a0 a1, Only [.out, .prepUnits, .workItems, .hif] a0 (workItemStart a0 a1) := by
  intro a0 a1
  unfold workItemStart
  repeat' first
    | with_reducible exact Only.refl _ _
    | assumption
    | simp (disch := decide) only [Only.op_iff (only_issueRead _ _ _ _ _), Only.op_iff (only_setPrepUnit _ _ _),
        Only.op_iff (only_with_workItems _ _), Only.refl, Only.ite_iff, implies_true, and_self, and_true, true_and]
    | refine Only.foldl _ (fun _ _ => ?_) _ ?_
    | refine And.intro ?_ ?_
    | intro _
    | split

end Sys2Proof
end

