-- ==== Sys2Proof/Laws/FrameSkein.lean ====
section
/-! SUPPORT. The parts of the state that an operation can change, one lemma an operation: the skein and the end of a partition. -/

set_option linter.unusedSimpArgs false
set_option linter.unusedTactic false
set_option linter.unreachableTactic false

namespace Sys2Proof

open Machine

theorem only_abortRelays : ∀ a0 a1, Only [.out, .mailboxes, .running, .skein, .hif] a0 (abortRelays a0 a1) := by
  intro a0 a1
  unfold abortRelays
  repeat' first
    | with_reducible exact Only.refl _ _
    | assumption
    | simp (disch := decide) only [Only.op_iff (only_complete _ _ _ _), Only.op_iff (only_setSkein _ _), Only.refl,
        Only.ite_iff, implies_true, and_self, and_true, true_and]
    | refine Only.foldl _ (fun _ _ => ?_) _ ?_
    | refine And.intro ?_ ?_
    | intro _
    | split

theorem only_dropBarriers : ∀ a0 a1, Only [.skein] a0 (dropBarriers a0 a1) := by
  intro a0 a1
  unfold dropBarriers
  repeat' first
    | with_reducible exact Only.refl _ _
    | assumption
    | simp (disch := decide) only [Only.op_iff (only_setSkein _ _), Only.refl, Only.ite_iff, implies_true, and_self,
        and_true, true_and]
    | refine Only.foldl _ (fun _ _ => ?_) _ ?_
    | refine And.intro ?_ ?_
    | intro _
    | split

theorem only_endSkeinJobs : ∀ a0, Only [.out, .jobs, .mailboxes, .running, .hif] a0 (endSkeinJobs a0) := by
  intro a0
  unfold endSkeinJobs
  repeat' first
    | with_reducible exact Only.refl _ _
    | assumption
    | simp (disch := decide) only [Only.op_iff (only_endJobWith _ _ _ _ _ _), Only.refl, Only.ite_iff, implies_true,
        and_self, and_true, true_and]
    | refine Only.foldl _ (fun _ _ => ?_) _ ?_
    | refine And.intro ?_ ?_
    | intro _
    | split

theorem only_actOnLoss : ∀ a0 a1, Only [.out, .parts, .jobs, .mailboxes, .running, .skein, .hif] a0 (actOnLoss a0
    a1) := by
  intro a0 a1
  unfold actOnLoss
  repeat' first
    | with_reducible exact Only.refl _ _
    | assumption
    | simp (disch := decide) only [Only.op_iff (only_dropBarriers _ _), Only.op_iff (only_endSkeinJobs _),
        Only.op_iff (only_setSkein _ _), Only.op_iff (only_with_parts _ _), Only.refl, Only.ite_iff, implies_true,
        and_self, and_true, true_and]
    | refine Only.foldl _ (fun _ _ => ?_) _ ?_
    | refine And.intro ?_ ?_
    | intro _
    | split

theorem onlyIf_addPool : ∀ a0 a1, OnlyIf [.skein] a0 (addPool a0 a1) := by
  intro a0 a1
  unfold addPool
  repeat' first
    | with_reducible exact Only.refl _ _
    | assumption
    | simp (disch := decide) only [OnlyIf.none_iff, OnlyIf.some_iff, OnlyIf.ite_iff, Only.op_iff (only_setSkein _
        _), Only.refl, Only.ite_iff, implies_true, and_self, and_true, true_and]
    | refine Only.foldl _ (fun _ _ => ?_) _ ?_
    | refine And.intro ?_ ?_
    | intro _
    | split

theorem only_addPool : ∀ a0 a1 t, addPool a0 a1 = some t → Only [.skein] a0 t :=
  fun _ _ _ h => (onlyIf_addPool _ _).of_eq h

theorem only_addOwnPool : ∀ s own p t, addOwnPool s own p = some t → Only [.skein] s t := by
  intro s own p t h
  unfold addOwnPool at h
  split at h
  · exact only_addPool _ _ _ h
  · cases h; exact Only.refl _ _

theorem only_wireFlit : ∀ a0 a1 a2, Only [.out, .skein] a0 (wireFlit a0 a1 a2) := by
  intro a0 a1 a2
  unfold wireFlit
  repeat' first
    | with_reducible exact Only.refl _ _
    | assumption
    | simp (disch := decide) only [Only.op_iff (only_emit _ _), Only.op_iff (only_setLinkPort _ _ _), Only.refl,
        Only.ite_iff, implies_true, and_self, and_true, true_and]
    | refine Only.foldl _ (fun _ _ => ?_) _ ?_
    | refine And.intro ?_ ?_
    | intro _
    | split

theorem only_sendOne : ∀ a0 a1, Only [.out, .skein] a0 (sendOne a0 a1) := by
  intro a0 a1
  unfold sendOne
  repeat' first
    | with_reducible exact Only.refl _ _
    | assumption
    | simp (disch := decide) only [Only.op_iff (only_setLinkPort _ _ _), Only.op_iff (only_wireFlit _ _ _),
        Only.refl, Only.ite_iff, implies_true, and_self, and_true, true_and]
    | refine Only.foldl _ (fun _ _ => ?_) _ ?_
    | refine And.intro ?_ ?_
    | intro _
    | split

theorem only_pump : ∀ a0 a1 a2, Only [.out, .skein] a2 (pump a0 a1 a2) := by
  intro a0 n
  induction n with
  | zero => intro a2; exact Only.refl _ _
  | succ n ih =>
    intro a2
    unfold pump
    repeat' first
      | with_reducible exact Only.refl _ _
      | assumption
      | simp (disch := decide) only [Only.op_iff (ih _), Only.op_iff (only_sendOne _ _), Only.refl, Only.ite_iff,
          implies_true, and_self, and_true, true_and]
      | refine Only.foldl _ (fun _ _ => ?_) _ ?_
      | refine And.intro ?_ ?_
      | intro _
      | split

theorem only_pumpPort : ∀ a0 a1, Only [.out, .skein] a0 (pumpPort a0 a1) := by
  intro a0 a1
  unfold pumpPort
  repeat' first
    | with_reducible exact Only.refl _ _
    | assumption
    | simp (disch := decide) only [Only.op_iff (only_pump _ _ _), Only.refl, Only.ite_iff, implies_true, and_self,
        and_true, true_and]
    | refine Only.foldl _ (fun _ _ => ?_) _ ?_
    | refine And.intro ?_ ?_
    | intro _
    | split

theorem only_enqueueMessage : ∀ a0 a1 a2 a3, Only [.draws, .out, .skein] a0 (enqueueMessage a0 a1 a2 a3) := by
  intro a0 a1 a2 a3
  unfold enqueueMessage
  repeat' first
    | with_reducible exact Only.refl _ _
    | assumption
    | simp (disch := decide) only [Only.op_iff (only_pumpPort _ _), Only.op_iff (only_setLinkPort _ _ _),
        Only.op_iff (only_with_draws _ _), Only.refl, Only.ite_iff, implies_true, and_self, and_true, true_and]
    | refine Only.foldl _ (fun _ _ => ?_) _ ?_
    | refine And.intro ?_ ?_
    | intro _
    | split

theorem only_sendControl : ∀ a0 a1 a2 a3 a4 a5, Only [.draws, .out, .skein] a0 (sendControl a0 a1 a2 a3 a4 a5) := by
  intro a0 a1 a2 a3 a4 a5
  unfold sendControl
  repeat' first
    | with_reducible exact Only.refl _ _
    | assumption
    | simp (disch := decide) only [Only.op_iff (only_emit _ _), Only.op_iff (only_enqueueMessage _ _ _ _),
        Only.refl, Only.ite_iff, implies_true, and_self, and_true, true_and]
    | refine Only.foldl _ (fun _ _ => ?_) _ ?_
    | refine And.intro ?_ ?_
    | intro _
    | split

theorem only_toStandalone : ∀ a0, Only [.parts, .skein] a0 (toStandalone a0) := by
  intro a0
  unfold toStandalone
  repeat' first
    | with_reducible exact Only.refl _ _
    | assumption
    | simp (disch := decide) only [Only.op_iff (only_setSkein _ _), Only.op_iff (only_with_parts _ _), Only.refl,
        Only.ite_iff, implies_true, and_self, and_true, true_and]
    | refine Only.foldl _ (fun _ _ => ?_) _ ?_
    | refine And.intro ?_ ?_
    | intro _
    | split

theorem only_formationFails : ∀ a0 a1 a2, Only [.draws, .out, .parts, .mailboxes, .running, .skein, .hif] a0
    (formationFails a0 a1 a2) := by
  intro a0 a1 a2
  unfold formationFails
  repeat' first
    | with_reducible exact Only.refl _ _
    | assumption
    | simp (disch := decide) only [Only.op_iff (only_complete _ _ _ _), Only.op_iff (only_sendControl _ _ _ _ _ _),
        Only.op_iff (only_toStandalone _), Only.refl, Only.ite_iff, implies_true, and_self, and_true, true_and]
    | refine Only.foldl _ (fun _ _ => ?_) _ ?_
    | refine And.intro ?_ ?_
    | intro _
    | split

theorem only_sendAdmit : ∀ a0 a1, Only [.draws, .out, .skein] a0 (sendAdmit a0 a1) := by
  intro a0 a1
  unfold sendAdmit
  repeat' first
    | with_reducible exact Only.refl _ _
    | assumption
    | simp (disch := decide) only [Only.op_iff (only_sendControl _ _ _ _ _ _), Only.refl, Only.ite_iff,
        implies_true, and_self, and_true, true_and]
    | refine Only.foldl _ (fun _ _ => ?_) _ ?_
    | refine And.intro ?_ ?_
    | intro _
    | split

theorem only_admitReply : ∀ a0 a1 a2, Only [.draws, .out, .parts, .mailboxes, .running, .skein, .hif] a0 (admitReply
    a0 a1 a2) := by
  intro a0 a1 a2
  unfold admitReply
  repeat' first
    | with_reducible exact Only.refl _ _
    | assumption
    | simp (disch := decide) only [Only.op_iff (only_complete _ _ _ _), Only.op_iff (only_formationFails _ _ _),
        Only.op_iff (only_sendAdmit _ _), Only.op_iff (only_setSkein _ _), Only.refl, Only.ite_iff, implies_true,
        and_self, and_true, true_and]
    | refine Only.foldl _ (fun _ _ => ?_) _ ?_
    | refine And.intro ?_ ?_
    | intro _
    | split

theorem only_skeinRelease : ∀ a0 a1, Only [.spindles, .spires, .jobs] a0 (skeinRelease a0 a1) := by
  intro a0 a1
  unfold skeinRelease
  repeat' first
    | with_reducible exact Only.refl _ _
    | assumption
    | simp (disch := decide) only [Only.op_iff (only_closeBarrier _ _ _ _ _), Only.op_iff (only_resumeWaiter _ _ _),
        Only.refl, Only.ite_iff, implies_true, and_self, and_true, true_and]
    | refine Only.foldl _ (fun _ _ => ?_) _ ?_
    | refine And.intro ?_ ?_
    | intro _
    | split

theorem only_arriveAt : ∀ a0 a1 a2, Only [.draws, .out, .spindles, .spires, .jobs, .skein] a0 (arriveAt a0 a1 a2) :=
    by
  intro a0 a1 a2
  unfold arriveAt
  repeat' first
    | with_reducible exact Only.refl _ _
    | assumption
    | simp (disch := decide) only [Only.op_iff (only_sendControl _ _ _ _ _ _), Only.op_iff (only_setSkein _ _),
        Only.op_iff (only_skeinRelease _ _), Only.refl, Only.ite_iff, implies_true, and_self, and_true, true_and]
    | refine Only.foldl _ (fun _ _ => ?_) _ ?_
    | refine And.intro ?_ ?_
    | intro _
    | split

theorem only_removePart : ∀ a0 a1, Only [.out, .spires, .parts, .mailboxes, .running, .orings, .skein, .sec, .hif]
    a0 (removePart a0 a1) := by
  intro a0 a1
  unfold removePart
  repeat' first
    | with_reducible exact Only.refl _ _
    | assumption
    | simp (disch := decide) only [Only.op_iff (only_dropBarriers _ _), Only.op_iff (only_endReads _ _), Only.op_iff
        (only_setSec _ _), Only.op_iff (only_setSkein _ _), Only.op_iff (only_with_orings _ _), Only.op_iff
        (only_with_spires_parts_mailboxes_running _ _ _ _ _), Only.refl, Only.ite_iff, implies_true, and_self,
        and_true, true_and]
    | refine Only.foldl _ (fun _ _ => ?_) _ ?_
    | refine And.intro ?_ ?_
    | intro _
    | split

theorem only_tryFinishDelete : ∀ a0 a1, Only [.out, .spires, .parts, .mailboxes, .running, .orings, .skein, .sec,
    .hif] a0 (tryFinishDelete a0 a1) := by
  intro a0 a1
  unfold tryFinishDelete
  repeat' first
    | with_reducible exact Only.refl _ _
    | assumption
    | simp (disch := decide) only [Only.op_iff (only_completeWaiting _ _ _ _ _), Only.op_iff (only_removePart _ _),
        Only.refl, Only.ite_iff, implies_true, and_self, and_true, true_and]
    | refine Only.foldl _ (fun _ _ => ?_) _ ?_
    | refine And.intro ?_ ?_
    | intro _
    | split

theorem only_cmdSkeinBarrier : ∀ a0 a1, Only [.out, .mailboxes, .running, .skein, .hif] a0 (cmdSkeinBarrier a0 a1)
    := by
  intro a0 a1
  unfold cmdSkeinBarrier
  repeat' first
    | with_reducible exact Only.refl _ _
    | assumption
    | simp (disch := decide) only [command, Only.op_iff (only_complete _ _ _ _), Only.op_iff (only_setSkein _ _),
        onCommand, Only.refl, Only.ite_iff, implies_true, and_self, and_true, true_and]
    | refine Only.foldl _ (fun _ _ => ?_) _ ?_
    | refine And.intro ?_ ?_
    | intro _
    | split

theorem only_cmdSkeinDissolve : ∀ a0 a1 a2, Only [.draws, .out, .parts, .mailboxes, .running, .skein, .hif] a0
    (cmdSkeinDissolve a0 a1 a2) := by
  intro a0 a1 a2
  unfold cmdSkeinDissolve
  repeat' first
    | with_reducible exact Only.refl _ _
    | assumption
    | simp (disch := decide) only [command, Only.op_iff (only_complete _ _ _ _), Only.op_iff (only_sendControl _ _ _
        _ _ _), Only.op_iff (only_toStandalone _), onCommand, Only.refl, Only.ite_iff, implies_true, and_self,
        and_true, true_and]
    | refine Only.foldl _ (fun _ _ => ?_) _ ?_
    | refine And.intro ?_ ?_
    | intro _
    | split

theorem only_raiseLinkDown : ∀ a0 a1 a2 a3, Only [.out, .mailboxes, .hif] a0 (raiseLinkDown a0 a1 a2 a3) := by
  intro a0 a1 a2 a3
  unfold raiseLinkDown
  repeat' first
    | with_reducible exact Only.refl _ _
    | assumption
    | simp (disch := decide) only [Only.op_iff (only_raiseEvent _ _ _ _), Only.refl, Only.ite_iff, implies_true,
        and_self, and_true, true_and]
    | refine Only.foldl _ (fun _ _ => ?_) _ ?_
    | refine And.intro ?_ ?_
    | intro _
    | split

theorem only_loseWorker : ∀ a0 a1 a2, Only [.draws, .out, .parts, .jobs, .mailboxes, .running, .skein, .hif] a0
    (loseWorker a0 a1 a2) := by
  intro a0 a1 a2
  unfold loseWorker
  repeat' first
    | with_reducible exact Only.refl _ _
    | assumption
    | simp (disch := decide) only [Only.op_iff (only_abortRelays _ _), Only.op_iff (only_actOnLoss _ _), Only.op_iff
        (only_raiseLinkDown _ _ _ _), Only.op_iff (only_sendControl _ _ _ _ _ _), Only.op_iff (only_setSkein _ _),
        Only.refl, Only.ite_iff, implies_true, and_self, and_true, true_and]
    | refine Only.foldl _ (fun _ _ => ?_) _ ?_
    | refine And.intro ?_ ?_
    | intro _
    | split

theorem only_cmdSkeinExclude : ∀ a0 a1, Only [.draws, .out, .parts, .jobs, .mailboxes, .running, .skein, .hif] a0
    (cmdSkeinExclude a0 a1) := by
  intro a0 a1
  unfold cmdSkeinExclude
  repeat' first
    | with_reducible exact Only.refl _ _
    | assumption
    | simp (disch := decide) only [command, Only.op_iff (only_complete _ _ _ _), Only.op_iff (only_loseWorker _ _
        _), onCommand, Only.refl, Only.ite_iff, implies_true, and_self, and_true, true_and]
    | refine Only.foldl _ (fun _ _ => ?_) _ ?_
    | refine And.intro ?_ ?_
    | intro _
    | split

theorem only_cmdSkeinForm : ∀ a0 a1 a2, Only [.draws, .out, .mailboxes, .running, .skein, .hif] a0 (cmdSkeinForm a0
    a1 a2) := by
  intro a0 a1 a2
  unfold cmdSkeinForm
  repeat' first
    | with_reducible exact Only.refl _ _
    | assumption
    | simp (disch := decide) only [command, Only.op_iff (only_complete _ _ _ _), Only.op_iff (only_deferCompletion _
        _), Only.op_iff (only_sendAdmit _ _), Only.op_iff (only_setSkein _ _), withHost, Only.op_iff (only_endReads _
        _), Only.op_iff (only_raiseHostTimeout _ _ _ _), onCommand, Only.refl, Only.ite_iff, implies_true, and_self,
        and_true, true_and]
    | refine Only.foldl _ (fun _ _ => ?_) _ ?_
    | refine And.intro ?_ ?_
    | intro _
    | split

theorem only_cmdSkeinPlace : ∀ a0 a1, Only [.out, .parts, .mailboxes, .running, .hif] a0 (cmdSkeinPlace a0 a1) := by
  intro a0 a1
  unfold cmdSkeinPlace
  repeat' first
    | with_reducible exact Only.refl _ _
    | assumption
    | simp (disch := decide) only [command, Only.op_iff (only_complete _ _ _ _), Only.op_iff (only_setPart _ _ _),
        onCommand, Only.refl, Only.ite_iff, implies_true, and_self, and_true, true_and]
    | refine Only.foldl _ (fun _ _ => ?_) _ ?_
    | refine And.intro ?_ ?_
    | intro _
    | split

theorem only_loseManager : ∀ a0, Only [.out, .parts, .jobs, .mailboxes, .running, .skein, .hif] a0 (loseManager a0)
    := by
  intro a0
  unfold loseManager
  repeat' first
    | with_reducible exact Only.refl _ _
    | assumption
    | simp (disch := decide) only [Only.op_iff (only_endSkeinJobs _), Only.op_iff (only_raiseLinkDown _ _ _ _),
        Only.op_iff (only_toStandalone _), Only.refl, Only.ite_iff, implies_true, and_self, and_true, true_and]
    | refine Only.foldl _ (fun _ _ => ?_) _ ?_
    | refine And.intro ?_ ?_
    | intro _
    | split

theorem only_portGoesDown : ∀ a0 a1 a2, Only [.draws, .out, .parts, .jobs, .mailboxes, .running, .skein, .hif,
    .boot] a0 (portGoesDown a0 a1 a2) := by
  intro a0 a1 a2
  unfold portGoesDown
  repeat' first
    | with_reducible exact Only.refl _ _
    | assumption
    | simp (disch := decide) only [Only.op_iff (only_loseManager _), Only.op_iff (only_loseWorker _ _ _),
        Only.op_iff (only_raiseLinkDown _ _ _ _), Only.op_iff (only_setLife _ _), Only.op_iff (only_setLinkPort _ _
        _), Only.refl, Only.ite_iff, implies_true, and_self, and_true, true_and]
    | refine Only.foldl _ (fun _ _ => ?_) _ ?_
    | refine And.intro ?_ ?_
    | intro _
    | split

theorem only_cmdSkeinPort : ∀ a0 a1, Only [.draws, .out, .parts, .jobs, .mailboxes, .running, .skein, .hif, .boot]
    a0 (cmdSkeinPort a0 a1) := by
  intro a0 a1
  unfold cmdSkeinPort
  repeat' first
    | with_reducible exact Only.refl _ _
    | assumption
    | simp (disch := decide) only [command, Only.op_iff (only_complete _ _ _ _), Only.op_iff (only_portGoesDown _ _
        _), Only.op_iff (only_setLinkPort _ _ _), onCommand, Only.refl, Only.ite_iff, implies_true, and_self,
        and_true, true_and]
    | refine Only.foldl _ (fun _ _ => ?_) _ ?_
    | refine And.intro ?_ ?_
    | intro _
    | split

theorem only_sendGrants : ∀ a0 a1 a2 a3, Only [.draws, .out, .skein] a0 (sendGrants a0 a1 a2 a3) := by
  intro a0 a1 a2 a3
  unfold sendGrants
  repeat' first
    | with_reducible exact Only.refl _ _
    | assumption
    | simp (disch := decide) only [Only.op_iff (only_sendControl _ _ _ _ _ _), Only.refl, Only.ite_iff,
        implies_true, and_self, and_true, true_and]
    | refine Only.foldl _ (fun _ _ => ?_) _ ?_
    | refine And.intro ?_ ?_
    | intro _
    | split

theorem only_setQueue : ∀ a0 a1 a2 a3, Only [.parts] a0 (setQueue a0 a1 a2 a3) := by
  intro a0 a1 a2 a3
  unfold setQueue
  repeat' first
    | with_reducible exact Only.refl _ _
    | assumption
    | simp (disch := decide) only [Only.op_iff (only_modPart _ _ _), Only.refl, Only.ite_iff, implies_true,
        and_self, and_true, true_and]
    | refine Only.foldl _ (fun _ _ => ?_) _ ?_
    | refine And.intro ?_ ?_
    | intro _
    | split

theorem only_cmdSkeinQueue : ∀ a0 a1, Only [.draws, .out, .parts, .mailboxes, .running, .skein, .hif] a0
    (cmdSkeinQueue a0 a1) := by
  intro a0 a1
  unfold cmdSkeinQueue
  repeat' first
    | with_reducible exact Only.refl _ _
    | assumption
    | simp (disch := decide) only [command, Only.op_iff (only_complete _ _ _ _), Only.op_iff (only_deferCompletion _
        _), Only.op_iff (only_sendGrants _ _ _ _), Only.op_iff (only_setPart _ _ _), Only.op_iff (only_setQueue _ _ _
        _), onCommand, Only.refl, Only.ite_iff, implies_true, and_self, and_true, true_and]
    | refine Only.step ?_ (only_addOwnPool _ _ _ _ (by assumption)) (by decide)
    | refine Only.foldl _ (fun _ _ => ?_) _ ?_
    | refine And.intro ?_ ?_
    | intro _
    | split

theorem only_cmdSkeinRelay : ∀ a0 a1 a2, Only [.draws, .out, .mailboxes, .running, .skein, .hif] a0 (cmdSkeinRelay
    a0 a1 a2) := by
  intro a0 a1 a2
  unfold cmdSkeinRelay
  repeat' first
    | with_reducible exact Only.refl _ _
    | assumption
    | simp (disch := decide) only [command, Only.op_iff (only_complete _ _ _ _), Only.op_iff (only_deferCompletion _
        _), Only.op_iff (only_sendControl _ _ _ _ _ _), Only.op_iff (only_setSkein _ _), withHost, Only.op_iff
        (only_endReads _ _), Only.op_iff (only_raiseHostTimeout _ _ _ _), onCommand, Only.refl, Only.ite_iff,
        implies_true, and_self, and_true, true_and]
    | refine Only.foldl _ (fun _ _ => ?_) _ ?_
    | refine And.intro ?_ ?_
    | intro _
    | split

theorem only_completeQueue : ∀ a0 a1 a2 a3, Only [.out, .mailboxes, .running, .hif] a0 (completeQueue a0 a1 a2 a3)
    := by
  intro a0 a1 a2 a3
  unfold completeQueue
  repeat' first
    | with_reducible exact Only.refl _ _
    | assumption
    | simp (disch := decide) only [Only.op_iff (only_completeWaiting _ _ _ _ _), Only.refl, Only.ite_iff,
        implies_true, and_self, and_true, true_and]
    | refine Only.foldl _ (fun _ _ => ?_) _ ?_
    | refine And.intro ?_ ?_
    | intro _
    | split

theorem only_creditGrant : ∀ a0 a1, Only [.draws, .out, .skein] a0 (creditGrant a0 a1) := by
  intro a0 a1
  unfold creditGrant
  repeat' first
    | with_reducible exact Only.refl _ _
    | assumption
    | simp (disch := decide) only [Only.op_iff (only_sendControl _ _ _ _ _ _), Only.refl, Only.ite_iff,
        implies_true, and_self, and_true, true_and]
    | refine Only.step ?_ (only_addPool _ _ _ (by assumption)) (by decide)
    | refine Only.foldl _ (fun _ _ => ?_) _ ?_
    | refine And.intro ?_ ?_
    | intro _
    | split

theorem only_creditGrantAck : ∀ a0 a1 a2 a3 a4, Only [.draws, .out, .parts, .mailboxes, .running, .skein, .hif] a0
    (creditGrantAck a0 a1 a2 a3 a4) := by
  intro a0 a1 a2 a3 a4
  unfold creditGrantAck
  repeat' first
    | with_reducible exact Only.refl _ _
    | assumption
    | simp (disch := decide) only [Only.op_iff (only_completeQueue _ _ _ _), Only.op_iff (only_sendControl _ _ _ _ _
        _), Only.op_iff (only_setPart _ _ _), Only.op_iff (only_setQueue _ _ _ _), Only.op_iff (only_setSkein _ _),
        Only.refl, Only.ite_iff, implies_true, and_self, and_true, true_and]
    | refine Only.foldl _ (fun _ _ => ?_) _ ?_
    | refine And.intro ?_ ?_
    | intro _
    | split

theorem only_endSenders : ∀ a0 a1 a2 a3, Only [.out, .jobs, .mailboxes, .running, .hif] a0 (endSenders a0 a1 a2 a3)
    := by
  intro a0 a1 a2 a3
  unfold endSenders
  repeat' first
    | with_reducible exact Only.refl _ _
    | assumption
    | simp (disch := decide) only [Only.op_iff (only_jobError _ _ _), Only.refl, Only.ite_iff, implies_true,
        and_self, and_true, true_and]
    | refine Only.foldl _ (fun _ _ => ?_) _ ?_
    | refine And.intro ?_ ?_
    | intro _
    | split

theorem only_freeEntry : ∀ a0 a1 a2 a3, Only [.out, .spindles, .spires, .jobs, .mailboxes, .running, .hif] a0
    (freeEntry a0 a1 a2 a3) := by
  intro a0 a1 a2 a3
  unfold freeEntry
  repeat' first
    | with_reducible exact Only.refl _ _
    | assumption
    | simp (disch := decide) only [Only.op_iff (only_endSenders _ _ _ _), Only.refl, Only.ite_iff, implies_true,
        and_self, and_true, true_and]
    | refine Only.step ?_ (only_releaseUnits _ _ _ _ _ _ (by assumption)) (by decide)
    | refine Only.foldl _ (fun _ _ => ?_) _ ?_
    | refine And.intro ?_ ?_
    | intro _
    | split

theorem only_launchEntry : ∀ a0 a1 a2 a3 a4 a5 a6, Only [.draws, .out, .parts, .skein] a0 (launchEntry a0 a1 a2 a3
    a4 a5 a6) := by
  intro a0 a1 a2 a3 a4 a5 a6
  unfold launchEntry
  repeat' first
    | with_reducible exact Only.refl _ _
    | assumption
    | simp (disch := decide) only [Only.op_iff (only_emit _ _), Only.op_iff (only_enqueueMessage _ _ _ _),
        Only.op_iff (only_setPart _ _ _), Only.op_iff (only_setSkein _ _), Only.refl, Only.ite_iff, implies_true,
        and_self, and_true, true_and]
    | refine Only.foldl _ (fun _ _ => ?_) _ ?_
    | refine And.intro ?_ ?_
    | intro _
    | split

theorem onlyIf_sendHead : ∀ a0 a1 a2 a3 a4, OnlyIf [.draws, .out, .spindles, .spires, .channels, .parts, .jobs,
    .mailboxes, .running, .skein, .hif, .boot] a0 (sendHead a0 a1 a2 a3 a4) := by
  intro a0 a1 a2 a3 a4
  unfold sendHead
  split
  · simp (disch := decide) only [OnlyIf.some_iff, Only.op_iff (only_endSenders _ _ _ _),
      Only.op_iff (only_setQueue _ _ _ _), Only.refl]
  · split
    · exact OnlyIf.none_iff.mpr trivial
    · rw [OnlyIf.ite_iff, OnlyIf.ite_iff, OnlyIf.ite_iff]
      refine ⟨fun _ => ?_, fun _ => ⟨fun _ => OnlyIf.none_iff.mpr trivial, fun _ => ⟨fun _ => ?_, fun _ => ?_⟩⟩⟩
      · simp (disch := decide) only [OnlyIf.some_iff, Only.op_iff (only_endSenders _ _ _ _),
          Only.op_iff (only_setQueue _ _ _ _), Only.refl]
      · simp (disch := decide) only [OnlyIf.some_iff, Only.op_iff (only_dramUncorrectable _ _ _ _ _),
          Only.op_iff (only_endSenders _ _ _ _), Only.op_iff (only_setQueue _ _ _ _), Only.refl]
      · simp (disch := decide) only [OnlyIf.some_iff, Only.op_iff (only_freeEntry _ _ _ _),
          Only.op_iff (only_launchEntry _ _ _ _ _ _ _), Only.refl]

theorem only_sendNext : ∀ a0 a1 a2, Only [.draws, .out, .spindles, .spires, .channels, .parts, .jobs, .mailboxes,
    .running, .skein, .hif, .boot] a0 (sendNext a0 a1 a2) := by
  intro a0 a1 a2
  unfold sendNext
  split
  · exact Only.refl _ _
  · split
    · exact Only.refl _ _
    · split
      · exact Only.refl _ _
      · exact OnlyIf.getD (onlyIf_sendHead _ _ _ _ _)

theorem only_sendAll : ∀ a0 a1 a2 a3, Only [.draws, .out, .spindles, .spires, .channels, .parts, .jobs, .mailboxes,
    .running, .skein, .hif, .boot] a3 (sendAll a0 a1 a2 a3) := by
  intro a0 a1 n
  induction n with
  | zero => intro s; exact Only.refl _ _
  | succ n ih => intro s; exact Only.trans (only_sendNext s a0 a1) (ih _)

theorem only_creditReturn : ∀ a0 a1 a2 a3 a4 a5 a6, Only [.draws, .out, .spindles, .spires, .channels, .parts,
    .jobs, .mailboxes, .running, .skein, .hif, .boot] a0 (creditReturn a0 a1 a2 a3 a4 a5 a6) := by
  intro a0 a1 a2 a3 a4 a5 a6
  unfold creditReturn
  repeat' first
    | with_reducible exact Only.refl _ _
    | assumption
    | simp (disch := decide) only [Only.op_iff (only_sendAll _ _ _ _), Only.op_iff (only_setPart _ _ _), Only.op_iff
        (only_setSkein _ _), Only.refl, Only.ite_iff, implies_true, and_self, and_true, true_and]
    | refine Only.foldl _ (fun _ _ => ?_) _ ?_
    | refine And.intro ?_ ?_
    | intro _
    | split

theorem only_giveCredit : ∀ a0 a1 a2 a3 a4 a5 a6, Only [.draws, .out, .spindles, .spires, .channels, .parts, .jobs,
    .mailboxes, .running, .skein, .hif, .boot] a0 (giveCredit a0 a1 a2 a3 a4 a5 a6) := by
  intro a0 a1 a2 a3 a4 a5 a6
  unfold giveCredit
  repeat' first
    | with_reducible exact Only.refl _ _
    | assumption
    | simp (disch := decide) only [Only.op_iff (only_creditReturn _ _ _ _ _ _ _), Only.op_iff (only_sendControl _ _
        _ _ _ _), Only.refl, Only.ite_iff, implies_true, and_self, and_true, true_and]
    | refine Only.foldl _ (fun _ _ => ?_) _ ?_
    | refine And.intro ?_ ?_
    | intro _
    | split

theorem only_discardMessage : ∀ a0 a1 a2 a3 a4, Only [.draws, .out, .spindles, .spires, .channels, .parts, .jobs,
    .mailboxes, .running, .skein, .hif, .boot] a0 (discardMessage a0 a1 a2 a3 a4) := by
  intro a0 a1 a2 a3 a4
  unfold discardMessage
  repeat' first
    | with_reducible exact Only.refl _ _
    | assumption
    | simp (disch := decide) only [Only.op_iff (only_giveCredit _ _ _ _ _ _ _), Only.op_iff (only_setJob _ _ _),
        Only.op_iff (only_setPart _ _ _), Only.refl, Only.ite_iff, implies_true, and_self, and_true, true_and]
    | refine Only.foldl _ (fun _ _ => ?_) _ ?_
    | refine And.intro ?_ ?_
    | intro _
    | split

theorem only_dissolveNotice : ∀ a0, Only [.parts, .skein] a0 (dissolveNotice a0) := by
  intro a0
  unfold dissolveNotice
  repeat' first
    | with_reducible exact Only.refl _ _
    | assumption
    | simp (disch := decide) only [Only.op_iff (only_toStandalone _), Only.refl, Only.ite_iff, implies_true,
        and_self, and_true, true_and]
    | refine Only.foldl _ (fun _ _ => ?_) _ ?_
    | refine And.intro ?_ ?_
    | intro _
    | split

theorem only_freeSlot : ∀ a0 a1 a2 a3, Only [.draws, .out, .spindles, .spires, .channels, .parts, .jobs, .mailboxes,
    .running, .skein, .hif, .boot] a0 (freeSlot a0 a1 a2 a3) := by
  intro a0 a1 a2 a3
  unfold freeSlot
  repeat' first
    | with_reducible exact Only.refl _ _
    | assumption
    | simp (disch := decide) only [Only.op_iff (only_giveCredit _ _ _ _ _ _ _), Only.op_iff (only_setQueue _ _ _ _),
        Only.refl, Only.ite_iff, implies_true, and_self, and_true, true_and]
    | refine Only.foldl _ (fun _ _ => ?_) _ ?_
    | refine And.intro ?_ ?_
    | intro _
    | split

theorem only_freeAllSlots : ∀ a0 a1 a2 a3, Only [.draws, .out, .spindles, .spires, .channels, .parts, .jobs,
    .mailboxes, .running, .skein, .hif, .boot] a3 (freeAllSlots a0 a1 a2 a3) := by
  intro a0 a1 n
  induction n with
  | zero => intro a3; exact Only.refl _ _
  | succ n ih =>
    intro a3
    unfold freeAllSlots
    repeat' first
      | with_reducible exact Only.refl _ _
      | assumption
      | simp (disch := decide) only [Only.op_iff (ih _), Only.op_iff (only_freeSlot _ _ _ _), Only.refl, Only.ite_iff,
          implies_true, and_self, and_true, true_and]
      | refine Only.foldl _ (fun _ _ => ?_) _ ?_
      | refine And.intro ?_ ?_
      | intro _
      | split

theorem only_settleQueues : ∀ a0 a1, Only [.draws, .out, .spindles, .spires, .channels, .parts, .jobs, .mailboxes,
    .running, .skein, .hif, .boot] a0 (settleQueues a0 a1) := by
  intro a0 a1
  unfold settleQueues
  repeat' first
    | with_reducible exact Only.refl _ _
    | assumption
    | simp (disch := decide) only [Only.op_iff (only_freeAllSlots _ _ _ _), Only.op_iff (only_setQueue _ _ _ _),
        Only.op_iff (only_setSem _ _ _ _), Only.refl, Only.ite_iff, implies_true, and_self, and_true, true_and]
    | refine Only.foldl _ (fun _ _ => ?_) _ ?_
    | refine And.intro ?_ ?_
    | intro _
    | split

theorem only_takeIntoSkein : ∀ a0 a1, Only [.draws, .out, .skein] a0 (takeIntoSkein a0 a1) := by
  intro a0 a1
  unfold takeIntoSkein
  repeat' first
    | with_reducible exact Only.refl _ _
    | assumption
    | simp (disch := decide) only [Only.op_iff (only_emit _ _), Only.op_iff (only_sendControl _ _ _ _ _ _),
        Only.op_iff (only_setSkein _ _), Only.refl, Only.ite_iff, implies_true, and_self, and_true, true_and]
    | refine Only.foldl _ (fun _ _ => ?_) _ ?_
    | refine And.intro ?_ ?_
    | intro _
    | split

theorem only_returnCredits : ∀ a0 a1, Only [.out, .skein] a0 (returnCredits a0 a1) := by
  intro a0 a1
  unfold returnCredits
  repeat' first
    | with_reducible exact Only.refl _ _
    | assumption
    | simp (disch := decide) only [Only.op_iff (only_wireFlit _ _ _), Only.refl, Only.ite_iff, implies_true,
        and_self, and_true, true_and]
    | refine Only.foldl _ (fun _ _ => ?_) _ ?_
    | refine And.intro ?_ ?_
    | intro _
    | split

theorem only_routeFlit : ∀ a0 a1 a2, Only [.out, .skein] a0 (routeFlit a0 a1 a2) := by
  intro a0 a1 a2
  unfold routeFlit
  repeat' first
    | with_reducible exact Only.refl _ _
    | assumption
    | simp (disch := decide) only [Only.op_iff (only_pumpPort _ _), Only.op_iff (only_setLinkPort _ _ _), Only.refl,
        Only.ite_iff, implies_true, and_self, and_true, true_and]
    | refine Only.foldl _ (fun _ _ => ?_) _ ?_
    | refine And.intro ?_ ?_
    | intro _
    | split

theorem only_flitArrives : ∀ a0 a1 a2, Only [.draws, .out, .parts, .jobs, .mailboxes, .running, .skein, .hif, .boot]
    a0 (flitArrives a0 a1 a2) := by
  intro a0 a1 a2
  unfold flitArrives
  repeat' first
    | with_reducible exact Only.refl _ _
    | assumption
    | simp (disch := decide) only [Only.op_iff (only_emit _ _), Only.op_iff (only_portGoesDown _ _ _), Only.op_iff
        (only_pumpPort _ _), Only.op_iff (only_returnCredits _ _), Only.op_iff (only_routeFlit _ _ _), Only.op_iff
        (only_setLinkPort _ _ _), Only.refl, Only.ite_iff, implies_true, and_self, and_true, true_and]
    | refine Only.foldl _ (fun _ _ => ?_) _ ?_
    | refine And.intro ?_ ?_
    | intro _
    | split

theorem only_formationTimeout : ∀ a0, Only [.draws, .out, .parts, .mailboxes, .running, .skein, .hif] a0
    (formationTimeout a0) := by
  intro a0
  unfold formationTimeout
  repeat' first
    | with_reducible exact Only.refl _ _
    | assumption
    | simp (disch := decide) only [Only.op_iff (only_formationFails _ _ _), Only.refl, Only.ite_iff, implies_true,
        and_self, and_true, true_and]
    | refine Only.foldl _ (fun _ _ => ?_) _ ?_
    | refine And.intro ?_ ?_
    | intro _
    | split

theorem only_heartbeat : ∀ a0 a1, Only [.draws, .out, .parts, .jobs, .mailboxes, .running, .skein, .hif] a0
    (heartbeat a0 a1) := by
  intro a0 a1
  unfold heartbeat
  repeat' first
    | with_reducible exact Only.refl _ _
    | assumption
    | simp (disch := decide) only [Only.op_iff (only_loseWorker _ _ _), Only.op_iff (only_sendControl _ _ _ _ _ _),
        Only.op_iff (only_setSkein _ _), Only.refl, Only.ite_iff, implies_true, and_self, and_true, true_and]
    | refine Only.foldl _ (fun _ _ => ?_) _ ?_
    | refine And.intro ?_ ?_
    | intro _
    | split

theorem only_heartbeatArrival : ∀ a0, Only [.draws, .out, .skein] a0 (heartbeatArrival a0) := by
  intro a0
  unfold heartbeatArrival
  repeat' first
    | with_reducible exact Only.refl _ _
    | assumption
    | simp (disch := decide) only [Only.op_iff (only_sendControl _ _ _ _ _ _), Only.refl, Only.ite_iff,
        implies_true, and_self, and_true, true_and]
    | refine Only.foldl _ (fun _ _ => ?_) _ ?_
    | refine And.intro ?_ ?_
    | intro _
    | split

theorem only_linkKeyExchange : ∀ a0 a1 a2 a3 a4, Only [.draws, .out, .parts, .mailboxes, .running, .skein, .hif] a0
    (linkKeyExchange a0 a1 a2 a3 a4) := by
  intro a0 a1 a2 a3 a4
  unfold linkKeyExchange
  repeat' first
    | with_reducible exact Only.refl _ _
    | assumption
    | simp (disch := decide) only [Only.op_iff (only_drawn _), Only.op_iff (only_emit _ _), Only.op_iff
        (only_formationFails _ _ _), Only.op_iff (only_setLinkPort _ _ _), Only.refl, Only.ite_iff, implies_true,
        and_self, and_true, true_and]
    | refine Only.foldl _ (fun _ _ => ?_) _ ?_
    | refine And.intro ?_ ?_
    | intro _
    | split

theorem only_lossNotice : ∀ a0 a1, Only [.out, .parts, .jobs, .mailboxes, .running, .skein, .hif] a0 (lossNotice a0
    a1) := by
  intro a0 a1
  unfold lossNotice
  repeat' first
    | with_reducible exact Only.refl _ _
    | assumption
    | simp (disch := decide) only [Only.op_iff (only_actOnLoss _ _), Only.refl, Only.ite_iff, implies_true,
        and_self, and_true, true_and]
    | refine Only.foldl _ (fun _ _ => ?_) _ ?_
    | refine And.intro ?_ ?_
    | intro _
    | split

theorem only_messageArrives : ∀ a0 a1, Only [.draws, .out, .spindles, .spires, .channels, .parts, .jobs, .mailboxes,
    .running, .skein, .hif, .boot] a0 (messageArrives a0 a1) := by
  intro a0 a1
  unfold messageArrives
  repeat' first
    | with_reducible exact Only.refl _ _
    | assumption
    | simp (disch := decide) only [Only.op_iff (only_discardMessage _ _ _ _ _), Only.op_iff (only_endSenders _ _ _
        _), Only.op_iff (only_setPart _ _ _), Only.refl, Only.ite_iff, implies_true, and_self, and_true, true_and]
    | refine Only.step ?_ (only_releaseUnits _ _ _ _ _ _ (by assumption)) (by decide)
    | refine Only.foldl _ (fun _ _ => ?_) _ ?_
    | refine And.intro ?_ ?_
    | intro _
    | split

theorem only_replayFrom : ∀ a0 a1 a2, Only [.draws, .out, .parts, .jobs, .mailboxes, .running, .skein, .hif, .boot]
    a0 (replayFrom a0 a1 a2) := by
  intro a0 a1 a2
  unfold replayFrom
  repeat' first
    | with_reducible exact Only.refl _ _
    | assumption
    | simp (disch := decide) only [Only.op_iff (only_emit _ _), Only.op_iff (only_portGoesDown _ _ _), Only.op_iff
        (only_raiseEvent _ _ _ _), Only.op_iff (only_setLife _ _), Only.op_iff (only_setLinkPort _ _ _), Only.refl,
        Only.ite_iff, implies_true, and_self, and_true, true_and]
    | refine Only.foldl _ (fun _ _ => ?_) _ ?_
    | refine And.intro ?_ ?_
    | intro _
    | split

theorem only_limitPace : ∀ a0 a1, Only [.domes, .skein] a0 (limitPace a0 a1) := by
  intro a0 a1
  unfold limitPace
  repeat' first
    | with_reducible exact Only.refl _ _
    | assumption
    | simp (disch := decide) only [Only.op_iff (only_setDome _ _ _), Only.op_iff (only_setSkein _ _), Only.refl,
        Only.ite_iff, implies_true, and_self, and_true, true_and]
    | refine Only.foldl _ (fun _ _ => ?_) _ ?_
    | refine And.intro ?_ ?_
    | intro _
    | split

theorem only_pacePublish : ∀ a0 a1, Only [.draws, .out, .domes, .skein] a0 (pacePublish a0 a1) := by
  intro a0 a1
  unfold pacePublish
  repeat' first
    | with_reducible exact Only.refl _ _
    | assumption
    | simp (disch := decide) only [Only.op_iff (only_limitPace _ _), Only.op_iff (only_sendControl _ _ _ _ _ _),
        Only.op_iff (only_setSkein _ _), Only.refl, Only.ite_iff, implies_true, and_self, and_true, true_and]
    | refine Only.foldl _ (fun _ _ => ?_) _ ?_
    | refine And.intro ?_ ?_
    | intro _
    | split

theorem only_paceReport : ∀ a0, Only [.draws, .out, .skein] a0 (paceReport a0) := by
  intro a0
  unfold paceReport
  repeat' first
    | with_reducible exact Only.refl _ _
    | assumption
    | simp (disch := decide) only [Only.op_iff (only_sendControl _ _ _ _ _ _), Only.op_iff (only_setSkein _ _),
        Only.refl, Only.ite_iff, implies_true, and_self, and_true, true_and]
    | refine Only.foldl _ (fun _ _ => ?_) _ ?_
    | refine And.intro ?_ ?_
    | intro _
    | split

theorem only_portUp : ∀ a0 a1, Only [.skein] a0 (portUp a0 a1) := by
  intro a0 a1
  unfold portUp
  repeat' first
    | with_reducible exact Only.refl _ _
    | assumption
    | simp (disch := decide) only [Only.op_iff (only_setLinkPort _ _ _), Only.refl, Only.ite_iff, implies_true,
        and_self, and_true, true_and]
    | refine Only.foldl _ (fun _ _ => ?_) _ ?_
    | refine And.intro ?_ ?_
    | intro _
    | split

theorem only_relayCompletion : ∀ a0 a1 a2, Only [.out, .mailboxes, .running, .skein, .hif] a0 (relayCompletion a0 a1
    a2) := by
  intro a0 a1 a2
  unfold relayCompletion
  repeat' first
    | with_reducible exact Only.refl _ _
    | assumption
    | simp (disch := decide) only [Only.op_iff (only_complete _ _ _ _), Only.op_iff (only_hostWrite _ _ _ _),
        Only.op_iff (only_setSkein _ _), Only.refl, Only.ite_iff, implies_true, and_self, and_true, true_and]
    | refine Only.foldl _ (fun _ _ => ?_) _ ?_
    | refine And.intro ?_ ?_
    | intro _
    | split

theorem only_sendEntry : ∀ a0 a1 a2, Only [.draws, .out, .spindles, .spires, .channels, .parts, .jobs, .mailboxes,
    .running, .skein, .hif, .boot] a0 (sendEntry a0 a1 a2) := by
  intro a0 a1 a2
  unfold sendEntry
  repeat' first
    | with_reducible exact Only.refl _ _
    | assumption
    | simp (disch := decide) only [Only.op_iff (only_sendAll _ _ _ _), Only.op_iff (only_setQueue _ _ _ _),
        Only.op_iff (only_setSem _ _ _ _), Only.refl, Only.ite_iff, implies_true, and_self, and_true, true_and]
    | refine Only.foldl _ (fun _ _ => ?_) _ ?_
    | refine And.intro ?_ ?_
    | intro _
    | split

theorem only_skeinBarrierSync : ∀ a0 a1, Only [.draws, .out, .spindles, .spires, .jobs, .mailboxes, .running,
    .skein, .hif] a0 (skeinBarrierSync a0 a1) := by
  intro s p
  unfold skeinBarrierSync onSync
  unfold onDesc atSem
  repeat' first
    | simp (disch := decide) only [Only.ite_iff, Only.op_iff (only_agenError _ _ _ _), Only.refl, implies_true, and_self,
        and_true, true_and]
    | split
    | refine And.intro ?_ ?_
    | intro _
  refine OnlyIf.of_eq ?_ (by assumption)
  repeat' first
    | simp (disch := decide) only [OnlyIf.none_iff, OnlyIf.some_iff, OnlyIf.ite_iff, Only.op_iff (only_setSem _ _ _ _),
      Only.op_iff (only_syncWait _ _), Only.op_iff (only_arriveAt _ _ _), Only.op_iff (only_sendControl _ _ _ _ _ _), Only.refl,
      implies_true, and_self, and_true, true_and]
    | split
    | refine And.intro ?_ ?_
    | intro _

theorem only_slotFree : ∀ a0 a1 a2, Only [.draws, .out, .spindles, .spires, .channels, .parts, .jobs, .mailboxes,
    .running, .skein, .hif, .boot] a0 (slotFree a0 a1 a2) := by
  intro a0 a1 a2
  unfold slotFree
  repeat' first
    | with_reducible exact Only.refl _ _
    | assumption
    | simp (disch := decide) only [Only.op_iff (only_freeSlot _ _ _ _), Only.op_iff (only_setSem _ _ _ _),
        Only.refl, Only.ite_iff, implies_true, and_self, and_true, true_and]
    | refine Only.foldl _ (fun _ _ => ?_) _ ?_
    | refine And.intro ?_ ?_
    | intro _
    | split

end Sys2Proof
end

