-- ==== Sys2Proof/Laws/FrameMedia.lean ====
section
/-! SUPPORT. The parts of the state that an operation can change, one lemma an operation: pipelines, tracking, jobs, decoders and intake. -/

set_option linter.unusedSimpArgs false
set_option linter.unusedTactic false
set_option linter.unreachableTactic false

namespace Sys2Proof

open Machine

theorem only_engineDone : ∀ a0 a1, Only [.decoders] a0 (engineDone a0 a1) := by
  intro a0 a1
  unfold engineDone
  repeat' first
    | with_reducible exact Only.refl _ _
    | assumption
    | simp (disch := decide) only [Only.op_iff (only_setDecoder _ _ _), Only.refl, Only.ite_iff, implies_true,
        and_self, and_true, true_and]
    | refine Only.foldl _ (fun _ _ => ?_) _ ?_
    | refine And.intro ?_ ?_
    | intro _
    | split

theorem only_dropBobbins : ∀ a0 a1 a2, Only [.out, .channels, .parts, .mailboxes, .hif, .boot] a0 (dropBobbins a0 a1
    a2) := by
  intro a0 a1 a2
  unfold dropBobbins
  repeat' first
    | with_reducible exact Only.refl _ _
    | assumption
    | simp (disch := decide) only [Only.op_iff (only_releaseBobbin _ _ _ _), Only.refl, Only.ite_iff, implies_true,
        and_self, and_true, true_and]
    | refine Only.foldl _ (fun _ _ => ?_) _ ?_
    | refine And.intro ?_ ?_
    | intro _
    | split

theorem only_modStream : ∀ a0 a1 a2, Only [.streams] a0 (modStream a0 a1 a2) := by
  intro a0 a1 a2
  unfold modStream
  repeat' first
    | with_reducible exact Only.refl _ _
    | assumption
    | simp (disch := decide) only [Only.op_iff (only_setStream _ _ _), Only.refl, Only.ite_iff, implies_true,
        and_self, and_true, true_and]
    | refine Only.foldl _ (fun _ _ => ?_) _ ?_
    | refine And.intro ?_ ?_
    | intro _
    | split

theorem only_enterSeek : ∀ a0 a1, Only [.out, .channels, .parts, .mailboxes, .streams, .hif, .boot] a0 (enterSeek a0
    a1) := by
  intro a0 a1
  unfold enterSeek
  repeat' first
    | with_reducible exact Only.refl _ _
    | assumption
    | simp (disch := decide) only [Only.op_iff (only_dropBobbins _ _ _), Only.op_iff (only_modStream _ _ _),
        Only.refl, Only.ite_iff, implies_true, and_self, and_true, true_and]
    | refine Only.foldl _ (fun _ _ => ?_) _ ?_
    | refine And.intro ?_ ?_
    | intro _
    | split

theorem only_losePicture : ∀ a0 a1 a2 a3, Only [.out, .channels, .parts, .mailboxes, .streams, .hif, .boot] a0
    (losePicture a0 a1 a2 a3) := by
  intro a0 a1 a2 a3
  unfold losePicture
  repeat' first
    | with_reducible exact Only.refl _ _
    | assumption
    | simp (disch := decide) only [Only.op_iff (only_dropBobbins _ _ _), Only.op_iff (only_modStream _ _ _),
        Only.refl, Only.ite_iff, implies_true, and_self, and_true, true_and]
    | refine Only.foldl _ (fun _ _ => ?_) _ ?_
    | refine And.intro ?_ ?_
    | intro _
    | split

theorem only_abandonPicture : ∀ a0 a1 a2 a3, Only [.out, .channels, .parts, .mailboxes, .streams, .decoders, .hif,
    .boot] a0 (abandonPicture a0 a1 a2 a3) := by
  intro a0 a1 a2 a3
  unfold abandonPicture
  repeat' first
    | with_reducible exact Only.refl _ _
    | assumption
    | simp (disch := decide) only [Only.op_iff (only_engineDone _ _), Only.op_iff (only_enterSeek _ _), Only.op_iff
        (only_losePicture _ _ _ _), Only.op_iff (only_modStream _ _ _), Only.op_iff (only_raiseEvent _ _ _ _),
        Only.op_iff (only_setLife _ _), Only.refl, Only.ite_iff, implies_true, and_self, and_true, true_and]
    | refine Only.foldl _ (fun _ _ => ?_) _ ?_
    | refine And.intro ?_ ?_
    | intro _
    | split

theorem only_appendUnit : ∀ a0 a1 a2, Only [.parts, .streams] a0 (appendUnit a0 a1 a2) := by
  intro a0 a1 a2
  unfold appendUnit
  repeat' first
    | with_reducible exact Only.refl _ _
    | assumption
    | simp (disch := decide) only [Only.op_iff (only_setPart _ _ _), Only.op_iff (only_setStream _ _ _), Only.refl,
        Only.ite_iff, implies_true, and_self, and_true, true_and]
    | refine Only.foldl _ (fun _ _ => ?_) _ ?_
    | refine And.intro ?_ ?_
    | intro _
    | split

theorem only_beginUnit : ∀ a0 a1 a2 a3, Only [.draws, .parts, .streams] a0 (beginUnit a0 a1 a2 a3).1 := by
  intro a0 a1 a2 a3
  unfold beginUnit
  repeat' first
    | with_reducible exact Only.refl _ _
    | assumption
    | simp (disch := decide) only [Only.op_iff (only_acquireBobbin _ _ _ _), Only.op_iff (only_modStream _ _ _),
        Only.refl, Only.ite_iff, implies_true, and_self, and_true, true_and]
    | refine Only.foldl _ (fun _ _ => ?_) _ ?_
    | refine And.intro ?_ ?_
    | intro _
    | split

theorem only_beginRtpUnit : ∀ a0 a1 a2, Only [.draws, .out, .channels, .parts, .mailboxes, .streams, .hif, .boot] a0
    (beginRtpUnit a0 a1 a2) := by
  intro a0 a1 a2
  unfold beginRtpUnit
  repeat' first
    | with_reducible exact Only.refl _ _
    | assumption
    | simp (disch := decide) only [Only.op_iff (only_beginUnit _ _ _ _), Only.op_iff (only_enterSeek _ _),
        Only.op_iff (only_modStream _ _ _), Only.op_iff (only_setStream _ _ _), Only.refl, Only.ite_iff, implies_true,
        and_self, and_true, true_and]
    | refine Only.foldl _ (fun _ _ => ?_) _ ?_
    | refine And.intro ?_ ?_
    | intro _
    | split

theorem only_completeUnit : ∀ a0 a1, Only [.orders, .streams] a0 (completeUnit a0 a1) := by
  intro a0 a1
  unfold completeUnit
  repeat' first
    | with_reducible exact Only.refl _ _
    | assumption
    | simp (disch := decide) only [Only.op_iff (only_ordered _), Only.op_iff (only_setStream _ _ _), Only.refl,
        Only.ite_iff, implies_true, and_self, and_true, true_and]
    | refine Only.foldl _ (fun _ _ => ?_) _ ?_
    | refine And.intro ?_ ?_
    | intro _
    | split

theorem only_endUnit : ∀ a0 a1, Only [.orders, .streams] a0 (endUnit a0 a1) := by
  intro a0 a1
  unfold endUnit
  repeat' first
    | with_reducible exact Only.refl _ _
    | assumption
    | simp (disch := decide) only [Only.op_iff (only_completeUnit _ _), Only.op_iff (only_modStream _ _ _),
        Only.refl, Only.ite_iff, implies_true, and_self, and_true, true_and]
    | refine Only.foldl _ (fun _ _ => ?_) _ ?_
    | refine And.intro ?_ ?_
    | intro _
    | split

theorem only_passPacket : ∀ a0 a1 a2, Only [.draws, .out, .orders, .channels, .parts, .mailboxes, .streams, .hif,
    .boot] a0 (passPacket a0 a1 a2) := by
  intro a0 a1 a2
  unfold passPacket
  repeat' first
    | with_reducible exact Only.refl _ _
    | assumption
    | simp (disch := decide) only [Only.op_iff (only_appendUnit _ _ _), Only.op_iff (only_beginRtpUnit _ _ _),
        Only.op_iff (only_endUnit _ _), Only.op_iff (only_modStream _ _ _), Only.refl, Only.ite_iff, implies_true,
        and_self, and_true, true_and]
    | refine Only.foldl _ (fun _ _ => ?_) _ ?_
    | refine And.intro ?_ ?_
    | intro _
    | split

theorem only_passHeld : ∀ a0 a1 a2, Only [.draws, .out, .orders, .channels, .parts, .mailboxes, .streams, .hif,
    .boot] a2 (passHeld a0 a1 a2) := by
  intro a0 n
  induction n with
  | zero => intro a2; exact Only.refl _ _
  | succ n ih =>
    intro a2
    unfold passHeld
    repeat' first
      | with_reducible exact Only.refl _ _
      | assumption
      | simp (disch := decide) only [Only.op_iff (ih _), Only.op_iff (only_passPacket _ _ _), Only.refl, Only.ite_iff,
          implies_true, and_self, and_true, true_and]
      | refine Only.foldl _ (fun _ _ => ?_) _ ?_
      | refine And.intro ?_ ?_
      | intro _
      | split

theorem only_loseGap : ∀ a0 a1, Only [.draws, .out, .orders, .channels, .parts, .mailboxes, .streams, .hif, .boot]
    a0 (loseGap a0 a1) := by
  intro a0 a1
  unfold loseGap
  repeat' first
    | with_reducible exact Only.refl _ _
    | assumption
    | simp (disch := decide) only [Only.op_iff (only_modStream _ _ _), Only.op_iff (only_passHeld _ _ _), Only.refl,
        Only.ite_iff, implies_true, and_self, and_true, true_and]
    | refine Only.foldl _ (fun _ _ => ?_) _ ?_
    | refine And.intro ?_ ?_
    | intro _
    | split

theorem only_loseGaps : ∀ a0 a1 a2, Only [.draws, .out, .orders, .channels, .parts, .mailboxes, .streams, .hif,
    .boot] a2 (loseGaps a0 a1 a2) := by
  intro a0 n
  induction n with
  | zero => intro a2; exact Only.refl _ _
  | succ n ih =>
    intro a2
    unfold loseGaps
    repeat' first
      | with_reducible exact Only.refl _ _
      | assumption
      | simp (disch := decide) only [Only.op_iff (ih _), Only.op_iff (only_loseGap _ _), Only.refl, Only.ite_iff,
          implies_true, and_self, and_true, true_and]
      | refine Only.foldl _ (fun _ _ => ?_) _ ?_
      | refine And.intro ?_ ?_
      | intro _
      | split

theorem only_rtpPacket : ∀ a0 a1 a2, Only [.draws, .out, .orders, .channels, .parts, .mailboxes, .streams, .hif,
    .boot] a0 (rtpPacket a0 a1 a2) := by
  intro a0 a1 a2
  unfold rtpPacket
  repeat' first
    | with_reducible exact Only.refl _ _
    | assumption
    | simp (disch := decide) only [Only.op_iff (only_loseGaps _ _ _), Only.op_iff (only_passHeld _ _ _), Only.op_iff
        (only_setStream _ _ _), Only.refl, Only.ite_iff, implies_true, and_self, and_true, true_and]
    | refine Only.foldl _ (fun _ _ => ?_) _ ?_
    | refine And.intro ?_ ?_
    | intro _
    | split

theorem only_acceptFrame : ∀ a0 a1 a2 a3, Only [.draws, .out, .orders, .channels, .parts, .mailboxes, .streams,
    .netPorts, .hif, .boot] a0 (acceptFrame a0 a1 a2 a3) := by
  intro a0 a1 a2 a3
  unfold acceptFrame
  repeat' first
    | with_reducible exact Only.refl _ _
    | assumption
    | simp (disch := decide) only [Only.op_iff (only_emit _ _), Only.op_iff (only_modStream _ _ _), Only.op_iff
        (only_rtpPacket _ _ _), Only.op_iff (only_setNetPort _ _ _), Only.refl, Only.ite_iff, implies_true, and_self,
        and_true, true_and]
    | refine Only.foldl _ (fun _ _ => ?_) _ ?_
    | refine And.intro ?_ ?_
    | intro _
    | split

theorem only_acquirePicture : ∀ a0 a1 a2 a3, Only [.draws, .parts] a0 (acquirePicture a0 a1 a2 a3).1 := by
  intro a0 a1 a2 a3
  unfold acquirePicture
  repeat' first
    | with_reducible exact Only.refl _ _
    | assumption
    | simp (disch := decide) only [Only.op_iff (only_groupAcquire _ _ _), Only.refl, Only.ite_iff, implies_true,
        and_self, and_true, true_and]
    | refine Only.foldl _ (fun _ _ => ?_) _ ?_
    | refine And.intro ?_ ?_
    | intro _
    | split

theorem only_acquirePicture_eq {a0 a1 a2 a3 o t} (h : acquirePicture a0 a1 a2 a3 = (t, o)) : Only [.draws, .parts]
    a0 t := by
  have e := only_acquirePicture a0 a1 a2 a3
  rw [h] at e
  exact e


theorem only_formAnswer : ∀ a0 a1 a2, Only [.draws, .out, .channels, .jobs, .mailboxes, .running, .orings, .hif,
    .boot] a0 (formAnswer a0 a1 a2) := by
  intro a0 a1 a2
  unfold formAnswer
  repeat' first
    | with_reducible exact Only.refl _ _
    | assumption
    | simp (disch := decide) only [Only.op_iff (only_dramUncorrectable _ _ _ _ _), Only.op_iff (only_endJobWith _ _
        _ _ _ _), Only.op_iff (only_setJob _ _ _), Only.op_iff (only_writeRecord _ _ _ _), Only.refl, Only.ite_iff,
        implies_true, and_self, and_true, true_and]
    | refine Only.foldl _ (fun _ _ => ?_) _ ?_
    | refine And.intro ?_ ?_
    | intro _
    | split

theorem only_takeUnit : ∀ a0 a1 a2 t, takeUnit a0 a1 a2 = some t → Only [.spires] a0 t := by
  intro a0 a1 a2 t h
  unfold takeUnit at h
  repeat' first
    | contradiction
    | (cases h; done)
    | dsimp only at h
    | split at h
  all_goals try cases h
  all_goals
    repeat' first
      | with_reducible exact Only.refl _ _
      | assumption
      | simp (disch := decide) only [Only.op_iff (only_setSem _ _ _ _), Only.refl, Only.ite_iff, implies_true,
          and_self, and_true, true_and]
      | refine Only.foldl _ (fun _ _ => ?_) _ ?_
      | refine And.intro ?_ ?_
      | intro _
      | split

theorem only_answerPart : ∀ a0 a1, Only [.draws, .out, .spires, .channels, .jobs, .mailboxes, .running, .orings,
    .hif, .boot] a0 (answerPart a0 a1) := by
  intro a0 a1
  unfold answerPart
  repeat' first
    | with_reducible exact Only.refl _ _
    | assumption
    | simp (disch := decide) only [Only.op_iff (only_formAnswer _ _ _), Only.refl, Only.ite_iff, implies_true,
        and_self, and_true, true_and]
    | refine Only.step ?_ (only_takeUnit _ _ _ _ (by assumption)) (by decide)
    | refine Only.foldl _ (fun _ _ => ?_) _ ?_
    | refine And.intro ?_ ?_
    | intro _
    | split

theorem only_modPipe : ∀ a0 a1 a2, Only [.pipes] a0 (modPipe a0 a1 a2) := by
  intro a0 a1 a2
  unfold modPipe
  repeat' first
    | with_reducible exact Only.refl _ _
    | assumption
    | simp (disch := decide) only [Only.op_iff (only_setPipe _ _ _), Only.refl, Only.ite_iff, implies_true,
        and_self, and_true, true_and]
    | refine Only.foldl _ (fun _ _ => ?_) _ ?_
    | refine And.intro ?_ ?_
    | intro _
    | split

theorem only_modPicture : ∀ a0 a1 a2 a3, Only [.pipes] a0 (modPicture a0 a1 a2 a3) := by
  intro a0 a1 a2 a3
  unfold modPicture
  repeat' first
    | with_reducible exact Only.refl _ _
    | assumption
    | simp (disch := decide) only [Only.op_iff (only_modPipe _ _ _), Only.refl, Only.ite_iff, implies_true,
        and_self, and_true, true_and]
    | refine Only.foldl _ (fun _ _ => ?_) _ ?_
    | refine And.intro ?_ ?_
    | intro _
    | split

theorem only_releasePicture : ∀ a0 a1 a2, Only [.out, .channels, .parts, .mailboxes, .pipes, .hif, .boot] a0
    (releasePicture a0 a1 a2) := by
  intro a0 a1 a2
  unfold releasePicture
  repeat' first
    | with_reducible exact Only.refl _ _
    | assumption
    | simp (disch := decide) only [Only.op_iff (only_modPipe _ _ _), Only.op_iff (only_releaseBobbin _ _ _ _),
        Only.refl, Only.ite_iff, implies_true, and_self, and_true, true_and]
    | refine Only.foldl _ (fun _ _ => ?_) _ ?_
    | refine And.intro ?_ ?_
    | intro _
    | split

theorem only_passSlot : ∀ a0 a1 a2 a3 a4 a5 a6, Only [.out, .channels, .parts, .mailboxes, .pipes, .hif, .boot] a0
    (passSlot a0 a1 a2 a3 a4 a5 a6) := by
  intro a0 a1 a2 a3 a4 a5 a6
  unfold passSlot
  repeat' first
    | with_reducible exact Only.refl _ _
    | assumption
    | simp (disch := decide) only [Only.op_iff (only_modPicture _ _ _ _), Only.op_iff (only_releasePicture _ _ _),
        Only.refl, Only.ite_iff, implies_true, and_self, and_true, true_and]
    | refine Only.foldl _ (fun _ _ => ?_) _ ?_
    | refine And.intro ?_ ?_
    | intro _
    | split

theorem only_passBatch : ∀ a0 a1 a2 a3 a4 a5, Only [.out, .channels, .parts, .mailboxes, .pipes, .hif, .boot] a0
    (passBatch a0 a1 a2 a3 a4 a5) := by
  intro a0 a1 a2 a3 a4 a5
  unfold passBatch
  repeat' first
    | with_reducible exact Only.refl _ _
    | assumption
    | simp (disch := decide) only [Only.op_iff (only_dramUncorrectable _ _ _ _ _), Only.op_iff (only_passSlot _ _ _
        _ _ _ _), Only.op_iff (only_releaseBobbin _ _ _ _), Only.op_iff (only_setBatchQueue _ _ _ _), Only.refl,
        Only.ite_iff, implies_true, and_self, and_true, true_and]
    | refine Only.foldl _ (fun _ _ => ?_) _ ?_
    | refine And.intro ?_ ?_
    | intro _
    | split

theorem only_passBatches : ∀ a0 a1 a2 a3, Only [.out, .channels, .parts, .mailboxes, .pipes, .hif, .boot] a3
    (passBatches a0 a1 a2 a3) := by
  intro a0 a1 n
  induction n with
  | zero => intro a3; exact Only.refl _ _
  | succ n ih =>
    intro a3
    unfold passBatches
    repeat' first
      | with_reducible exact Only.refl _ _
      | assumption
      | simp (disch := decide) only [Only.op_iff (ih _), Only.op_iff (only_passBatch _ _ _ _ _ _), Only.refl,
          Only.ite_iff, implies_true, and_self, and_true, true_and]
      | refine Only.foldl _ (fun _ _ => ?_) _ ?_
      | refine And.intro ?_ ?_
      | intro _
      | split

theorem only_dropTrack : ∀ a0 a1 a2, Only [.out, .channels, .parts, .mailboxes, .tracks, .hif, .boot] a0 (dropTrack
    a0 a1 a2) := by
  intro a0 a1 a2
  unfold dropTrack
  repeat' first
    | with_reducible exact Only.refl _ _
    | assumption
    | simp (disch := decide) only [Only.op_iff (only_releaseBobbin _ _ _ _), Only.op_iff (only_with_tracks _ _),
        Only.refl, Only.ite_iff, implies_true, and_self, and_true, true_and]
    | refine Only.foldl _ (fun _ _ => ?_) _ ?_
    | refine And.intro ?_ ?_
    | intro _
    | split

theorem only_writeBodies : ∀ a0 a1 a2 a3 a4, Only [.draws, .out, .orings, .hif] a0 (writeBodies a0 a1 a2 a3 a4) := by
  intro a0 a1 a2 a3 a4
  unfold writeBodies
  repeat' first
    | with_reducible exact Only.refl _ _
    | assumption
    | simp (disch := decide) only [Only.op_iff (only_writeRecord _ _ _ _), Only.refl, Only.ite_iff, implies_true,
        and_self, and_true, true_and]
    | refine Only.foldl _ (fun _ _ => ?_) _ ?_
    | refine And.intro ?_ ?_
    | intro _
    | split

theorem only_endTracks : ∀ a0 a1 a2 a3, Only [.draws, .out, .channels, .parts, .mailboxes, .tracks, .orings, .hif,
    .boot] a0 (endTracks a0 a1 a2 a3) := by
  intro a0 a1 a2 a3
  unfold endTracks
  repeat' first
    | with_reducible exact Only.refl _ _
    | assumption
    | simp (disch := decide) only [Only.op_iff (only_dropTrack _ _ _), Only.op_iff (only_writeBodies _ _ _ _ _),
        Only.refl, Only.ite_iff, implies_true, and_self, and_true, true_and]
    | refine Only.foldl _ (fun _ _ => ?_) _ ?_
    | refine And.intro ?_ ?_
    | intro _
    | split

theorem only_leaveMove : ∀ a0 a1 a2 t, leaveMove a0 a1 a2 = some t → Only [.draws, .out, .channels, .parts,
    .mailboxes, .running, .pipes, .tracks, .orings, .hif, .boot] a0 t := by
  intro a0 a1 a2 t h
  unfold leaveMove at h
  repeat' first
    | contradiction
    | (cases h; done)
    | dsimp only at h
    | split at h
  all_goals try cases h
  all_goals
    repeat' first
      | with_reducible exact Only.refl _ _
      | assumption
      | simp (disch := decide) only [Only.op_iff (only_completeWaiting _ _ _ _ _), Only.op_iff (only_endTracks _ _ _
          _), Only.op_iff (only_modPipe _ _ _), Only.op_iff (only_releaseBobbin _ _ _ _), Only.refl, Only.ite_iff,
          implies_true, and_self, and_true, true_and]
      | refine Only.foldl _ (fun _ _ => ?_) _ ?_
      | refine And.intro ?_ ?_
      | intro _
      | split

theorem only_pictureMove : ∀ a0 a1 a2 a3 t, pictureMove a0 a1 a2 a3 = some t → Only [.out, .channels, .parts,
    .mailboxes, .pipes, .hif, .boot] a0 t := by
  intro a0 a1 a2 a3 t h
  unfold pictureMove at h
  repeat' first
    | contradiction
    | (cases h; done)
    | dsimp only at h
    | split at h
  all_goals try cases h
  all_goals
    repeat' first
      | with_reducible exact Only.refl _ _
      | assumption
      | simp (disch := decide) only [Only.op_iff (only_modPicture _ _ _ _), Only.op_iff (only_modPipe _ _ _),
          Only.op_iff (only_releasePicture _ _ _), Only.refl, Only.ite_iff, implies_true, and_self, and_true, true_and]
      | refine Only.foldl _ (fun _ _ => ?_) _ ?_
      | refine And.intro ?_ ?_
      | intro _
      | split

theorem only_removeMove : ∀ a0 a1 t, removeMove a0 a1 = some t → Only [.draws, .out, .spires, .channels, .parts,
    .mailboxes, .running, .workItems, .pipes, .tracks, .orings, .skein, .sec, .hif, .boot] a0 t := by
  intro a0 a1 t h
  unfold removeMove at h
  repeat' first
    | contradiction
    | (cases h; done)
    | dsimp only at h
    | split at h
  all_goals try cases h
  all_goals
    repeat' first
      | with_reducible exact Only.refl _ _
      | assumption
      | simp (disch := decide) only [Only.op_iff (only_completeWaiting _ _ _ _ _), Only.op_iff (only_endTracks _ _ _
          _), Only.op_iff (only_modPart _ _ _), Only.op_iff (only_releaseHolds _ _ _), Only.op_iff (only_setPipe _ _ _),
          Only.op_iff (only_tryFinishDelete _ _), Only.op_iff (only_with_workItems _ _), Only.refl, Only.ite_iff,
          implies_true, and_self, and_true, true_and]
      | refine Only.foldl _ (fun _ _ => ?_) _ ?_
      | refine And.intro ?_ ?_
      | intro _
      | split

theorem only_emitPicture : ∀ a0 a1 a2 a3, Only [.draws, .out, .orings, .hif] a0 (emitPicture a0 a1 a2 a3) := by
  intro a0 a1 a2 a3
  unfold emitPicture
  repeat' first
    | with_reducible exact Only.refl _ _
    | assumption
    | simp (disch := decide) only [Only.op_iff (only_writeBodies _ _ _ _ _), Only.refl, Only.ite_iff, implies_true,
        and_self, and_true, true_and]
    | refine Only.foldl _ (fun _ _ => ?_) _ ?_
    | refine And.intro ?_ ?_
    | intro _
    | split

theorem only_countDropped : ∀ a0 a1, Only [.pipes] a0 (countDropped a0 a1) := by
  intro a0 a1
  unfold countDropped
  repeat' first
    | with_reducible exact Only.refl _ _
    | assumption
    | simp (disch := decide) only [Only.op_iff (only_modPipe _ _ _), Only.refl, Only.ite_iff, implies_true,
        and_self, and_true, true_and]
    | refine Only.foldl _ (fun _ _ => ?_) _ ?_
    | refine And.intro ?_ ?_
    | intro _
    | split

theorem only_enterPrep : ∀ a0 a1 a2 a3 a4, Only [.draws, .out, .orders, .channels, .parts, .mailboxes, .workItems,
    .pipes, .hif, .boot] a0 (enterPrep a0 a1 a2 a3 a4) := by
  intro a0 a1 a2 a3 a4
  unfold enterPrep
  repeat' first
    | with_reducible exact Only.refl _ _
    | assumption
    | simp (disch := decide) only [Only.op_iff (only_countDropped _ _), Only.op_iff (only_modPicture _ _ _ _),
        Only.op_iff (only_releasePicture _ _ _), Only.op_iff (only_submitRequest _ _ _ _ _), Only.refl, Only.ite_iff,
        implies_true, and_self, and_true, true_and]
    | refine Only.foldl _ (fun _ _ => ?_) _ ?_
    | refine And.intro ?_ ?_
    | intro _
    | split

theorem only_stageMove : ∀ a0 a1 a2 a3 a4 t, stageMove a0 a1 a2 a3 a4 = some t → Only [.draws, .out, .orders,
    .channels, .parts, .mailboxes, .workItems, .pipes, .orings, .hif, .boot] a0 t := by
  intro a0 a1 a2 a3 a4 t h
  unfold stageMove at h
  repeat' first
    | contradiction
    | (cases h; done)
    | dsimp only at h
    | split at h
  all_goals try cases h
  all_goals
    repeat' first
      | with_reducible exact Only.refl _ _
      | assumption
      | simp (disch := decide) only [Only.op_iff (only_emitPicture _ _ _ _), Only.op_iff (only_enterPrep _ _ _ _ _),
          Only.op_iff (only_modPicture _ _ _ _), Only.refl, Only.ite_iff, implies_true, and_self, and_true, true_and]
      | refine Only.foldl _ (fun _ _ => ?_) _ ?_
      | refine And.intro ?_ ?_
      | intro _
      | split

theorem only_pipeMove : ∀ a0 a1 t, pipeMove a0 a1 = some t → Only [.draws, .out, .orders, .spires, .channels,
    .parts, .mailboxes, .running, .workItems, .pipes, .tracks, .orings, .skein, .sec, .hif, .boot] a0 t := by
  intro s i t h
  unfold pipeMove at h
  dsimp only at h
  rw [Option.or_eq_some_iff, Option.or_eq_some_iff, Option.or_eq_some_iff] at h
  rcases h with h | ⟨-, h | ⟨-, h | ⟨-, h⟩⟩⟩
  · obtain ⟨_, _, h⟩ := List.exists_of_findSome?_eq_some h
    obtain ⟨_, _, h⟩ := List.exists_of_findSome?_eq_some h
    exact (only_stageMove _ _ _ _ _ _ h).mono (by decide)
  · obtain ⟨_, _, h⟩ := List.exists_of_findSome?_eq_some h
    exact (only_pictureMove _ _ _ _ _ h).mono (by decide)
  · obtain ⟨_, _, h⟩ := List.exists_of_findSome?_eq_some h
    exact (only_leaveMove _ _ _ _ h).mono (by decide)
  · exact (only_removeMove _ _ _ h).mono (by decide)

theorem only_settleMoves : ∀ a0 a1 a2, Only [.draws, .out, .orders, .spires, .channels, .parts, .mailboxes,
    .running, .workItems, .pipes, .tracks, .orings, .skein, .sec, .hif, .boot] a2 (settleMoves a0 a1 a2) := by
  intro a0 n
  induction n with
  | zero => intro a2; exact Only.refl _ _
  | succ n ih =>
    intro a2
    unfold settleMoves
    repeat' first
      | with_reducible exact Only.refl _ _
      | assumption
      | simp (disch := decide) only [Only.op_iff (ih _), Only.refl, Only.ite_iff, implies_true, and_self, and_true,
          true_and]
      | refine Only.step ?_ (only_pipeMove _ _ _ (by assumption)) (by decide)
      | refine Only.foldl _ (fun _ _ => ?_) _ ?_
      | refine And.intro ?_ ?_
      | intro _
      | split

theorem only_settlePipe : ∀ a0 a1, Only [.draws, .out, .orders, .spires, .channels, .parts, .mailboxes, .running,
    .workItems, .pipes, .tracks, .orings, .skein, .sec, .hif, .boot] a0 (settlePipe a0 a1) := by
  intro a0 a1
  unfold settlePipe
  repeat' first
    | with_reducible exact Only.refl _ _
    | assumption
    | simp (disch := decide) only [Only.op_iff (only_settleMoves _ _ _), Only.refl, Only.ite_iff, implies_true,
        and_self, and_true, true_and]
    | refine Only.foldl _ (fun _ _ => ?_) _ ?_
    | refine And.intro ?_ ?_
    | intro _
    | split

theorem only_startBatch : ∀ a0 a1 a2 a3 a4, Only [.draws, .out, .orders, .channels, .parts, .jobs, .mailboxes, .hif,
    .boot] a0 (startBatch a0 a1 a2 a3 a4).1 := by
  intro a0 a1 a2 a3 a4
  unfold startBatch
  repeat' first
    | with_reducible exact Only.refl _ _
    | assumption
    | simp (disch := decide) only [Only.op_iff (only_acquireBobbin _ _ _ _), Only.op_iff (only_modPart _ _ _),
        Only.op_iff (only_startJob _ _), Only.refl, Only.ite_iff, implies_true, and_self, and_true, true_and]
    | refine Only.foldl _ (fun _ _ => ?_) _ ?_
    | refine And.intro ?_ ?_
    | intro _
    | split

theorem only_startBatches : ∀ a0 a1 a2 a3, Only [.draws, .out, .orders, .channels, .parts, .jobs, .mailboxes, .hif,
    .boot] a3 (startBatches a0 a1 a2 a3) := by
  intro a0 a1 n
  induction n with
  | zero => intro a3; exact Only.refl _ _
  | succ n ih =>
    intro a3
    unfold startBatches
    repeat' first
      | with_reducible exact Only.refl _ _
      | assumption
      | simp (disch := decide) only [Only.op_iff (ih _), Only.op_iff (only_startBatch _ _ _ _ _), Only.refl,
          Only.ite_iff, implies_true, and_self, and_true, true_and]
      | refine Only.foldl _ (fun _ _ => ?_) _ ?_
      | refine And.intro ?_ ?_
      | intro _
      | split

theorem only_runBatches : ∀ a0 a1 a2, Only [.draws, .out, .orders, .spires, .channels, .parts, .jobs, .mailboxes,
    .running, .workItems, .pipes, .tracks, .orings, .skein, .sec, .hif, .boot] a0 (runBatches a0 a1 a2) := by
  intro a0 a1 a2
  unfold runBatches
  repeat' first
    | with_reducible exact Only.refl _ _
    | assumption
    | simp (disch := decide) only [Only.op_iff (only_passBatches _ _ _ _), Only.op_iff (only_settlePipe _ _),
        Only.op_iff (only_startBatches _ _ _ _), Only.refl, Only.ite_iff, implies_true, and_self, and_true, true_and]
    | refine Only.foldl _ (fun _ _ => ?_) _ ?_
    | refine And.intro ?_ ?_
    | intro _
    | split

theorem only_batchComplete : ∀ a0 a1 a2, Only [.draws, .out, .orders, .spires, .channels, .parts, .jobs, .mailboxes,
    .running, .workItems, .pipes, .tracks, .orings, .skein, .sec, .hif, .boot] a0 (batchComplete a0 a1 a2) := by
  intro a0 a1 a2
  unfold batchComplete
  repeat' first
    | with_reducible exact Only.refl _ _
    | assumption
    | simp (disch := decide) only [Only.op_iff (only_runBatches _ _ _), Only.op_iff (only_setPart _ _ _), Only.refl,
        Only.ite_iff, implies_true, and_self, and_true, true_and]
    | refine Only.foldl _ (fun _ _ => ?_) _ ?_
    | refine And.intro ?_ ?_
    | intro _
    | split

theorem only_beginDrain : ∀ a0 a1 a2, Only [.out, .channels, .parts, .mailboxes, .streams, .hif, .boot] a0
    (beginDrain a0 a1 a2) := by
  intro a0 a1 a2
  unfold beginDrain
  repeat' first
    | with_reducible exact Only.refl _ _
    | assumption
    | simp (disch := decide) only [Only.op_iff (only_dropBobbins _ _ _), Only.op_iff (only_endReads _ _),
        Only.op_iff (only_modStream _ _ _), Only.refl, Only.ite_iff, implies_true, and_self, and_true, true_and]
    | refine Only.foldl _ (fun _ _ => ?_) _ ?_
    | refine And.intro ?_ ?_
    | intro _
    | split

theorem only_readPiece : ∀ a0 a1, Only [.out, .hif] a0 (readPiece a0 a1) := by
  intro a0 a1
  unfold readPiece
  repeat' first
    | with_reducible exact Only.refl _ _
    | assumption
    | simp (disch := decide) only [Only.op_iff (only_issueRead _ _ _ _ _), Only.refl, Only.ite_iff, implies_true,
        and_self, and_true, true_and]
    | refine Only.foldl _ (fun _ _ => ?_) _ ?_
    | refine And.intro ?_ ?_
    | intro _
    | split

theorem only_beginEntry : ∀ a0 a1, Only [.draws, .out, .parts, .streams, .hif] a0 (beginEntry a0 a1) := by
  intro a0 a1
  unfold beginEntry
  repeat' first
    | with_reducible exact Only.refl _ _
    | assumption
    | simp (disch := decide) only [Only.op_iff (only_beginUnit _ _ _ _), Only.op_iff (only_modStream _ _ _),
        Only.op_iff (only_readPiece _ _), Only.refl, Only.ite_iff, implies_true, and_self, and_true, true_and]
    | refine Only.foldl _ (fun _ _ => ?_) _ ?_
    | refine And.intro ?_ ?_
    | intro _
    | split

theorem only_beginOn : ∀ a0 a1 a2 a3, Only [.decoders] a0 (beginOn a0 a1 a2 a3) := by
  intro a0 a1 a2 a3
  unfold beginOn
  repeat' first
    | with_reducible exact Only.refl _ _
    | assumption
    | simp (disch := decide) only [Only.op_iff (only_setDecoder _ _ _), Only.refl, Only.ite_iff, implies_true,
        and_self, and_true, true_and]
    | refine Only.foldl _ (fun _ _ => ?_) _ ?_
    | refine And.intro ?_ ?_
    | intro _
    | split

theorem only_beginRemove : ∀ a0 a1 a2, Only [.out, .parts, .jobs, .mailboxes, .running, .streams, .workItems,
    .pipes, .hif] a0 (beginRemove a0 a1 a2) := by
  intro a0 a1 a2
  unfold beginRemove
  repeat' first
    | with_reducible exact Only.refl _ _
    | assumption
    | simp (disch := decide) only [Only.op_iff (only_endJobWith _ _ _ _ _ _), Only.op_iff (only_modPart _ _ _),
        Only.op_iff (only_setPipe _ _ _), Only.op_iff (only_with_streams _ _), Only.op_iff (only_with_workItems _ _),
        Only.refl, Only.ite_iff, implies_true, and_self, and_true, true_and]
    | refine Only.foldl _ (fun _ _ => ?_) _ ?_
    | refine And.intro ?_ ?_
    | intro _
    | split

theorem only_takePicture : ∀ a0 a1 a2, Only [.out, .channels, .parts, .mailboxes, .pipes, .hif, .boot] a0
    (takePicture a0 a1 a2) := by
  intro a0 a1 a2
  unfold takePicture
  repeat' first
    | with_reducible exact Only.refl _ _
    | assumption
    | simp (disch := decide) only [Only.op_iff (only_countDropped _ _), Only.op_iff (only_modPipe _ _ _),
        Only.op_iff (only_releaseBobbin _ _ _ _), Only.refl, Only.ite_iff, implies_true, and_self, and_true, true_and]
    | refine Only.foldl _ (fun _ _ => ?_) _ ?_
    | refine And.intro ?_ ?_
    | intro _
    | split

theorem only_deliverPicture : ∀ a0 a1 a2, Only [.draws, .out, .orders, .spires, .channels, .parts, .mailboxes,
    .running, .streams, .workItems, .pipes, .tracks, .orings, .skein, .sec, .hif, .boot] a0 (deliverPicture a0 a1
    a2) := by
  intro a0 a1 a2
  unfold deliverPicture
  repeat' first
    | with_reducible exact Only.refl _ _
    | assumption
    | simp (disch := decide) only [Only.op_iff (only_dropBobbins _ _ _), Only.op_iff (only_modStream _ _ _),
        Only.op_iff (only_setPart _ _ _), Only.op_iff (only_settlePipe _ _), Only.op_iff (only_shareBobbin _ _ _ _ _),
        Only.op_iff (only_takePicture _ _ _), Only.refl, Only.ite_iff, implies_true, and_self, and_true, true_and]
    | refine Only.foldl _ (fun _ _ => ?_) _ ?_
    | refine And.intro ?_ ?_
    | intro _
    | split

theorem only_bump : ∀ a0 a1 a2 a3, Only [.draws, .out, .orders, .spires, .channels, .parts, .mailboxes, .running,
    .streams, .workItems, .pipes, .tracks, .orings, .skein, .sec, .hif, .boot] a3 (bump a0 a1 a2 a3) := by
  intro a0 a1 n
  induction n with
  | zero => intro a3; exact Only.refl _ _
  | succ n ih =>
    intro a3
    unfold bump
    repeat' first
      | with_reducible exact Only.refl _ _
      | assumption
      | simp (disch := decide) only [Only.op_iff (ih _), Only.op_iff (only_deliverPicture _ _ _), Only.op_iff
          (only_setStream _ _ _), Only.refl, Only.ite_iff, implies_true, and_self, and_true, true_and]
      | refine Only.foldl _ (fun _ _ => ?_) _ ?_
      | refine And.intro ?_ ?_
      | intro _
      | split

theorem only_bumpTo : ∀ a0 a1 a2, Only [.draws, .out, .orders, .spires, .channels, .parts, .mailboxes, .running,
    .streams, .workItems, .pipes, .tracks, .orings, .skein, .sec, .hif, .boot] a0 (bumpTo a0 a1 a2) := by
  intro a0 a1 a2
  unfold bumpTo
  repeat' first
    | with_reducible exact Only.refl _ _
    | assumption
    | simp (disch := decide) only [Only.op_iff (only_bump _ _ _ _), Only.refl, Only.ite_iff, implies_true, and_self,
        and_true, true_and]
    | refine Only.foldl _ (fun _ _ => ?_) _ ?_
    | refine And.intro ?_ ?_
    | intro _
    | split

theorem only_readEntryOf : ∀ a0 a1, Only [.out, .hif] a0 (readEntryOf a0 a1) := by
  intro a0 a1
  unfold readEntryOf
  repeat' first
    | with_reducible exact Only.refl _ _
    | assumption
    | simp (disch := decide) only [Only.op_iff (only_issueRead _ _ _ _ _), Only.refl, Only.ite_iff, implies_true,
        and_self, and_true, true_and]
    | refine Only.foldl _ (fun _ _ => ?_) _ ?_
    | refine And.intro ?_ ?_
    | intro _
    | split

theorem only_consumeEntry : ∀ a0 a1 a2, Only [.out, .orders, .streams, .hif] a0 (consumeEntry a0 a1 a2) := by
  intro a0 a1 a2
  unfold consumeEntry
  repeat' first
    | with_reducible exact Only.refl _ _
    | assumption
    | simp (disch := decide) only [Only.op_iff (only_completeUnit _ _), Only.op_iff (only_hostWrite _ _ _ _),
        Only.op_iff (only_readEntryOf _ _), Only.op_iff (only_setStream _ _ _), Only.refl, Only.ite_iff, implies_true,
        and_self, and_true, true_and]
    | refine Only.foldl _ (fun _ _ => ?_) _ ?_
    | refine And.intro ?_ ?_
    | intro _
    | split

theorem only_countBad : ∀ a0 a1, Only [.streams] a0 (countBad a0 a1) := by
  intro a0 a1
  unfold countBad
  repeat' first
    | with_reducible exact Only.refl _ _
    | assumption
    | simp (disch := decide) only [Only.op_iff (only_modStream _ _ _), Only.refl, Only.ite_iff, implies_true,
        and_self, and_true, true_and]
    | refine Only.foldl _ (fun _ _ => ?_) _ ?_
    | refine And.intro ?_ ?_
    | intro _
    | split

theorem only_readFailed : ∀ a0 a1 a2 a3, Only [.out, .orders, .mailboxes, .streams, .hif] a0 (readFailed a0 a1 a2
    a3) := by
  intro a0 a1 a2 a3
  unfold readFailed
  repeat' first
    | with_reducible exact Only.refl _ _
    | assumption
    | simp (disch := decide) only [Only.op_iff (only_consumeEntry _ _ _), Only.op_iff (only_countBad _ _),
        Only.op_iff (only_modStream _ _ _), Only.op_iff (only_raiseHostTimeout _ _ _ _), Only.refl, Only.ite_iff,
        implies_true, and_self, and_true, true_and]
    | refine Only.foldl _ (fun _ _ => ?_) _ ?_
    | refine And.intro ?_ ?_
    | intro _
    | split

theorem only_chunkCopyComplete : ∀ a0 a1 a2, Only [.out, .orders, .parts, .mailboxes, .streams, .hif] a0
    (chunkCopyComplete a0 a1 a2) := by
  intro a0 a1 a2
  unfold chunkCopyComplete
  repeat' first
    | with_reducible exact Only.refl _ _
    | assumption
    | simp (disch := decide) only [Only.op_iff (only_appendUnit _ _ _), Only.op_iff (only_consumeEntry _ _ _),
        Only.op_iff (only_endReads _ _), Only.op_iff (only_modStream _ _ _), Only.op_iff (only_readFailed _ _ _ _),
        Only.op_iff (only_readPiece _ _), Only.refl, Only.ite_iff, implies_true, and_self, and_true, true_and]
    | refine Only.foldl _ (fun _ _ => ?_) _ ?_
    | refine And.intro ?_ ?_
    | intro _
    | split

theorem only_cmdClientLimit : ∀ a0 a1, Only [.out, .parts, .mailboxes, .running, .hif] a0 (cmdClientLimit a0 a1) := by
  intro a0 a1
  unfold cmdClientLimit
  repeat' first
    | with_reducible exact Only.refl _ _
    | assumption
    | simp (disch := decide) only [command, Only.op_iff (only_complete _ _ _ _), Only.op_iff (only_modClient _ _ _
        _), onCommand, Only.refl, Only.ite_iff, implies_true, and_self, and_true, true_and]
    | refine Only.foldl _ (fun _ _ => ?_) _ ?_
    | refine And.intro ?_ ?_
    | intro _
    | split

theorem only_cmdClientStats : ∀ a0 a1, Only [.out, .mailboxes, .running, .hif] a0 (cmdClientStats a0 a1) := by
  intro a0 a1
  unfold cmdClientStats
  repeat' first
    | with_reducible exact Only.refl _ _
    | assumption
    | simp (disch := decide) only [command, Only.op_iff (only_complete _ _ _ _), Only.op_iff (only_hostWrite _ _ _
        _), onCommand, Only.refl, Only.ite_iff, implies_true, and_self, and_true, true_and]
    | refine Only.foldl _ (fun _ _ => ?_) _ ?_
    | refine And.intro ?_ ?_
    | intro _
    | split

theorem only_cmdJobAbort : ∀ a0 a1, Only [.out, .jobs, .mailboxes, .running, .hif] a0 (cmdJobAbort a0 a1) := by
  intro a0 a1
  unfold cmdJobAbort
  repeat' first
    | with_reducible exact Only.refl _ _
    | assumption
    | simp (disch := decide) only [command, Only.op_iff (only_complete _ _ _ _), Only.op_iff (only_deferCompletion _
        _), Only.op_iff (only_endJobWith _ _ _ _ _ _), onJob, onCommand, Only.refl, Only.ite_iff, implies_true,
        and_self, and_true, true_and]
    | refine Only.foldl _ (fun _ _ => ?_) _ ?_
    | refine And.intro ?_ ?_
    | intro _
    | split

theorem only_cmdJobPreempt : ∀ a0 a1, Only [.out, .jobs, .mailboxes, .running, .hif] a0 (cmdJobPreempt a0 a1) := by
  intro a0 a1
  unfold cmdJobPreempt
  repeat' first
    | with_reducible exact Only.refl _ _
    | assumption
    | simp (disch := decide) only [command, Only.op_iff (only_complete _ _ _ _), Only.op_iff (only_deferCompletion _
        _), onJob, Only.op_iff (only_setJob _ _ _), onCommand, Only.refl, Only.ite_iff, implies_true, and_self,
        and_true, true_and]
    | refine Only.foldl _ (fun _ _ => ?_) _ ?_
    | refine And.intro ?_ ?_
    | intro _
    | split

theorem only_cmdJobResume : ∀ a0 a1, Only [.out, .orders, .jobs, .mailboxes, .running, .hif] a0 (cmdJobResume a0 a1)
    := by
  intro a0 a1
  unfold cmdJobResume
  repeat' first
    | with_reducible exact Only.refl _ _
    | assumption
    | simp (disch := decide) only [command, Only.op_iff (only_complete _ _ _ _), onJob, Only.op_iff (only_ordered
        _), Only.op_iff (only_setJob _ _ _), onCommand, Only.refl, Only.ite_iff, implies_true, and_self, and_true,
        true_and]
    | refine Only.foldl _ (fun _ _ => ?_) _ ?_
    | refine And.intro ?_ ?_
    | intro _
    | split

theorem only_cmdPipeAttach : ∀ a0 a1, Only [.out, .mailboxes, .running, .streams, .hif] a0 (cmdPipeAttach a0 a1) := by
  intro a0 a1
  unfold cmdPipeAttach
  repeat' first
    | with_reducible exact Only.refl _ _
    | assumption
    | simp (disch := decide) only [command, Only.op_iff (only_complete _ _ _ _), onPipe, onStream, Only.op_iff
        (only_setStream _ _ _), onCommand, Only.refl, Only.ite_iff, implies_true, and_self, and_true, true_and]
    | refine Only.foldl _ (fun _ _ => ?_) _ ?_
    | refine And.intro ?_ ?_
    | intro _
    | split

theorem only_cmdPipeCreate : ∀ a0 a1 a2, Only [.out, .mailboxes, .running, .pipes, .hif] a0 (cmdPipeCreate a0 a1 a2)
    := by
  intro a0 a1 a2
  unfold cmdPipeCreate
  repeat' first
    | with_reducible exact Only.refl _ _
    | assumption
    | simp (disch := decide) only [command, Only.op_iff (only_complete _ _ _ _), Only.op_iff (only_setPipe _ _ _),
        withHost, Only.op_iff (only_endReads _ _), Only.op_iff (only_raiseHostTimeout _ _ _ _), onCommand, Only.refl,
        Only.ite_iff, implies_true, and_self, and_true, true_and]
    | refine Only.foldl _ (fun _ _ => ?_) _ ?_
    | refine And.intro ?_ ?_
    | intro _
    | split

theorem only_leavePipe : ∀ a0 a1 a2, Only [.draws, .out, .orders, .spires, .channels, .parts, .mailboxes, .running,
    .streams, .workItems, .pipes, .tracks, .orings, .skein, .sec, .hif, .boot] a0 (leavePipe a0 a1 a2) := by
  intro a0 a1 a2
  unfold leavePipe
  repeat' first
    | with_reducible exact Only.refl _ _
    | assumption
    | simp (disch := decide) only [Only.op_iff (only_modPipe _ _ _), Only.op_iff (only_setStream _ _ _), Only.op_iff
        (only_settlePipe _ _), Only.refl, Only.ite_iff, implies_true, and_self, and_true, true_and]
    | refine Only.foldl _ (fun _ _ => ?_) _ ?_
    | refine And.intro ?_ ?_
    | intro _
    | split

theorem only_cmdPipeDetach : ∀ a0 a1, Only [.draws, .out, .orders, .spires, .channels, .parts, .mailboxes, .running,
    .streams, .workItems, .pipes, .tracks, .orings, .skein, .sec, .hif, .boot] a0 (cmdPipeDetach a0 a1) := by
  intro a0 a1
  unfold cmdPipeDetach
  repeat' first
    | with_reducible exact Only.refl _ _
    | assumption
    | simp (disch := decide) only [command, Only.op_iff (only_complete _ _ _ _), Only.op_iff (only_deferCompletion _
        _), Only.op_iff (only_leavePipe _ _ _), onPipe, onStream, onCommand, Only.refl, Only.ite_iff, implies_true,
        and_self, and_true, true_and]
    | refine Only.foldl _ (fun _ _ => ?_) _ ?_
    | refine And.intro ?_ ?_
    | intro _
    | split

theorem only_cmdPipeRemove : ∀ a0 a1, Only [.draws, .out, .orders, .spires, .channels, .parts, .jobs, .mailboxes,
    .running, .streams, .workItems, .pipes, .tracks, .orings, .skein, .sec, .hif, .boot] a0 (cmdPipeRemove a0 a1) :=
    by
  intro a0 a1
  unfold cmdPipeRemove
  repeat' first
    | with_reducible exact Only.refl _ _
    | assumption
    | simp (disch := decide) only [Only.op_iff (only_beginRemove _ _ _), command, Only.op_iff (only_complete _ _ _
        _), Only.op_iff (only_deferCompletion _ _), onPipe, Only.op_iff (only_settlePipe _ _), onCommand, Only.refl,
        Only.ite_iff, implies_true, and_self, and_true, true_and]
    | refine Only.foldl _ (fun _ _ => ?_) _ ?_
    | refine And.intro ?_ ?_
    | intro _
    | split

theorem only_cmdPortConfig : ∀ a0 a1, Only [.out, .mailboxes, .running, .netPorts, .hif] a0 (cmdPortConfig a0 a1) :=
    by
  intro a0 a1
  unfold cmdPortConfig
  repeat' first
    | with_reducible exact Only.refl _ _
    | assumption
    | simp (disch := decide) only [command, Only.op_iff (only_complete _ _ _ _), Only.op_iff (only_setNetPort _ _
        _), onCommand, Only.refl, Only.ite_iff, implies_true, and_self, and_true, true_and]
    | refine Only.foldl _ (fun _ _ => ?_) _ ?_
    | refine And.intro ?_ ?_
    | intro _
    | split

theorem only_cmdPrepSubmit : ∀ a0 a1, Only [.draws, .out, .orders, .channels, .parts, .mailboxes, .running,
    .workItems, .hif, .boot] a0 (cmdPrepSubmit a0 a1) := by
  intro a0 a1
  unfold cmdPrepSubmit
  repeat' first
    | with_reducible exact Only.refl _ _
    | assumption
    | simp (disch := decide) only [command, Only.op_iff (only_complete _ _ _ _), onPipe, Only.op_iff
        (only_submitRequest _ _ _ _ _), onCommand, Only.refl, Only.ite_iff, implies_true, and_self, and_true,
        true_and]
    | refine Only.foldl _ (fun _ _ => ?_) _ ?_
    | refine And.intro ?_ ?_
    | intro _
    | split

theorem only_cmdQueueCreate : ∀ a0 a1, Only [.out, .parts, .mailboxes, .running, .hif] a0 (cmdQueueCreate a0 a1) := by
  intro a0 a1
  unfold cmdQueueCreate
  repeat' first
    | with_reducible exact Only.refl _ _
    | assumption
    | simp (disch := decide) only [command, Only.op_iff (only_complete _ _ _ _), onPipe, Only.op_iff
        (only_setBatchQueue _ _ _ _), onCommand, Only.refl, Only.ite_iff, implies_true, and_self, and_true, true_and]
    | refine Only.foldl _ (fun _ _ => ?_) _ ?_
    | refine And.intro ?_ ?_
    | intro _
    | split

theorem only_setSeqs : ∀ a0 a1 a2, Only [.jobs] a0 (setSeqs a0 a1 a2) := by
  intro a0 a1 a2
  unfold setSeqs
  repeat' first
    | with_reducible exact Only.refl _ _
    | assumption
    | simp (disch := decide) only [Only.op_iff (only_setJob _ _ _), Only.refl, Only.ite_iff, implies_true, and_self,
        and_true, true_and]
    | refine Only.foldl _ (fun _ _ => ?_) _ ?_
    | refine And.intro ?_ ?_
    | intro _
    | split

theorem only_cmdSeqJoin : ∀ a0 a1, Only [.out, .jobs, .mailboxes, .running, .hif] a0 (cmdSeqJoin a0 a1) := by
  intro a0 a1
  unfold cmdSeqJoin
  repeat' first
    | with_reducible exact Only.refl _ _
    | assumption
    | simp (disch := decide) only [command, Only.op_iff (only_complete _ _ _ _), onSeqs, Only.op_iff (only_setSeqs _
        _ _), onCommand, Only.refl, Only.ite_iff, implies_true, and_self, and_true, true_and]
    | refine Only.foldl _ (fun _ _ => ?_) _ ?_
    | refine And.intro ?_ ?_
    | intro _
    | split

theorem only_cmdSeqLeave : ∀ a0 a1, Only [.out, .jobs, .mailboxes, .running, .hif] a0 (cmdSeqLeave a0 a1) := by
  intro a0 a1
  unfold cmdSeqLeave
  repeat' first
    | with_reducible exact Only.refl _ _
    | assumption
    | simp (disch := decide) only [command, Only.op_iff (only_complete _ _ _ _), onSeqs, Only.op_iff (only_setSeqs _
        _ _), onCommand, Only.refl, Only.ite_iff, implies_true, and_self, and_true, true_and]
    | refine Only.foldl _ (fun _ _ => ?_) _ ?_
    | refine And.intro ?_ ?_
    | intro _
    | split

theorem only_cmdStreamClose : ∀ a0 a1, Only [.out, .channels, .parts, .mailboxes, .running, .streams, .hif, .boot]
    a0 (cmdStreamClose a0 a1) := by
  intro a0 a1
  unfold cmdStreamClose
  repeat' first
    | with_reducible exact Only.refl _ _
    | assumption
    | simp (disch := decide) only [Only.op_iff (only_beginDrain _ _ _), command, Only.op_iff (only_complete _ _ _
        _), Only.op_iff (only_deferCompletion _ _), onCommand, Only.refl, Only.ite_iff, implies_true, and_self,
        and_true, true_and]
    | refine Only.foldl _ (fun _ _ => ?_) _ ?_
    | refine And.intro ?_ ?_
    | intro _
    | split

theorem only_reportLtr : ∀ a0 a1, Only [.out] a1 (reportLtr a0 a1) := by
  intro a0 a1
  unfold reportLtr
  repeat' first
    | with_reducible exact Only.refl _ _
    | assumption
    | simp (disch := decide) only [Only.op_iff (only_emit _ _), Only.refl, Only.ite_iff, implies_true, and_self,
        and_true, true_and]
    | refine Only.foldl _ (fun _ _ => ?_) _ ?_
    | refine And.intro ?_ ?_
    | intro _
    | split

theorem only_cmdStreamOpen : ∀ a0 a1, Only [.out, .mailboxes, .running, .streams, .hif] a0 (cmdStreamOpen a0 a1) := by
  intro a0 a1
  unfold cmdStreamOpen
  repeat' first
    | with_reducible exact Only.refl _ _
    | assumption
    | simp (disch := decide) only [command, Only.op_iff (only_complete _ _ _ _), Only.op_iff (only_reportLtr _ _),
        Only.op_iff (only_setStream _ _ _), onCommand, Only.refl, Only.ite_iff, implies_true, and_self, and_true,
        true_and]
    | refine Only.foldl _ (fun _ _ => ?_) _ ?_
    | refine And.intro ?_ ?_
    | intro _
    | split

theorem only_completePreempt : ∀ a0 a1 a2, Only [.out, .mailboxes, .running, .hif] a0 (completePreempt a0 a1 a2) := by
  intro a0 a1 a2
  unfold completePreempt
  repeat' first
    | with_reducible exact Only.refl _ _
    | assumption
    | simp (disch := decide) only [Only.op_iff (only_complete _ _ _ _), Only.refl, Only.ite_iff, implies_true,
        and_self, and_true, true_and]
    | refine Only.foldl _ (fun _ _ => ?_) _ ?_
    | refine And.intro ?_ ?_
    | intro _
    | split

theorem only_handleEntry : ∀ a0 a1 a2, Only [.draws, .out, .orders, .parts, .streams, .hif] a0 (handleEntry a0 a1
    a2) := by
  intro a0 a1 a2
  unfold handleEntry
  repeat' first
    | with_reducible exact Only.refl _ _
    | assumption
    | simp (disch := decide) only [Only.op_iff (only_beginEntry _ _), Only.op_iff (only_completeUnit _ _),
        Only.op_iff (only_consumeEntry _ _ _), Only.op_iff (only_countBad _ _), Only.op_iff (only_modStream _ _ _),
        Only.refl, Only.ite_iff, implies_true, and_self, and_true, true_and]
    | refine Only.foldl _ (fun _ _ => ?_) _ ?_
    | refine And.intro ?_ ?_
    | intro _
    | split

theorem only_ringEntryRead : ∀ a0 a1 a2, Only [.draws, .out, .orders, .parts, .mailboxes, .streams, .hif] a0
    (ringEntryRead a0 a1 a2) := by
  intro a0 a1 a2
  unfold ringEntryRead
  repeat' first
    | with_reducible exact Only.refl _ _
    | assumption
    | simp (disch := decide) only [Only.op_iff (only_beginEntry _ _), Only.op_iff (only_endReads _ _), Only.op_iff
        (only_handleEntry _ _ _), Only.op_iff (only_readFailed _ _ _ _), Only.refl, Only.ite_iff, implies_true,
        and_self, and_true, true_and]
    | refine Only.foldl _ (fun _ _ => ?_) _ ?_
    | refine And.intro ?_ ?_
    | intro _
    | split

theorem only_workItemComplete : ∀ a0 a1 a2, Only [.out, .channels, .parts, .mailboxes, .prepUnits, .workItems,
    .prepSat, .prepUfl, .pipes, .hif, .boot] a0 (workItemComplete a0 a1 a2) := by
  intro a0 a1 a2
  unfold workItemComplete
  repeat' first
    | with_reducible exact Only.refl _ _
    | assumption
    | simp (disch := decide) only [Only.op_iff (only_finishItem _ _ _ _), Only.op_iff (only_modPipe _ _ _),
        Only.refl, Only.ite_iff, implies_true, and_self, and_true, true_and]
    | refine Only.foldl _ (fun _ _ => ?_) _ ?_
    | refine And.intro ?_ ?_
    | intro _
    | split

theorem only_contextSwitch : ∀ a0 a1 a2, Only [.decoders, .suspended] a0 (contextSwitch a0 a1 a2) := by
  intro a0 a1 a2
  unfold contextSwitch
  repeat' first
    | with_reducible exact Only.refl _ _
    | assumption
    | simp (disch := decide) only [Only.op_iff (only_setDecoder _ _ _), Only.op_iff (only_with_suspended _ _),
        Only.refl, Only.ite_iff, implies_true, and_self, and_true, true_and]
    | refine Only.foldl _ (fun _ _ => ?_) _ ?_
    | refine And.intro ?_ ?_
    | intro _
    | split

theorem only_endSeqs : ∀ a0 a1, Only [.draws, .out, .parts, .jobs, .orings, .hif] a0 (endSeqs a0 a1) := by
  intro a0 a1
  unfold endSeqs
  repeat' first
    | with_reducible exact Only.refl _ _
    | assumption
    | simp (disch := decide) only [Only.op_iff (only_releaseHolds _ _ _), Only.op_iff (only_setJob _ _ _),
        Only.op_iff (only_writeRecord _ _ _ _), Only.refl, Only.ite_iff, implies_true, and_self, and_true, true_and]
    | refine Only.foldl _ (fun _ _ => ?_) _ ?_
    | refine And.intro ?_ ?_
    | intro _
    | split

theorem only_releaseCounts : ∀ a0 a1, Only [.spindles, .spires, .jobs] a0 (releaseCounts a0 a1) := by
  intro a0 a1
  unfold releaseCounts
  repeat' first
    | with_reducible exact Only.refl _ _
    | assumption
    | simp (disch := decide) only [Only.op_iff (only_returnUnits _ _ _ _), Only.op_iff (only_setJob _ _ _),
        Only.refl, Only.ite_iff, implies_true, and_self, and_true, true_and]
    | refine Only.foldl _ (fun _ _ => ?_) _ ?_
    | refine And.intro ?_ ?_
    | intro _
    | split

theorem only_stopUnits : ∀ a0 a1, Only [.draws, .spindles, .spires, .parts] a0 (stopUnits a0 a1) := by
  intro a0 a1
  unfold stopUnits
  repeat' first
    | with_reducible exact Only.refl _ _
    | assumption
    | simp (disch := decide) only [Only.op_iff (only_setSpindle _ _ _), Only.op_iff (only_setSpire _ _ _),
        Only.op_iff (only_undefDest _ _ _ _ _), Only.refl, Only.ite_iff, implies_true, and_self, and_true, true_and]
    | refine Only.foldl _ (fun _ _ => ?_) _ ?_
    | refine And.intro ?_ ?_
    | intro _
    | split

theorem only_endSteps : ∀ a0 a1, Only [.draws, .out, .spindles, .spires, .channels, .parts, .jobs, .mailboxes,
    .running, .orings, .skein, .hif, .boot] a0 (endSteps a0 a1) := by
  intro a0 a1
  unfold endSteps
  repeat' first
    | with_reducible exact Only.refl _ _
    | assumption
    | simp (disch := decide) only [Only.op_iff (only_endSeqs _ _), Only.op_iff (only_formAnswer _ _ _), Only.op_iff
        (only_releaseCounts _ _), Only.op_iff (only_setJob _ _ _), Only.op_iff (only_settleQueues _ _), Only.op_iff
        (only_stopUnits _ _), Only.op_iff (only_withdrawAll _ _), Only.refl, Only.ite_iff, implies_true, and_self,
        and_true, true_and]
    | refine Only.foldl _ (fun _ _ => ?_) _ ?_
    | refine And.intro ?_ ?_
    | intro _
    | split

theorem only_frameReceive : ∀ a0 a1 a2 a3, Only [.draws, .out, .orders, .channels, .parts, .mailboxes, .streams,
    .netPorts, .hif, .boot] a0 (frameReceive a0 a1 a2 a3) := by
  intro a0 a1 a2 a3
  unfold frameReceive
  repeat' first
    | with_reducible exact Only.refl _ _
    | assumption
    | simp (disch := decide) only [Only.op_iff (only_acceptFrame _ _ _ _), Only.op_iff (only_setNetPort _ _ _),
        Only.refl, Only.ite_iff, implies_true, and_self, and_true, true_and]
    | refine Only.foldl _ (fun _ _ => ?_) _ ?_
    | refine And.intro ?_ ?_
    | intro _
    | split

theorem only_restoreJob : ∀ a0 a1, Only [.spindles, .spires, .jobs] a0 (restoreJob a0 a1) := by
  intro a0 a1
  unfold restoreJob
  repeat' first
    | with_reducible exact Only.refl _ _
    | assumption
    | simp (disch := decide) only [Only.op_iff (only_setJob _ _ _), Only.op_iff (only_setSpindle _ _ _), Only.op_iff
        (only_setSpire _ _ _), Only.refl, Only.ite_iff, implies_true, and_self, and_true, true_and]
    | refine Only.foldl _ (fun _ _ => ?_) _ ?_
    | refine And.intro ?_ ?_
    | intro _
    | split

theorem only_joinSeq : ∀ s j n k p, Only [.draws, .parts, .jobs] s (joinSeq s j n k p).1 := by
  intro s j n k p
  unfold joinSeq
  repeat' first
    | exact Only.refl _ _
    | refine Only.step ?_ (only_setSeqs _ _ _) (by decide)
    | refine Only.step ?_ (only_groupAcquire _ _ _) (by decide)
    | split
    | dsimp only

theorem only_joinSeqs : ∀ j n k l s, Only [.draws, .parts, .jobs] s (joinSeqs j n k l s).1 := by
  intro j n k l
  induction l with
  | nil => intro s; exact Only.refl _ _
  | cons p r ih =>
    intro s
    have e := only_joinSeq s j n k p
    rcases hq : joinSeq s j n k p with ⟨t, _ | q⟩
    · rw [hq] at e; simp only [joinSeqs, hq]; exact e
    · rw [hq] at e; simp only [joinSeqs, hq]; exact e.trans (ih t)

theorem only_seqStep : ∀ a0 a1, Only [.draws, .out, .spindles, .spires, .channels, .parts, .jobs, .mailboxes,
    .running, .orings, .hif, .boot] a0 (seqStep a0 a1) := by
  intro a0 a1
  unfold seqStep
  repeat' first
    | with_reducible exact Only.refl _ _
    | assumption
    | simp (disch := decide) only [Only.op_iff (only_dramUncorrectable _ _ _ _ _), Only.op_iff (only_endJobWith _ _
        _ _ _ _), Only.op_iff (only_joinSeqs _ _ _ _ _), Only.op_iff (only_regionWrite _ _ _ _), Only.op_iff
        (only_releaseHolds _ _ _), Only.op_iff (only_setSeqs _ _ _), Only.op_iff (only_writeRecord _ _ _ _),
        Only.refl, Only.ite_iff, implies_true, and_self, and_true, true_and]
    | refine Only.step ?_ (only_releaseUnits _ _ _ _ _ _ (by assumption)) (by decide)
    | refine Only.foldl _ (fun _ _ => ?_) _ ?_
    | refine And.intro ?_ ?_
    | intro _
    | split

theorem only_runJob : ∀ a0 a1, Only [.draws, .out, .spindles, .spires, .channels, .parts, .jobs, .mailboxes,
    .running, .orings, .hif, .boot] a0 (runJob a0 a1) := by
  intro a0 a1
  unfold runJob
  repeat' first
    | with_reducible exact Only.refl _ _
    | assumption
    | simp (disch := decide) only [Only.op_iff (only_seqStep _ _), Only.op_iff (only_setJob _ _ _), Only.op_iff
        (only_setSpindle _ _ _), Only.op_iff (only_setSpire _ _ _), Only.refl, Only.ite_iff, implies_true, and_self,
        and_true, true_and]
    | refine Only.foldl _ (fun _ _ => ?_) _ ?_
    | refine And.intro ?_ ?_
    | intro _
    | split

theorem only_jobDispatch : ∀ a0 a1, Only [.draws, .out, .spindles, .spires, .channels, .parts, .jobs, .mailboxes,
    .running, .orings, .hif, .boot] a0 (jobDispatch a0 a1) := by
  intro a0 a1
  unfold jobDispatch
  repeat' first
    | with_reducible exact Only.refl _ _
    | assumption
    | simp (disch := decide) only [Only.op_iff (only_restoreJob _ _), Only.op_iff (only_runJob _ _), Only.refl,
        Only.ite_iff, implies_true, and_self, and_true, true_and]
    | refine Only.foldl _ (fun _ _ => ?_) _ ?_
    | refine And.intro ?_ ?_
    | intro _
    | split

theorem only_freeUnits : ∀ a0 a1, Only [.spindles, .spires] a0 (freeUnits a0 a1) := by
  intro a0 a1
  unfold freeUnits
  repeat' first
    | with_reducible exact Only.refl _ _
    | assumption
    | simp (disch := decide) only [Only.op_iff (only_setSpindle _ _ _), Only.op_iff (only_setSpire _ _ _),
        Only.refl, Only.ite_iff, implies_true, and_self, and_true, true_and]
    | refine Only.foldl _ (fun _ _ => ?_) _ ?_
    | refine And.intro ?_ ?_
    | intro _
    | split

theorem only_stageJobEnded : ∀ a0 a1 a2 a3, Only [.draws, .out, .orders, .spires, .channels, .parts, .jobs,
    .mailboxes, .running, .workItems, .pipes, .tracks, .orings, .skein, .sec, .hif, .boot] a0 (stageJobEnded a0 a1
    a2 a3) := by
  intro a0 a1 a2 a3
  unfold stageJobEnded
  repeat' first
    | with_reducible exact Only.refl _ _
    | assumption
    | simp (disch := decide) only [Only.op_iff (only_runBatches _ _ _), Only.op_iff (only_setBatchQueue _ _ _ _),
        Only.op_iff (only_settlePipe _ _), Only.refl, Only.ite_iff, implies_true, and_self, and_true, true_and]
    | refine Only.foldl _ (fun _ _ => ?_) _ ?_
    | refine And.intro ?_ ?_
    | intro _
    | split

theorem only_finishJob : ∀ a0 a1, Only [.draws, .out, .orders, .spindles, .spires, .channels, .parts, .jobs,
    .mailboxes, .running, .workItems, .pipes, .tracks, .orings, .skein, .sec, .hif, .boot] a0 (finishJob a0 a1) :=
    by
  intro a0 a1
  unfold finishJob
  repeat' first
    | with_reducible exact Only.refl _ _
    | assumption
    | simp (disch := decide) only [Only.op_iff (only_completeWaiting _ _ _ _ _), Only.op_iff (only_freeUnits _ _),
        Only.op_iff (only_modClient _ _ _ _), Only.op_iff (only_ordered _), Only.op_iff (only_postJobEnd _ _ _ _),
        Only.op_iff (only_releaseHolds _ _ _), Only.op_iff (only_setJob _ _ _), Only.op_iff (only_stageJobEnded _ _ _
        _), Only.refl, Only.ite_iff, implies_true, and_self, and_true, true_and]
    | refine Only.foldl _ (fun _ _ => ?_) _ ?_
    | refine And.intro ?_ ?_
    | intro _
    | split

theorem only_jobEnd : ∀ a0 a1, Only [.draws, .out, .orders, .spindles, .spires, .channels, .parts, .jobs,
    .mailboxes, .running, .workItems, .pipes, .tracks, .orings, .skein, .sec, .hif, .boot] a0 (jobEnd a0 a1) := by
  intro a0 a1
  unfold jobEnd
  repeat' first
    | with_reducible exact Only.refl _ _
    | assumption
    | simp (disch := decide) only [Only.op_iff (only_endSteps _ _), Only.op_iff (only_finishJob _ _), Only.refl,
        Only.ite_iff, implies_true, and_self, and_true, true_and]
    | refine Only.foldl _ (fun _ _ => ?_) _ ?_
    | refine And.intro ?_ ?_
    | intro _
    | split

theorem only_liveRequestDrop : ∀ a0 a1 a2, Only [.draws, .out, .orders, .spires, .channels, .parts, .mailboxes,
    .running, .workItems, .pipes, .tracks, .orings, .skein, .sec, .hif, .boot] a0 (liveRequestDrop a0 a1 a2) := by
  intro a0 a1 a2
  unfold liveRequestDrop
  repeat' first
    | with_reducible exact Only.refl _ _
    | assumption
    | simp (disch := decide) only [Only.op_iff (only_modPipe _ _ _), Only.op_iff (only_runQueue _ _ _), Only.op_iff
        (only_setBatchQueue _ _ _ _), Only.op_iff (only_settlePipe _ _), Only.refl, Only.ite_iff, implies_true,
        and_self, and_true, true_and]
    | refine Only.foldl _ (fun _ _ => ?_) _ ?_
    | refine And.intro ?_ ?_
    | intro _
    | split

theorem only_medRingDoorbell : ∀ a0 a1 a2 a3, Only [.out, .streams, .hif] a0 (medRingDoorbell a0 a1 a2 a3) := by
  intro a0 a1 a2 a3
  unfold medRingDoorbell
  repeat' first
    | with_reducible exact Only.refl _ _
    | assumption
    | simp (disch := decide) only [Only.op_iff (only_readEntryOf _ _), Only.op_iff (only_setStream _ _ _),
        Only.refl, Only.ite_iff, implies_true, and_self, and_true, true_and]
    | refine Only.foldl _ (fun _ _ => ?_) _ ?_
    | refine And.intro ?_ ?_
    | intro _
    | split

theorem only_joinTrack : ∀ a0 a1 a2 a3 a4 a5, Only [.draws, .parts, .streams, .tracks] a0 (joinTrack a0 a1 a2 a3 a4
    a5).1 := by
  intro a0 a1 a2 a3 a4 a5
  unfold joinTrack
  dsimp only
  split
  · exact Only.refl _ _
  · split
    · exact Only.refl _ _
    · split
      · exact (only_acquireBobbin _ _ _ _).mono (by decide)
      · exact Only.step (Only.step (Only.step (Only.refl _ _) (only_acquireBobbin _ _ _ _) (by decide)) (only_setStream _ _ _)
          (by decide)) (only_with_tracks _ _) (by decide)

theorem only_joinNext : ∀ a0 a1 a2 a3 (a4 : State × List Track × List DeferredJoin) a5,
    Only [.draws, .parts, .streams, .tracks] a4.1 (joinNext a0 a1 a2 a3 a4 a5).1 := by
  intro a0 a1 a2 a3 a4 a5
  unfold joinNext
  dsimp only
  have h := only_joinTrack a4.1 a0 a1 a2 a3 a5.box
  generalize joinTrack a4.1 a0 a1 a2 a3 a5.box = r at h
  by_cases hc : (!a4.2.2.isEmpty) = true
  · rw [if_pos hc]; exact Only.refl _ _
  · rw [if_neg hc]
    obtain ⟨t, _ | k⟩ := r
    · exact h
    · exact h

theorem only_joinAll : ∀ a0 a1 a2 a3 a4 a5, Only [.draws, .parts, .streams, .tracks] a5 (joinAll a0 a1 a2 a3 a4
    a5).1 := by
  intro a0 a1 a2 a3 l s
  unfold joinAll
  suffices h : ∀ a : State × List Track × List DeferredJoin, Only [.draws, .parts, .streams, .tracks] s a.1 →
      Only [.draws, .parts, .streams, .tracks] s (l.foldl (joinNext a0 a1 a2 a3) a).1 from h _ (Only.refl _ _)
  induction l with
  | nil => intro a h; exact h
  | cons j r ih => intro a h; exact ih _ (h.trans (only_joinNext _ _ _ _ _ _))

theorem only_finishStep : ∀ a0 a1 a2 a3 a4, Only [.draws, .out, .orders, .spires, .channels, .parts, .mailboxes,
    .running, .streams, .workItems, .pipes, .tracks, .orings, .skein, .sec, .hif, .boot] a0 (finishStep a0 a1 a2 a3
    a4) := by
  intro a0 a1 a2 a3 a4
  unfold finishStep
  repeat' first
    | with_reducible exact Only.refl _ _
    | assumption
    | simp (disch := decide) only [Only.op_iff (only_dropTrack _ _ _), Only.op_iff (only_joinAll _ _ _ _ _ _),
        Only.op_iff (only_modPicture _ _ _ _), Only.op_iff (only_modPipe _ _ _), Only.op_iff (only_settlePipe _ _),
        Only.op_iff (only_with_draws_tracks _ _ _), Only.refl, Only.ite_iff, implies_true, and_self, and_true,
        true_and]
    | refine Only.foldl _ (fun _ _ => ?_) _ ?_
    | refine And.intro ?_ ?_
    | intro _
    | split

theorem only_stepWithoutSearch : ∀ a0 a1 a2 a3 a4, Only [.draws, .out, .orders, .spires, .channels, .parts,
    .mailboxes, .running, .streams, .workItems, .pipes, .tracks, .orings, .skein, .sec, .hif, .boot] a0
    (stepWithoutSearch a0 a1 a2 a3 a4) := by
  intro a0 a1 a2 a3 a4
  unfold stepWithoutSearch
  repeat' first
    | with_reducible exact Only.refl _ _
    | assumption
    | simp (disch := decide) only [Only.op_iff (only_drawn _), Only.op_iff (only_finishStep _ _ _ _ _), Only.refl,
        Only.ite_iff, implies_true, and_self, and_true, true_and]
    | refine Only.foldl _ (fun _ _ => ?_) _ ?_
    | refine And.intro ?_ ?_
    | intro _
    | split

theorem only_motionSearchComplete : ∀ a0 a1, Only [.draws, .out, .orders, .spires, .channels, .parts, .mailboxes,
    .running, .streams, .motion, .workItems, .pipes, .tracks, .orings, .skein, .sec, .hif, .boot] a0
    (motionSearchComplete a0 a1) := by
  intro a0 a1
  unfold motionSearchComplete
  repeat' first
    | with_reducible exact Only.refl _ _
    | assumption
    | simp (disch := decide) only [Only.op_iff (only_completeSearch _ _), Only.op_iff (only_dramUncorrectable _ _ _
        _ _), Only.op_iff (only_finishStep _ _ _ _ _), Only.op_iff (only_setMotion _ _ _), Only.op_iff
        (only_stepWithoutSearch _ _ _ _ _), Only.refl, Only.ite_iff, implies_true, and_self, and_true, true_and]
    | refine Only.foldl _ (fun _ _ => ?_) _ ?_
    | refine And.intro ?_ ?_
    | intro _
    | split

theorem only_outputPicture : ∀ a0 a1 a2 a3, Only [.draws, .out, .orders, .spires, .channels, .parts, .mailboxes,
    .running, .streams, .workItems, .pipes, .tracks, .orings, .skein, .sec, .hif, .boot] a0 (outputPicture a0 a1 a2
    a3) := by
  intro a0 a1 a2 a3
  unfold outputPicture
  repeat' first
    | with_reducible exact Only.refl _ _
    | assumption
    | simp (disch := decide) only [Only.op_iff (only_bumpTo _ _ _), Only.op_iff (only_modStream _ _ _), Only.refl,
        Only.ite_iff, implies_true, and_self, and_true, true_and]
    | refine Only.foldl _ (fun _ _ => ?_) _ ?_
    | refine And.intro ?_ ?_
    | intro _
    | split

theorem only_rejectPicture : ∀ a0 a1 a2 a3 a4, Only [.out, .channels, .parts, .mailboxes, .streams, .hif, .boot] a0
    (rejectPicture a0 a1 a2 a3 a4) := by
  intro a0 a1 a2 a3 a4
  unfold rejectPicture
  repeat' first
    | with_reducible exact Only.refl _ _
    | assumption
    | simp (disch := decide) only [Only.op_iff (only_enterSeek _ _), Only.op_iff (only_losePicture _ _ _ _),
        Only.op_iff (only_modStream _ _ _), Only.op_iff (only_raiseEvent _ _ _ _), Only.op_iff (only_setLife _ _),
        Only.refl, Only.ite_iff, implies_true, and_self, and_true, true_and]
    | refine Only.foldl _ (fun _ _ => ?_) _ ?_
    | refine And.intro ?_ ?_
    | intro _
    | split

theorem only_updateRefs : ∀ a0 a1 a2 a3, Only [.out, .channels, .parts, .mailboxes, .streams, .hif, .boot] a0
    (updateRefs a0 a1 a2 a3) := by
  intro a0 a1 a2 a3
  unfold updateRefs
  repeat' first
    | with_reducible exact Only.refl _ _
    | assumption
    | simp (disch := decide) only [Only.op_iff (only_dropBobbins _ _ _), Only.op_iff (only_modStream _ _ _),
        Only.refl, Only.ite_iff, implies_true, and_self, and_true, true_and]
    | refine Only.foldl _ (fun _ _ => ?_) _ ?_
    | refine And.intro ?_ ?_
    | intro _
    | split

theorem only_pictureComplete : ∀ a0 a1 a2 a3 a4, Only [.draws, .out, .orders, .spires, .channels, .parts,
    .mailboxes, .running, .streams, .decoders, .workItems, .pipes, .tracks, .orings, .skein, .sec, .hif, .boot] a0
    (pictureComplete a0 a1 a2 a3 a4) := by
  intro a0 a1 a2 a3 a4
  unfold pictureComplete
  repeat' first
    | with_reducible exact Only.refl _ _
    | assumption
    | simp (disch := decide) only [Only.op_iff (only_abandonPicture _ _ _ _), Only.op_iff (only_dramUncorrectable _
        _ _ _ _), Only.op_iff (only_drawn _), Only.op_iff (only_dropBobbins _ _ _), Only.op_iff (only_engineDone _ _),
        Only.op_iff (only_modStream _ _ _), onEngine, Only.op_iff (only_outputPicture _ _ _ _), Only.op_iff
        (only_rejectPicture _ _ _ _ _), Only.op_iff (only_setPart _ _ _), Only.op_iff (only_updateRefs _ _ _ _),
        Only.refl, Only.ite_iff, implies_true, and_self, and_true, true_and]
    | refine Only.foldl _ (fun _ _ => ?_) _ ?_
    | refine And.intro ?_ ?_
    | intro _
    | split

theorem only_pictureDrop : ∀ a0 a1, Only [.out, .channels, .parts, .mailboxes, .streams, .hif, .boot] a0
    (pictureDrop a0 a1) := by
  intro a0 a1
  unfold pictureDrop
  repeat' first
    | with_reducible exact Only.refl _ _
    | assumption
    | simp (disch := decide) only [Only.op_iff (only_enterSeek _ _), Only.op_iff (only_losePicture _ _ _ _),
        Only.op_iff (only_modStream _ _ _), Only.refl, Only.ite_iff, implies_true, and_self, and_true, true_and]
    | refine Only.foldl _ (fun _ _ => ?_) _ ?_
    | refine And.intro ?_ ?_
    | intro _
    | split

theorem only_pictureReject : ∀ a0 a1 a2 a3, Only [.out, .channels, .parts, .mailboxes, .streams, .decoders, .hif,
    .boot] a0 (pictureReject a0 a1 a2 a3) := by
  intro a0 a1 a2 a3
  unfold pictureReject
  repeat' first
    | with_reducible exact Only.refl _ _
    | assumption
    | simp (disch := decide) only [Only.op_iff (only_abandonPicture _ _ _ _), Only.op_iff (only_engineDone _ _),
        onEngine, Only.op_iff (only_rejectPicture _ _ _ _ _), Only.refl, Only.ite_iff, implies_true, and_self,
        and_true, true_and]
    | refine Only.foldl _ (fun _ _ => ?_) _ ?_
    | refine And.intro ?_ ?_
    | intro _
    | split

theorem only_startUnit : ∀ a0 a1 a2 a3 a4, Only [.draws, .out, .channels, .parts, .mailboxes, .streams, .decoders,
    .hif, .boot] a0 (startUnit a0 a1 a2 a3 a4) := by
  intro a0 a1 a2 a3 a4
  unfold startUnit
  repeat' first
    | with_reducible exact Only.refl _ _
    | assumption
    | simp (disch := decide) only [Only.op_iff (only_acquirePicture _ _ _ _), Only.op_iff (only_beginOn _ _ _ _),
        Only.op_iff (only_dropBobbins _ _ _), Only.op_iff (only_engineDone _ _), Only.op_iff (only_modStream _ _ _),
        Only.op_iff (only_rejectPicture _ _ _ _ _), Only.op_iff (only_setStream _ _ _), Only.refl, Only.ite_iff,
        implies_true, and_self, and_true, true_and]
    | refine Only.foldl _ (fun _ _ => ?_) _ ?_
    | refine And.intro ?_ ?_
    | intro _
    | refine Only.step ?_ (only_acquirePicture_eq (by assumption)) (by decide)
    | split

theorem only_pictureStart : ∀ a0 a1 a2, Only [.draws, .out, .channels, .parts, .mailboxes, .streams, .decoders,
    .suspended, .hif, .boot] a0 (pictureStart a0 a1 a2) := by
  intro a0 a1 a2
  unfold pictureStart
  repeat' first
    | with_reducible exact Only.refl _ _
    | assumption
    | simp (disch := decide) only [Only.op_iff (only_beginOn _ _ _ _), Only.op_iff (only_modStream _ _ _),
        Only.op_iff (only_setDecoder _ _ _), Only.op_iff (only_startUnit _ _ _ _ _), Only.op_iff (only_with_suspended
        _ _), Only.refl, Only.ite_iff, implies_true, and_self, and_true, true_and]
    | refine Only.foldl _ (fun _ _ => ?_) _ ?_
    | refine And.intro ?_ ?_
    | intro _
    | split

theorem only_recordWrite : ∀ a0 a1, Only [.draws, .out, .orders, .spires, .channels, .parts, .mailboxes, .running,
    .workItems, .pipes, .tracks, .orings, .skein, .sec, .hif, .boot] a0 (recordWrite a0 a1) := by
  intro a0 a1
  unfold recordWrite
  repeat' first
    | with_reducible exact Only.refl _ _
    | assumption
    | simp (disch := decide) only [Only.op_iff (only_settlePipe _ _), Only.op_iff (only_writeWaiting _ _),
        Only.refl, Only.ite_iff, implies_true, and_self, and_true, true_and]
    | refine Only.foldl _ (fun _ _ => ?_) _ ?_
    | refine And.intro ?_ ?_
    | intro _
    | split

theorem only_restoreComplete : ∀ a0 a1 a2, Only [.draws, .out, .spindles, .spires, .channels, .jobs, .mailboxes,
    .running, .hif, .boot] a0 (restoreComplete a0 a1 a2) := by
  intro a0 a1 a2
  unfold restoreComplete
  repeat' first
    | with_reducible exact Only.refl _ _
    | assumption
    | simp (disch := decide) only [Only.op_iff (only_dramUncorrectable _ _ _ _ _), Only.op_iff (only_drawn _),
        Only.op_iff (only_endJobWith _ _ _ _ _ _), Only.op_iff (only_resumeUnits _ _), Only.op_iff (only_setSpire _ _
        _), Only.refl, Only.ite_iff, implies_true, and_self, and_true, true_and]
    | refine Only.step ?_ (only_acquireUnits _ _ _ _ _ _ (by assumption)) (by decide)
    | refine Only.foldl _ (fun _ _ => ?_) _ ?_
    | refine And.intro ?_ ?_
    | intro _
    | split

theorem only_resultBobbinRetry : ∀ a0 a1 a2, Only [.draws, .out, .orders, .spires, .channels, .parts, .jobs,
    .mailboxes, .running, .workItems, .pipes, .tracks, .orings, .skein, .sec, .hif, .boot] a0 (resultBobbinRetry a0
    a1 a2) := by
  intro a0 a1 a2
  unfold resultBobbinRetry
  repeat' first
    | with_reducible exact Only.refl _ _
    | assumption
    | simp (disch := decide) only [Only.op_iff (only_runBatches _ _ _), Only.op_iff (only_setBatchQueue _ _ _ _),
        Only.refl, Only.ite_iff, implies_true, and_self, and_true, true_and]
    | refine Only.foldl _ (fun _ _ => ?_) _ ?_
    | refine And.intro ?_ ?_
    | intro _
    | split

theorem only_saveDone : ∀ a0 a1 a2 a3, Only [.draws, .out, .spindles, .spires, .parts, .jobs, .mailboxes, .running,
    .hif] a0 (saveDone a0 a1 a2 a3) := by
  intro a0 a1 a2 a3
  unfold saveDone
  repeat' first
    | with_reducible exact Only.refl _ _
    | assumption
    | simp (disch := decide) only [Only.op_iff (only_completePreempt _ _ _), Only.op_iff (only_freeUnits _ _),
        Only.op_iff (only_modPart _ _ _), Only.op_iff (only_setJob _ _ _), Only.op_iff (only_setSpindle _ _ _),
        Only.op_iff (only_setSpire _ _ _), Only.op_iff (only_with_draws _ _), Only.refl, Only.ite_iff, implies_true,
        and_self, and_true, true_and]
    | refine Only.foldl _ (fun _ _ => ?_) _ ?_
    | refine And.intro ?_ ?_
    | intro _
    | split

theorem only_saveFails : ∀ a0 a1, Only [.draws, .out, .channels, .parts, .jobs, .mailboxes, .running, .hif, .boot]
    a0 (saveFails a0 a1) := by
  intro a0 a1
  unfold saveFails
  repeat' first
    | with_reducible exact Only.refl _ _
    | assumption
    | simp (disch := decide) only [Only.op_iff (only_dramUncorrectable _ _ _ _ _), Only.op_iff (only_drawn _),
        Only.op_iff (only_endJobWith _ _ _ _ _ _), Only.op_iff (only_modPart _ _ _), Only.refl, Only.ite_iff,
        implies_true, and_self, and_true, true_and]
    | refine Only.foldl _ (fun _ _ => ?_) _ ?_
    | refine And.intro ?_ ?_
    | intro _
    | split

theorem only_saveComplete : ∀ a0 a1, Only [.draws, .out, .spindles, .spires, .channels, .parts, .jobs, .mailboxes,
    .running, .hif, .boot] a0 (saveComplete a0 a1) := by
  intro a0 a1
  unfold saveComplete
  repeat' first
    | with_reducible exact Only.refl _ _
    | assumption
    | simp (disch := decide) only [Only.op_iff (only_releaseCounts _ _), Only.op_iff (only_saveDone _ _ _ _),
        Only.op_iff (only_saveFails _ _), Only.op_iff (only_withdrawAll _ _), Only.refl, Only.ite_iff, implies_true,
        and_self, and_true, true_and]
    | refine Only.foldl _ (fun _ _ => ?_) _ ?_
    | refine And.intro ?_ ?_
    | intro _
    | split

theorem only_sequenceStep : ∀ a0 a1, Only [.draws, .out, .spindles, .spires, .channels, .parts, .jobs, .mailboxes,
    .running, .orings, .hif, .boot] a0 (sequenceStep a0 a1) := by
  intro a0 a1
  unfold sequenceStep
  repeat' first
    | with_reducible exact Only.refl _ _
    | assumption
    | simp (disch := decide) only [Only.op_iff (only_seqStep _ _), Only.refl, Only.ite_iff, implies_true, and_self,
        and_true, true_and]
    | refine Only.step ?_ (only_takeUnit _ _ _ _ (by assumption)) (by decide)
    | refine Only.foldl _ (fun _ _ => ?_) _ ?_
    | refine And.intro ?_ ?_
    | intro _
    | split

theorem only_streamDrainEnd : ∀ a0 a1, Only [.draws, .out, .orders, .spires, .channels, .parts, .mailboxes,
    .running, .streams, .workItems, .pipes, .tracks, .orings, .skein, .sec, .hif, .boot] a0 (streamDrainEnd a0 a1)
    := by
  intro a0 a1
  unfold streamDrainEnd
  repeat' first
    | with_reducible exact Only.refl _ _
    | assumption
    | simp (disch := decide) only [Only.op_iff (only_bumpTo _ _ _), Only.op_iff (only_completeWaiting _ _ _ _ _),
        Only.op_iff (only_leavePipe _ _ _), Only.op_iff (only_modStream _ _ _), Only.op_iff (only_releaseHolds _ _ _),
        Only.op_iff (only_reportLtr _ _), Only.op_iff (only_tryFinishDelete _ _), Only.refl, Only.ite_iff,
        implies_true, and_self, and_true, true_and]
    | refine Only.foldl _ (fun _ _ => ?_) _ ?_
    | refine And.intro ?_ ?_
    | intro _
    | split

theorem only_timeLimit : ∀ a0 a1, Only [.out, .jobs, .mailboxes, .running, .hif] a0 (timeLimit a0 a1) := by
  intro a0 a1
  unfold timeLimit
  repeat' first
    | with_reducible exact Only.refl _ _
    | assumption
    | simp (disch := decide) only [Only.op_iff (only_endJobWith _ _ _ _ _ _), Only.refl, Only.ite_iff, implies_true,
        and_self, and_true, true_and]
    | refine Only.foldl _ (fun _ _ => ?_) _ ?_
    | refine And.intro ?_ ?_
    | intro _
    | split

theorem only_trackStep : ∀ a0 a1 a2, Only [.draws, .out, .orders, .spires, .channels, .parts, .mailboxes, .running,
    .streams, .motion, .workItems, .pipes, .tracks, .orings, .skein, .sec, .hif, .boot] a0 (trackStep a0 a1 a2) :=
    by
  intro a0 a1 a2
  unfold trackStep
  repeat' first
    | with_reducible exact Only.refl _ _
    | assumption
    | simp (disch := decide) only [Only.op_iff (only_finishStep _ _ _ _ _), Only.op_iff (only_modPicture _ _ _ _),
        Only.op_iff (only_setMotion _ _ _), Only.op_iff (only_stepWithoutSearch _ _ _ _ _), Only.refl, Only.ite_iff,
        implies_true, and_self, and_true, true_and]
    | refine Only.foldl _ (fun _ _ => ?_) _ ?_
    | refine And.intro ?_ ?_
    | intro _
    | split

theorem only_waitBufRetry : ∀ a0 a1, Only [.draws, .parts, .streams] a0 (waitBufRetry a0 a1) := by
  intro a0 a1
  unfold waitBufRetry
  repeat' first
    | with_reducible exact Only.refl _ _
    | assumption
    | simp (disch := decide) only [Only.op_iff (only_acquirePicture _ _ _ _), Only.op_iff (only_modStream _ _ _),
        Only.refl, Only.ite_iff, implies_true, and_self, and_true, true_and]
    | refine Only.foldl _ (fun _ _ => ?_) _ ?_
    | refine And.intro ?_ ?_
    | intro _
    | refine Only.step ?_ (only_acquirePicture_eq (by assumption)) (by decide)
    | split

end Sys2Proof
end

