-- ==== Sys2Proof/Laws/FrameHost.lean ====
section
/-! SUPPORT. The parts of the state that an operation can change, one lemma an operation: the life log, mailboxes, partitions, restarts, power, the start, the host interface and the tick. -/

set_option linter.unusedSimpArgs false
set_option linter.unusedTactic false
set_option linter.unreachableTactic false

namespace Sys2Proof

open Machine

theorem only_tickLoad : ∀ a0, Only [.prepBusy, .prepLoad] a0 (tickLoad a0) := by
  intro a0
  unfold tickLoad
  repeat' first
    | with_reducible exact Only.refl _ _
    | assumption
    | simp (disch := decide) only [Only.op_iff (only_with_prepBusy_prepLoad _ _ _), Only.op_iff (only_with_prepBusy
        _ _), Only.refl, Only.ite_iff, implies_true, and_self, and_true, true_and]
    | refine Only.foldl _ (fun _ _ => ?_) _ ?_
    | refine And.intro ?_ ?_
    | intro _
    | split

theorem only_passTick : ∀ a0, Only [.time, .spindles, .jobs, .prepBusy, .prepLoad] a0 (passTick a0) := by
  intro a0
  unfold passTick
  repeat' first
    | with_reducible exact Only.refl _ _
    | assumption
    | simp (disch := decide) only [Only.op_iff (only_tickLoad _), Only.op_iff (only_with_time_spindles_jobs _ _ _
        _), Only.refl, Only.ite_iff, implies_true, and_self, and_true, true_and]
    | refine Only.foldl _ (fun _ _ => ?_) _ ?_
    | refine And.intro ?_ ?_
    | intro _
    | split

theorem only_State.tick : ∀ a0, Only [.time, .spindles, .jobs, .prepBusy, .prepLoad] a0 (State.tick a0) := by
  intro a0
  unfold State.tick
  repeat' first
    | with_reducible exact Only.refl _ _
    | assumption
    | simp (disch := decide) only [Only.op_iff (only_passTick _), Only.refl, Only.ite_iff, implies_true, and_self,
        and_true, true_and]
    | refine Only.foldl _ (fun _ _ => ?_) _ ?_
    | refine And.intro ?_ ?_
    | intro _
    | split

theorem only_dropReader : ∀ a0 a1, Only [.parts, .running, .prepUnits, .boot] a0 (dropReader a0 a1) := by
  intro a0 a1
  unfold dropReader
  repeat' first
    | with_reducible exact Only.refl _ _
    | assumption
    | simp (disch := decide) only [Only.op_iff (only_fillSlot _ _ _ _ _ _ _), Only.op_iff (only_setBoot _ _),
        Only.op_iff (only_unitFree _ _), Only.op_iff (only_with_running _ _), Only.refl, Only.ite_iff, implies_true,
        and_self, and_true, true_and]
    | refine Only.foldl _ (fun _ _ => ?_) _ ?_
    | refine And.intro ?_ ?_
    | intro _
    | split

theorem only_abandonRequests : ∀ a0 a1, Only [.parts, .running, .prepUnits, .hif, .boot] a0 (abandonRequests a0 a1)
    := by
  intro a0 a1
  unfold abandonRequests
  repeat' first
    | with_reducible exact Only.refl _ _
    | assumption
    | simp (disch := decide) only [Only.op_iff (only_dropReader _ _), Only.op_iff (only_setHif _ _), Only.refl,
        Only.ite_iff, implies_true, and_self, and_true, true_and]
    | refine Only.foldl _ (fun _ _ => ?_) _ ?_
    | refine And.intro ?_ ?_
    | intro _
    | split

theorem only_coldState : ∀ a0, Only [.time, .spindles, .spires, .domes, .channels, .parts, .jobs, .mailboxes,
    .running, .lastServed, .streams, .decoders, .suspended, .motion, .prepUnits, .workItems, .prepBusy, .prepLoad,
    .prepSat, .prepUfl, .netPorts, .pipes, .tracks, .orings, .skein, .sec, .power, .hif, .boot] a0 (coldState a0) :=
    by
  intro a0
  refine ⟨fun f hf => ?_⟩
  cases f <;> first | rfl | exact absurd (by decide) hf

theorem only_commitLife : ∀ a0, Only [.boot] a0 (commitLife a0) := by
  intro a0
  unfold commitLife
  repeat' first
    | with_reducible exact Only.refl _ _
    | assumption
    | simp (disch := decide) only [Only.op_iff (only_setBoot _ _), Only.refl, Only.ite_iff, implies_true, and_self,
        and_true, true_and]
    | refine Only.foldl _ (fun _ _ => ?_) _ ?_
    | refine And.intro ?_ ?_
    | intro _
    | split

theorem only_enterDip : ∀ a0 a1 a2, Only [.boot] a0 (enterDip a0 a1 a2) := by
  intro a0 a1 a2
  unfold enterDip
  repeat' first
    | with_reducible exact Only.refl _ _
    | assumption
    | simp (disch := decide) only [Only.op_iff (only_setLife _ _), Only.refl, Only.ite_iff, implies_true, and_self,
        and_true, true_and]
    | refine Only.foldl _ (fun _ _ => ?_) _ ?_
    | refine And.intro ?_ ?_
    | intro _
    | split

theorem only_abandonStart : ∀ a0 a1, Only [.time, .spindles, .spires, .domes, .channels, .parts, .jobs, .mailboxes,
    .running, .lastServed, .streams, .decoders, .suspended, .motion, .prepUnits, .workItems, .prepBusy, .prepLoad,
    .prepSat, .prepUfl, .netPorts, .pipes, .tracks, .orings, .skein, .sec, .power, .hif, .boot] a0 (abandonStart a0
    a1) := by
  intro a0 a1
  unfold abandonStart
  repeat' first
    | with_reducible exact Only.refl _ _
    | assumption
    | simp (disch := decide) only [Only.op_iff (only_coldState _), Only.op_iff (only_commitLife _), Only.op_iff
        (only_enterDip _ _ _), Only.refl, Only.ite_iff, implies_true, and_self, and_true, true_and]
    | refine Only.foldl _ (fun _ _ => ?_) _ ?_
    | refine And.intro ?_ ?_
    | intro _
    | split

theorem only_askHostBytes : ∀ a0 a1 a2, Only [.out, .hif] a0 (askHostBytes a0 a1 a2) := by
  intro a0 a1 a2
  unfold askHostBytes
  repeat' first
    | with_reducible exact Only.refl _ _
    | assumption
    | simp (disch := decide) only [Only.op_iff (only_issueRead _ _ _ _ _), Only.refl, Only.ite_iff, implies_true,
        and_self, and_true, true_and]
    | refine Only.foldl _ (fun _ _ => ?_) _ ?_
    | refine And.intro ?_ ?_
    | intro _
    | split

theorem only_aspmL1Idle : ∀ a0, Only [.out, .hif] a0 (aspmL1Idle a0) := by
  intro a0
  unfold aspmL1Idle
  repeat' first
    | with_reducible exact Only.refl _ _
    | assumption
    | simp (disch := decide) only [Only.op_iff (only_emit _ _), Only.op_iff (only_setHif _ _), Only.refl,
        Only.ite_iff, implies_true, and_self, and_true, true_and]
    | refine Only.foldl _ (fun _ _ => ?_) _ ?_
    | refine And.intro ?_ ?_
    | intro _
    | split

theorem only_assignSpire : ∀ a0 a1 a2, Only [.spindles, .spires] a0 (assignSpire a0 a1 a2) := by
  intro a0 a1 a2
  unfold assignSpire
  repeat' first
    | with_reducible exact Only.refl _ _
    | assumption
    | simp (disch := decide) only [Only.op_iff (only_setSpindle _ _ _), Only.op_iff (only_setSpire _ _ _),
        Only.refl, Only.ite_iff, implies_true, and_self, and_true, true_and]
    | refine Only.foldl _ (fun _ _ => ?_) _ ?_
    | refine And.intro ?_ ?_
    | intro _
    | split

theorem only_assignSpires : ∀ a0 a1 a2, Only [.spindles, .spires] a0 (assignSpires a0 a1 a2) := by
  intro a0 a1 a2
  unfold assignSpires
  repeat' first
    | with_reducible exact Only.refl _ _
    | assumption
    | simp (disch := decide) only [Only.op_iff (only_assignSpire _ _ _), Only.refl, Only.ite_iff, implies_true,
        and_self, and_true, true_and]
    | refine Only.foldl _ (fun _ _ => ?_) _ ?_
    | refine And.intro ?_ ?_
    | intro _
    | split

theorem only_bar0BadAccess : ∀ a0 a1 a2, Only [.out, .hif] a0 (bar0BadAccess a0 a1 a2) := by
  intro a0 a1 a2
  unfold bar0BadAccess
  repeat' first
    | with_reducible exact Only.refl _ _
    | assumption
    | simp (disch := decide) only [Only.op_iff (only_emit _ _), Only.op_iff (only_setHif _ _), Only.refl,
        Only.ite_iff, implies_true, and_self, and_true, true_and]
    | refine Only.foldl _ (fun _ _ => ?_) _ ?_
    | refine And.intro ?_ ?_
    | intro _
    | split

theorem only_breachJob : ∀ a0 a1, Only [.out, .jobs, .mailboxes, .hif, .boot] a0 (breachJob a0 a1) := by
  intro a0 a1
  unfold breachJob
  repeat' first
    | with_reducible exact Only.refl _ _
    | assumption
    | simp (disch := decide) only [Only.op_iff (only_raiseEvent _ _ _ _), Only.op_iff (only_setJob _ _ _),
        Only.op_iff (only_setLife _ _), Only.refl, Only.ite_iff, implies_true, and_self, and_true, true_and]
    | refine Only.foldl _ (fun _ _ => ?_) _ ?_
    | refine And.intro ?_ ?_
    | intro _
    | split

theorem only_breachDome : ∀ a0 a1, Only [.out, .jobs, .mailboxes, .hif, .boot] a0 (breachDome a0 a1) := by
  intro a0 a1
  unfold breachDome
  repeat' first
    | with_reducible exact Only.refl _ _
    | assumption
    | simp (disch := decide) only [Only.op_iff (only_breachJob _ _), Only.refl, Only.ite_iff, implies_true,
        and_self, and_true, true_and]
    | refine Only.foldl _ (fun _ _ => ?_) _ ?_
    | refine And.intro ?_ ?_
    | intro _
    | split

theorem only_raiseThermal : ∀ a0 a1 a2, Only [.out, .mailboxes, .hif] a0 (raiseThermal a0 a1 a2) := by
  intro a0 a1 a2
  unfold raiseThermal
  repeat' first
    | with_reducible exact Only.refl _ _
    | assumption
    | simp (disch := decide) only [Only.op_iff (only_raiseEvent _ _ _ _), Only.refl, Only.ite_iff, implies_true,
        and_self, and_true, true_and]
    | refine Only.foldl _ (fun _ _ => ?_) _ ?_
    | refine And.intro ?_ ?_
    | intro _
    | split

theorem only_beginHot : ∀ a0 a1, Only [.out, .domes, .jobs, .mailboxes, .hif, .boot] a0 (beginHot a0 a1) := by
  intro a0 a1
  unfold beginHot
  repeat' first
    | with_reducible exact Only.refl _ _
    | assumption
    | simp (disch := decide) only [Only.op_iff (only_breachDome _ _), Only.op_iff (only_raiseThermal _ _ _),
        Only.op_iff (only_setDome _ _ _), Only.refl, Only.ite_iff, implies_true, and_self, and_true, true_and]
    | refine Only.foldl _ (fun _ _ => ?_) _ ?_
    | refine And.intro ?_ ?_
    | intro _
    | split

theorem only_showPoint : ∀ a0 a1, Only [.domes] a0 (showPoint a0 a1) := by
  intro a0 a1
  unfold showPoint
  repeat' first
    | with_reducible exact Only.refl _ _
    | assumption
    | simp (disch := decide) only [Only.op_iff (only_setDome _ _ _), Only.refl, Only.ite_iff, implies_true,
        and_self, and_true, true_and]
    | refine Only.foldl _ (fun _ _ => ?_) _ ?_
    | refine And.intro ?_ ?_
    | intro _
    | split

theorem only_setTarget : ∀ a0 a1, Only [.domes, .power] a0 (setTarget a0 a1) := by
  intro a0 a1
  unfold setTarget
  repeat' first
    | with_reducible exact Only.refl _ _
    | assumption
    | simp (disch := decide) only [Only.op_iff (only_setPower _ _), Only.op_iff (only_showPoint _ _), Only.refl,
        Only.ite_iff, implies_true, and_self, and_true, true_and]
    | refine Only.foldl _ (fun _ _ => ?_) _ ?_
    | refine And.intro ?_ ?_
    | intro _
    | split

theorem only_beginThrottle : ∀ a0 a1, Only [.out, .domes, .mailboxes, .power, .hif, .boot] a0 (beginThrottle a0 a1)
    := by
  intro a0 a1
  unfold beginThrottle
  repeat' first
    | with_reducible exact Only.refl _ _
    | assumption
    | simp (disch := decide) only [Only.op_iff (only_raiseThermal _ _ _), Only.op_iff (only_setDome _ _ _),
        Only.op_iff (only_setLife _ _), Only.op_iff (only_setPower _ _), Only.op_iff (only_setTarget _ _), Only.refl,
        Only.ite_iff, implies_true, and_self, and_true, true_and]
    | refine Only.foldl _ (fun _ _ => ?_) _ ?_
    | refine And.intro ?_ ?_
    | intro _
    | split

theorem only_busMasterOff : ∀ a0 a1, Only [.hif] a0 (busMasterOff a0 a1) := by
  intro a0 a1
  unfold busMasterOff
  repeat' first
    | with_reducible exact Only.refl _ _
    | assumption
    | simp (disch := decide) only [Only.op_iff (only_setCfg _ _ _), Only.refl, Only.ite_iff, implies_true, and_self,
        and_true, true_and]
    | refine Only.foldl _ (fun _ _ => ?_) _ ?_
    | refine And.intro ?_ ?_
    | intro _
    | split

theorem only_recordColumn : ∀ a0 a1 a2 a3, Only [.boot] a0 (recordColumn a0 a1 a2 a3) := by
  intro a0 a1 a2 a3
  unfold recordColumn
  repeat' first
    | with_reducible exact Only.refl _ _
    | assumption
    | simp (disch := decide) only [Only.op_iff (only_setLife _ _), Only.refl, Only.ite_iff, implies_true, and_self,
        and_true, true_and]
    | refine Only.foldl _ (fun _ _ => ?_) _ ?_
    | refine And.intro ?_ ?_
    | intro _
    | split

theorem only_bypassColumn : ∀ a0 a1, Only [.spindles, .boot] a0 (bypassColumn a0 a1) := by
  intro a0 a1
  unfold bypassColumn
  repeat' first
    | with_reducible exact Only.refl _ _
    | assumption
    | simp (disch := decide) only [Only.op_iff (only_recordColumn _ _ _ _), Only.op_iff (only_setSpindle _ _ _),
        Only.refl, Only.ite_iff, implies_true, and_self, and_true, true_and]
    | refine Only.foldl _ (fun _ _ => ?_) _ ?_
    | refine And.intro ?_ ?_
    | intro _
    | split

theorem only_cacheRoom : ∀ a0, Only [.draws, .hif] a0 (cacheRoom a0) := by
  intro a0
  unfold cacheRoom
  repeat' first
    | with_reducible exact Only.refl _ _
    | assumption
    | simp (disch := decide) only [Only.op_iff (only_drawn _), Only.op_iff (only_setHif _ _), Only.refl,
        Only.ite_iff, implies_true, and_self, and_true, true_and]
    | refine Only.foldl _ (fun _ _ => ?_) _ ?_
    | refine And.intro ?_ ?_
    | intro _
    | split

theorem only_cfgDefaults : ∀ a0 a1, Only [.hif] a0 (cfgDefaults a0 a1) := by
  intro a0 a1
  unfold cfgDefaults
  repeat' first
    | with_reducible exact Only.refl _ _
    | assumption
    | simp (disch := decide) only [Only.op_iff (only_setHif _ _), Only.refl, Only.ite_iff, implies_true, and_self,
        and_true, true_and]
    | refine Only.foldl _ (fun _ _ => ?_) _ ?_
    | refine And.intro ?_ ?_
    | intro _
    | split

theorem only_keyedCheck : ∀ s d t, keyedCheck s d = .ok t → Only [.sec] s t.1 := by
  intro s d t h
  unfold keyedCheck at h
  repeat' first
    | contradiction
    | (cases h; done)
    | split at h
    | dsimp only at h
  all_goals (cases h; first | exact Only.refl _ _ | exact only_setSec _ _)

theorem only_checkDescriptor : ∀ a0 a1 a2 a3, Only [.out, .mailboxes, .running, .sec, .hif] a0 (checkDescriptor a0
    a1 a2 a3) := by
  intro a0 a1 a2 a3
  unfold checkDescriptor
  repeat' first
    | with_reducible exact Only.refl _ _
    | assumption
    | simp (disch := decide) only [Only.op_iff (only_askHostBytes _ _ _), Only.op_iff (only_complete _ _ _ _),
        Only.op_iff (only_with_running _ _), Only.refl, Only.ite_iff, implies_true, and_self, and_true, true_and]
    | refine Only.foldl _ (fun _ _ => ?_) _ ?_
    | refine And.intro ?_ ?_
    | intro _
    | refine Only.step ?_ (only_keyedCheck _ _ _ (by assumption)) (by decide)
    | split

theorem only_sampleFraction : ∀ a0 a1 a2, Only [.draws, .out, .domes, .jobs, .mailboxes, .hif, .boot] a1
    (sampleFraction a0 a1 a2) := by
  intro a0 a1 a2
  unfold sampleFraction
  repeat' first
    | with_reducible exact Only.refl _ _
    | assumption
    | simp (disch := decide) only [Only.op_iff (only_breachDome _ _), Only.op_iff (only_drawn _), Only.op_iff
        (only_setDome _ _ _), Only.refl, Only.ite_iff, implies_true, and_self, and_true, true_and]
    | refine Only.foldl _ (fun _ _ => ?_) _ ?_
    | refine And.intro ?_ ?_
    | intro _
    | split

theorem only_chooseFractions : ∀ a0, Only [.draws, .out, .domes, .jobs, .mailboxes, .hif, .boot] a0 (chooseFractions
    a0) := by
  intro a0
  unfold chooseFractions
  repeat' first
    | with_reducible exact Only.refl _ _
    | assumption
    | simp (disch := decide) only [Only.op_iff (only_sampleFraction _ _ _), Only.refl, Only.ite_iff, implies_true,
        and_self, and_true, true_and]
    | refine Only.foldl _ (fun _ _ => ?_) _ ?_
    | refine And.intro ?_ ?_
    | intro _
    | split

theorem only_chooseTarget : ∀ a0, Only [.domes, .power] a0 (chooseTarget a0) := by
  intro a0
  unfold chooseTarget
  repeat' first
    | with_reducible exact Only.refl _ _
    | assumption
    | simp (disch := decide) only [Only.op_iff (only_setTarget _ _), Only.refl, Only.ite_iff, implies_true,
        and_self, and_true, true_and]
    | refine Only.foldl _ (fun _ _ => ?_) _ ?_
    | refine And.intro ?_ ?_
    | intro _
    | split

theorem only_cmdAdapterInstall : ∀ a0 a1, Only [.out, .channels, .parts, .mailboxes, .running, .hif, .boot] a0
    (cmdAdapterInstall a0 a1) := by
  intro a0 a1
  unfold cmdAdapterInstall
  repeat' first
    | with_reducible exact Only.refl _ _
    | assumption
    | simp (disch := decide) only [command, Only.op_iff (only_complete _ _ _ _), Only.op_iff (only_dramUncorrectable
        _ _ _ _ _), Only.op_iff (only_setPart _ _ _), onCommand, Only.refl, Only.ite_iff, implies_true, and_self,
        and_true, true_and]
    | refine Only.foldl _ (fun _ _ => ?_) _ ?_
    | refine And.intro ?_ ?_
    | intro _
    | split

theorem only_cmdCeilingLower : ∀ a0 a1, Only [.out, .mailboxes, .running, .sec, .power, .hif] a0 (cmdCeilingLower a0
    a1) := by
  intro a0 a1
  unfold cmdCeilingLower
  repeat' first
    | with_reducible exact Only.refl _ _
    | assumption
    | simp (disch := decide) only [Only.op_iff (only_appendFuse _ _ _ _ _ _), command, Only.op_iff (only_complete _
        _ _ _), Only.op_iff (only_setPower _ _), Only.op_iff (only_setSec _ _), onCommand, Only.refl, Only.ite_iff,
        implies_true, and_self, and_true, true_and]
    | refine Only.foldl _ (fun _ _ => ?_) _ ?_
    | refine And.intro ?_ ?_
    | intro _
    | split

theorem only_cmdDevInfo : ∀ a0 a1, Only [.out, .mailboxes, .running, .hif] a0 (cmdDevInfo a0 a1) := by
  intro a0 a1
  unfold cmdDevInfo
  repeat' first
    | with_reducible exact Only.refl _ _
    | assumption
    | simp (disch := decide) only [command, Only.op_iff (only_complete _ _ _ _), onCommand, Only.refl, Only.ite_iff,
        implies_true, and_self, and_true, true_and]
    | refine Only.foldl _ (fun _ _ => ?_) _ ?_
    | refine And.intro ?_ ?_
    | intro _
    | split

theorem only_cmdDoorbell : ∀ a0 a1 a2 a3, Only [.mailboxes] a0 (cmdDoorbell a0 a1 a2 a3) := by
  intro a0 a1 a2 a3
  unfold cmdDoorbell
  repeat' first
    | with_reducible exact Only.refl _ _
    | assumption
    | simp (disch := decide) only [doorbell, Only.op_iff (only_setMailbox _ _ _), Only.refl, Only.ite_iff,
        implies_true, and_self, and_true, true_and]
    | refine Only.foldl _ (fun _ _ => ?_) _ ?_
    | refine And.intro ?_ ?_
    | intro _
    | split

theorem only_cmdJobPower : ∀ a0 a1, Only [.out, .jobs, .mailboxes, .running, .hif] a0 (cmdJobPower a0 a1) := by
  intro a0 a1
  unfold cmdJobPower
  repeat' first
    | with_reducible exact Only.refl _ _
    | assumption
    | simp (disch := decide) only [command, Only.op_iff (only_complete _ _ _ _), onJob, Only.op_iff (only_setJob _ _
        _), onCommand, Only.refl, Only.ite_iff, implies_true, and_self, and_true, true_and]
    | refine Only.foldl _ (fun _ _ => ?_) _ ?_
    | refine And.intro ?_ ?_
    | intro _
    | split

theorem only_cmdLifelogCommit : ∀ a0 a1, Only [.out, .mailboxes, .running, .hif, .boot] a0 (cmdLifelogCommit a0 a1)
    := by
  intro a0 a1
  unfold cmdLifelogCommit
  repeat' first
    | with_reducible exact Only.refl _ _
    | assumption
    | simp (disch := decide) only [command, Only.op_iff (only_commitLife _), Only.op_iff (only_complete _ _ _ _),
        onCommand, Only.refl, Only.ite_iff, implies_true, and_self, and_true, true_and]
    | refine Only.foldl _ (fun _ _ => ?_) _ ?_
    | refine And.intro ?_ ?_
    | intro _
    | split

theorem only_cmdLifelogExport : ∀ a0 a1, Only [.out, .mailboxes, .running, .hif] a0 (cmdLifelogExport a0 a1) := by
  intro a0 a1
  unfold cmdLifelogExport
  repeat' first
    | with_reducible exact Only.refl _ _
    | assumption
    | simp (disch := decide) only [command, Only.op_iff (only_complete _ _ _ _), Only.op_iff (only_hostWrite _ _ _
        _), onCommand, Only.refl, Only.ite_iff, implies_true, and_self, and_true, true_and]
    | refine Only.foldl _ (fun _ _ => ?_) _ ?_
    | refine And.intro ?_ ?_
    | intro _
    | split

theorem only_cmdMemWrite : ∀ a0 a1 a2, Only [.out, .channels, .parts, .mailboxes, .running, .hif, .boot] a0
    (cmdMemWrite a0 a1 a2) := by
  intro a0 a1 a2
  unfold cmdMemWrite
  repeat' first
    | with_reducible exact Only.refl _ _
    | assumption
    | simp (disch := decide) only [command, Only.op_iff (only_complete _ _ _ _), Only.op_iff (only_dramUncorrectable
        _ _ _ _ _), Only.op_iff (only_regionWrite _ _ _ _), withHost, Only.op_iff (only_endReads _ _), Only.op_iff
        (only_raiseHostTimeout _ _ _ _), onCommand, Only.refl, Only.ite_iff, implies_true, and_self, and_true,
        true_and]
    | refine Only.foldl _ (fun _ _ => ?_) _ ?_
    | refine And.intro ?_ ?_
    | intro _
    | split

theorem only_cmdModelLoad : ∀ a0 a1 a2, Only [.out, .channels, .parts, .mailboxes, .running, .hif, .boot] a0
    (cmdModelLoad a0 a1 a2) := by
  intro a0 a1 a2
  unfold cmdModelLoad
  repeat' first
    | with_reducible exact Only.refl _ _
    | assumption
    | simp (disch := decide) only [command, Only.op_iff (only_complete _ _ _ _), Only.op_iff (only_dramUncorrectable
        _ _ _ _ _), Only.op_iff (only_setPart _ _ _), withHost, Only.op_iff (only_endReads _ _), Only.op_iff
        (only_raiseHostTimeout _ _ _ _), onCommand, Only.refl, Only.ite_iff, implies_true, and_self, and_true,
        true_and]
    | refine Only.foldl _ (fun _ _ => ?_) _ ?_
    | refine And.intro ?_ ?_
    | intro _
    | split

theorem only_cmdModelUnload : ∀ a0 a1, Only [.out, .parts, .mailboxes, .running, .hif] a0 (cmdModelUnload a0 a1) := by
  intro a0 a1
  unfold cmdModelUnload
  repeat' first
    | with_reducible exact Only.refl _ _
    | assumption
    | simp (disch := decide) only [command, Only.op_iff (only_complete _ _ _ _), Only.op_iff (only_setPart _ _ _),
        onCommand, Only.refl, Only.ite_iff, implies_true, and_self, and_true, true_and]
    | refine Only.foldl _ (fun _ _ => ?_) _ ?_
    | refine And.intro ?_ ?_
    | intro _
    | split

theorem only_joinGranules : ∀ a0 a1 a2 a3, Only [.draws, .parts] a0 (joinGranules a0 a1 a2 a3) := by
  intro a0 a1 a2 a3
  unfold joinGranules
  repeat' first
    | with_reducible exact Only.refl _ _
    | assumption
    | simp (disch := decide) only [Only.op_iff (only_drawn _), Only.op_iff (only_setPart _ _ _), Only.refl,
        Only.ite_iff, implies_true, and_self, and_true, true_and]
    | refine Only.foldl _ (fun _ _ => ?_) _ ?_
    | refine And.intro ?_ ?_
    | intro _
    | split

theorem only_createPart : ∀ a0 a1, Only [.draws, .spindles, .spires, .parts, .mailboxes] a0 (createPart a0 a1) := by
  intro a0 a1
  unfold createPart
  repeat' first
    | with_reducible exact Only.refl _ _
    | assumption
    | simp (disch := decide) only [Only.op_iff (only_assignSpires _ _ _), Only.op_iff (only_drawn _), Only.op_iff
        (only_joinGranules _ _ _ _), Only.op_iff (only_modPart _ _ _), Only.op_iff (only_setMailbox _ _ _), Only.refl,
        Only.ite_iff, implies_true, and_self, and_true, true_and]
    | refine Only.foldl _ (fun _ _ => ?_) _ ?_
    | refine And.intro ?_ ?_
    | intro _
    | split

theorem only_cmdPartCreate : ∀ a0 a1, Only [.draws, .out, .spindles, .spires, .parts, .mailboxes, .running, .hif] a0
    (cmdPartCreate a0 a1) := by
  intro a0 a1
  unfold cmdPartCreate
  repeat' first
    | with_reducible exact Only.refl _ _
    | assumption
    | simp (disch := decide) only [command, Only.op_iff (only_complete _ _ _ _), Only.op_iff (only_createPart _ _),
        onCommand, Only.refl, Only.ite_iff, implies_true, and_self, and_true, true_and]
    | refine Only.foldl _ (fun _ _ => ?_) _ ?_
    | refine And.intro ?_ ?_
    | intro _
    | split

theorem only_cmdPartDelete : ∀ a0 a1, Only [.draws, .out, .orders, .spires, .channels, .parts, .jobs, .mailboxes,
    .running, .streams, .workItems, .pipes, .tracks, .orings, .skein, .sec, .hif, .boot] a0 (cmdPartDelete a0 a1) :=
    by
  intro a0 a1
  unfold cmdPartDelete
  repeat' first
    | with_reducible exact Only.refl _ _
    | assumption
    | simp (disch := decide) only [Only.op_iff (only_beginDrain _ _ _), Only.op_iff (only_beginRemove _ _ _),
        command, Only.op_iff (only_complete _ _ _ _), Only.op_iff (only_deferCompletion _ _), Only.op_iff
        (only_settlePipe _ _), Only.op_iff (only_tryFinishDelete _ _), onCommand, Only.refl, Only.ite_iff,
        implies_true, and_self, and_true, true_and]
    | refine Only.foldl _ (fun _ _ => ?_) _ ?_
    | refine And.intro ?_ ?_
    | intro _
    | split

theorem only_cmdPartGrow : ∀ a0 a1, Only [.draws, .out, .spindles, .spires, .parts, .mailboxes, .running, .hif] a0
    (cmdPartGrow a0 a1) := by
  intro a0 a1
  unfold cmdPartGrow
  repeat' first
    | with_reducible exact Only.refl _ _
    | assumption
    | simp (disch := decide) only [Only.op_iff (only_assignSpires _ _ _), command, Only.op_iff (only_complete _ _ _
        _), Only.op_iff (only_joinGranules _ _ _ _), onCommand, Only.refl, Only.ite_iff, implies_true, and_self,
        and_true, true_and]
    | refine Only.foldl _ (fun _ _ => ?_) _ ?_
    | refine And.intro ?_ ?_
    | intro _
    | split

theorem only_cmdPartShrink : ∀ a0 a1, Only [.out, .spires, .parts, .mailboxes, .running, .hif] a0 (cmdPartShrink a0
    a1) := by
  intro a0 a1
  unfold cmdPartShrink
  repeat' first
    | with_reducible exact Only.refl _ _
    | assumption
    | simp (disch := decide) only [command, Only.op_iff (only_complete _ _ _ _), Only.op_iff (only_setPart _ _ _),
        Only.op_iff (only_setSpire _ _ _), onCommand, Only.refl, Only.ite_iff, implies_true, and_self, and_true,
        true_and]
    | refine Only.foldl _ (fun _ _ => ?_) _ ?_
    | refine And.intro ?_ ?_
    | intro _
    | split

theorem only_cmdPowerLimit : ∀ a0 a1, Only [.out, .mailboxes, .running, .power, .hif] a0 (cmdPowerLimit a0 a1) := by
  intro a0 a1
  unfold cmdPowerLimit
  repeat' first
    | with_reducible exact Only.refl _ _
    | assumption
    | simp (disch := decide) only [command, Only.op_iff (only_complete _ _ _ _), Only.op_iff (only_setPower _ _),
        onCommand, Only.refl, Only.ite_iff, implies_true, and_self, and_true, true_and]
    | refine Only.foldl _ (fun _ _ => ?_) _ ?_
    | refine And.intro ?_ ?_
    | intro _
    | split

theorem only_cmdPowerRecal : ∀ a0 a1, Only [.out, .mailboxes, .running, .power, .hif] a0 (cmdPowerRecal a0 a1) := by
  intro a0 a1
  unfold cmdPowerRecal
  repeat' first
    | with_reducible exact Only.refl _ _
    | assumption
    | simp (disch := decide) only [command, Only.op_iff (only_deferCompletion _ _), Only.op_iff (only_setPower _ _),
        Only.op_iff (only_complete _ _ _ _), onCommand, Only.refl, Only.ite_iff, implies_true, and_self, and_true,
        true_and]
    | refine Only.foldl _ (fun _ _ => ?_) _ ?_
    | refine And.intro ?_ ?_
    | intro _
    | split

theorem only_takeHeadEntry : ∀ a0 a1 a2, Only [.out, .mailboxes, .lastServed, .hif] a0 (takeHeadEntry a0 a1 a2) := by
  intro a0 a1 a2
  unfold takeHeadEntry
  repeat' first
    | with_reducible exact Only.refl _ _
    | assumption
    | simp (disch := decide) only [Only.op_iff (only_hostWrite _ _ _ _), Only.op_iff (only_setMailbox _ _ _),
        Only.op_iff (only_with_lastServed _ _), Only.refl, Only.ite_iff, implies_true, and_self, and_true, true_and]
    | refine Only.foldl _ (fun _ _ => ?_) _ ?_
    | refine And.intro ?_ ?_
    | intro _
    | split

theorem only_commandBegin : ∀ a0 a1 a2, Only [.out, .mailboxes, .running, .lastServed, .sec, .hif] a0 (commandBegin
    a0 a1 a2) := by
  intro a0 a1 a2
  unfold commandBegin
  repeat' first
    | with_reducible exact Only.refl _ _
    | assumption
    | simp (disch := decide) only [Only.op_iff (only_checkDescriptor _ _ _ _), Only.op_iff (only_completeAs _ _ _ _
        _), Only.op_iff (only_raiseHostTimeout _ _ _ _), Only.op_iff (only_setHif _ _), Only.op_iff (only_setMailbox _
        _ _), Only.op_iff (only_takeHeadEntry _ _ _), Only.op_iff (only_with_running _ _), Only.refl, Only.ite_iff,
        implies_true, and_self, and_true, true_and]
    | refine Only.foldl _ (fun _ _ => ?_) _ ?_
    | refine And.intro ?_ ?_
    | intro _
    | split

theorem only_commitStop : ∀ a0 a1, Only [.boot] a0 (commitStop a0 a1) := by
  intro a0 a1
  unfold commitStop
  repeat' first
    | with_reducible exact Only.refl _ _
    | assumption
    | simp (disch := decide) only [Only.op_iff (only_commitLife _), Only.op_iff (only_enterDip _ _ _), Only.op_iff
        (only_setLife _ _), Only.refl, Only.ite_iff, implies_true, and_self, and_true, true_and]
    | refine Only.foldl _ (fun _ _ => ?_) _ ?_
    | refine And.intro ?_ ?_
    | intro _
    | split

theorem only_compareBelfry : ∀ a0, Only [.sec, .boot] a0 (compareBelfry a0) := by
  intro a0
  unfold compareBelfry
  repeat' first
    | with_reducible exact Only.refl _ _
    | assumption
    | simp (disch := decide) only [Only.op_iff (only_setBoot _ _), Only.op_iff (only_setSec _ _), Only.refl,
        Only.ite_iff, implies_true, and_self, and_true, true_and]
    | refine Only.foldl _ (fun _ _ => ?_) _ ?_
    | refine And.intro ?_ ?_
    | intro _
    | split

theorem only_failCommandRead : ∀ a0 a1, Only [.draws, .out, .channels, .parts, .mailboxes, .running, .pipes, .skein,
    .sec, .belfry, .hif, .boot] a0 (failCommandRead a0 a1) := by
  intro a0 a1
  unfold failCommandRead
  repeat' first
    | with_reducible exact Only.refl _ _
    | assumption
    | simp (disch := decide) only [Only.op_iff (only_cmdBlfRequest _ _ _), Only.op_iff (only_cmdMemWrite _ _ _),
        Only.op_iff (only_cmdModelLoad _ _ _), Only.op_iff (only_cmdOwnerEnroll _ _ _), Only.op_iff
        (only_cmdPipeCreate _ _ _), Only.op_iff (only_cmdSessionOpen _ _ _), Only.op_iff (only_cmdSkeinForm _ _ _),
        Only.op_iff (only_cmdSkeinRelay _ _ _), Only.refl, Only.ite_iff, implies_true, and_self, and_true, true_and]
    | refine Only.foldl _ (fun _ _ => ?_) _ ?_
    | refine And.intro ?_ ?_
    | intro _
    | split

theorem only_recoveryFails : ∀ a0 a1, Only [.boot] a0 (recoveryFails a0 a1) := by
  intro a0 a1
  unfold recoveryFails
  repeat' first
    | with_reducible exact Only.refl _ _
    | assumption
    | simp (disch := decide) only [Only.op_iff (only_setBoot _ _), Only.refl, Only.ite_iff, implies_true, and_self,
        and_true, true_and]
    | refine Only.foldl _ (fun _ _ => ?_) _ ?_
    | refine And.intro ?_ ?_
    | intro _
    | split

theorem only_recReadComplete : ∀ a0 a1, Only [.out, .mailboxes, .hif, .boot] a0 (recReadComplete a0 a1) := by
  intro a0 a1
  unfold recReadComplete
  repeat' first
    | with_reducible exact Only.refl _ _
    | assumption
    | simp (disch := decide) only [Only.op_iff (only_endReads _ _), Only.op_iff (only_raiseHostTimeout _ _ _ _),
        Only.op_iff (only_recoveryFails _ _), Only.op_iff (only_setBoot _ _), Only.refl, Only.ite_iff, implies_true,
        and_self, and_true, true_and]
    | refine Only.foldl _ (fun _ _ => ?_) _ ?_
    | refine And.intro ?_ ?_
    | intro _
    | split

theorem only_failReader : ∀ a0 a1, Only [.draws, .out, .orders, .channels, .parts, .mailboxes, .running, .streams,
    .prepUnits, .workItems, .prepSat, .prepUfl, .pipes, .skein, .sec, .belfry, .hif, .boot] a0 (failReader a0 a1) :=
    by
  intro a0 a1
  unfold failReader
  repeat' first
    | with_reducible exact Only.refl _ _
    | assumption
    | simp (disch := decide) only [Only.op_iff (only_chunkCopyComplete _ _ _), Only.op_iff (only_failCommandRead _
        _), Only.op_iff (only_recReadComplete _ _), Only.op_iff (only_ringEntryRead _ _ _), Only.op_iff
        (only_workItemComplete _ _ _), Only.refl, Only.ite_iff, implies_true, and_self, and_true, true_and]
    | refine Only.foldl _ (fun _ _ => ?_) _ ?_
    | refine And.intro ?_ ?_
    | intro _
    | split

theorem only_failRead : ∀ a0 a1, Only [.draws, .out, .orders, .channels, .parts, .mailboxes, .running, .streams,
    .prepUnits, .workItems, .prepSat, .prepUfl, .pipes, .skein, .sec, .belfry, .hif, .boot] a0 (failRead a0 a1) :=
    by
  intro a0 a1
  unfold failRead
  repeat' first
    | with_reducible exact Only.refl _ _
    | assumption
    | simp (disch := decide) only [Only.op_iff (only_endReads _ _), Only.op_iff (only_failReader _ _), Only.refl,
        Only.ite_iff, implies_true, and_self, and_true, true_and]
    | refine Only.foldl _ (fun _ _ => ?_) _ ?_
    | refine And.intro ?_ ?_
    | intro _
    | split

theorem only_completionTimeout : ∀ a0 a1, Only [.draws, .out, .orders, .channels, .parts, .mailboxes, .running,
    .streams, .prepUnits, .workItems, .prepSat, .prepUfl, .pipes, .skein, .sec, .belfry, .hif, .boot] a0
    (completionTimeout a0 a1) := by
  intro a0 a1
  unfold completionTimeout
  repeat' first
    | with_reducible exact Only.refl _ _
    | assumption
    | simp (disch := decide) only [Only.op_iff (only_failRead _ _), Only.op_iff (only_setHif _ _), Only.refl,
        Only.ite_iff, implies_true, and_self, and_true, true_and]
    | refine Only.foldl _ (fun _ _ => ?_) _ ?_
    | refine And.intro ?_ ?_
    | intro _
    | split

theorem only_disableMailbox : ∀ a0 a1, Only [.mailboxes] a0 (disableMailbox a0 a1) := by
  intro a0 a1
  unfold disableMailbox
  repeat' first
    | with_reducible exact Only.refl _ _
    | assumption
    | simp (disch := decide) only [Only.op_iff (only_setMailbox _ _ _), Only.refl, Only.ite_iff, implies_true,
        and_self, and_true, true_and]
    | refine Only.foldl _ (fun _ _ => ?_) _ ?_
    | refine And.intro ?_ ?_
    | intro _
    | split

theorem only_loseCommand : ∀ a0 a1, Only [.running] a0 (loseCommand a0 a1) := by
  intro a0 a1
  unfold loseCommand
  repeat' first
    | with_reducible exact Only.refl _ _
    | assumption
    | simp (disch := decide) only [Only.op_iff (only_with_running _ _), Only.refl, Only.ite_iff, implies_true,
        and_self, and_true, true_and]
    | refine Only.foldl _ (fun _ _ => ?_) _ ?_
    | refine And.intro ?_ ?_
    | intro _
    | split

theorem only_loseMailbox : ∀ a0 a1, Only [.mailboxes, .running] a0 (loseMailbox a0 a1) := by
  intro a0 a1
  unfold loseMailbox
  repeat' first
    | with_reducible exact Only.refl _ _
    | assumption
    | simp (disch := decide) only [Only.op_iff (only_disableMailbox _ _), Only.op_iff (only_loseCommand _ _),
        Only.op_iff (only_mailboxRest _ _), Only.refl, Only.ite_iff, implies_true, and_self, and_true, true_and]
    | refine Only.foldl _ (fun _ _ => ?_) _ ?_
    | refine And.intro ?_ ?_
    | intro _
    | split

theorem only_loseObjects : ∀ a0 a1, Only [.streams, .orings] a0 (loseObjects a0 a1) := by
  intro a0 a1
  unfold loseObjects
  repeat' first
    | with_reducible exact Only.refl _ _
    | assumption
    | simp (disch := decide) only [Only.op_iff (only_with_streams_orings _ _ _), Only.refl, Only.ite_iff,
        implies_true, and_self, and_true, true_and]
    | refine Only.foldl _ (fun _ _ => ?_) _ ?_
    | refine And.intro ?_ ?_
    | intro _
    | split

theorem only_hostLoss : ∀ a0 a1 a2 a3, Only [.draws, .out, .orders, .spires, .channels, .parts, .mailboxes,
    .running, .streams, .prepUnits, .workItems, .pipes, .tracks, .orings, .skein, .sec, .hif, .boot] a0 (hostLoss a0
    a1 a2 a3) := by
  intro a0 a1 a2 a3
  unfold hostLoss
  repeat' first
    | with_reducible exact Only.refl _ _
    | assumption
    | simp (disch := decide) only [Only.op_iff (only_abandonRequests _ _), Only.op_iff (only_loseMailbox _ _),
        Only.op_iff (only_loseObjects _ _), Only.op_iff (only_setHif _ _), Only.op_iff (only_settlePipe _ _),
        Only.refl, Only.ite_iff, implies_true, and_self, and_true, true_and]
    | refine Only.foldl _ (fun _ _ => ?_) _ ?_
    | refine And.intro ?_ ?_
    | intro _
    | split

theorem only_noVfs : ∀ a0, Only [.hif] a0 (noVfs a0) := by
  intro a0
  unfold noVfs
  repeat' first
    | with_reducible exact Only.refl _ _
    | assumption
    | simp (disch := decide) only [Only.op_iff (only_setHif _ _), Only.refl, Only.ite_iff, implies_true, and_self,
        and_true, true_and]
    | refine Only.foldl _ (fun _ _ => ?_) _ ?_
    | refine And.intro ?_ ?_
    | intro _
    | split

theorem only_pfFlr : ∀ a0, Only [.draws, .out, .orders, .spires, .channels, .parts, .mailboxes, .running, .streams,
    .prepUnits, .workItems, .pipes, .tracks, .orings, .skein, .sec, .hif, .boot] a0 (pfFlr a0) := by
  intro a0
  unfold pfFlr
  repeat' first
    | with_reducible exact Only.refl _ _
    | assumption
    | simp (disch := decide) only [Only.op_iff (only_cfgDefaults _ _), Only.op_iff (only_hostLoss _ _ _ _),
        Only.op_iff (only_noVfs _), Only.refl, Only.ite_iff, implies_true, and_self, and_true, true_and]
    | refine Only.foldl _ (fun _ _ => ?_) _ ?_
    | refine And.intro ?_ ?_
    | intro _
    | split

theorem only_vfFlr : ∀ a0 a1, Only [.draws, .out, .orders, .spires, .channels, .parts, .mailboxes, .running,
    .streams, .prepUnits, .workItems, .pipes, .tracks, .orings, .skein, .sec, .hif, .boot] a0 (vfFlr a0 a1) := by
  intro a0 a1
  unfold vfFlr
  repeat' first
    | with_reducible exact Only.refl _ _
    | assumption
    | simp (disch := decide) only [Only.op_iff (only_cfgDefaults _ _), Only.op_iff (only_hostLoss _ _ _ _),
        Only.refl, Only.ite_iff, implies_true, and_self, and_true, true_and]
    | refine Only.foldl _ (fun _ _ => ?_) _ ?_
    | refine And.intro ?_ ?_
    | intro _
    | split

theorem only_initiateFlr : ∀ a0 a1, Only [.draws, .out, .orders, .spires, .channels, .parts, .mailboxes, .running,
    .streams, .prepUnits, .workItems, .pipes, .tracks, .orings, .skein, .sec, .hif, .boot] a0 (initiateFlr a0 a1) :=
    by
  intro a0 a1
  unfold initiateFlr
  repeat' first
    | with_reducible exact Only.refl _ _
    | assumption
    | simp (disch := decide) only [Only.op_iff (only_pfFlr _), Only.op_iff (only_vfFlr _ _), Only.refl,
        Only.ite_iff, implies_true, and_self, and_true, true_and]
    | refine Only.foldl _ (fun _ _ => ?_) _ ?_
    | refine And.intro ?_ ?_
    | intro _
    | split

theorem only_setPowerState : ∀ a0 a1 a2, Only [.hif] a0 (setPowerState a0 a1 a2) := by
  intro a0 a1 a2
  unfold setPowerState
  repeat' first
    | with_reducible exact Only.refl _ _
    | assumption
    | simp (disch := decide) only [Only.op_iff (only_cfgDefaults _ _), Only.op_iff (only_setCfg _ _ _), Only.refl,
        Only.ite_iff, implies_true, and_self, and_true, true_and]
    | refine Only.foldl _ (fun _ _ => ?_) _ ?_
    | refine And.intro ?_ ?_
    | intro _
    | split

theorem only_writeAts : ∀ a0 a1 a2, Only [.out, .hif] a0 (writeAts a0 a1 a2) := by
  intro a0 a1 a2
  unfold writeAts
  repeat' first
    | with_reducible exact Only.refl _ _
    | assumption
    | simp (disch := decide) only [Only.op_iff (only_releaseHeld _), Only.op_iff (only_setCfg _ _ _), Only.refl,
        Only.ite_iff, implies_true, and_self, and_true, true_and]
    | refine Only.foldl _ (fun _ _ => ?_) _ ?_
    | refine And.intro ?_ ?_
    | intro _
    | split

theorem only_vfEnableCleared : ∀ a0, Only [.draws, .out, .orders, .spires, .channels, .parts, .mailboxes, .running,
    .streams, .prepUnits, .workItems, .pipes, .tracks, .orings, .skein, .sec, .hif, .boot] a0 (vfEnableCleared a0)
    := by
  intro a0
  unfold vfEnableCleared
  repeat' first
    | with_reducible exact Only.refl _ _
    | assumption
    | simp (disch := decide) only [Only.op_iff (only_cfgDefaults _ _), Only.op_iff (only_hostLoss _ _ _ _),
        Only.op_iff (only_noVfs _), Only.refl, Only.ite_iff, implies_true, and_self, and_true, true_and]
    | refine Only.foldl _ (fun _ _ => ?_) _ ?_
    | refine And.intro ?_ ?_
    | intro _
    | split

theorem only_writeVfs : ∀ a0 a1 a2, Only [.draws, .out, .orders, .spires, .channels, .parts, .mailboxes, .running,
    .streams, .prepUnits, .workItems, .pipes, .tracks, .orings, .skein, .sec, .hif, .boot] a0 (writeVfs a0 a1 a2) :=
    by
  intro a0 a1 a2
  unfold writeVfs
  repeat' first
    | with_reducible exact Only.refl _ _
    | assumption
    | simp (disch := decide) only [Only.op_iff (only_setHif _ _), Only.op_iff (only_vfEnableCleared _), Only.refl,
        Only.ite_iff, implies_true, and_self, and_true, true_and]
    | refine Only.foldl _ (fun _ _ => ?_) _ ?_
    | refine And.intro ?_ ?_
    | intro _
    | split

theorem only_pfWrite : ∀ a0 a1 a2, Only [.draws, .out, .orders, .spires, .channels, .parts, .mailboxes, .running,
    .streams, .prepUnits, .workItems, .pipes, .tracks, .orings, .skein, .sec, .hif, .boot] a0 (pfWrite a0 a1 a2) :=
    by
  intro a0 a1 a2
  unfold pfWrite
  repeat' first
    | with_reducible exact Only.refl _ _
    | assumption
    | simp (disch := decide) only [Only.op_iff (only_setHif _ _), Only.op_iff (only_setPowerState _ _ _),
        Only.op_iff (only_writeAts _ _ _), Only.op_iff (only_writeVfs _ _ _), Only.refl, Only.ite_iff, implies_true,
        and_self, and_true, true_and]
    | refine Only.foldl _ (fun _ _ => ?_) _ ?_
    | refine And.intro ?_ ?_
    | intro _
    | split

theorem only_writeBusMaster : ∀ a0 a1 a2, Only [.out, .hif] a0 (writeBusMaster a0 a1 a2) := by
  intro a0 a1 a2
  unfold writeBusMaster
  repeat' first
    | with_reducible exact Only.refl _ _
    | assumption
    | simp (disch := decide) only [Only.op_iff (only_busMasterOff _ _), Only.op_iff (only_releaseHeld _),
        Only.op_iff (only_setCfg _ _ _), Only.refl, Only.ite_iff, implies_true, and_self, and_true, true_and]
    | refine Only.foldl _ (fun _ _ => ?_) _ ?_
    | refine And.intro ?_ ?_
    | intro _
    | split

theorem only_sendPending : ∀ a0 a1 a2, Only [.out, .hif] a1 (sendPending a0 a1 a2) := by
  intro a0 a1 a2
  unfold sendPending
  repeat' first
    | with_reducible exact Only.refl _ _
    | assumption
    | simp (disch := decide) only [Only.op_iff (only_raiseVector _ _ _), Only.op_iff (only_setVec _ _ _ _),
        Only.refl, Only.ite_iff, implies_true, and_self, and_true, true_and]
    | refine Only.foldl _ (fun _ _ => ?_) _ ?_
    | refine And.intro ?_ ?_
    | intro _
    | split

theorem only_sendAllPending : ∀ a0 a1, Only [.out, .hif] a0 (sendAllPending a0 a1) := by
  intro a0 a1
  unfold sendAllPending
  repeat' first
    | with_reducible exact Only.refl _ _
    | assumption
    | simp (disch := decide) only [Only.op_iff (only_sendPending _ _ _), Only.refl, Only.ite_iff, implies_true,
        and_self, and_true, true_and]
    | refine Only.foldl _ (fun _ _ => ?_) _ ?_
    | refine And.intro ?_ ?_
    | intro _
    | split

theorem only_writeMsix : ∀ a0 a1 a2 a3, Only [.out, .hif] a0 (writeMsix a0 a1 a2 a3) := by
  intro a0 a1 a2 a3
  unfold writeMsix
  repeat' first
    | with_reducible exact Only.refl _ _
    | assumption
    | simp (disch := decide) only [Only.op_iff (only_sendAllPending _ _), Only.op_iff (only_setCfg _ _ _),
        Only.refl, Only.ite_iff, implies_true, and_self, and_true, true_and]
    | refine Only.foldl _ (fun _ _ => ?_) _ ?_
    | refine And.intro ?_ ?_
    | intro _
    | split

theorem only_placedWrite : ∀ a0 a1 a2 a3, Only [.draws, .out, .orders, .spires, .channels, .parts, .mailboxes,
    .running, .streams, .prepUnits, .workItems, .pipes, .tracks, .orings, .skein, .sec, .hif, .boot] a0 (placedWrite
    a0 a1 a2 a3) := by
  intro a0 a1 a2 a3
  unfold placedWrite
  repeat' first
    | with_reducible exact Only.refl _ _
    | assumption
    | simp (disch := decide) only [Only.op_iff (only_initiateFlr _ _), Only.op_iff (only_pfWrite _ _ _), Only.op_iff
        (only_setCfg _ _ _), Only.op_iff (only_writeAts _ _ _), Only.op_iff (only_writeBusMaster _ _ _), Only.op_iff
        (only_writeMsix _ _ _ _), Only.refl, Only.ite_iff, implies_true, and_self, and_true, true_and]
    | refine Only.foldl _ (fun _ _ => ?_) _ ?_
    | refine And.intro ?_ ?_
    | intro _
    | split

theorem only_configWrite : ∀ a0 a1 a2 a3, Only [.draws, .out, .orders, .spires, .channels, .parts, .mailboxes,
    .running, .streams, .prepUnits, .workItems, .pipes, .tracks, .orings, .skein, .sec, .hif, .boot] a0 (configWrite
    a0 a1 a2 a3) := by
  intro a0 a1 a2 a3
  unfold configWrite
  repeat' first
    | with_reducible exact Only.refl _ _
    | assumption
    | simp (disch := decide) only [Only.op_iff (only_placedWrite _ _ _ _), Only.op_iff (only_setCfg _ _ _),
        Only.refl, Only.ite_iff, implies_true, and_self, and_true, true_and]
    | refine Only.foldl _ (fun _ _ => ?_) _ ?_
    | refine And.intro ?_ ?_
    | intro _
    | split

theorem only_configAnswered : ∀ a0 a1 a2, Only [.draws, .out, .orders, .spires, .channels, .parts, .mailboxes,
    .running, .streams, .prepUnits, .workItems, .pipes, .tracks, .orings, .skein, .sec, .hif, .boot] a0
    (configAnswered a0 a1 a2) := by
  intro a0 a1 a2
  unfold configAnswered
  repeat' first
    | with_reducible exact Only.refl _ _
    | assumption
    | simp (disch := decide) only [Only.op_iff (only_configWrite _ _ _ _), Only.op_iff (only_emit _ _), Only.op_iff
        (only_setCfg _ _ _), Only.op_iff (only_setHif _ _), Only.op_iff (only_writeAts _ _ _), Only.op_iff
        (only_writeBusMaster _ _ _), Only.op_iff (only_writeMsix _ _ _ _), Only.op_iff (only_writeVfs _ _ _),
        Only.refl, Only.ite_iff, implies_true, and_self, and_true, true_and]
    | refine Only.foldl _ (fun _ _ => ?_) _ ?_
    | refine And.intro ?_ ?_
    | intro _
    | split

theorem only_configurationRequest : ∀ a0 a1 a2, Only [.draws, .out, .orders, .spires, .channels, .parts, .mailboxes,
    .running, .streams, .prepUnits, .workItems, .pipes, .tracks, .orings, .skein, .sec, .hif, .boot] a0
    (configurationRequest a0 a1 a2) := by
  intro a0 a1 a2
  unfold configurationRequest
  repeat' first
    | with_reducible exact Only.refl _ _
    | assumption
    | simp (disch := decide) only [Only.op_iff (only_configAnswered _ _ _), Only.op_iff (only_emit _ _), Only.refl,
        Only.ite_iff, implies_true, and_self, and_true, true_and]
    | refine Only.foldl _ (fun _ _ => ?_) _ ?_
    | refine And.intro ?_ ?_
    | intro _
    | split

theorem only_endSpaceWait : ∀ a0 a1, Only [.mailboxes] a0 (endSpaceWait a0 a1) := by
  intro a0 a1
  unfold endSpaceWait
  repeat' first
    | with_reducible exact Only.refl _ _
    | assumption
    | simp (disch := decide) only [Only.op_iff (only_setMailbox _ _ _), Only.refl, Only.ite_iff, implies_true,
        and_self, and_true, true_and]
    | refine Only.foldl _ (fun _ _ => ?_) _ ?_
    | refine And.intro ?_ ?_
    | intro _
    | split

theorem only_cplDoorbell : ∀ a0 a1 a2 a3, Only [.out, .mailboxes, .hif] a0 (cplDoorbell a0 a1 a2 a3) := by
  intro a0 a1 a2 a3
  unfold cplDoorbell
  repeat' first
    | with_reducible exact Only.refl _ _
    | assumption
    | simp (disch := decide) only [doorbell, Only.op_iff (only_endSpaceWait _ _), Only.op_iff (only_setMailbox _ _
        _), Only.op_iff (only_writeHeld _ _ _), Only.refl, Only.ite_iff, implies_true, and_self, and_true, true_and]
    | refine Only.foldl _ (fun _ _ => ?_) _ ?_
    | refine And.intro ?_ ?_
    | intro _
    | split

theorem only_dipBegin : ∀ a0 a1, Only [.time, .spindles, .spires, .domes, .channels, .parts, .jobs, .mailboxes,
    .running, .lastServed, .streams, .decoders, .suspended, .motion, .prepUnits, .workItems, .prepBusy, .prepLoad,
    .prepSat, .prepUfl, .netPorts, .pipes, .tracks, .orings, .skein, .sec, .power, .hif, .boot] a0 (dipBegin a0 a1)
    := by
  intro a0 a1
  unfold dipBegin
  repeat' first
    | with_reducible exact Only.refl _ _
    | assumption
    | simp (disch := decide) only [Only.op_iff (only_abandonStart _ _), Only.op_iff (only_setPower _ _), Only.refl,
        Only.ite_iff, implies_true, and_self, and_true, true_and]
    | refine Only.foldl _ (fun _ _ => ?_) _ ?_
    | refine And.intro ?_ ?_
    | intro _
    | split

theorem only_raiseSupplyDip : ∀ a0 a1 a2 a3, Only [.out, .mailboxes, .hif] a0 (raiseSupplyDip a0 a1 a2 a3) := by
  intro a0 a1 a2 a3
  unfold raiseSupplyDip
  repeat' first
    | with_reducible exact Only.refl _ _
    | assumption
    | simp (disch := decide) only [Only.op_iff (only_raiseEvent _ _ _ _), Only.refl, Only.ite_iff, implies_true,
        and_self, and_true, true_and]
    | refine Only.foldl _ (fun _ _ => ?_) _ ?_
    | refine And.intro ?_ ?_
    | intro _
    | split

theorem only_dipEnd : ∀ a0 a1 a2, Only [.out, .mailboxes, .power, .hif, .boot] a0 (dipEnd a0 a1 a2) := by
  intro a0 a1 a2
  unfold dipEnd
  repeat' first
    | with_reducible exact Only.refl _ _
    | assumption
    | simp (disch := decide) only [Only.op_iff (only_enterDip _ _ _), Only.op_iff (only_raiseSupplyDip _ _ _ _),
        Only.op_iff (only_setPower _ _), Only.refl, Only.ite_iff, implies_true, and_self, and_true, true_and]
    | refine Only.foldl _ (fun _ _ => ?_) _ ?_
    | refine And.intro ?_ ?_
    | intro _
    | split

theorem only_enableLink : ∀ a0 a1, Only [.skein] a0 (enableLink a0 a1) := by
  intro a0 a1
  unfold enableLink
  repeat' first
    | with_reducible exact Only.refl _ _
    | assumption
    | simp (disch := decide) only [Only.op_iff (only_setLinkPort _ _ _), Only.refl, Only.ite_iff, implies_true,
        and_self, and_true, true_and]
    | refine Only.foldl _ (fun _ _ => ?_) _ ?_
    | refine And.intro ?_ ?_
    | intro _
    | split

theorem only_raiseOwed : ∀ a0, Only [.out, .mailboxes, .hif, .boot] a0 (raiseOwed a0) := by
  intro a0
  unfold raiseOwed
  repeat' first
    | with_reducible exact Only.refl _ _
    | assumption
    | simp (disch := decide) only [Only.op_iff (only_raiseSealChange _), Only.op_iff (only_raiseTamper _),
        Only.op_iff (only_setBoot _ _), Only.refl, Only.ite_iff, implies_true, and_self, and_true, true_and]
    | refine Only.foldl _ (fun _ _ => ?_) _ ?_
    | refine And.intro ?_ ?_
    | intro _
    | split

theorem only_enableMailbox : ∀ a0 a1, Only [.out, .mailboxes, .hif, .boot] a0 (enableMailbox a0 a1) := by
  intro a0 a1
  unfold enableMailbox
  repeat' first
    | with_reducible exact Only.refl _ _
    | assumption
    | simp (disch := decide) only [Only.op_iff (only_hostWrite _ _ _ _), Only.op_iff (only_raiseOwed _), Only.op_iff
        (only_setMailbox _ _ _), Only.op_iff (only_writeHeld _ _ _), Only.refl, Only.ite_iff, implies_true, and_self,
        and_true, true_and]
    | refine Only.foldl _ (fun _ _ => ?_) _ ?_
    | refine And.intro ?_ ?_
    | intro _
    | split

theorem only_takeLife : ∀ a0, Only [.boot] a0 (takeLife a0) := by
  intro a0
  unfold takeLife
  repeat' first
    | with_reducible exact Only.refl _ _
    | assumption
    | simp (disch := decide) only [Only.op_iff (only_setBoot _ _), Only.refl, Only.ite_iff, implies_true, and_self,
        and_true, true_and]
    | refine Only.foldl _ (fun _ _ => ?_) _ ?_
    | refine And.intro ?_ ?_
    | intro _
    | split

theorem only_enterRecovery : ∀ a0 a1, Only [.boot] a0 (enterRecovery a0 a1) := by
  intro a0 a1
  unfold enterRecovery
  repeat' first
    | with_reducible exact Only.refl _ _
    | assumption
    | simp (disch := decide) only [Only.op_iff (only_commitLife _), Only.op_iff (only_setBoot _ _), Only.op_iff
        (only_takeLife _), Only.refl, Only.ite_iff, implies_true, and_self, and_true, true_and]
    | refine Only.foldl _ (fun _ _ => ?_) _ ?_
    | refine And.intro ?_ ?_
    | intro _
    | split

theorem only_evtDoorbell : ∀ a0 a1 a2 a3, Only [.mailboxes] a0 (evtDoorbell a0 a1 a2 a3) := by
  intro a0 a1 a2 a3
  unfold evtDoorbell
  repeat' first
    | with_reducible exact Only.refl _ _
    | assumption
    | simp (disch := decide) only [doorbell, Only.op_iff (only_setMailbox _ _ _), Only.refl, Only.ite_iff,
        implies_true, and_self, and_true, true_and]
    | refine Only.foldl _ (fun _ _ => ?_) _ ?_
    | refine And.intro ?_ ?_
    | intro _
    | split

theorem only_setLatches : ∀ a0 a1 a2, Only [.hif] a0 (setLatches a0 a1 a2) := by
  intro a0 a1 a2
  unfold setLatches
  repeat' first
    | with_reducible exact Only.refl _ _
    | assumption
    | simp (disch := decide) only [Only.op_iff (only_setHif _ _), Only.refl, Only.ite_iff, implies_true, and_self,
        and_true, true_and]
    | refine Only.foldl _ (fun _ _ => ?_) _ ?_
    | refine And.intro ?_ ?_
    | intro _
    | split

theorem only_loRead : ∀ a0 a1 a2 a3 a4, Only [.out, .hif] a0 (loRead a0 a1 a2 a3 a4) := by
  intro a0 a1 a2 a3 a4
  unfold loRead
  repeat' first
    | with_reducible exact Only.refl _ _
    | assumption
    | simp (disch := decide) only [Only.op_iff (only_emit _ _), Only.op_iff (only_setLatches _ _ _), Only.refl,
        Only.ite_iff, implies_true, and_self, and_true, true_and]
    | refine Only.foldl _ (fun _ _ => ?_) _ ?_
    | refine And.intro ?_ ?_
    | intro _
    | split

theorem only_openMailbox8 : ∀ a0, Only [.mailboxes, .boot] a0 (openMailbox8 a0) := by
  intro a0
  unfold openMailbox8
  repeat' first
    | with_reducible exact Only.refl _ _
    | assumption
    | simp (disch := decide) only [Only.op_iff (only_setBoot _ _), Only.op_iff (only_setMailbox _ _ _), Only.refl,
        Only.ite_iff, implies_true, and_self, and_true, true_and]
    | refine Only.foldl _ (fun _ _ => ?_) _ ?_
    | refine And.intro ?_ ?_
    | intro _
    | split

theorem only_orderlyStop : ∀ a0 a1 a2 a3 a4, Only [.time, .out, .spindles, .spires, .domes, .channels, .parts,
    .jobs, .mailboxes, .running, .lastServed, .streams, .decoders, .suspended, .motion, .prepUnits, .workItems,
    .prepBusy, .prepLoad, .prepSat, .prepUfl, .netPorts, .pipes, .tracks, .orings, .skein, .sec, .power, .hif,
    .boot] a0 (orderlyStop a0 a1 a2 a3 a4) := by
  intro a0 a1 a2 a3 a4
  unfold orderlyStop
  repeat' first
    | with_reducible exact Only.refl _ _
    | assumption
    | simp (disch := decide) only [Only.op_iff (only_coldState _), Only.op_iff (only_commitStop _ _), Only.op_iff
        (only_raiseSupplyDip _ _ _ _), Only.refl, Only.ite_iff, implies_true, and_self, and_true, true_and]
    | refine Only.foldl _ (fun _ _ => ?_) _ ?_
    | refine And.intro ?_ ?_
    | intro _
    | split

theorem only_linkDown : ∀ a0, Only [.hif] a0 (linkDown a0) := by
  intro a0
  unfold linkDown
  repeat' first
    | with_reducible exact Only.refl _ _
    | assumption
    | simp (disch := decide) only [Only.op_iff (only_setHif _ _), Only.refl, Only.ite_iff, implies_true, and_self,
        and_true, true_and]
    | refine Only.foldl _ (fun _ _ => ?_) _ ?_
    | refine And.intro ?_ ?_
    | intro _
    | split

theorem only_linkLoss : ∀ a0 a1, Only [.draws, .out, .orders, .spires, .channels, .parts, .mailboxes, .running,
    .streams, .prepUnits, .workItems, .pipes, .tracks, .orings, .skein, .sec, .hif, .boot] a0 (linkLoss a0 a1) := by
  intro a0 a1
  unfold linkLoss
  repeat' first
    | with_reducible exact Only.refl _ _
    | assumption
    | simp (disch := decide) only [Only.op_iff (only_cfgDefaults _ _), Only.op_iff (only_hostLoss _ _ _ _),
        Only.op_iff (only_linkDown _), Only.op_iff (only_noVfs _), Only.refl, Only.ite_iff, implies_true, and_self,
        and_true, true_and]
    | refine Only.foldl _ (fun _ _ => ?_) _ ?_
    | refine And.intro ?_ ?_
    | intro _
    | split

theorem only_lanternUncorrectable : ∀ a0, Only [.out, .mailboxes, .hif, .boot] a0 (lanternUncorrectable a0) := by
  intro a0
  unfold lanternUncorrectable
  repeat' first
    | with_reducible exact Only.refl _ _
    | assumption
    | simp (disch := decide) only [Only.op_iff (only_raiseUncorrectable _ _ _ _ _ _), Only.op_iff (only_setBoot _
        _), Only.op_iff (only_setLife _ _), Only.refl, Only.ite_iff, implies_true, and_self, and_true, true_and]
    | refine Only.foldl _ (fun _ _ => ?_) _ ?_
    | refine And.intro ?_ ?_
    | intro _
    | split

theorem only_warmState : ∀ a0, Only [.time, .spindles, .spires, .domes, .channels, .parts, .jobs, .mailboxes,
    .running, .lastServed, .streams, .decoders, .suspended, .motion, .prepUnits, .workItems, .prepBusy, .prepLoad,
    .prepSat, .prepUfl, .netPorts, .pipes, .tracks, .orings, .skein, .sec, .power, .hif, .boot] a0 (warmState a0) :=
    by
  intro a0
  refine ⟨fun f hf => ?_⟩
  cases f <;> first | rfl | exact absurd (by decide) hf

theorem only_fatalRestart : ∀ a0, Only [.time, .draws, .out, .spindles, .spires, .domes, .channels, .parts, .jobs,
    .mailboxes, .running, .lastServed, .streams, .decoders, .suspended, .motion, .prepUnits, .workItems, .prepBusy,
    .prepLoad, .prepSat, .prepUfl, .netPorts, .pipes, .tracks, .orings, .skein, .sec, .power, .hif, .boot] a0
    (fatalRestart a0) := by
  intro a0
  unfold fatalRestart
  repeat' first
    | with_reducible exact Only.refl _ _
    | assumption
    | simp (disch := decide) only [Only.op_iff (only_commitLife _), Only.op_iff (only_drawn _), Only.op_iff
        (only_lanternUncorrectable _), Only.op_iff (only_raiseSupplyDip _ _ _ _), Only.op_iff (only_setBoot _ _),
        Only.op_iff (only_setLife _ _), Only.op_iff (only_warmState _), Only.refl, Only.ite_iff, implies_true,
        and_self, and_true, true_and]
    | refine Only.foldl _ (fun _ _ => ?_) _ ?_
    | refine And.intro ?_ ?_
    | intro _
    | split

theorem only_trainChannel : ∀ a0 a1 a2, Only [.channels] a1 (trainChannel a0 a1 a2) := by
  intro a0 a1 a2
  unfold trainChannel
  repeat' first
    | with_reducible exact Only.refl _ _
    | assumption
    | simp (disch := decide) only [Only.op_iff (only_setChannel _ _ _), Only.refl, Only.ite_iff, implies_true,
        and_self, and_true, true_and]
    | refine Only.foldl _ (fun _ _ => ?_) _ ?_
    | refine And.intro ?_ ?_
    | intro _
    | split

theorem only_firmwareStartEnd : ∀ a0 a1, Only [.spindles, .domes, .channels, .mailboxes, .skein, .sec, .power,
    .boot] a0 (firmwareStartEnd a0 a1) := by
  intro a0 a1
  unfold firmwareStartEnd
  repeat' first
    | with_reducible exact Only.refl _ _
    | assumption
    | simp (disch := decide) only [Only.op_iff (only_bypassColumn _ _), Only.op_iff (only_compareBelfry _),
        Only.op_iff (only_enableLink _ _), Only.op_iff (only_openMailbox8 _), Only.op_iff (only_setBoot _ _),
        Only.op_iff (only_setPower _ _), Only.op_iff (only_setTarget _ _), Only.op_iff (only_takeLife _), Only.op_iff
        (only_trainChannel _ _ _), Only.refl, Only.ite_iff, implies_true, and_self, and_true, true_and]
    | refine Only.foldl _ (fun _ _ => ?_) _ ?_
    | refine And.intro ?_ ?_
    | intro _
    | split

theorem only_unexpectedCompletion : ∀ a0 a1, Only [.hif] a0 (unexpectedCompletion a0 a1) := by
  intro a0 a1
  unfold unexpectedCompletion
  repeat' first
    | with_reducible exact Only.refl _ _
    | assumption
    | simp (disch := decide) only [Only.op_iff (only_setHif _ _), Only.refl, Only.ite_iff, implies_true, and_self,
        and_true, true_and]
    | refine Only.foldl _ (fun _ _ => ?_) _ ?_
    | refine And.intro ?_ ?_
    | intro _
    | split

theorem only_hostReadCompletion : ∀ a0 a1 a2, Only [.draws, .out, .orders, .channels, .parts, .mailboxes, .running,
    .streams, .prepUnits, .workItems, .prepSat, .prepUfl, .pipes, .skein, .sec, .belfry, .hif, .boot] a0
    (hostReadCompletion a0 a1 a2) := by
  intro a0 a1 a2
  unfold hostReadCompletion
  repeat' first
    | with_reducible exact Only.refl _ _
    | assumption
    | simp (disch := decide) only [Only.op_iff (only_failRead _ _), Only.op_iff (only_setHif _ _), Only.op_iff
        (only_unexpectedCompletion _ _), Only.refl, Only.ite_iff, implies_true, and_self, and_true, true_and]
    | refine Only.foldl _ (fun _ _ => ?_) _ ?_
    | refine And.intro ?_ ?_
    | intro _
    | split

theorem only_runImage : ∀ a0 a1, Only [.sec, .boot] a0 (runImage a0 a1) := by
  intro a0 a1
  unfold runImage
  repeat' first
    | with_reducible exact Only.refl _ _
    | assumption
    | simp (disch := decide) only [Only.op_iff (only_setBoot _ _), Only.op_iff (only_setSec _ _), Only.refl,
        Only.ite_iff, implies_true, and_self, and_true, true_and]
    | refine Only.foldl _ (fun _ _ => ?_) _ ?_
    | refine And.intro ?_ ?_
    | intro _
    | split

theorem only_imageVerified : ∀ a0 a1, Only [.sec, .boot] a0 (imageVerified a0 a1) := by
  intro a0 a1
  unfold imageVerified
  repeat' first
    | with_reducible exact Only.refl _ _
    | assumption
    | simp (disch := decide) only [Only.op_iff (only_appendRing _ _ _ _ _), Only.op_iff (only_enterRecovery _ _),
        Only.op_iff (only_runImage _ _), Only.refl, Only.ite_iff, implies_true, and_self, and_true, true_and]
    | refine Only.foldl _ (fun _ _ => ?_) _ ?_
    | refine And.intro ?_ ?_
    | intro _
    | split

theorem only_invalidationRequest : ∀ a0 a1 a2 a3, Only [.out, .hif] a0 (invalidationRequest a0 a1 a2 a3) := by
  intro a0 a1 a2 a3
  unfold invalidationRequest
  repeat' first
    | with_reducible exact Only.refl _ _
    | assumption
    | simp (disch := decide) only [Only.op_iff (only_answerInvalidations _ _), Only.op_iff (only_setHif _ _),
        Only.refl, Only.ite_iff, implies_true, and_self, and_true, true_and]
    | refine Only.foldl _ (fun _ _ => ?_) _ ?_
    | refine And.intro ?_ ?_
    | intro _
    | split

theorem only_mbCfgWrite : ∀ a0 a1 a2 a3, Only [.out, .mailboxes, .hif, .boot] a0 (mbCfgWrite a0 a1 a2 a3) := by
  intro a0 a1 a2 a3
  unfold mbCfgWrite
  repeat' first
    | with_reducible exact Only.refl _ _
    | assumption
    | simp (disch := decide) only [Only.op_iff (only_disableMailbox _ _), Only.op_iff (only_enableMailbox _ _),
        Only.op_iff (only_setMailbox _ _ _), Only.refl, Only.ite_iff, implies_true, and_self, and_true, true_and]
    | refine Only.foldl _ (fun _ _ => ?_) _ ?_
    | refine And.intro ?_ ?_
    | intro _
    | split

theorem only_lanRecGo : ∀ a0 a1 a2, Only [.out, .hif, .boot] a0 (lanRecGo a0 a1 a2) := by
  intro a0 a1 a2
  unfold lanRecGo
  repeat' first
    | with_reducible exact Only.refl _ _
    | assumption
    | simp (disch := decide) only [Only.op_iff (only_issueRead _ _ _ _ _), Only.op_iff (only_recoveryFails _ _),
        Only.op_iff (only_setBoot _ _), Only.refl, Only.ite_iff, implies_true, and_self, and_true, true_and]
    | refine Only.foldl _ (fun _ _ => ?_) _ ?_
    | refine And.intro ?_ ?_
    | intro _
    | split

theorem only_lifelogSecond : ∀ a0, Only [.domes, .boot] a0 (lifelogSecond a0) := by
  intro a0
  unfold lifelogSecond
  repeat' first
    | with_reducible exact Only.refl _ _
    | assumption
    | simp (disch := decide) only [Only.op_iff (only_setBoot _ _), Only.op_iff (only_setDome _ _ _), Only.refl,
        Only.ite_iff, implies_true, and_self, and_true, true_and]
    | refine Only.foldl _ (fun _ _ => ?_) _ ?_
    | refine And.intro ?_ ?_
    | intro _
    | split

theorem only_msixWindow : ∀ a0 a1 a2, Only [.out, .hif] a0 (msixWindow a0 a1 a2) := by
  intro a0 a1 a2
  unfold msixWindow
  repeat' first
    | with_reducible exact Only.refl _ _
    | assumption
    | simp (disch := decide) only [Only.op_iff (only_raiseVector _ _ _), Only.op_iff (only_setVec _ _ _ _),
        Only.refl, Only.ite_iff, implies_true, and_self, and_true, true_and]
    | refine Only.foldl _ (fun _ _ => ?_) _ ?_
    | refine And.intro ?_ ?_
    | intro _
    | split

theorem only_perstInStart : ∀ a0, Only [.time, .spindles, .spires, .domes, .channels, .parts, .jobs, .mailboxes,
    .running, .lastServed, .streams, .decoders, .suspended, .motion, .prepUnits, .workItems, .prepBusy, .prepLoad,
    .prepSat, .prepUfl, .netPorts, .pipes, .tracks, .orings, .skein, .sec, .power, .hif, .boot] a0 (perstInStart a0)
    := by
  intro a0
  unfold perstInStart
  repeat' first
    | with_reducible exact Only.refl _ _
    | assumption
    | simp (disch := decide) only [Only.op_iff (only_commitLife _), Only.op_iff (only_setBoot _ _), Only.op_iff
        (only_warmState _), Only.refl, Only.ite_iff, implies_true, and_self, and_true, true_and]
    | refine Only.foldl _ (fun _ _ => ?_) _ ?_
    | refine And.intro ?_ ?_
    | intro _
    | split

theorem only_perstRunning : ∀ a0, Only [.time, .spindles, .spires, .domes, .channels, .parts, .jobs, .mailboxes,
    .running, .lastServed, .streams, .decoders, .suspended, .motion, .prepUnits, .workItems, .prepBusy, .prepLoad,
    .prepSat, .prepUfl, .netPorts, .pipes, .tracks, .orings, .skein, .sec, .power, .hif, .boot] a0 (perstRunning a0)
    := by
  intro a0
  unfold perstRunning
  repeat' first
    | with_reducible exact Only.refl _ _
    | assumption
    | simp (disch := decide) only [Only.op_iff (only_commitLife _), Only.op_iff (only_setBoot _ _), Only.op_iff
        (only_warmState _), Only.refl, Only.ite_iff, implies_true, and_self, and_true, true_and]
    | refine Only.foldl _ (fun _ _ => ?_) _ ?_
    | refine And.intro ?_ ?_
    | intro _
    | split

theorem only_perstAssert : ∀ a0, Only [.time, .draws, .out, .orders, .spindles, .spires, .domes, .channels, .parts,
    .jobs, .mailboxes, .running, .lastServed, .streams, .decoders, .suspended, .motion, .prepUnits, .workItems,
    .prepBusy, .prepLoad, .prepSat, .prepUfl, .netPorts, .pipes, .tracks, .orings, .skein, .sec, .power, .hif,
    .boot] a0 (perstAssert a0) := by
  intro a0
  unfold perstAssert
  repeat' first
    | with_reducible exact Only.refl _ _
    | assumption
    | simp (disch := decide) only [Only.op_iff (only_hostLoss _ _ _ _), Only.op_iff (only_linkDown _), Only.op_iff
        (only_perstInStart _), Only.op_iff (only_perstRunning _), Only.refl, Only.ite_iff, implies_true, and_self,
        and_true, true_and]
    | refine Only.foldl _ (fun _ _ => ?_) _ ?_
    | refine And.intro ?_ ?_
    | intro _
    | split

theorem only_loaderAgain : ∀ a0, Only [.boot] a0 (loaderAgain a0) := by
  intro a0
  unfold loaderAgain
  repeat' first
    | with_reducible exact Only.refl _ _
    | assumption
    | simp (disch := decide) only [Only.op_iff (only_setBoot _ _), Only.refl, Only.ite_iff, implies_true, and_self,
        and_true, true_and]
    | refine Only.foldl _ (fun _ _ => ?_) _ ?_
    | refine And.intro ?_ ?_
    | intro _
    | split

theorem only_powerDisagree : ∀ a0, Only [.out, .mailboxes, .power, .hif, .boot] a0 (powerDisagree a0) := by
  intro a0
  unfold powerDisagree
  repeat' first
    | with_reducible exact Only.refl _ _
    | assumption
    | simp (disch := decide) only [Only.op_iff (only_raiseEvent _ _ _ _), Only.op_iff (only_setLife _ _),
        Only.op_iff (only_setPower _ _), Only.refl, Only.ite_iff, implies_true, and_self, and_true, true_and]
    | refine Only.foldl _ (fun _ _ => ?_) _ ?_
    | refine And.intro ?_ ?_
    | intro _
    | split

theorem only_powerRecalFit : ∀ a0, Only [.out, .mailboxes, .running, .power, .hif, .boot] a0 (powerRecalFit a0) := by
  intro a0
  unfold powerRecalFit
  repeat' first
    | with_reducible exact Only.refl _ _
    | assumption
    | simp (disch := decide) only [Only.op_iff (only_complete _ _ _ _), Only.op_iff (only_setLife _ _), Only.op_iff
        (only_setPower _ _), Only.refl, Only.ite_iff, implies_true, and_self, and_true, true_and]
    | refine Only.foldl _ (fun _ _ => ?_) _ ?_
    | refine And.intro ?_ ?_
    | intro _
    | split

theorem only_takeSample : ∀ a0 a1 a2 a3 a4 a5, Only [.power] a0 (takeSample a0 a1 a2 a3 a4 a5) := by
  intro a0 a1 a2 a3 a4 a5
  unfold takeSample
  repeat' first
    | with_reducible exact Only.refl _ _
    | assumption
    | simp (disch := decide) only [Only.op_iff (only_setPower _ _), Only.refl, Only.ite_iff, implies_true, and_self,
        and_true, true_and]
    | refine Only.foldl _ (fun _ _ => ?_) _ ?_
    | refine And.intro ?_ ?_
    | intro _
    | split

theorem only_powerSample : ∀ a0 a1 a2 a3 a4 a5, Only [.draws, .out, .domes, .jobs, .mailboxes, .power, .hif, .boot]
    a0 (powerSample a0 a1 a2 a3 a4 a5) := by
  intro a0 a1 a2 a3 a4 a5
  unfold powerSample
  repeat' first
    | with_reducible exact Only.refl _ _
    | assumption
    | simp (disch := decide) only [Only.op_iff (only_chooseFractions _), Only.op_iff (only_chooseTarget _),
        Only.op_iff (only_takeSample _ _ _ _ _ _), Only.refl, Only.ite_iff, implies_true, and_self, and_true,
        true_and]
    | refine Only.foldl _ (fun _ _ => ?_) _ ?_
    | refine And.intro ?_ ?_
    | intro _
    | split

theorem only_railPowerGood : ∀ a0, Only [.domes, .boot] a0 (railPowerGood a0) := by
  intro a0
  unfold railPowerGood
  repeat' first
    | with_reducible exact Only.refl _ _
    | assumption
    | simp (disch := decide) only [Only.op_iff (only_setBoot _ _), Only.op_iff (only_showPoint _ _), Only.refl,
        Only.ite_iff, implies_true, and_self, and_true, true_and]
    | refine Only.foldl _ (fun _ _ => ?_) _ ?_
    | refine And.intro ?_ ?_
    | intro _
    | split

theorem only_recProgramComplete : ∀ a0 a1, Only [.boot] a0 (recProgramComplete a0 a1) := by
  intro a0 a1
  unfold recProgramComplete
  repeat' first
    | with_reducible exact Only.refl _ _
    | assumption
    | simp (disch := decide) only [Only.op_iff (only_recoveryFails _ _), Only.op_iff (only_setBoot _ _), Only.refl,
        Only.ite_iff, implies_true, and_self, and_true, true_and]
    | refine Only.foldl _ (fun _ _ => ?_) _ ?_
    | refine And.intro ?_ ?_
    | intro _
    | split

theorem only_recReadBackComplete : ∀ a0 a1, Only [.sec, .boot] a0 (recReadBackComplete a0 a1) := by
  intro a0 a1
  unfold recReadBackComplete
  repeat' first
    | with_reducible exact Only.refl _ _
    | assumption
    | simp (disch := decide) only [Only.op_iff (only_recoveryFails _ _), Only.op_iff (only_runImage _ _),
        Only.op_iff (only_setBoot _ _), Only.refl, Only.ite_iff, implies_true, and_self, and_true, true_and]
    | refine Only.foldl _ (fun _ _ => ?_) _ ?_
    | refine And.intro ?_ ?_
    | intro _
    | split

theorem only_receivedTlpError : ∀ a0 a1, Only [.draws, .out, .orders, .spires, .channels, .parts, .mailboxes,
    .running, .streams, .prepUnits, .workItems, .pipes, .tracks, .orings, .skein, .sec, .hif, .boot] a0
    (receivedTlpError a0 a1) := by
  intro a0 a1
  unfold receivedTlpError
  repeat' first
    | with_reducible exact Only.refl _ _
    | assumption
    | simp (disch := decide) only [Only.op_iff (only_linkLoss _ _), Only.op_iff (only_setHif _ _), Only.refl,
        Only.ite_iff, implies_true, and_self, and_true, true_and]
    | refine Only.foldl _ (fun _ _ => ?_) _ ?_
    | refine And.intro ?_ ?_
    | intro _
    | split

theorem only_writeBase : ∀ a0 a1 a2 a3 a4, Only [.mailboxes] a0 (writeBase a0 a1 a2 a3 a4) := by
  intro a0 a1 a2 a3 a4
  unfold writeBase
  repeat' first
    | with_reducible exact Only.refl _ _
    | assumption
    | simp (disch := decide) only [Only.op_iff (only_setMailbox _ _ _), Only.refl, Only.ite_iff, implies_true,
        and_self, and_true, true_and]
    | refine Only.foldl _ (fun _ _ => ?_) _ ?_
    | refine And.intro ?_ ?_
    | intro _
    | split

theorem only_writeMailbox : ∀ a0 a1 a2 a3 a4, Only [.out, .mailboxes, .hif, .boot] a0 (writeMailbox a0 a1 a2 a3 a4)
    := by
  intro a0 a1 a2 a3 a4
  unfold writeMailbox
  repeat' first
    | with_reducible exact Only.refl _ _
    | assumption
    | simp (disch := decide) only [Only.op_iff (only_cmdDoorbell _ _ _ _), Only.op_iff (only_cplDoorbell _ _ _ _),
        Only.op_iff (only_evtDoorbell _ _ _ _), Only.op_iff (only_mbCfgWrite _ _ _ _), Only.op_iff (only_writeBase _ _
        _ _ _), Only.refl, Only.ite_iff, implies_true, and_self, and_true, true_and]
    | refine Only.foldl _ (fun _ _ => ?_) _ ?_
    | refine And.intro ?_ ?_
    | intro _
    | split

theorem only_writeRecovery : ∀ a0 a1 a2 a3, Only [.out, .hif, .boot] a0 (writeRecovery a0 a1 a2 a3) := by
  intro a0 a1 a2 a3
  unfold writeRecovery
  repeat' first
    | with_reducible exact Only.refl _ _
    | assumption
    | simp (disch := decide) only [Only.op_iff (only_lanRecGo _ _ _), Only.op_iff (only_setBoot _ _), Only.refl,
        Only.ite_iff, implies_true, and_self, and_true, true_and]
    | refine Only.foldl _ (fun _ _ => ?_) _ ?_
    | refine And.intro ?_ ?_
    | intro _
    | split

theorem only_writeVector : ∀ a0 a1 a2 a3, Only [.out, .hif] a0 (writeVector a0 a1 a2 a3) := by
  intro a0 a1 a2 a3
  unfold writeVector
  repeat' first
    | with_reducible exact Only.refl _ _
    | assumption
    | simp (disch := decide) only [Only.op_iff (only_sendPending _ _ _), Only.op_iff (only_setVec _ _ _ _),
        Only.refl, Only.ite_iff, implies_true, and_self, and_true, true_and]
    | refine Only.foldl _ (fun _ _ => ?_) _ ?_
    | refine And.intro ?_ ?_
    | intro _
    | split

theorem only_registerWrite : ∀ a0 a1 a2 a3, Only [.out, .mailboxes, .streams, .orings, .hif, .boot] a0
    (registerWrite a0 a1 a2 a3) := by
  intro a0 a1 a2 a3
  unfold registerWrite
  repeat' first
    | with_reducible exact Only.refl _ _
    | assumption
    | simp (disch := decide) only [Only.op_iff (only_medRingDoorbell _ _ _ _), Only.op_iff (only_oringDoorbell _ _ _
        _), Only.op_iff (only_writeMailbox _ _ _ _ _), Only.op_iff (only_writeRecovery _ _ _ _), Only.op_iff
        (only_writeVector _ _ _ _), Only.refl, Only.ite_iff, implies_true, and_self, and_true, true_and]
    | refine Only.foldl _ (fun _ _ => ?_) _ ?_
    | refine And.intro ?_ ?_
    | intro _
    | split

theorem only_relayedCommand : ∀ a0 a1, Only [.out, .mailboxes, .running, .sec, .hif] a0 (relayedCommand a0 a1) := by
  intro a0 a1
  unfold relayedCommand
  repeat' first
    | with_reducible exact Only.refl _ _
    | assumption
    | simp (disch := decide) only [Only.op_iff (only_checkDescriptor _ _ _ _), Only.refl, Only.ite_iff,
        implies_true, and_self, and_true, true_and]
    | refine Only.foldl _ (fun _ _ => ?_) _ ?_
    | refine And.intro ?_ ?_
    | intro _
    | split

theorem only_provision : ∀ a0, Only [.draws, .sec] a0 (provision a0) := by
  intro a0
  unfold provision
  repeat' first
    | with_reducible exact Only.refl _ _
    | assumption
    | simp (disch := decide) only [Only.op_iff (only_drawn _), Only.op_iff (only_setSec _ _), Only.refl,
        Only.ite_iff, implies_true, and_self, and_true, true_and]
    | refine Only.foldl _ (fun _ _ => ?_) _ ?_
    | refine And.intro ?_ ?_
    | intro _
    | split

theorem only_romLoaderStart : ∀ a0 a1, Only [.draws, .sec, .boot] a0 (romLoaderStart a0 a1) := by
  intro a0 a1
  unfold romLoaderStart
  repeat' first
    | with_reducible exact Only.refl _ _
    | assumption
    | simp (disch := decide) only [Only.op_iff (only_commitLife _), Only.op_iff (only_provision _), Only.op_iff
        (only_setBoot _ _), Only.op_iff (only_takeLife _), Only.refl, Only.ite_iff, implies_true, and_self, and_true,
        true_and]
    | refine Only.foldl _ (fun _ _ => ?_) _ ?_
    | refine And.intro ?_ ?_
    | intro _
    | split

theorem only_thermalEnd : ∀ a0 a1, Only [.out, .domes, .mailboxes, .power, .hif] a0 (thermalEnd a0 a1) := by
  intro a0 a1
  unfold thermalEnd
  repeat' first
    | with_reducible exact Only.refl _ _
    | assumption
    | simp (disch := decide) only [Only.op_iff (only_raiseThermal _ _ _), Only.op_iff (only_setDome _ _ _),
        Only.op_iff (only_setPower _ _), Only.refl, Only.ite_iff, implies_true, and_self, and_true, true_and]
    | refine Only.foldl _ (fun _ _ => ?_) _ ?_
    | refine And.intro ?_ ?_
    | intro _
    | split

theorem only_orderlyStopInside : ∀ a0, Only [.time, .draws, .out, .spindles, .spires, .domes, .channels, .parts,
    .jobs, .mailboxes, .running, .lastServed, .streams, .decoders, .suspended, .motion, .prepUnits, .workItems,
    .prepBusy, .prepLoad, .prepSat, .prepUfl, .netPorts, .pipes, .tracks, .orings, .skein, .sec, .power, .hif,
    .boot] a0 (orderlyStopInside a0) := by
  intro a0
  unfold orderlyStopInside
  repeat' first
    | with_reducible exact Only.refl _ _
    | assumption
    | simp (disch := decide) only [Only.op_iff (only_drawn _), Only.op_iff (only_orderlyStop _ _ _ _ _), Only.refl,
        Only.ite_iff, implies_true, and_self, and_true, true_and]
    | refine Only.foldl _ (fun _ _ => ?_) _ ?_
    | refine And.intro ?_ ?_
    | intro _
    | split

theorem only_takeReading : ∀ a0 a1 a2, Only [.domes] a0 (takeReading a0 a1 a2) := by
  intro a0 a1 a2
  unfold takeReading
  repeat' first
    | with_reducible exact Only.refl _ _
    | assumption
    | simp (disch := decide) only [Only.op_iff (only_setDome _ _ _), Only.refl, Only.ite_iff, implies_true,
        and_self, and_true, true_and]
    | refine Only.foldl _ (fun _ _ => ?_) _ ?_
    | refine And.intro ?_ ?_
    | intro _
    | split

theorem only_thermalRead : ∀ a0 a1 a2, Only [.time, .draws, .out, .spindles, .spires, .domes, .channels, .parts,
    .jobs, .mailboxes, .running, .lastServed, .streams, .decoders, .suspended, .motion, .prepUnits, .workItems,
    .prepBusy, .prepLoad, .prepSat, .prepUfl, .netPorts, .pipes, .tracks, .orings, .skein, .sec, .power, .hif,
    .boot] a0 (thermalRead a0 a1 a2) := by
  intro a0 a1 a2
  unfold thermalRead
  repeat' first
    | with_reducible exact Only.refl _ _
    | assumption
    | simp (disch := decide) only [Only.op_iff (only_beginHot _ _), Only.op_iff (only_beginThrottle _ _),
        Only.op_iff (only_orderlyStopInside _), Only.op_iff (only_takeReading _ _ _), Only.refl, Only.ite_iff,
        implies_true, and_self, and_true, true_and]
    | refine Only.foldl _ (fun _ _ => ?_) _ ?_
    | refine And.intro ?_ ?_
    | intro _
    | split

theorem only_thermalStep : ∀ a0 a1, Only [.draws, .out, .domes, .jobs, .mailboxes, .power, .hif, .boot] a0
    (thermalStep a0 a1) := by
  intro a0 a1
  unfold thermalStep
  repeat' first
    | with_reducible exact Only.refl _ _
    | assumption
    | simp (disch := decide) only [Only.op_iff (only_breachDome _ _), Only.op_iff (only_drawn _), Only.op_iff
        (only_setDome _ _ _), Only.op_iff (only_setPower _ _), Only.op_iff (only_setTarget _ _), Only.refl,
        Only.ite_iff, implies_true, and_self, and_true, true_and]
    | refine Only.foldl _ (fun _ _ => ?_) _ ?_
    | refine And.intro ?_ ?_
    | intro _
    | split

theorem only_failUntranslated : ∀ a0 a1 a2, Only [.draws, .out, .orders, .channels, .parts, .mailboxes, .running,
    .streams, .prepUnits, .workItems, .prepSat, .prepUfl, .pipes, .skein, .sec, .belfry, .hif, .boot] a2
    (failUntranslated a0 a1 a2) := by
  intro a0 a1 a2
  unfold failUntranslated
  repeat' first
    | with_reducible exact Only.refl _ _
    | assumption
    | simp (disch := decide) only [Only.op_iff (only_failRead _ _), Only.op_iff (only_setHif _ _), Only.refl,
        Only.ite_iff, implies_true, and_self, and_true, true_and]
    | refine Only.foldl _ (fun _ _ => ?_) _ ?_
    | refine And.intro ?_ ?_
    | intro _
    | split

theorem only_useTranslation : ∀ a0 a1, Only [.draws, .out, .orders, .channels, .parts, .mailboxes, .running,
    .streams, .prepUnits, .workItems, .prepSat, .prepUfl, .pipes, .skein, .sec, .belfry, .hif, .boot] a0
    (useTranslation a0 a1) := by
  intro a0 a1
  unfold useTranslation
  repeat' first
    | with_reducible exact Only.refl _ _
    | assumption
    | simp (disch := decide) only [Only.op_iff (only_cacheRoom _), Only.op_iff (only_failUntranslated _ _ _),
        Only.op_iff (only_releaseHeld _), Only.op_iff (only_setHif _ _), Only.refl, Only.ite_iff, implies_true,
        and_self, and_true, true_and]
    | refine Only.foldl _ (fun _ _ => ?_) _ ?_
    | refine And.intro ?_ ?_
    | intro _
    | split

theorem only_translationCompletion : ∀ a0 a1 a2 a3 a4 a5, Only [.draws, .out, .orders, .channels, .parts,
    .mailboxes, .running, .streams, .prepUnits, .workItems, .prepSat, .prepUfl, .pipes, .skein, .sec, .belfry, .hif,
    .boot] a0 (translationCompletion a0 a1 a2 a3 a4 a5) := by
  intro a0 a1 a2 a3 a4 a5
  unfold translationCompletion
  repeat' first
    | with_reducible exact Only.refl _ _
    | assumption
    | simp (disch := decide) only [Only.op_iff (only_askTranslation _ _ _), Only.op_iff (only_setHif _ _),
        Only.op_iff (only_useTranslation _ _), Only.refl, Only.ite_iff, implies_true, and_self, and_true, true_and]
    | refine Only.foldl _ (fun _ _ => ?_) _ ?_
    | refine And.intro ?_ ?_
    | intro _
    | split

end Sys2Proof
end

