-- ==== Sys2Proof/Laws/FrameExec.lean ====
section
/-! SUPPORT. The parts of the state that each command can change. -/

set_option linter.unusedSimpArgs false
set_option linter.unusedTactic false
set_option linter.unreachableTactic false

namespace Sys2Proof

open Machine

theorem only_execAcquire : ∀ a0 a1 t, execAcquire a0 a1 = .next t → Only [.out, .spindles, .spires, .jobs,
    .mailboxes, .running, .hif] a1 t :=
  fun _ _ _ h => Only.finish (only_syncAcquire _ _) h

theorem only_execAdmitMessage : ∀ a0 a1 t, execAdmitMessage a0 a1 = .next t → Only [.draws, .out, .skein] a1 t :=
  fun _ _ _ h => Only.finish (only_takeIntoSkein _ _) h

theorem only_execAdmitReply : ∀ a0 a1 a2 t, execAdmitReply a0 a1 a2 = .next t → Only [.draws, .out, .parts,
    .mailboxes, .running, .skein, .hif] a2 t :=
  fun _ _ _ _ h => Only.finish (only_admitReply _ _ _) h

theorem only_execAnswerPart : ∀ a0 a1 t, execAnswerPart a0 a1 = .next t → Only [.draws, .out, .spires, .channels,
    .jobs, .mailboxes, .running, .orings, .hif, .boot] a1 t :=
  fun _ _ _ h => Only.finish (only_answerPart _ _) h

theorem only_execArm : ∀ a0 a1 t, execArm a0 a1 = .next t → Only [.out, .spindles, .spires, .jobs, .mailboxes,
    .running, .hif] a1 t :=
  fun _ _ _ h => Only.finish (only_armCounter _ _) h

theorem only_execArrayIdle : ∀ a0 a1 t, execArrayIdle a0 a1 = .next t → Only [.spindles] a1 t :=
  fun _ _ _ h => Only.finish (only_arrayIdle _ _) h

theorem only_execArrive : ∀ a0 a1 a2 t, execArrive a0 a1 a2 = .next t → Only [.draws, .out, .spindles, .spires,
    .jobs, .skein] a2 t :=
  fun _ _ _ _ h => Only.finish (only_arriveAt _ _ _) h

theorem only_execAspmL1Idle : ∀ a0 t, execAspmL1Idle a0 = .next t → Only [.out, .hif] a0 t :=
  fun _ _ h => Only.finish (only_aspmL1Idle _) h

theorem only_execBar0BadAccess : ∀ a0 a1 a2 t, execBar0BadAccess a0 a1 a2 = .next t → Only [.out, .hif] a2 t :=
  fun _ _ _ _ h => Only.finish (only_bar0BadAccess _ _ _) h

theorem only_execBarrier : ∀ a0 a1 t, execBarrier a0 a1 = .next t → Only [.out, .spindles, .spires, .jobs,
    .mailboxes, .running, .hif] a1 t :=
  fun _ _ _ h => Only.finish (only_syncBarrier _ _) h

theorem only_execBatchComplete : ∀ a0 a1 a2 t, execBatchComplete a0 a1 a2 = .next t → Only [.draws, .out, .orders,
    .spires, .channels, .parts, .jobs, .mailboxes, .running, .workItems, .pipes, .tracks, .orings, .skein, .sec,
    .hif, .boot] a2 t :=
  fun _ _ _ _ h => Only.finish (only_batchComplete _ _ _) h

theorem only_execBatchOpenRetry : ∀ a0 a1 a2 t, execBatchOpenRetry a0 a1 a2 = .next t → Only [.draws, .out, .orders,
    .spires, .channels, .parts, .mailboxes, .running, .workItems, .pipes, .tracks, .orings, .skein, .sec, .hif,
    .boot] a2 t := by
  intro a0 a1 a2 t h
  refine Only.finish ?_ h
  repeat' first
    | with_reducible exact Only.refl _ _
    | assumption
    | simp (disch := decide) only [Only.op_iff (only_runQueue _ _ _), Only.op_iff (only_settlePipe _ _), Only.refl,
        Only.ite_iff, implies_true, and_self, and_true, true_and]
    | refine Only.foldl _ (fun _ _ => ?_) _ ?_
    | refine And.intro ?_ ?_
    | intro _
    | split

theorem only_execBelfryIdentity : ∀ a0 t, execBelfryIdentity a0 = .next t → Only [.out, .mailboxes, .running,
    .belfry, .hif] a0 t := by
  intro a0 t h
  refine Only.finish ?_ h
  repeat' first
    | with_reducible exact Only.refl _ _
    | assumption
    | simp (disch := decide) only [Only.op_iff (only_blfReply _ _ _), onRequest, Only.refl, Only.ite_iff,
        implies_true, and_self, and_true, true_and]
    | refine Only.foldl _ (fun _ _ => ?_) _ ?_
    | refine And.intro ?_ ?_
    | intro _
    | split

theorem only_execBelfryLog : ∀ a0 t, execBelfryLog a0 = .next t → Only [.out, .mailboxes, .running, .belfry, .hif]
    a0 t :=
  fun _ _ h => Only.finish (only_belfryLog _) h

theorem only_execBelfryStatus : ∀ a0 t, execBelfryStatus a0 = .next t → Only [.out, .mailboxes, .running, .belfry,
    .hif] a0 t := by
  intro a0 t h
  refine Only.finish ?_ h
  repeat' first
    | with_reducible exact Only.refl _ _
    | assumption
    | simp (disch := decide) only [Only.op_iff (only_blfReply _ _ _), onRequest, Only.refl, Only.ite_iff,
        implies_true, and_self, and_true, true_and]
    | refine Only.foldl _ (fun _ _ => ?_) _ ?_
    | refine And.intro ?_ ?_
    | intro _
    | split

theorem only_execBlfIdLoRead : ∀ a0 a1 t, execBlfIdLoRead a0 a1 = .next t → Only [.out, .hif] a1 t :=
  fun _ _ _ h => Only.finish (only_loRead _ _ _ _ _) h

theorem only_execBlfSeqLoRead : ∀ a0 a1 t, execBlfSeqLoRead a0 a1 = .next t → Only [.out, .hif] a1 t :=
  fun _ _ _ h => Only.finish (only_loRead _ _ _ _ _) h

theorem only_execBusMasterEnableCleared : ∀ a0 a1 t, execBusMasterEnableCleared a0 a1 = .next t → Only [.hif] a1 t :=
  fun _ _ _ h => Only.finish (only_busMasterOff _ _) h

theorem only_execCallDeadline : ∀ a0 t, execCallDeadline a0 = .next t → Only [.out, .belfry] a0 t :=
  fun _ _ h => Only.finish (only_endCall _ _ _) h

theorem only_execCallReturn : ∀ a0 a1 a2 t, execCallReturn a0 a1 a2 = .next t → Only [.out, .belfry] a2 t :=
  fun _ _ _ _ h => Only.finish (only_endCall _ _ _) h

theorem only_execChunkCopyComplete : ∀ a0 a1 a2 t, execChunkCopyComplete a0 a1 a2 = .next t → Only [.out, .orders,
    .parts, .mailboxes, .streams, .hif] a2 t :=
  fun _ _ _ _ h => Only.finish (only_chunkCopyComplete _ _ _) h

theorem only_execCmdAdapterInstall : ∀ a0 a1 t, execCmdAdapterInstall a0 a1 = .next t → Only [.out, .channels,
    .parts, .mailboxes, .running, .hif, .boot] a1 t :=
  fun _ _ _ h => Only.finish (only_cmdAdapterInstall _ _) h

theorem only_execCmdAttest : ∀ a0 a1 t, execCmdAttest a0 a1 = .next t → Only [.out, .mailboxes, .running, .sec,
    .hif] a1 t :=
  fun _ _ _ h => Only.finish (only_cmdAttest _ _) h

theorem only_execCmdAuditExport : ∀ a0 a1 t, execCmdAuditExport a0 a1 = .next t → Only [.out, .mailboxes, .running,
    .hif] a1 t :=
  fun _ _ _ h => Only.finish (only_cmdAuditExport _ _) h

theorem only_execCmdBlfRecords : ∀ a0 a1 t, execCmdBlfRecords a0 a1 = .next t → Only [.out, .mailboxes, .running,
    .hif] a1 t :=
  fun _ _ _ h => Only.finish (only_cmdBlfRecords _ _) h

theorem only_execCmdBlfRequest : ∀ a0 a1 a2 t, execCmdBlfRequest a0 a1 a2 = .next t → Only [.out, .mailboxes,
    .running, .belfry, .hif] a2 t :=
  fun _ _ _ _ h => Only.finish (only_cmdBlfRequest _ _ _) h

theorem only_execCmdCeilingLower : ∀ a0 a1 t, execCmdCeilingLower a0 a1 = .next t → Only [.out, .mailboxes,
    .running, .sec, .power, .hif] a1 t :=
  fun _ _ _ h => Only.finish (only_cmdCeilingLower _ _) h

theorem only_execCmdClientLimit : ∀ a0 a1 t, execCmdClientLimit a0 a1 = .next t → Only [.out, .parts, .mailboxes,
    .running, .hif] a1 t :=
  fun _ _ _ h => Only.finish (only_cmdClientLimit _ _) h

theorem only_execCmdClientStats : ∀ a0 a1 t, execCmdClientStats a0 a1 = .next t → Only [.out, .mailboxes, .running,
    .hif] a1 t :=
  fun _ _ _ h => Only.finish (only_cmdClientStats _ _) h

theorem only_execCmdDebugDisable : ∀ a0 a1 t, execCmdDebugDisable a0 a1 = .next t → Only [.out, .mailboxes,
    .running, .sec, .hif] a1 t :=
  fun _ _ _ h => Only.finish (only_cmdDebugDisable _ _) h

theorem only_execCmdDevInfo : ∀ a0 a1 t, execCmdDevInfo a0 a1 = .next t → Only [.out, .mailboxes, .running, .hif] a1
    t :=
  fun _ _ _ h => Only.finish (only_cmdDevInfo _ _) h

theorem only_execCmdIdentityGet : ∀ a0 a1 t, execCmdIdentityGet a0 a1 = .next t → Only [.out, .mailboxes, .running,
    .hif] a1 t :=
  fun _ _ _ h => Only.finish (only_cmdIdentityGet _ _) h

theorem only_execCmdJobAbort : ∀ a0 a1 t, execCmdJobAbort a0 a1 = .next t → Only [.out, .jobs, .mailboxes, .running,
    .hif] a1 t :=
  fun _ _ _ h => Only.finish (only_cmdJobAbort _ _) h

theorem only_execCmdJobDefine : ∀ a0 a1 t, execCmdJobDefine a0 a1 = .next t → Only [.out, .channels, .parts,
    .mailboxes, .running, .hif, .boot] a1 t :=
  fun _ _ _ h => Only.finish (only_cmdJobDefine _ _) h

theorem only_execCmdJobPower : ∀ a0 a1 t, execCmdJobPower a0 a1 = .next t → Only [.out, .jobs, .mailboxes, .running,
    .hif] a1 t :=
  fun _ _ _ h => Only.finish (only_cmdJobPower _ _) h

theorem only_execCmdJobPreempt : ∀ a0 a1 t, execCmdJobPreempt a0 a1 = .next t → Only [.out, .jobs, .mailboxes,
    .running, .hif] a1 t :=
  fun _ _ _ h => Only.finish (only_cmdJobPreempt _ _) h

theorem only_execCmdJobResume : ∀ a0 a1 t, execCmdJobResume a0 a1 = .next t → Only [.out, .orders, .jobs,
    .mailboxes, .running, .hif] a1 t :=
  fun _ _ _ h => Only.finish (only_cmdJobResume _ _) h

theorem only_execCmdJobStart : ∀ a0 a1 t, execCmdJobStart a0 a1 = .next t → Only [.out, .orders, .channels, .parts,
    .jobs, .mailboxes, .running, .hif, .boot] a1 t :=
  fun _ _ _ h => Only.finish (only_cmdJobStart _ _) h

theorem only_execCmdJobUndefine : ∀ a0 a1 t, execCmdJobUndefine a0 a1 = .next t → Only [.out, .parts, .mailboxes,
    .running, .hif] a1 t :=
  fun _ _ _ h => Only.finish (only_cmdJobUndefine _ _) h

theorem only_execCmdLifelogCommit : ∀ a0 a1 t, execCmdLifelogCommit a0 a1 = .next t → Only [.out, .mailboxes,
    .running, .hif, .boot] a1 t :=
  fun _ _ _ h => Only.finish (only_cmdLifelogCommit _ _) h

theorem only_execCmdLifelogExport : ∀ a0 a1 t, execCmdLifelogExport a0 a1 = .next t → Only [.out, .mailboxes,
    .running, .hif] a1 t :=
  fun _ _ _ h => Only.finish (only_cmdLifelogExport _ _) h

theorem only_execCmdMemWrite : ∀ a0 a1 a2 t, execCmdMemWrite a0 a1 a2 = .next t → Only [.out, .channels, .parts,
    .mailboxes, .running, .hif, .boot] a2 t :=
  fun _ _ _ _ h => Only.finish (only_cmdMemWrite _ _ _) h

theorem only_execCmdModelLoad : ∀ a0 a1 a2 t, execCmdModelLoad a0 a1 a2 = .next t → Only [.out, .channels, .parts,
    .mailboxes, .running, .hif, .boot] a2 t :=
  fun _ _ _ _ h => Only.finish (only_cmdModelLoad _ _ _) h

theorem only_execCmdModelUnload : ∀ a0 a1 t, execCmdModelUnload a0 a1 = .next t → Only [.out, .parts, .mailboxes,
    .running, .hif] a1 t :=
  fun _ _ _ h => Only.finish (only_cmdModelUnload _ _) h

theorem only_execCmdOringCreate : ∀ a0 a1 t, execCmdOringCreate a0 a1 = .next t → Only [.out, .mailboxes, .running,
    .orings, .hif] a1 t :=
  fun _ _ _ h => Only.finish (only_cmdOringCreate _ _) h

theorem only_execCmdOringDestroy : ∀ a0 a1 t, execCmdOringDestroy a0 a1 = .next t → Only [.out, .mailboxes,
    .running, .orings, .hif] a1 t :=
  fun _ _ _ h => Only.finish (only_cmdOringDestroy _ _) h

theorem only_execCmdOwnerEnroll : ∀ a0 a1 a2 t, execCmdOwnerEnroll a0 a1 a2 = .next t → Only [.out, .mailboxes,
    .running, .sec, .hif] a2 t :=
  fun _ _ _ _ h => Only.finish (only_cmdOwnerEnroll _ _ _) h

theorem only_execCmdPartCreate : ∀ a0 a1 t, execCmdPartCreate a0 a1 = .next t → Only [.draws, .out, .spindles,
    .spires, .parts, .mailboxes, .running, .hif] a1 t :=
  fun _ _ _ h => Only.finish (only_cmdPartCreate _ _) h

theorem only_execCmdPartDelete : ∀ a0 a1 t, execCmdPartDelete a0 a1 = .next t → Only [.draws, .out, .orders,
    .spires, .channels, .parts, .jobs, .mailboxes, .running, .streams, .workItems, .pipes, .tracks, .orings, .skein,
    .sec, .hif, .boot] a1 t :=
  fun _ _ _ h => Only.finish (only_cmdPartDelete _ _) h

theorem only_execCmdPartGrow : ∀ a0 a1 t, execCmdPartGrow a0 a1 = .next t → Only [.draws, .out, .spindles, .spires,
    .parts, .mailboxes, .running, .hif] a1 t :=
  fun _ _ _ h => Only.finish (only_cmdPartGrow _ _) h

theorem only_execCmdPartShrink : ∀ a0 a1 t, execCmdPartShrink a0 a1 = .next t → Only [.out, .spires, .parts,
    .mailboxes, .running, .hif] a1 t :=
  fun _ _ _ h => Only.finish (only_cmdPartShrink _ _) h

theorem only_execCmdPipeAttach : ∀ a0 a1 t, execCmdPipeAttach a0 a1 = .next t → Only [.out, .mailboxes, .running,
    .streams, .hif] a1 t :=
  fun _ _ _ h => Only.finish (only_cmdPipeAttach _ _) h

theorem only_execCmdPipeCreate : ∀ a0 a1 a2 t, execCmdPipeCreate a0 a1 a2 = .next t → Only [.out, .mailboxes,
    .running, .pipes, .hif] a2 t :=
  fun _ _ _ _ h => Only.finish (only_cmdPipeCreate _ _ _) h

theorem only_execCmdPipeDetach : ∀ a0 a1 t, execCmdPipeDetach a0 a1 = .next t → Only [.draws, .out, .orders,
    .spires, .channels, .parts, .mailboxes, .running, .streams, .workItems, .pipes, .tracks, .orings, .skein, .sec,
    .hif, .boot] a1 t :=
  fun _ _ _ h => Only.finish (only_cmdPipeDetach _ _) h

theorem only_execCmdPipeRemove : ∀ a0 a1 t, execCmdPipeRemove a0 a1 = .next t → Only [.draws, .out, .orders,
    .spires, .channels, .parts, .jobs, .mailboxes, .running, .streams, .workItems, .pipes, .tracks, .orings, .skein,
    .sec, .hif, .boot] a1 t :=
  fun _ _ _ h => Only.finish (only_cmdPipeRemove _ _) h

theorem only_execCmdPoolCreate : ∀ a0 a1 t, execCmdPoolCreate a0 a1 = .next t → Only [.out, .parts, .mailboxes,
    .running, .hif] a1 t :=
  fun _ _ _ h => Only.finish (only_cmdPoolCreate _ _) h

theorem only_execCmdPoolDestroy : ∀ a0 a1 t, execCmdPoolDestroy a0 a1 = .next t → Only [.out, .parts, .mailboxes,
    .running, .hif] a1 t :=
  fun _ _ _ h => Only.finish (only_cmdPoolDestroy _ _) h

theorem only_execCmdPortConfig : ∀ a0 a1 t, execCmdPortConfig a0 a1 = .next t → Only [.out, .mailboxes, .running,
    .netPorts, .hif] a1 t :=
  fun _ _ _ h => Only.finish (only_cmdPortConfig _ _) h

theorem only_execCmdPowerLimit : ∀ a0 a1 t, execCmdPowerLimit a0 a1 = .next t → Only [.out, .mailboxes, .running,
    .power, .hif] a1 t :=
  fun _ _ _ h => Only.finish (only_cmdPowerLimit _ _) h

theorem only_execCmdPowerRecal : ∀ a0 a1 t, execCmdPowerRecal a0 a1 = .next t → Only [.out, .mailboxes, .running,
    .power, .hif] a1 t :=
  fun _ _ _ h => Only.finish (only_cmdPowerRecal _ _) h

theorem only_execCmdPrepSubmit : ∀ a0 a1 t, execCmdPrepSubmit a0 a1 = .next t → Only [.draws, .out, .orders,
    .channels, .parts, .mailboxes, .running, .workItems, .hif, .boot] a1 t :=
  fun _ _ _ h => Only.finish (only_cmdPrepSubmit _ _) h

theorem only_execCmdQueueCreate : ∀ a0 a1 t, execCmdQueueCreate a0 a1 = .next t → Only [.out, .parts, .mailboxes,
    .running, .hif] a1 t :=
  fun _ _ _ h => Only.finish (only_cmdQueueCreate _ _) h

theorem only_execCmdSeqJoin : ∀ a0 a1 t, execCmdSeqJoin a0 a1 = .next t → Only [.out, .jobs, .mailboxes, .running,
    .hif] a1 t :=
  fun _ _ _ h => Only.finish (only_cmdSeqJoin _ _) h

theorem only_execCmdSeqLeave : ∀ a0 a1 t, execCmdSeqLeave a0 a1 = .next t → Only [.out, .jobs, .mailboxes, .running,
    .hif] a1 t :=
  fun _ _ _ h => Only.finish (only_cmdSeqLeave _ _) h

theorem only_execCmdSessionClose : ∀ a0 a1 t, execCmdSessionClose a0 a1 = .next t → Only [.out, .mailboxes,
    .running, .sec, .hif] a1 t :=
  fun _ _ _ h => Only.finish (only_cmdSessionClose _ _) h

theorem only_execCmdSessionOpen : ∀ a0 a1 a2 t, execCmdSessionOpen a0 a1 a2 = .next t → Only [.draws, .out,
    .mailboxes, .running, .sec, .hif] a2 t :=
  fun _ _ _ _ h => Only.finish (only_cmdSessionOpen _ _ _) h

theorem only_execCmdSkeinBarrier : ∀ a0 a1 t, execCmdSkeinBarrier a0 a1 = .next t → Only [.out, .mailboxes,
    .running, .skein, .hif] a1 t :=
  fun _ _ _ h => Only.finish (only_cmdSkeinBarrier _ _) h

theorem only_execCmdSkeinBind : ∀ a0 a1 t, execCmdSkeinBind a0 a1 = .next t → Only [.out, .mailboxes, .running,
    .sec, .hif] a1 t :=
  fun _ _ _ h => Only.finish (only_cmdSkeinBind _ _) h

theorem only_execCmdSkeinDissolve : ∀ a0 a1 a2 t, execCmdSkeinDissolve a0 a1 a2 = .next t → Only [.draws, .out,
    .parts, .mailboxes, .running, .skein, .hif] a2 t :=
  fun _ _ _ _ h => Only.finish (only_cmdSkeinDissolve _ _ _) h

theorem only_execCmdSkeinExclude : ∀ a0 a1 t, execCmdSkeinExclude a0 a1 = .next t → Only [.draws, .out, .parts,
    .jobs, .mailboxes, .running, .skein, .hif] a1 t :=
  fun _ _ _ h => Only.finish (only_cmdSkeinExclude _ _) h

theorem only_execCmdSkeinForm : ∀ a0 a1 a2 t, execCmdSkeinForm a0 a1 a2 = .next t → Only [.draws, .out, .mailboxes,
    .running, .skein, .hif] a2 t :=
  fun _ _ _ _ h => Only.finish (only_cmdSkeinForm _ _ _) h

theorem only_execCmdSkeinPlace : ∀ a0 a1 t, execCmdSkeinPlace a0 a1 = .next t → Only [.out, .parts, .mailboxes,
    .running, .hif] a1 t :=
  fun _ _ _ h => Only.finish (only_cmdSkeinPlace _ _) h

theorem only_execCmdSkeinPort : ∀ a0 a1 t, execCmdSkeinPort a0 a1 = .next t → Only [.draws, .out, .parts, .jobs,
    .mailboxes, .running, .skein, .hif, .boot] a1 t :=
  fun _ _ _ h => Only.finish (only_cmdSkeinPort _ _) h

theorem only_execCmdSkeinQueue : ∀ a0 a1 t, execCmdSkeinQueue a0 a1 = .next t → Only [.draws, .out, .parts,
    .mailboxes, .running, .skein, .hif] a1 t :=
  fun _ _ _ h => Only.finish (only_cmdSkeinQueue _ _) h

theorem only_execCmdSkeinRelay : ∀ a0 a1 a2 t, execCmdSkeinRelay a0 a1 a2 = .next t → Only [.draws, .out,
    .mailboxes, .running, .skein, .hif] a2 t :=
  fun _ _ _ _ h => Only.finish (only_cmdSkeinRelay _ _ _) h

theorem only_execCmdStreamClose : ∀ a0 a1 t, execCmdStreamClose a0 a1 = .next t → Only [.out, .channels, .parts,
    .mailboxes, .running, .streams, .hif, .boot] a1 t :=
  fun _ _ _ h => Only.finish (only_cmdStreamClose _ _) h

theorem only_execCmdStreamOpen : ∀ a0 a1 t, execCmdStreamOpen a0 a1 = .next t → Only [.out, .mailboxes, .running,
    .streams, .hif] a1 t :=
  fun _ _ _ h => Only.finish (only_cmdStreamOpen _ _) h

theorem only_execCmdSvAdvance : ∀ a0 a1 t, execCmdSvAdvance a0 a1 = .next t → Only [.out, .mailboxes, .running,
    .sec, .hif] a1 t :=
  fun _ _ _ h => Only.finish (only_cmdSvAdvance _ _) h

theorem only_execCommandBegin : ∀ a0 a1 a2 t, execCommandBegin a0 a1 a2 = .next t → Only [.out, .mailboxes,
    .running, .lastServed, .sec, .hif] a2 t :=
  fun _ _ _ _ h => Only.finish (only_commandBegin _ _ _) h

theorem only_execCommit : ∀ a0 t, execCommit a0 = .next t → Only [.out, .mailboxes, .running, .belfry, .hif] a0 t :=
  fun _ _ h => Only.finish (only_commitSeal _) h

theorem only_execCompletionTimeout : ∀ a0 a1 t, execCompletionTimeout a0 a1 = .next t → Only [.draws, .out, .orders,
    .channels, .parts, .mailboxes, .running, .streams, .prepUnits, .workItems, .prepSat, .prepUfl, .pipes, .skein,
    .sec, .belfry, .hif, .boot] a1 t :=
  fun _ _ _ h => Only.finish (only_completionTimeout _ _) h

theorem only_execConfigReady : ∀ a0 t, execConfigReady a0 = .next t → Only [.mailboxes, .hif, .boot] a0 t := by
  intro a0 t h
  refine Only.finish ?_ h
  repeat' first
    | with_reducible exact Only.refl _ _
    | assumption
    | simp (disch := decide) only [Machine.guarded, Only.op_iff (only_openMailbox8 _), Only.op_iff (only_setHif _
        _), Only.refl, Only.ite_iff, implies_true, and_self, and_true, true_and]
    | refine Only.foldl _ (fun _ _ => ?_) _ ?_
    | refine And.intro ?_ ?_
    | intro _
    | split

theorem only_execConfigurationRequest : ∀ a0 a1 a2 t, execConfigurationRequest a0 a1 a2 = .next t → Only [.draws,
    .out, .orders, .spires, .channels, .parts, .mailboxes, .running, .streams, .prepUnits, .workItems, .pipes,
    .tracks, .orings, .skein, .sec, .hif, .boot] a2 t :=
  fun _ _ _ _ h => Only.finish (only_configurationRequest _ _ _) h

theorem only_execContextSwitch : ∀ a0 a1 a2 t, execContextSwitch a0 a1 a2 = .next t → Only [.decoders, .suspended]
    a2 t :=
  fun _ _ _ _ h => Only.finish (only_contextSwitch _ _ _) h

theorem only_execConv : ∀ a0 a1 t, execConv a0 a1 = .next t → Only [.out, .spindles, .spires, .domes, .channels,
    .jobs, .mailboxes, .running, .hif, .boot] a1 t :=
  fun _ _ _ h => Only.finish (only_stemEntryRow _ _ _) h

theorem only_execCopy : ∀ a0 a1 t, execCopy a0 a1 = .next t → Only [.out, .spindles, .jobs, .mailboxes, .running,
    .hif] a1 t :=
  fun _ _ _ h => Only.finish (only_handCopy _ _) h

theorem only_execCopyComplete : ∀ a0 a1 t, execCopyComplete a0 a1 = .next t → Only [.draws, .out, .spindles,
    .spires, .domes, .channels, .parts, .jobs, .mailboxes, .running, .hif, .boot] a1 t :=
  fun _ _ _ h => Only.finish (only_copyComplete _ _) h

theorem only_execCoreWatchdog : ∀ a0 t, execCoreWatchdog a0 = .next t → Only [.belfry] a0 t :=
  fun _ _ h => Only.finish (only_coreWatchdog _) h

theorem only_execCreditGrant : ∀ a0 a1 a2 a3 a4 a5 a6 t, execCreditGrant a0 a1 a2 a3 a4 a5 a6 = .next t → Only
    [.draws, .out, .skein] a6 t :=
  fun _ _ _ _ _ _ _ _ h => Only.finish (only_creditGrant _ _) h

theorem only_execCreditGrantAck : ∀ a0 a1 a2 a3 a4 t, execCreditGrantAck a0 a1 a2 a3 a4 = .next t → Only [.draws,
    .out, .parts, .mailboxes, .running, .skein, .hif] a4 t :=
  fun _ _ _ _ _ _ h => Only.finish (only_creditGrantAck _ _ _ _ _) h

theorem only_execCreditReturn : ∀ a0 a1 a2 a3 a4 a5 a6 t, execCreditReturn a0 a1 a2 a3 a4 a5 a6 = .next t → Only
    [.draws, .out, .spindles, .spires, .channels, .parts, .jobs, .mailboxes, .running, .skein, .hif, .boot] a6 t :=
  fun _ _ _ _ _ _ _ _ h => Only.finish (only_creditReturn _ _ _ _ _ _ _) h

theorem only_execCsiFrame : ∀ a0 a1 a2 a3 a4 a5 t, execCsiFrame a0 a1 a2 a3 a4 a5 = .next t → Only [.belfry] a5 t :=
  fun _ _ _ _ _ _ _ h => Only.finish (only_csiFrame _ _ _ _ _ _) h

theorem only_execDescriptorFetch : ∀ a0 a1 t, execDescriptorFetch a0 a1 = .next t → Only [.out, .spindles,
    .channels, .jobs, .mailboxes, .running, .hif, .boot] a1 t :=
  fun _ _ _ h => Only.finish (only_descriptorFetch _ _) h

theorem only_execDipBegin : ∀ a0 a1 t, execDipBegin a0 a1 = .next t → Only [.time, .spindles, .spires, .domes,
    .channels, .parts, .jobs, .mailboxes, .running, .lastServed, .streams, .decoders, .suspended, .motion,
    .prepUnits, .workItems, .prepBusy, .prepLoad, .prepSat, .prepUfl, .netPorts, .pipes, .tracks, .orings, .skein,
    .sec, .power, .hif, .boot] a1 t :=
  fun _ _ _ h => Only.finish (only_dipBegin _ _) h

theorem only_execDipEnd : ∀ a0 a1 a2 t, execDipEnd a0 a1 a2 = .next t → Only [.out, .mailboxes, .power, .hif, .boot]
    a2 t :=
  fun _ _ _ _ h => Only.finish (only_dipEnd _ _ _) h

theorem only_execDipLimit : ∀ a0 a1 a2 t, execDipLimit a0 a1 a2 = .next t → Only [.time, .out, .spindles, .spires,
    .domes, .channels, .parts, .jobs, .mailboxes, .running, .lastServed, .streams, .decoders, .suspended, .motion,
    .prepUnits, .workItems, .prepBusy, .prepLoad, .prepSat, .prepUfl, .netPorts, .pipes, .tracks, .orings, .skein,
    .sec, .power, .hif, .boot] a2 t := by
  intro a0 a1 a2 t h
  refine Only.finish ?_ h
  repeat' first
    | with_reducible exact Only.refl _ _
    | assumption
    | simp (disch := decide) only [Machine.guarded, Only.op_iff (only_orderlyStop _ _ _ _ _), Only.refl,
        Only.ite_iff, implies_true, and_self, and_true, true_and]
    | refine Only.foldl _ (fun _ _ => ?_) _ ?_
    | refine And.intro ?_ ?_
    | intro _
    | split

theorem only_execDlDown : ∀ a0 t, execDlDown a0 = .next t → Only [.draws, .out, .orders, .spires, .channels, .parts,
    .mailboxes, .running, .streams, .prepUnits, .workItems, .pipes, .tracks, .orings, .skein, .sec, .hif, .boot] a0
    t :=
  fun _ _ h => Only.finish (only_linkLoss _ _) h

theorem only_execDrain : ∀ a0 a1 t, execDrain a0 a1 = .next t → Only [.spindles] a1 t :=
  fun _ _ _ h => Only.finish (only_passDrain _ _) h

theorem only_execDroopEvent : ∀ a0 a1 t, execDroopEvent a0 a1 = .next t → Only [.domes, .boot] a1 t :=
  fun _ _ _ h => Only.finish (only_droopEvent _ _) h

theorem only_execDroopHold : ∀ a0 a1 t, execDroopHold a0 a1 = .next t → Only [.spindles, .domes, .boot] a1 t :=
  fun _ _ _ h => Only.finish (only_droopHold _ _) h

theorem only_execDroopRecovered : ∀ a0 a1 t, execDroopRecovered a0 a1 = .next t → Only [.domes] a1 t :=
  fun _ _ _ h => Only.finish (only_droopRecovered _ _) h

theorem only_execEncoderEdge : ∀ a0 a1 a2 a3 t, execEncoderEdge a0 a1 a2 a3 = .next t → Only [.belfry] a3 t :=
  fun _ _ _ _ _ h => Only.finish (only_encoderEdge _ _ _ _) h

theorem only_execEndProgram : ∀ a0 a1 t, execEndProgram a0 a1 = .next t → Only [.out, .spindles, .jobs, .mailboxes,
    .running, .hif] a1 t :=
  fun _ _ _ h => Only.finish (only_endProgram _ _) h

theorem only_execEthLinkChange : ∀ a0 a1 a2 t, execEthLinkChange a0 a1 a2 = .next t → Only [.netPorts] a2 t :=
  fun _ _ _ _ h => Only.finish (only_setNetPort _ _ _) h

theorem only_execFatalRestart : ∀ a0 t, execFatalRestart a0 = .next t → Only [.time, .draws, .out, .spindles,
    .spires, .domes, .channels, .parts, .jobs, .mailboxes, .running, .lastServed, .streams, .decoders, .suspended,
    .motion, .prepUnits, .workItems, .prepBusy, .prepLoad, .prepSat, .prepUfl, .netPorts, .pipes, .tracks, .orings,
    .skein, .sec, .power, .hif, .boot] a0 t :=
  fun _ _ h => Only.finish (only_fatalRestart _) h

theorem only_execFaultLine : ∀ a0 t, execFaultLine a0 = .next t → Only [.out] a0 t := by
  intro a0 t h
  refine Only.finish ?_ h
  repeat' first
    | with_reducible exact Only.refl _ _
    | assumption
    | simp (disch := decide) only [Machine.guarded, Only.op_iff (only_sendLine _ _), Only.refl, Only.ite_iff,
        implies_true, and_self, and_true, true_and]
    | refine Only.foldl _ (fun _ _ => ?_) _ ?_
    | refine And.intro ?_ ?_
    | intro _
    | split

theorem only_execFirmwareStartEnd : ∀ a0 a1 t, execFirmwareStartEnd a0 a1 = .next t → Only [.spindles, .domes,
    .channels, .mailboxes, .skein, .sec, .power, .boot] a1 t :=
  fun _ _ _ h => Only.finish (only_firmwareStartEnd _ _) h

theorem only_execFlit : ∀ a0 a1 a2 t, execFlit a0 a1 a2 = .next t → Only [.draws, .out, .parts, .jobs, .mailboxes,
    .running, .skein, .hif, .boot] a2 t :=
  fun _ _ _ _ h => Only.finish (only_flitArrives _ _ _) h

theorem only_execFormationTimeout : ∀ a0 t, execFormationTimeout a0 = .next t → Only [.draws, .out, .parts,
    .mailboxes, .running, .skein, .hif] a0 t :=
  fun _ _ h => Only.finish (only_formationTimeout _) h

theorem only_execFrameReceive : ∀ a0 a1 a2 a3 t, execFrameReceive a0 a1 a2 a3 = .next t → Only [.draws, .out,
    .orders, .channels, .parts, .mailboxes, .streams, .netPorts, .hif, .boot] a3 t :=
  fun _ _ _ _ _ h => Only.finish (only_frameReceive _ _ _ _) h

theorem only_execFreeRingRefill : ∀ a0 a1 a2 t, execFreeRingRefill a0 a1 a2 = .next t → Only [.draws, .out,
    .channels, .parts, .mailboxes, .hif, .boot] a2 t :=
  fun _ _ _ _ h => Only.finish (only_freeRingRefill _ _ _) h

theorem only_execHead : ∀ a0 a1 t, execHead a0 a1 = .next t → Only [.spindles] a1 t :=
  fun _ _ _ h => Only.finish (only_startOperation _ _) h

theorem only_execHeartbeat : ∀ a0 a1 t, execHeartbeat a0 a1 = .next t → Only [.draws, .out, .parts, .jobs,
    .mailboxes, .running, .skein, .hif] a1 t :=
  fun _ _ _ h => Only.finish (only_heartbeat _ _) h

theorem only_execHeartbeatArrival : ∀ a0 t, execHeartbeatArrival a0 = .next t → Only [.draws, .out, .skein] a0 t :=
  fun _ _ h => Only.finish (only_heartbeatArrival _) h

theorem only_execHoldBankCharged : ∀ a0 t, execHoldBankCharged a0 = .next t → Only [.power] a0 t := by
  intro a0 t h
  refine Only.finish ?_ h
  repeat' first
    | with_reducible exact Only.refl _ _
    | assumption
    | simp (disch := decide) only [Machine.guarded, Only.op_iff (only_setPower _ _), Only.refl, Only.ite_iff,
        implies_true, and_self, and_true, true_and]
    | refine Only.foldl _ (fun _ _ => ?_) _ ?_
    | refine And.intro ?_ ?_
    | intro _
    | split

theorem only_execHoldBankLow : ∀ a0 t, execHoldBankLow a0 = .next t → Only [.power] a0 t :=
  fun _ _ h => Only.finish (only_setPower _ _) h

theorem only_execHoldResume : ∀ a0 a1 t, execHoldResume a0 a1 = .next t → Only [.spindles, .domes] a1 t :=
  fun _ _ _ h => Only.finish (only_holdResume _ _) h

theorem only_execHostReadCompletion : ∀ a0 a1 a2 t, execHostReadCompletion a0 a1 a2 = .next t → Only [.draws, .out,
    .orders, .channels, .parts, .mailboxes, .running, .streams, .prepUnits, .workItems, .prepSat, .prepUfl, .pipes,
    .skein, .sec, .belfry, .hif, .boot] a2 t :=
  fun _ _ _ _ h => Only.finish (only_hostReadCompletion _ _ _) h

theorem only_execHotReset : ∀ a0 t, execHotReset a0 = .next t → Only [.draws, .out, .orders, .spires, .channels,
    .parts, .mailboxes, .running, .streams, .prepUnits, .workItems, .pipes, .tracks, .orings, .skein, .sec, .hif,
    .boot] a0 t :=
  fun _ _ h => Only.finish (only_linkLoss _ _) h

theorem only_execIdentityLine : ∀ a0 t, execIdentityLine a0 = .next t → Only [.out] a0 t := by
  intro a0 t h
  refine Only.finish ?_ h
  repeat' first
    | with_reducible exact Only.refl _ _
    | assumption
    | simp (disch := decide) only [Machine.guarded, Only.op_iff (only_sendLine _ _), Only.refl, Only.ite_iff,
        implies_true, and_self, and_true, true_and]
    | refine Only.foldl _ (fun _ _ => ?_) _ ?_
    | refine And.intro ?_ ?_
    | intro _
    | split

theorem only_execImageVerified : ∀ a0 a1 t, execImageVerified a0 a1 = .next t → Only [.sec, .boot] a1 t :=
  fun _ _ _ h => Only.finish (only_imageVerified _ _) h

theorem only_execIndicatorId : ∀ a0 t, execIndicatorId a0 = .next t → Only [.out, .mailboxes, .running, .belfry,
    .hif] a0 t := by
  intro a0 t h
  refine Only.finish ?_ h
  repeat' first
    | with_reducible exact Only.refl _ _
    | assumption
    | simp (disch := decide) only [Only.op_iff (only_blfReply _ _ _), onRequest, Only.op_iff (only_sendLine _ _),
        Only.refl, Only.ite_iff, implies_true, and_self, and_true, true_and]
    | refine Only.foldl _ (fun _ _ => ?_) _ ?_
    | refine And.intro ?_ ?_
    | intro _
    | split

theorem only_execInvalidationRequest : ∀ a0 a1 a2 a3 t, execInvalidationRequest a0 a1 a2 a3 = .next t → Only [.out,
    .hif] a3 t :=
  fun _ _ _ _ _ h => Only.finish (only_invalidationRequest _ _ _ _) h

theorem only_execJobDispatch : ∀ a0 a1 t, execJobDispatch a0 a1 = .next t → Only [.draws, .out, .spindles, .spires,
    .channels, .parts, .jobs, .mailboxes, .running, .orings, .hif, .boot] a1 t :=
  fun _ _ _ h => Only.finish (only_jobDispatch _ _) h

theorem only_execJobEnd : ∀ a0 a1 t, execJobEnd a0 a1 = .next t → Only [.draws, .out, .orders, .spindles, .spires,
    .channels, .parts, .jobs, .mailboxes, .running, .workItems, .pipes, .tracks, .orings, .skein, .sec, .hif, .boot]
    a1 t :=
  fun _ _ _ h => Only.finish (only_jobEnd _ _) h

theorem only_execJump : ∀ a0 a1 t, execJump a0 a1 = .next t → Only [.spindles] a1 t :=
  fun _ _ _ h => Only.finish (only_jumpBack _ _) h

theorem only_execL1Exit : ∀ a0 t, execL1Exit a0 = .next t → Only [.hif] a0 t :=
  fun _ _ h => Only.finish (only_setHif _ _) h

theorem only_execLanBootCtrlWrite : ∀ a0 a1 a2 t, execLanBootCtrlWrite a0 a1 a2 = .next t → Only [.boot] a2 t := by
  intro a0 a1 a2 t h
  refine Only.finish ?_ h
  repeat' first
    | with_reducible exact Only.refl _ _
    | assumption
    | simp (disch := decide) only [Machine.guarded, Only.op_iff (only_setBoot _ _), Only.refl, Only.ite_iff,
        implies_true, and_self, and_true, true_and]
    | refine Only.foldl _ (fun _ _ => ?_) _ ?_
    | refine And.intro ?_ ?_
    | intro _
    | split

theorem only_execLanLocalTimeLoRead : ∀ a0 a1 t, execLanLocalTimeLoRead a0 a1 = .next t → Only [.out, .hif] a1 t :=
  fun _ _ _ h => Only.finish (only_loRead _ _ _ _ _) h

theorem only_execLanMbCfgWrite : ∀ a0 a1 a2 a3 t, execLanMbCfgWrite a0 a1 a2 a3 = .next t → Only [.out, .mailboxes,
    .hif, .boot] a3 t :=
  fun _ _ _ _ _ h => Only.finish (only_mbCfgWrite _ _ _ _) h

theorem only_execLanMbCmdDoorbell : ∀ a0 a1 a2 a3 t, execLanMbCmdDoorbell a0 a1 a2 a3 = .next t → Only [.mailboxes]
    a3 t :=
  fun _ _ _ _ _ h => Only.finish (only_cmdDoorbell _ _ _ _) h

theorem only_execLanMbCplDoorbell : ∀ a0 a1 a2 a3 t, execLanMbCplDoorbell a0 a1 a2 a3 = .next t → Only [.out,
    .mailboxes, .hif] a3 t :=
  fun _ _ _ _ _ h => Only.finish (only_cplDoorbell _ _ _ _) h

theorem only_execLanMbEvtDoorbell : ∀ a0 a1 a2 a3 t, execLanMbEvtDoorbell a0 a1 a2 a3 = .next t → Only [.mailboxes]
    a3 t :=
  fun _ _ _ _ _ h => Only.finish (only_evtDoorbell _ _ _ _) h

theorem only_execLanOringDoorbell : ∀ a0 a1 a2 a3 t, execLanOringDoorbell a0 a1 a2 a3 = .next t → Only [.orings] a3
    t :=
  fun _ _ _ _ _ h => Only.finish (only_oringDoorbell _ _ _ _) h

theorem only_execLanRecGo : ∀ a0 a1 a2 t, execLanRecGo a0 a1 a2 = .next t → Only [.out, .hif, .boot] a2 t :=
  fun _ _ _ _ h => Only.finish (only_lanRecGo _ _ _) h

theorem only_execLifelogCommitTimer : ∀ a0 t, execLifelogCommitTimer a0 = .next t → Only [.boot] a0 t := by
  intro a0 t h
  refine Only.finish ?_ h
  repeat' first
    | with_reducible exact Only.refl _ _
    | assumption
    | simp (disch := decide) only [Only.op_iff (only_commitLife _), Machine.guarded, Only.refl, Only.ite_iff,
        implies_true, and_self, and_true, true_and]
    | refine Only.foldl _ (fun _ _ => ?_) _ ?_
    | refine And.intro ?_ ?_
    | intro _
    | split

theorem only_execLifelogSecond : ∀ a0 t, execLifelogSecond a0 = .next t → Only [.domes, .boot] a0 t :=
  fun _ _ h => Only.finish (only_lifelogSecond _) h

theorem only_execLinkKeyExchange : ∀ a0 a1 a2 a3 a4 t, execLinkKeyExchange a0 a1 a2 a3 a4 = .next t → Only [.draws,
    .out, .parts, .mailboxes, .running, .skein, .hif] a4 t :=
  fun _ _ _ _ _ _ h => Only.finish (only_linkKeyExchange _ _ _ _ _) h

theorem only_execLiveRequestDrop : ∀ a0 a1 a2 t, execLiveRequestDrop a0 a1 a2 = .next t → Only [.draws, .out,
    .orders, .spires, .channels, .parts, .mailboxes, .running, .workItems, .pipes, .tracks, .orings, .skein, .sec,
    .hif, .boot] a2 t :=
  fun _ _ _ _ h => Only.finish (only_liveRequestDrop _ _ _) h

theorem only_execLossNotice : ∀ a0 a1 t, execLossNotice a0 a1 = .next t → Only [.out, .parts, .jobs, .mailboxes,
    .running, .skein, .hif] a1 t :=
  fun _ _ _ h => Only.finish (only_lossNotice _ _) h

theorem only_execManagerLost : ∀ a0 t, execManagerLost a0 = .next t → Only [.out, .parts, .jobs, .mailboxes,
    .running, .skein, .hif] a0 t :=
  fun _ _ h => Only.finish (only_loseManager _) h

theorem only_execMedRingDoorbell : ∀ a0 a1 a2 a3 t, execMedRingDoorbell a0 a1 a2 a3 = .next t → Only [.out,
    .streams, .hif] a3 t :=
  fun _ _ _ _ _ h => Only.finish (only_medRingDoorbell _ _ _ _) h

theorem only_execMemoryReadComplete : ∀ a0 a1 a2 t, execMemoryReadComplete a0 a1 a2 = .next t → Only [.draws, .out,
    .channels, .parts, .jobs, .mailboxes, .running, .hif, .boot] a2 t :=
  fun _ _ _ _ h => Only.finish (only_memoryReadComplete _ _ _) h

theorem only_execMemoryRequest : ∀ a0 a1 a2 a3 a4 t, execMemoryRequest a0 a1 a2 a3 a4 = .next t → Only [.out,
    .spindles, .channels, .parts, .jobs, .mailboxes, .running, .hif, .boot] a4 t :=
  fun _ _ _ _ _ _ h => Only.finish (only_memoryRequest _ _ _ _ _) h

theorem only_execMessage : ∀ a0 a1 t, execMessage a0 a1 = .next t → Only [.draws, .out, .spindles, .spires,
    .channels, .parts, .jobs, .mailboxes, .running, .skein, .hif, .boot] a1 t :=
  fun _ _ _ h => Only.finish (only_messageArrives _ _) h

theorem only_execMotionSearchComplete : ∀ a0 a1 t, execMotionSearchComplete a0 a1 = .next t → Only [.draws, .out,
    .orders, .spires, .channels, .parts, .mailboxes, .running, .streams, .motion, .workItems, .pipes, .tracks,
    .orings, .skein, .sec, .hif, .boot] a1 t :=
  fun _ _ _ h => Only.finish (only_motionSearchComplete _ _) h

theorem only_execMotionSearchRequest : ∀ a0 a1 a2 a3 a4 t, execMotionSearchRequest a0 a1 a2 a3 a4 = .next t → Only
    [.out, .motion] a4 t :=
  fun _ _ _ _ _ _ h => Only.finish (only_motionSearchRequest _ _ _ _ _) h

theorem only_execMr4Read : ∀ a0 a1 a2 t, execMr4Read a0 a1 a2 = .next t → Only [.channels] a2 t :=
  fun _ _ _ _ h => Only.finish (only_setChannel _ _ _) h

theorem only_execMsiXWindow : ∀ a0 a1 a2 t, execMsiXWindow a0 a1 a2 = .next t → Only [.out, .hif] a2 t :=
  fun _ _ _ _ h => Only.finish (only_msixWindow _ _ _) h

theorem only_execNak : ∀ a0 a1 a2 t, execNak a0 a1 a2 = .next t → Only [.draws, .out, .parts, .jobs, .mailboxes,
    .running, .skein, .hif, .boot] a2 t :=
  fun _ _ _ _ h => Only.finish (only_replayFrom _ _ _) h

theorem only_execNetFlowArrivalLoRead : ∀ a0 a1 a2 t, execNetFlowArrivalLoRead a0 a1 a2 = .next t → Only [.out,
    .hif] a2 t :=
  fun _ _ _ _ h => Only.finish (only_loRead _ _ _ _ _) h

theorem only_execNetFlowSrNtpLoRead : ∀ a0 a1 a2 t, execNetFlowSrNtpLoRead a0 a1 a2 = .next t → Only [.out, .hif] a2
    t :=
  fun _ _ _ _ h => Only.finish (only_loRead _ _ _ _ _) h

theorem only_execNewRecordNotice : ∀ a0 t, execNewRecordNotice a0 = .next t → Only [] a0 t := by
  intro a0 t h
  refine Only.finish ?_ h
  repeat' first
    | with_reducible exact Only.refl _ _
    | assumption
    | simp (disch := decide) only [Only.refl, Only.ite_iff, implies_true, and_self, and_true, true_and]
    | refine Only.foldl _ (fun _ _ => ?_) _ ?_
    | refine And.intro ?_ ?_
    | intro _
    | split

theorem only_execOpSlewSettled : ∀ a0 t, execOpSlewSettled a0 = .next t → Only [.power] a0 t :=
  fun _ _ h => Only.finish (only_setPower _ _) h

theorem only_execOperationComplete : ∀ a0 a1 t, execOperationComplete a0 a1 = .next t → Only [.out, .spindles,
    .mailboxes, .hif] a1 t :=
  fun _ _ _ h => Only.finish (only_operationComplete _ _) h

theorem only_execOvervoltage75V : ∀ a0 a1 a2 t, execOvervoltage75V a0 a1 a2 = .next t → Only [.time, .out,
    .spindles, .spires, .domes, .channels, .parts, .jobs, .mailboxes, .running, .lastServed, .streams, .decoders,
    .suspended, .motion, .prepUnits, .workItems, .prepBusy, .prepLoad, .prepSat, .prepUfl, .netPorts, .pipes,
    .tracks, .orings, .skein, .sec, .power, .hif, .boot] a2 t := by
  intro a0 a1 a2 t h
  refine Only.finish ?_ h
  repeat' first
    | with_reducible exact Only.refl _ _
    | assumption
    | simp (disch := decide) only [Machine.guarded, Only.op_iff (only_orderlyStop _ _ _ _ _), Only.refl,
        Only.ite_iff, implies_true, and_self, and_true, true_and]
    | refine Only.foldl _ (fun _ _ => ?_) _ ?_
    | refine And.intro ?_ ?_
    | intro _
    | split

theorem only_execOvervoltageWindow : ∀ a0 a1 a2 t, execOvervoltageWindow a0 a1 a2 = .next t → Only [.time, .out,
    .spindles, .spires, .domes, .channels, .parts, .jobs, .mailboxes, .running, .lastServed, .streams, .decoders,
    .suspended, .motion, .prepUnits, .workItems, .prepBusy, .prepLoad, .prepSat, .prepUfl, .netPorts, .pipes,
    .tracks, .orings, .skein, .sec, .power, .hif, .boot] a2 t := by
  intro a0 a1 a2 t h
  refine Only.finish ?_ h
  repeat' first
    | with_reducible exact Only.refl _ _
    | assumption
    | simp (disch := decide) only [Machine.guarded, Only.op_iff (only_orderlyStop _ _ _ _ _), Only.refl,
        Only.ite_iff, implies_true, and_self, and_true, true_and]
    | refine Only.foldl _ (fun _ _ => ?_) _ ?_
    | refine And.intro ?_ ?_
    | intro _
    | split

theorem only_execPaceCeiling : ∀ a0 a1 t, execPaceCeiling a0 a1 = .next t → Only [.domes, .skein] a1 t := by
  intro a0 a1 t h
  refine Only.finish ?_ h
  repeat' first
    | with_reducible exact Only.refl _ _
    | assumption
    | simp (disch := decide) only [Only.op_iff (only_limitPace _ _), Only.refl, Only.ite_iff, implies_true,
        and_self, and_true, true_and]
    | refine Only.foldl _ (fun _ _ => ?_) _ ?_
    | refine And.intro ?_ ?_
    | intro _
    | split

theorem only_execPacePublish : ∀ a0 a1 t, execPacePublish a0 a1 = .next t → Only [.draws, .out, .domes, .skein] a1 t
    :=
  fun _ _ _ h => Only.finish (only_pacePublish _ _) h

theorem only_execPaceReport : ∀ a0 t, execPaceReport a0 = .next t → Only [.draws, .out, .skein] a0 t :=
  fun _ _ h => Only.finish (only_paceReport _) h

theorem only_execPairTimeout : ∀ a0 t, execPairTimeout a0 = .next t → Only [.belfry] a0 t := by
  intro a0 t h
  refine Only.finish ?_ h
  repeat' first
    | with_reducible exact Only.refl _ _
    | assumption
    | simp (disch := decide) only [Machine.guarded, Only.op_iff (only_setBelfry _ _), Only.refl, Only.ite_iff,
        implies_true, and_self, and_true, true_and]
    | refine Only.foldl _ (fun _ _ => ?_) _ ?_
    | refine And.intro ?_ ?_
    | intro _
    | split

theorem only_execPartialReset : ∀ a0 t, execPartialReset a0 = .next t → Only [.out, .mailboxes, .running, .belfry,
    .hif] a0 t := by
  intro a0 t h
  refine Only.finish ?_ h
  repeat' first
    | with_reducible exact Only.refl _ _
    | assumption
    | simp (disch := decide) only [Only.op_iff (only_blfReply _ _ _), onRequest, Only.op_iff (only_setBelfry _ _),
        Only.refl, Only.ite_iff, implies_true, and_self, and_true, true_and]
    | refine Only.foldl _ (fun _ _ => ?_) _ ?_
    | refine And.intro ?_ ?_
    | intro _
    | split

theorem only_execPatrolScrub : ∀ a0 a1 a2 t, execPatrolScrub a0 a1 a2 = .next t → Only [.out, .spindles, .spires,
    .domes, .mailboxes, .hif, .boot] a2 t :=
  fun _ _ _ _ h => Only.finish (only_patrolScrub _ _ _) h

theorem only_execPcieLinkUp : ∀ a0 a1 a2 t, execPcieLinkUp a0 a1 a2 = .next t → Only [.hif] a2 t := by
  intro a0 a1 a2 t h
  refine Only.finish ?_ h
  repeat' first
    | with_reducible exact Only.refl _ _
    | assumption
    | simp (disch := decide) only [Machine.guarded, Only.op_iff (only_setHif _ _), Only.refl, Only.ite_iff,
        implies_true, and_self, and_true, true_and]
    | refine Only.foldl _ (fun _ _ => ?_) _ ?_
    | refine And.intro ?_ ?_
    | intro _
    | split

theorem only_execPerstAssert : ∀ a0 t, execPerstAssert a0 = .next t → Only [.time, .draws, .out, .orders, .spindles,
    .spires, .domes, .channels, .parts, .jobs, .mailboxes, .running, .lastServed, .streams, .decoders, .suspended,
    .motion, .prepUnits, .workItems, .prepBusy, .prepLoad, .prepSat, .prepUfl, .netPorts, .pipes, .tracks, .orings,
    .skein, .sec, .power, .hif, .boot] a0 t :=
  fun _ _ h => Only.finish (only_perstAssert _) h

theorem only_execPerstRelease : ∀ a0 t, execPerstRelease a0 = .next t → Only [.boot] a0 t := by
  intro a0 t h
  refine Only.finish ?_ h
  repeat' first
    | with_reducible exact Only.refl _ _
    | assumption
    | simp (disch := decide) only [Only.op_iff (only_loaderAgain _), Only.op_iff (only_setBoot _ _), Only.refl,
        Only.ite_iff, implies_true, and_self, and_true, true_and]
    | refine Only.foldl _ (fun _ _ => ?_) _ ?_
    | refine And.intro ?_ ?_
    | intro _
    | split

theorem only_execPfFlr : ∀ a0 t, execPfFlr a0 = .next t → Only [.draws, .out, .orders, .spires, .channels, .parts,
    .mailboxes, .running, .streams, .prepUnits, .workItems, .pipes, .tracks, .orings, .skein, .sec, .hif, .boot] a0
    t := by
  intro a0 t h
  refine Only.finish ?_ h
  repeat' first
    | with_reducible exact Only.refl _ _
    | assumption
    | simp (disch := decide) only [Machine.guarded, Only.op_iff (only_pfFlr _), Only.refl, Only.ite_iff,
        implies_true, and_self, and_true, true_and]
    | refine Only.foldl _ (fun _ _ => ?_) _ ?_
    | refine And.intro ?_ ?_
    | intro _
    | split

theorem only_execPictureAbandon : ∀ a0 a1 t, execPictureAbandon a0 a1 = .next t → Only [.out, .channels, .parts,
    .mailboxes, .streams, .decoders, .hif, .boot] a1 t := by
  intro a0 a1 t h
  refine Only.finish ?_ h
  repeat' first
    | with_reducible exact Only.refl _ _
    | assumption
    | simp (disch := decide) only [Only.op_iff (only_abandonPicture _ _ _ _), onEngine, Only.refl, Only.ite_iff,
        implies_true, and_self, and_true, true_and]
    | refine Only.foldl _ (fun _ _ => ?_) _ ?_
    | refine And.intro ?_ ?_
    | intro _
    | split

theorem only_execPictureComplete : ∀ a0 a1 a2 a3 a4 t, execPictureComplete a0 a1 a2 a3 a4 = .next t → Only [.draws,
    .out, .orders, .spires, .channels, .parts, .mailboxes, .running, .streams, .decoders, .workItems, .pipes,
    .tracks, .orings, .skein, .sec, .hif, .boot] a4 t :=
  fun _ _ _ _ _ _ h => Only.finish (only_pictureComplete _ _ _ _ _) h

theorem only_execPictureDrop : ∀ a0 a1 t, execPictureDrop a0 a1 = .next t → Only [.out, .channels, .parts,
    .mailboxes, .streams, .hif, .boot] a1 t :=
  fun _ _ _ h => Only.finish (only_pictureDrop _ _) h

theorem only_execPictureReject : ∀ a0 a1 a2 a3 t, execPictureReject a0 a1 a2 a3 = .next t → Only [.out, .channels,
    .parts, .mailboxes, .streams, .decoders, .hif, .boot] a3 t :=
  fun _ _ _ _ _ h => Only.finish (only_pictureReject _ _ _ _) h

theorem only_execPictureStart : ∀ a0 a1 a2 t, execPictureStart a0 a1 a2 = .next t → Only [.draws, .out, .channels,
    .parts, .mailboxes, .streams, .decoders, .suspended, .hif, .boot] a2 t :=
  fun _ _ _ _ h => Only.finish (only_pictureStart _ _ _) h

theorem only_execPoolAcquire : ∀ a0 a1 a2 a3 t, execPoolAcquire a0 a1 a2 a3 = .next t → Only [.draws, .out, .parts]
    a3 t :=
  fun _ _ _ _ _ h => Only.finish (only_poolAcquire _ _ _ _) h

theorem only_execPoolGroup : ∀ a0 a1 a2 t, execPoolGroup a0 a1 a2 = .next t → Only [.draws, .out, .parts] a2 t :=
  fun _ _ _ _ h => Only.finish (only_poolGroup _ _ _) h

theorem only_execPoolRelease : ∀ a0 a1 a2 a3 t, execPoolRelease a0 a1 a2 a3 = .next t → Only [.out, .channels,
    .parts, .mailboxes, .hif, .boot] a3 t := by
  intro a0 a1 a2 a3 t h
  refine Only.finish ?_ h
  repeat' first
    | with_reducible exact Only.refl _ _
    | assumption
    | simp (disch := decide) only [Only.op_iff (only_releaseBobbin _ _ _ _), Only.op_iff (only_replyStatus _ _),
        Only.refl, Only.ite_iff, implies_true, and_self, and_true, true_and]
    | refine Only.foldl _ (fun _ _ => ?_) _ ?_
    | refine And.intro ?_ ?_
    | intro _
    | split

theorem only_execPoolShare : ∀ a0 a1 a2 a3 a4 t, execPoolShare a0 a1 a2 a3 a4 = .next t → Only [.out, .channels,
    .parts, .mailboxes, .hif, .boot] a4 t := by
  intro a0 a1 a2 a3 a4 t h
  refine Only.finish ?_ h
  repeat' first
    | with_reducible exact Only.refl _ _
    | assumption
    | simp (disch := decide) only [Only.op_iff (only_replyStatus _ _), Only.op_iff (only_shareBobbin _ _ _ _ _),
        Only.refl, Only.ite_iff, implies_true, and_self, and_true, true_and]
    | refine Only.foldl _ (fun _ _ => ?_) _ ?_
    | refine And.intro ?_ ?_
    | intro _
    | split

theorem only_execPortDown : ∀ a0 a1 a2 t, execPortDown a0 a1 a2 = .next t → Only [.draws, .out, .parts, .jobs,
    .mailboxes, .running, .skein, .hif, .boot] a2 t :=
  fun _ _ _ _ h => Only.finish (only_portGoesDown _ _ _) h

theorem only_execPortUp : ∀ a0 a1 t, execPortUp a0 a1 = .next t → Only [.skein] a1 t :=
  fun _ _ _ h => Only.finish (only_portUp _ _) h

theorem only_execPowerDisagree : ∀ a0 t, execPowerDisagree a0 = .next t → Only [.out, .mailboxes, .power, .hif,
    .boot] a0 t :=
  fun _ _ h => Only.finish (only_powerDisagree _) h

theorem only_execPowerRecalFit : ∀ a0 t, execPowerRecalFit a0 = .next t → Only [.out, .mailboxes, .running, .power,
    .hif, .boot] a0 t :=
  fun _ _ h => Only.finish (only_powerRecalFit _) h

theorem only_execPowerSample : ∀ a0 a1 a2 a3 a4 a5 t, execPowerSample a0 a1 a2 a3 a4 a5 = .next t → Only [.draws,
    .out, .domes, .jobs, .mailboxes, .power, .hif, .boot] a5 t :=
  fun _ _ _ _ _ _ _ h => Only.finish (only_powerSample _ _ _ _ _ _) h

theorem only_execPreparationRequest : ∀ a0 a1 a2 t, execPreparationRequest a0 a1 a2 = .next t → Only [.draws, .out,
    .orders, .channels, .parts, .mailboxes, .workItems, .hif, .boot] a2 t := by
  intro a0 a1 a2 t h
  refine Only.finish ?_ h
  repeat' first
    | with_reducible exact Only.refl _ _
    | assumption
    | simp (disch := decide) only [Only.op_iff (only_submitRequest _ _ _ _ _), Only.refl, Only.ite_iff,
        implies_true, and_self, and_true, true_and]
    | refine Only.foldl _ (fun _ _ => ?_) _ ?_
    | refine And.intro ?_ ?_
    | intro _
    | split

theorem only_execPwrEnergyLoRead : ∀ a0 a1 t, execPwrEnergyLoRead a0 a1 = .next t → Only [.out, .hif] a1 t :=
  fun _ _ _ h => Only.finish (only_loRead _ _ _ _ _) h

theorem only_execRailPowerGood : ∀ a0 t, execRailPowerGood a0 = .next t → Only [.domes, .boot] a0 t :=
  fun _ _ h => Only.finish (only_railPowerGood _) h

theorem only_execRailTimeout : ∀ a0 t, execRailTimeout a0 = .next t → Only [.boot] a0 t := by
  intro a0 t h
  refine Only.finish ?_ h
  repeat' first
    | with_reducible exact Only.refl _ _
    | assumption
    | simp (disch := decide) only [Machine.guarded, Only.op_iff (only_setBoot _ _), Only.refl, Only.ite_iff,
        implies_true, and_self, and_true, true_and]
    | refine Only.foldl _ (fun _ _ => ?_) _ ?_
    | refine And.intro ?_ ?_
    | intro _
    | split

theorem only_execRateWindow : ∀ a0 a1 a2 t, execRateWindow a0 a1 a2 = .next t → Only [.domes] a2 t :=
  fun _ _ _ _ h => Only.finish (only_setDome _ _ _) h

theorem only_execRecProgramComplete : ∀ a0 a1 t, execRecProgramComplete a0 a1 = .next t → Only [.boot] a1 t := by
  intro a0 a1 t h
  refine Only.finish ?_ h
  repeat' first
    | with_reducible exact Only.refl _ _
    | assumption
    | simp (disch := decide) only [Only.op_iff (only_loaderAgain _), Only.op_iff (only_recProgramComplete _ _),
        Only.refl, Only.ite_iff, implies_true, and_self, and_true, true_and]
    | refine Only.foldl _ (fun _ _ => ?_) _ ?_
    | refine And.intro ?_ ?_
    | intro _
    | split

theorem only_execRecReadBackComplete : ∀ a0 a1 t, execRecReadBackComplete a0 a1 = .next t → Only [.sec, .boot] a1 t
    := by
  intro a0 a1 t h
  refine Only.finish ?_ h
  repeat' first
    | with_reducible exact Only.refl _ _
    | assumption
    | simp (disch := decide) only [Only.op_iff (only_loaderAgain _), Only.op_iff (only_recReadBackComplete _ _),
        Only.refl, Only.ite_iff, implies_true, and_self, and_true, true_and]
    | refine Only.foldl _ (fun _ _ => ?_) _ ?_
    | refine And.intro ?_ ?_
    | intro _
    | split

theorem only_execRecReadComplete : ∀ a0 a1 t, execRecReadComplete a0 a1 = .next t → Only [.out, .mailboxes, .hif,
    .boot] a1 t :=
  fun _ _ _ h => Only.finish (only_recReadComplete _ _) h

theorem only_execReceivedTlpError : ∀ a0 a1 t, execReceivedTlpError a0 a1 = .next t → Only [.draws, .out, .orders,
    .spires, .channels, .parts, .mailboxes, .running, .streams, .prepUnits, .workItems, .pipes, .tracks, .orings,
    .skein, .sec, .hif, .boot] a1 t :=
  fun _ _ _ h => Only.finish (only_receivedTlpError _ _) h

theorem only_execRecordWrite : ∀ a0 a1 t, execRecordWrite a0 a1 = .next t → Only [.draws, .out, .orders, .spires,
    .channels, .parts, .mailboxes, .running, .workItems, .pipes, .tracks, .orings, .skein, .sec, .hif, .boot] a1 t
    :=
  fun _ _ _ h => Only.finish (only_recordWrite _ _) h

theorem only_execRefreshDue : ∀ a0 a1 a2 t, execRefreshDue a0 a1 a2 = .next t → Only [.out, .channels] a2 t :=
  fun _ _ _ _ h => Only.finish (only_refreshDue _ _ _) h

theorem only_execRegisterWrite : ∀ a0 a1 a2 a3 t, execRegisterWrite a0 a1 a2 a3 = .next t → Only [.out, .mailboxes,
    .streams, .orings, .hif, .boot] a3 t :=
  fun _ _ _ _ _ h => Only.finish (only_registerWrite _ _ _ _) h

theorem only_execRelayCompletion : ∀ a0 a1 a2 t, execRelayCompletion a0 a1 a2 = .next t → Only [.out, .mailboxes,
    .running, .skein, .hif] a2 t :=
  fun _ _ _ _ h => Only.finish (only_relayCompletion _ _ _) h

theorem only_execRelayedCommand : ∀ a0 a1 t, execRelayedCommand a0 a1 = .next t → Only [.out, .mailboxes, .running,
    .sec, .hif] a1 t :=
  fun _ _ _ h => Only.finish (only_relayedCommand _ _) h

theorem only_execRelease : ∀ a0 a1 t, execRelease a0 a1 = .next t → Only [.out, .spindles, .spires, .jobs,
    .mailboxes, .running, .hif] a1 t :=
  fun _ _ _ h => Only.finish (only_syncRelease _ _) h

theorem only_execReorderTimeout : ∀ a0 a1 t, execReorderTimeout a0 a1 = .next t → Only [.draws, .out, .orders,
    .channels, .parts, .mailboxes, .streams, .hif, .boot] a1 t := by
  intro a0 a1 t h
  refine Only.finish ?_ h
  repeat' first
    | with_reducible exact Only.refl _ _
    | assumption
    | simp (disch := decide) only [Only.op_iff (only_loseGap _ _), Only.refl, Only.ite_iff, implies_true, and_self,
        and_true, true_and]
    | refine Only.foldl _ (fun _ _ => ?_) _ ?_
    | refine And.intro ?_ ?_
    | intro _
    | split

theorem only_execRestoreComplete : ∀ a0 a1 a2 t, execRestoreComplete a0 a1 a2 = .next t → Only [.draws, .out,
    .spindles, .spires, .channels, .jobs, .mailboxes, .running, .hif, .boot] a2 t :=
  fun _ _ _ _ h => Only.finish (only_restoreComplete _ _ _) h

theorem only_execResultBobbinRetry : ∀ a0 a1 a2 t, execResultBobbinRetry a0 a1 a2 = .next t → Only [.draws, .out,
    .orders, .spires, .channels, .parts, .jobs, .mailboxes, .running, .workItems, .pipes, .tracks, .orings, .skein,
    .sec, .hif, .boot] a2 t :=
  fun _ _ _ _ h => Only.finish (only_resultBobbinRetry _ _ _) h

theorem only_execRetrainPause : ∀ a0 a1 a2 a3 t, execRetrainPause a0 a1 a2 a3 = .next t → Only [.channels, .boot] a3
    t :=
  fun _ _ _ _ _ h => Only.finish (only_retrainPause _ _ _ _) h

theorem only_execRetrainPauseEnd : ∀ a0 a1 t, execRetrainPauseEnd a0 a1 = .next t → Only [.out, .channels, .parts,
    .jobs, .mailboxes, .running, .hif, .boot] a1 t :=
  fun _ _ _ h => Only.finish (only_retrainPauseEnd _ _) h

theorem only_execRingEntryRead : ∀ a0 a1 a2 t, execRingEntryRead a0 a1 a2 = .next t → Only [.draws, .out, .orders,
    .parts, .mailboxes, .streams, .hif] a2 t :=
  fun _ _ _ _ h => Only.finish (only_ringEntryRead _ _ _) h

theorem only_execRomLoaderStart : ∀ a0 a1 t, execRomLoaderStart a0 a1 = .next t → Only [.draws, .sec, .boot] a1 t :=
  fun _ _ _ h => Only.finish (only_romLoaderStart _ _) h

theorem only_execSaveComplete : ∀ a0 a1 t, execSaveComplete a0 a1 = .next t → Only [.draws, .out, .spindles,
    .spires, .channels, .parts, .jobs, .mailboxes, .running, .hif, .boot] a1 t :=
  fun _ _ _ h => Only.finish (only_saveComplete _ _) h

theorem only_execSealNotice : ∀ a0 t, execSealNotice a0 = .next t → Only [.out, .mailboxes, .sec, .hif] a0 t := by
  intro a0 t h
  refine Only.finish ?_ h
  repeat' first
    | with_reducible exact Only.refl _ _
    | assumption
    | simp (disch := decide) only [Only.op_iff (only_appendRingWith _ _ _ _ _ _), Machine.guarded, Only.op_iff
        (only_raiseSealChange _), Only.op_iff (only_setSec _ _), Only.refl, Only.ite_iff, implies_true, and_self,
        and_true, true_and]
    | refine Only.foldl _ (fun _ _ => ?_) _ ?_
    | refine And.intro ?_ ?_
    | intro _
    | split

theorem only_execSendEntry : ∀ a0 a1 a2 t, execSendEntry a0 a1 a2 = .next t → Only [.draws, .out, .spindles,
    .spires, .channels, .parts, .jobs, .mailboxes, .running, .skein, .hif, .boot] a2 t :=
  fun _ _ _ _ h => Only.finish (only_sendEntry _ _ _) h

theorem only_execSequenceStep : ∀ a0 a1 t, execSequenceStep a0 a1 = .next t → Only [.draws, .out, .spindles,
    .spires, .channels, .parts, .jobs, .mailboxes, .running, .orings, .hif, .boot] a1 t :=
  fun _ _ _ h => Only.finish (only_sequenceStep _ _) h

theorem only_execSkeinBarrier : ∀ a0 a1 t, execSkeinBarrier a0 a1 = .next t → Only [.draws, .out, .spindles,
    .spires, .jobs, .mailboxes, .running, .skein, .hif] a1 t :=
  fun _ _ _ h => Only.finish (only_skeinBarrierSync _ _) h

theorem only_execSkeinDissolveNotice : ∀ a0 t, execSkeinDissolveNotice a0 = .next t → Only [.parts, .skein] a0 t :=
  fun _ _ h => Only.finish (only_dissolveNotice _) h

theorem only_execSkeinRelease : ∀ a0 a1 t, execSkeinRelease a0 a1 = .next t → Only [.spindles, .spires, .jobs] a1 t :=
  fun _ _ _ h => Only.finish (only_skeinRelease _ _) h

theorem only_execSlotFree : ∀ a0 a1 a2 t, execSlotFree a0 a1 a2 = .next t → Only [.draws, .out, .spindles, .spires,
    .channels, .parts, .jobs, .mailboxes, .running, .skein, .hif, .boot] a2 t :=
  fun _ _ _ _ h => Only.finish (only_slotFree _ _ _) h

theorem only_execStageFw : ∀ a0 t, execStageFw a0 = .next t → Only [.out, .mailboxes, .running, .belfry, .hif] a0 t :=
  fun _ _ h => Only.finish (only_stageFw _) h

theorem only_execStageParam : ∀ a0 t, execStageParam a0 = .next t → Only [.out, .mailboxes, .running, .belfry, .hif]
    a0 t :=
  fun _ _ h => Only.finish (only_stageParam _) h

theorem only_execStartCondition : ∀ a0 t, execStartCondition a0 = .next t → Only [.boot] a0 t := by
  intro a0 t h
  refine Only.finish ?_ h
  repeat' first
    | with_reducible exact Only.refl _ _
    | assumption
    | simp (disch := decide) only [Machine.guarded, Only.op_iff (only_setBoot _ _), Only.refl, Only.ite_iff,
        implies_true, and_self, and_true, true_and]
    | refine Only.foldl _ (fun _ _ => ?_) _ ?_
    | refine And.intro ?_ ?_
    | intro _
    | split

theorem only_execStateNotice : ∀ a0 t, execStateNotice a0 = .next t → Only [] a0 t := by
  intro a0 t h
  refine Only.finish ?_ h
  repeat' first
    | with_reducible exact Only.refl _ _
    | assumption
    | simp (disch := decide) only [Only.refl, Only.ite_iff, implies_true, and_self, and_true, true_and]
    | refine Only.foldl _ (fun _ _ => ?_) _ ?_
    | refine And.intro ?_ ?_
    | intro _
    | split

theorem only_execStemEnd : ∀ a0 a1 t, execStemEnd a0 a1 = .next t → Only [.out, .spires, .channels, .jobs,
    .mailboxes, .running, .hif, .boot] a1 t := by
  intro a0 a1 t h
  refine Only.finish ?_ h
  repeat' first
    | with_reducible exact Only.refl _ _
    | assumption
    | simp (disch := decide) only [onStem, Only.op_iff (only_setStem _ _ _), Only.op_iff (only_tryDone _ _),
        Only.op_iff (only_dramUncorrectable _ _ _ _ _), Only.op_iff (only_stemError _ _ _ _), Only.refl, Only.ite_iff,
        implies_true, and_self, and_true, true_and]
    | refine Only.foldl _ (fun _ _ => ?_) _ ?_
    | refine And.intro ?_ ?_
    | intro _
    | split

theorem only_execStemHead : ∀ a0 a1 t, execStemHead a0 a1 = .next t → Only [.out, .spindles, .spires, .domes,
    .channels, .jobs, .mailboxes, .running, .hif, .boot] a1 t :=
  fun _ _ _ h => Only.finish (only_stemEntryRow _ _ _) h

theorem only_execStreamDrainEnd : ∀ a0 a1 t, execStreamDrainEnd a0 a1 = .next t → Only [.draws, .out, .orders,
    .spires, .channels, .parts, .mailboxes, .running, .streams, .workItems, .pipes, .tracks, .orings, .skein, .sec,
    .hif, .boot] a1 t :=
  fun _ _ _ h => Only.finish (only_streamDrainEnd _ _) h

theorem only_execTamperNotice : ∀ a0 t, execTamperNotice a0 = .next t → Only [.out, .mailboxes, .sec, .hif] a0 t := by
  intro a0 t h
  refine Only.finish ?_ h
  repeat' first
    | with_reducible exact Only.refl _ _
    | assumption
    | simp (disch := decide) only [Machine.guarded, Only.op_iff (only_raiseTamper _), Only.op_iff (only_setSec _ _),
        Only.refl, Only.ite_iff, implies_true, and_self, and_true, true_and]
    | refine Only.foldl _ (fun _ _ => ?_) _ ?_
    | refine And.intro ?_ ?_
    | intro _
    | split

theorem only_execTamperSample : ∀ a0 a1 t, execTamperSample a0 a1 = .next t → Only [.belfry] a1 t :=
  fun _ _ _ h => Only.finish (only_tamperSample _ _) h

theorem only_execThermalEnd : ∀ a0 a1 t, execThermalEnd a0 a1 = .next t → Only [.out, .domes, .mailboxes, .power,
    .hif] a1 t :=
  fun _ _ _ h => Only.finish (only_thermalEnd _ _) h

theorem only_execThermalRead : ∀ a0 a1 a2 t, execThermalRead a0 a1 a2 = .next t → Only [.time, .draws, .out,
    .spindles, .spires, .domes, .channels, .parts, .jobs, .mailboxes, .running, .lastServed, .streams, .decoders,
    .suspended, .motion, .prepUnits, .workItems, .prepBusy, .prepLoad, .prepSat, .prepUfl, .netPorts, .pipes,
    .tracks, .orings, .skein, .sec, .power, .hif, .boot] a2 t :=
  fun _ _ _ _ h => Only.finish (only_thermalRead _ _ _) h

theorem only_execThermalStep : ∀ a0 a1 t, execThermalStep a0 a1 = .next t → Only [.draws, .out, .domes, .jobs,
    .mailboxes, .power, .hif, .boot] a1 t :=
  fun _ _ _ h => Only.finish (only_thermalStep _ _) h

theorem only_execTimeLimit : ∀ a0 a1 t, execTimeLimit a0 a1 = .next t → Only [.out, .jobs, .mailboxes, .running,
    .hif] a1 t :=
  fun _ _ _ h => Only.finish (only_timeLimit _ _) h

theorem only_execTrackStep : ∀ a0 a1 a2 t, execTrackStep a0 a1 a2 = .next t → Only [.draws, .out, .orders, .spires,
    .channels, .parts, .mailboxes, .running, .streams, .motion, .workItems, .pipes, .tracks, .orings, .skein, .sec,
    .hif, .boot] a2 t := by
  intro a0 a1 a2 t h
  refine Only.finish ?_ h
  repeat' first
    | with_reducible exact Only.refl _ _
    | assumption
    | simp (disch := decide) only [Only.op_iff (only_trackStep _ _ _), Only.refl, Only.ite_iff, implies_true,
        and_self, and_true, true_and]
    | refine Only.foldl _ (fun _ _ => ?_) _ ?_
    | refine And.intro ?_ ?_
    | intro _
    | split

theorem only_execTranslationCompletion : ∀ a0 a1 a2 a3 a4 a5 t, execTranslationCompletion a0 a1 a2 a3 a4 a5 = .next
    t → Only [.draws, .out, .orders, .channels, .parts, .mailboxes, .running, .streams, .prepUnits, .workItems,
    .prepSat, .prepUfl, .pipes, .skein, .sec, .belfry, .hif, .boot] a5 t :=
  fun _ _ _ _ _ _ _ h => Only.finish (only_translationCompletion _ _ _ _ _ _) h

theorem only_execTrigger : ∀ a0 t, execTrigger a0 = .next t → Only [.out, .belfry] a0 t :=
  fun _ _ h => Only.finish (only_triggerPair _) h

theorem only_execVAbs : ∀ a0 a1 t, execVAbs a0 a1 = .next t → Only [.out, .spindles, .domes, .jobs, .mailboxes,
    .running, .hif, .boot] a1 t :=
  fun _ _ _ h => Only.finish (only_vecIssue _ _ _ _) h

theorem only_execVAdd : ∀ a0 a1 t, execVAdd a0 a1 = .next t → Only [.out, .spindles, .domes, .jobs, .mailboxes,
    .running, .hif, .boot] a1 t :=
  fun _ _ _ h => Only.finish (only_vecIssue _ _ _ _) h

theorem only_execVAnd : ∀ a0 a1 t, execVAnd a0 a1 = .next t → Only [.out, .spindles, .domes, .jobs, .mailboxes,
    .running, .hif, .boot] a1 t :=
  fun _ _ _ h => Only.finish (only_vecIssue _ _ _ _) h

theorem only_execVBcast : ∀ a0 a1 t, execVBcast a0 a1 = .next t → Only [.out, .spindles, .domes, .jobs, .mailboxes,
    .running, .hif, .boot] a1 t :=
  fun _ _ _ h => Only.finish (only_vecIssue _ _ _ _) h

theorem only_execVBcasti : ∀ a0 a1 t, execVBcasti a0 a1 = .next t → Only [.out, .spindles, .domes, .jobs,
    .mailboxes, .running, .hif, .boot] a1 t :=
  fun _ _ _ h => Only.finish (only_vecIssue _ _ _ _) h

theorem only_execVCmpeq : ∀ a0 a1 t, execVCmpeq a0 a1 = .next t → Only [.out, .spindles, .domes, .jobs, .mailboxes,
    .running, .hif, .boot] a1 t :=
  fun _ _ _ h => Only.finish (only_vecIssue _ _ _ _) h

theorem only_execVCmple : ∀ a0 a1 t, execVCmple a0 a1 = .next t → Only [.out, .spindles, .domes, .jobs, .mailboxes,
    .running, .hif, .boot] a1 t :=
  fun _ _ _ h => Only.finish (only_vecIssue _ _ _ _) h

theorem only_execVCmplt : ∀ a0 a1 t, execVCmplt a0 a1 = .next t → Only [.out, .spindles, .domes, .jobs, .mailboxes,
    .running, .hif, .boot] a1 t :=
  fun _ _ _ h => Only.finish (only_vecIssue _ _ _ _) h

theorem only_execVCvt : ∀ a0 a1 t, execVCvt a0 a1 = .next t → Only [.out, .spindles, .domes, .jobs, .mailboxes,
    .running, .hif, .boot] a1 t :=
  fun _ _ _ h => Only.finish (only_vecIssue _ _ _ _) h

theorem only_execVExp2 : ∀ a0 a1 t, execVExp2 a0 a1 = .next t → Only [.out, .spindles, .domes, .jobs, .mailboxes,
    .running, .hif, .boot] a1 t :=
  fun _ _ _ h => Only.finish (only_vecIssue _ _ _ _) h

theorem only_execVFld : ∀ a0 a1 t, execVFld a0 a1 = .next t → Only [.out, .spindles, .domes, .jobs, .mailboxes,
    .running, .hif, .boot] a1 t :=
  fun _ _ _ h => Only.finish (only_vecIssue _ _ _ _) h

theorem only_execVFma : ∀ a0 a1 t, execVFma a0 a1 = .next t → Only [.out, .spindles, .domes, .jobs, .mailboxes,
    .running, .hif, .boot] a1 t :=
  fun _ _ _ h => Only.finish (only_vecIssue _ _ _ _) h

theorem only_execVFst : ∀ a0 a1 t, execVFst a0 a1 = .next t → Only [.out, .spindles, .domes, .jobs, .mailboxes,
    .running, .hif, .boot] a1 t :=
  fun _ _ _ h => Only.finish (only_vecIssue _ _ _ _) h

theorem only_execVLog2 : ∀ a0 a1 t, execVLog2 a0 a1 = .next t → Only [.out, .spindles, .domes, .jobs, .mailboxes,
    .running, .hif, .boot] a1 t :=
  fun _ _ _ h => Only.finish (only_vecIssue _ _ _ _) h

theorem only_execVMacm : ∀ a0 a1 t, execVMacm a0 a1 = .next t → Only [.out, .spindles, .domes, .jobs, .mailboxes,
    .running, .hif, .boot] a1 t :=
  fun _ _ _ h => Only.finish (only_vecIssue _ _ _ _) h

theorem only_execVMand : ∀ a0 a1 t, execVMand a0 a1 = .next t → Only [.out, .spindles, .domes, .jobs, .mailboxes,
    .running, .hif, .boot] a1 t :=
  fun _ _ _ h => Only.finish (only_vecIssue _ _ _ _) h

theorem only_execVMax : ∀ a0 a1 t, execVMax a0 a1 = .next t → Only [.out, .spindles, .domes, .jobs, .mailboxes,
    .running, .hif, .boot] a1 t :=
  fun _ _ _ h => Only.finish (only_vecIssue _ _ _ _) h

theorem only_execVMin : ∀ a0 a1 t, execVMin a0 a1 = .next t → Only [.out, .spindles, .domes, .jobs, .mailboxes,
    .running, .hif, .boot] a1 t :=
  fun _ _ _ h => Only.finish (only_vecIssue _ _ _ _) h

theorem only_execVMnot : ∀ a0 a1 t, execVMnot a0 a1 = .next t → Only [.out, .spindles, .domes, .jobs, .mailboxes,
    .running, .hif, .boot] a1 t :=
  fun _ _ _ h => Only.finish (only_vecIssue _ _ _ _) h

theorem only_execVMor : ∀ a0 a1 t, execVMor a0 a1 = .next t → Only [.out, .spindles, .domes, .jobs, .mailboxes,
    .running, .hif, .boot] a1 t :=
  fun _ _ _ h => Only.finish (only_vecIssue _ _ _ _) h

theorem only_execVMul : ∀ a0 a1 t, execVMul a0 a1 = .next t → Only [.out, .spindles, .domes, .jobs, .mailboxes,
    .running, .hif, .boot] a1 t :=
  fun _ _ _ h => Only.finish (only_vecIssue _ _ _ _) h

theorem only_execVMulm : ∀ a0 a1 t, execVMulm a0 a1 = .next t → Only [.out, .spindles, .domes, .jobs, .mailboxes,
    .running, .hif, .boot] a1 t :=
  fun _ _ _ h => Only.finish (only_vecIssue _ _ _ _) h

theorem only_execVNeg : ∀ a0 a1 t, execVNeg a0 a1 = .next t → Only [.out, .spindles, .domes, .jobs, .mailboxes,
    .running, .hif, .boot] a1 t :=
  fun _ _ _ h => Only.finish (only_vecIssue _ _ _ _) h

theorem only_execVNop : ∀ a0 a1 t, execVNop a0 a1 = .next t → Only [.out, .spindles, .domes, .jobs, .mailboxes,
    .running, .hif, .boot] a1 t :=
  fun _ _ _ h => Only.finish (only_vecIssue _ _ _ _) h

theorem only_execVOr : ∀ a0 a1 t, execVOr a0 a1 = .next t → Only [.out, .spindles, .domes, .jobs, .mailboxes,
    .running, .hif, .boot] a1 t :=
  fun _ _ _ h => Only.finish (only_vecIssue _ _ _ _) h

theorem only_execVPerm : ∀ a0 a1 t, execVPerm a0 a1 = .next t → Only [.out, .spindles, .domes, .jobs, .mailboxes,
    .running, .hif, .boot] a1 t :=
  fun _ _ _ h => Only.finish (only_vecIssue _ _ _ _) h

theorem only_execVQmul : ∀ a0 a1 t, execVQmul a0 a1 = .next t → Only [.out, .spindles, .domes, .jobs, .mailboxes,
    .running, .hif, .boot] a1 t :=
  fun _ _ _ h => Only.finish (only_vecIssue _ _ _ _) h

theorem only_execVRargmax : ∀ a0 a1 t, execVRargmax a0 a1 = .next t → Only [.out, .spindles, .domes, .jobs,
    .mailboxes, .running, .hif, .boot] a1 t :=
  fun _ _ _ h => Only.finish (only_vecIssue _ _ _ _) h

theorem only_execVRargmin : ∀ a0 a1 t, execVRargmin a0 a1 = .next t → Only [.out, .spindles, .domes, .jobs,
    .mailboxes, .running, .hif, .boot] a1 t :=
  fun _ _ _ h => Only.finish (only_vecIssue _ _ _ _) h

theorem only_execVRcp : ∀ a0 a1 t, execVRcp a0 a1 = .next t → Only [.out, .spindles, .domes, .jobs, .mailboxes,
    .running, .hif, .boot] a1 t :=
  fun _ _ _ h => Only.finish (only_vecIssue _ _ _ _) h

theorem only_execVRmax : ∀ a0 a1 t, execVRmax a0 a1 = .next t → Only [.out, .spindles, .domes, .jobs, .mailboxes,
    .running, .hif, .boot] a1 t :=
  fun _ _ _ h => Only.finish (only_vecIssue _ _ _ _) h

theorem only_execVRmin : ∀ a0 a1 t, execVRmin a0 a1 = .next t → Only [.out, .spindles, .domes, .jobs, .mailboxes,
    .running, .hif, .boot] a1 t :=
  fun _ _ _ h => Only.finish (only_vecIssue _ _ _ _) h

theorem only_execVRprod : ∀ a0 a1 t, execVRprod a0 a1 = .next t → Only [.out, .spindles, .domes, .jobs, .mailboxes,
    .running, .hif, .boot] a1 t :=
  fun _ _ _ h => Only.finish (only_vecIssue _ _ _ _) h

theorem only_execVRsqrt : ∀ a0 a1 t, execVRsqrt a0 a1 = .next t → Only [.out, .spindles, .domes, .jobs, .mailboxes,
    .running, .hif, .boot] a1 t :=
  fun _ _ _ h => Only.finish (only_vecIssue _ _ _ _) h

theorem only_execVRsum : ∀ a0 a1 t, execVRsum a0 a1 = .next t → Only [.out, .spindles, .domes, .jobs, .mailboxes,
    .running, .hif, .boot] a1 t :=
  fun _ _ _ h => Only.finish (only_vecIssue _ _ _ _) h

theorem only_execVSel : ∀ a0 a1 t, execVSel a0 a1 = .next t → Only [.out, .spindles, .domes, .jobs, .mailboxes,
    .running, .hif, .boot] a1 t :=
  fun _ _ _ h => Only.finish (only_vecIssue _ _ _ _) h

theorem only_execVSlidedn : ∀ a0 a1 t, execVSlidedn a0 a1 = .next t → Only [.out, .spindles, .domes, .jobs,
    .mailboxes, .running, .hif, .boot] a1 t :=
  fun _ _ _ h => Only.finish (only_vecIssue _ _ _ _) h

theorem only_execVSlideup : ∀ a0 a1 t, execVSlideup a0 a1 = .next t → Only [.out, .spindles, .domes, .jobs,
    .mailboxes, .running, .hif, .boot] a1 t :=
  fun _ _ _ h => Only.finish (only_vecIssue _ _ _ _) h

theorem only_execVSub : ∀ a0 a1 t, execVSub a0 a1 = .next t → Only [.out, .spindles, .domes, .jobs, .mailboxes,
    .running, .hif, .boot] a1 t :=
  fun _ _ _ h => Only.finish (only_vecIssue _ _ _ _) h

theorem only_execVTagset : ∀ a0 a1 t, execVTagset a0 a1 = .next t → Only [.out, .spindles, .domes, .jobs,
    .mailboxes, .running, .hif, .boot] a1 t :=
  fun _ _ _ h => Only.finish (only_vecIssue _ _ _ _) h

theorem only_execVTld : ∀ a0 a1 t, execVTld a0 a1 = .next t → Only [.out, .spindles, .domes, .jobs, .mailboxes,
    .running, .hif, .boot] a1 t :=
  fun _ _ _ h => Only.finish (only_vecIssue _ _ _ _) h

theorem only_execVTst : ∀ a0 a1 t, execVTst a0 a1 = .next t → Only [.out, .spindles, .domes, .jobs, .mailboxes,
    .running, .hif, .boot] a1 t :=
  fun _ _ _ h => Only.finish (only_vecIssue _ _ _ _) h

theorem only_execVVld : ∀ a0 a1 t, execVVld a0 a1 = .next t → Only [.out, .spindles, .domes, .jobs, .mailboxes,
    .running, .hif, .boot] a1 t :=
  fun _ _ _ h => Only.finish (only_vecIssue _ _ _ _) h

theorem only_execVVst : ∀ a0 a1 t, execVVst a0 a1 = .next t → Only [.out, .spindles, .domes, .jobs, .mailboxes,
    .running, .hif, .boot] a1 t :=
  fun _ _ _ h => Only.finish (only_vecIssue _ _ _ _) h

theorem only_execVXadd : ∀ a0 a1 t, execVXadd a0 a1 = .next t → Only [.out, .spindles, .domes, .jobs, .mailboxes,
    .running, .hif, .boot] a1 t :=
  fun _ _ _ h => Only.finish (only_vecIssue _ _ _ _) h

theorem only_execVXor : ∀ a0 a1 t, execVXor a0 a1 = .next t → Only [.out, .spindles, .domes, .jobs, .mailboxes,
    .running, .hif, .boot] a1 t :=
  fun _ _ _ h => Only.finish (only_vecIssue _ _ _ _) h

theorem only_execVXset : ∀ a0 a1 t, execVXset a0 a1 = .next t → Only [.out, .spindles, .domes, .jobs, .mailboxes,
    .running, .hif, .boot] a1 t :=
  fun _ _ _ h => Only.finish (only_vecIssue _ _ _ _) h

theorem only_execVblfFalling : ∀ a0 t, execVblfFalling a0 = .next t → Only [.out, .belfry] a0 t :=
  fun _ _ h => Only.finish (only_vblfFalling _) h

theorem only_execVblfInRange : ∀ a0 t, execVblfInRange a0 = .next t → Only [.draws, .out, .belfry] a0 t :=
  fun _ _ h => Only.finish (only_vblfInRange _) h

theorem only_execVector : ∀ a0 a1 t, execVector a0 a1 = .next t → Only [.spindles] a1 t :=
  fun _ _ _ h => Only.finish (only_handBlock _ _) h

theorem only_execVfEnableCleared : ∀ a0 t, execVfEnableCleared a0 = .next t → Only [.draws, .out, .orders, .spires,
    .channels, .parts, .mailboxes, .running, .streams, .prepUnits, .workItems, .pipes, .tracks, .orings, .skein,
    .sec, .hif, .boot] a0 t :=
  fun _ _ h => Only.finish (only_vfEnableCleared _) h

theorem only_execVfFlr : ∀ a0 a1 t, execVfFlr a0 a1 = .next t → Only [.draws, .out, .orders, .spires, .channels,
    .parts, .mailboxes, .running, .streams, .prepUnits, .workItems, .pipes, .tracks, .orings, .skein, .sec, .hif,
    .boot] a1 t := by
  intro a0 a1 t h
  refine Only.finish ?_ h
  repeat' first
    | with_reducible exact Only.refl _ _
    | assumption
    | simp (disch := decide) only [Machine.guarded, Only.op_iff (only_vfFlr _ _), Only.refl, Only.ite_iff,
        implies_true, and_self, and_true, true_and]
    | refine Only.foldl _ (fun _ _ => ?_) _ ?_
    | refine And.intro ?_ ?_
    | intro _
    | split

theorem only_execWaitBufRetry : ∀ a0 a1 t, execWaitBufRetry a0 a1 = .next t → Only [.draws, .parts, .streams] a1 t :=
  fun _ _ _ h => Only.finish (only_waitBufRetry _ _) h

theorem only_execWaitLocal : ∀ a0 a1 t, execWaitLocal a0 a1 = .next t → Only [.spindles] a1 t :=
  fun _ _ _ h => Only.finish (only_passWaitLocal _ _) h

theorem only_execWaveAdmit : ∀ a0 a1 t, execWaveAdmit a0 a1 = .next t → Only [.draws, .spindles, .domes, .power] a1
    t :=
  fun _ _ _ h => Only.finish (only_waveAdmit _ _) h

theorem only_execWavefrontIssue : ∀ a0 a1 t, execWavefrontIssue a0 a1 = .next t → Only [.draws, .out, .spindles,
    .domes, .jobs, .mailboxes, .running, .hif, .boot] a1 t :=
  fun _ _ _ h => Only.finish (only_wavefrontIssue _ _) h

theorem only_execWckOscillatorRun : ∀ a0 a1 a2 a3 t, execWckOscillatorRun a0 a1 a2 a3 = .next t → Only [.channels]
    a3 t :=
  fun _ _ _ _ _ h => Only.finish (only_setChannel _ _ _) h

theorem only_execWeightSetLoaded : ∀ a0 a1 t, execWeightSetLoaded a0 a1 = .next t → Only [.out, .spindles, .domes,
    .jobs, .mailboxes, .running, .hif, .boot] a1 t :=
  fun _ _ _ h => Only.finish (only_weightSetLoaded _ _) h

theorem only_execWorkFetch : ∀ a0 a1 t, execWorkFetch a0 a1 = .next t → Only [.out, .spindles, .spires, .jobs,
    .mailboxes, .running, .hif] a1 t :=
  fun _ _ _ h => Only.finish (only_workFetch _ _) h

theorem only_execWorkItemComplete : ∀ a0 a1 a2 t, execWorkItemComplete a0 a1 a2 = .next t → Only [.out, .channels,
    .parts, .mailboxes, .prepUnits, .workItems, .prepSat, .prepUfl, .pipes, .hif, .boot] a2 t :=
  fun _ _ _ _ h => Only.finish (only_workItemComplete _ _ _) h

theorem only_execWorkItemStart : ∀ a0 a1 t, execWorkItemStart a0 a1 = .next t → Only [.out, .prepUnits, .workItems,
    .hif] a1 t :=
  fun _ _ _ h => Only.finish (only_workItemStart _ _) h

end Sys2Proof
end

