-- ==== Sys2Proof/Laws/Store.lean ====
section
/-! SUPPORT. Tables and storage: what is read after a write, and that every operation on storage keeps its canonical
form. -/

namespace Sys2Proof.Machine

/-! ### Tables -/

@[simp] theorem tfind_tset {α : Type} (t : Table α) (k j : Nat) (v : α) :
    tfind (tset t k v) j = if k = j then some v else tfind t j := by
  induction t with
  | nil => simp [tset, tfind]
  | cons e r ih =>
    obtain ⟨i, u⟩ := e
    unfold tset
    split
    · next h => subst h; by_cases hj : i = j <;> simp [tfind, hj]
    · split
      · by_cases hj : k = j <;> simp [tfind, hj]
      · next h _ =>
        by_cases hi : i = j
        · subst hi; simp [tfind, Ne.symm h]
        · simp [tfind, hi, ih]

@[simp] theorem tget_tset {α : Type} (t : Table α) (k j : Nat) (v d : α) :
    tget (tset t k v) j d = if k = j then v else tget t j d := by
  unfold tget; rw [tfind_tset]; split <;> rfl

@[simp] theorem tfind_tdel {α : Type} (t : Table α) (k j : Nat) :
    tfind (tdel t k) j = if k = j then none else tfind t j := by
  induction t with
  | nil => simp [tdel, tfind]
  | cons e r ih =>
    obtain ⟨i, u⟩ := e
    unfold tdel at ih ⊢
    by_cases hi : i = k
    · subst hi
      simp only [List.filter_cons, bne_self_eq_false, Bool.false_eq_true, ↓reduceIte, ih, tfind]
      split <;> simp_all
    · simp only [List.filter_cons, bne_iff_ne, ne_eq, hi, not_false_eq_true, ↓reduceIte, tfind, ih]
      by_cases hj : i = j
      · subst hj; simp [Ne.symm hi]
      · simp [hj]

/-! ### One cell -/

theorem cellFind_cellPut {w : Nat} (c : List (Nat × BitVec w)) (a b : Nat) (v : BitVec w) :
    cellFind (cellPut c a v) b = if a = b then some v else cellFind c b := by
  induction c with
  | nil => simp [cellPut, cellFind]
  | cons e r ih =>
    obtain ⟨i, u⟩ := e
    unfold cellPut
    split
    · next h => subst h; by_cases hj : i = b <;> simp [cellFind, hj]
    · split
      · by_cases hj : a = b <;> simp [cellFind, hj]
      · next h _ =>
        by_cases hi : i = b
        · subst hi; simp [cellFind, Ne.symm h]
        · simp [cellFind, hi, ih]

theorem cellFind_filter {w : Nat} (c : List (Nat × BitVec w)) (p : Nat → Bool) (b : Nat) :
    cellFind (c.filter (fun e => p e.1)) b = if p b then cellFind c b else none := by
  induction c with
  | nil => simp [cellFind]
  | cons e r ih =>
    obtain ⟨i, u⟩ := e
    by_cases hi : i = b
    · subst hi
      by_cases hp : p i <;> simp [cellFind, hp, ih]
    · by_cases hp : p i <;> simp [cellFind, hp, ih, hi]

/-- A cell reads as it was written, every other as before. -/
@[simp] theorem storeGet_storeSet {w : Nat} (st : Store w) (a b : Nat) (v : BitVec w) :
    storeGet (storeSet st a v) b = if a = b then v else storeGet st b := by
  unfold storeSet storeGet
  split
  · next h =>
    have := cellFind_filter st.cells (· != a) b
    simp only [bne_iff_ne, ne_eq] at this
    by_cases hb : a = b
    · subst hb; simp [this, h]
    · simp [this, hb, Ne.symm hb]
  · rw [cellFind_cellPut]
    by_cases hb : a = b <;> simp [hb]

/-- Cells written in a row read back; every other cell is as before. -/
theorem storeGet_storeWrite {w : Nat} (l : List (BitVec w)) (st : Store w) (a b : Nat) :
    storeGet (storeWrite st a l) b = if a ≤ b then (l[b - a]?).getD (storeGet st b) else storeGet st b := by
  induction l generalizing st a with
  | nil => simp [storeWrite]
  | cons v r ih =>
    rw [storeWrite, ih, storeGet_storeSet]
    rcases Nat.lt_trichotomy a b with h | h | h
    · have e : b - a = (b - (a + 1)) + 1 := by omega
      simp [Nat.le_of_lt h, Nat.ne_of_lt h, Nat.succ_le_of_lt h, e]
    · subst h; simp
    · simp [Nat.not_le_of_lt h, Nat.ne_of_gt h, Nat.not_le_of_lt (Nat.lt_succ_of_lt h)]

@[simp] theorem length_storeRead {w : Nat} (st : Store w) (a n : Nat) : (storeRead st a n).length = n := by
  simp [storeRead]

/-- What was written in a row is read in a row. -/
@[simp] theorem storeRead_storeWrite {w : Nat} (l : List (BitVec w)) (st : Store w) (a : Nat) :
    storeRead (storeWrite st a l) a l.length = l := by
  apply List.ext_getElem
  · simp
  · intro i h1 h2
    simp [storeRead, storeGet_storeWrite, h2]

/-! ### Ranges -/

theorem undefRead_cut {w : Nat} (u : List UndefRange) (lo n a : Nat) :
    undefRead w (u.flatMap (undefCut lo n)) a = if lo ≤ a ∧ a < lo + n then 0 else undefRead w u a := by
  induction u with
  | nil => simp [undefRead]
  | cons x r ih =>
    have step : ∀ (l : List UndefRange), undefRead w (undefCut lo n x ++ l) a =
        if (x.lo ≤ a ∧ a < x.lo + x.len) ∧ ¬ (lo ≤ a ∧ a < lo + n) then Config.freeBits w x.tag a
        else undefRead w l a := by
      intro l
      unfold undefCut
      simp only [List.filter_cons, List.filter_nil, bne_iff_ne, ne_eq]
      split <;> split <;> simp only [List.cons_append, List.nil_append, undefRead] <;> (repeat' split) <;>
        first | rfl | (exfalso; omega)
    rw [List.flatMap_cons, step, ih]
    simp only [undefRead]
    repeat' split
    all_goals first | rfl | (exfalso; omega)

/-- Zeroed cells read as zero, every other as before. -/
theorem storeGet_storeZero {w : Nat} (st : Store w) (lo n a : Nat) :
    storeGet (storeZero st lo n) a = if lo ≤ a ∧ a < lo + n then 0 else storeGet st a := by
  unfold storeZero storeGet
  have := cellFind_filter st.cells (fun i => decide (i < lo) || decide (lo + n ≤ i)) a
  simp only at this ⊢
  rw [this, undefRead_cut]
  by_cases h : lo ≤ a ∧ a < lo + n
  · have : ¬ (a < lo) ∧ ¬ (lo + n ≤ a) := by omega
    simp [h, this]
  · have : a < lo ∨ lo + n ≤ a := by omega
    simp [h, this]

/-- Cells made undefined read as free values; every other as before. -/
theorem storeGet_storeUndef {w : Nat} (st : Store w) (lo n tag a : Nat) :
    storeGet (storeUndef st lo n tag) a =
      if lo ≤ a ∧ a < lo + n then Config.freeBits w tag a else storeGet st a := by
  unfold storeUndef storeGet
  have := cellFind_filter st.cells (fun i => decide (i < lo) || decide (lo + n ≤ i)) a
  simp only at this ⊢
  rw [this]
  by_cases h : lo ≤ a ∧ a < lo + n
  · have : ¬ (a < lo) ∧ ¬ (lo + n ≤ a) := by omega
    simp [h, this, undefRead]
  · have h' : a < lo ∨ lo + n ≤ a := by omega
    simp [h, h', undefRead]

/-! ### The canonical form -/

theorem cellsRise_cons {w : Nat} (i : Nat) (u : BitVec w) (r : List (Nat × BitVec w)) :
    cellsRise ((i, u) :: r) = true ↔ (∀ e ∈ r, i < e.1) ∧ cellsRise r = true := by
  induction r generalizing i u with
  | nil => simp [cellsRise]
  | cons e r ih =>
    obtain ⟨j, v⟩ := e
    simp only [cellsRise, Bool.and_eq_true, decide_eq_true_eq, List.mem_cons, forall_eq_or_imp]
    constructor
    · rintro ⟨h, k⟩
      exact ⟨⟨h, fun e he => Nat.lt_trans h (((ih j v).mp k).1 e he)⟩, k⟩
    · rintro ⟨⟨h, _⟩, k⟩; exact ⟨h, k⟩

theorem mem_cellPut {w : Nat} {c : List (Nat × BitVec w)} {a : Nat} {v : BitVec w} {e : Nat × BitVec w}
    (h : e ∈ cellPut c a v) : e = (a, v) ∨ e ∈ c := by
  induction c with
  | nil => simpa [cellPut] using h
  | cons x r ih =>
    obtain ⟨i, u⟩ := x
    unfold cellPut at h
    split at h
    · rcases List.mem_cons.mp h with h | h
      · exact Or.inl h
      · exact Or.inr (List.mem_cons_of_mem _ h)
    · split at h
      · rcases List.mem_cons.mp h with h | h
        · exact Or.inl h
        · exact Or.inr h
      · rcases List.mem_cons.mp h with h | h
        · exact Or.inr (h ▸ List.mem_cons_self)
        · exact (ih h).imp_right (List.mem_cons_of_mem _)

theorem cellsRise_cellPut {w : Nat} {c : List (Nat × BitVec w)} (h : cellsRise c = true) (a : Nat) (v : BitVec w) :
    cellsRise (cellPut c a v) = true := by
  induction c with
  | nil => rfl
  | cons x r ih =>
    obtain ⟨i, u⟩ := x
    have k := (cellsRise_cons i u r).mp h
    unfold cellPut
    split
    · next e => subst e; exact (cellsRise_cons _ _ _).mpr k
    · split
      · next lt =>
        refine (cellsRise_cons _ _ _).mpr ⟨fun e he => ?_, h⟩
        rcases List.mem_cons.mp he with he | he
        · subst he; exact lt
        · exact Nat.lt_trans lt (k.1 e he)
      · refine (cellsRise_cons _ _ _).mpr ⟨fun e he => ?_, ih k.2⟩
        rcases mem_cellPut he with he | he
        · subst he; show i < a; omega
        · exact k.1 e he

theorem cellsRise_filter {w : Nat} {c : List (Nat × BitVec w)} (h : cellsRise c = true) (p : Nat × BitVec w → Bool) :
    cellsRise (c.filter p) = true := by
  induction c with
  | nil => rfl
  | cons x r ih =>
    obtain ⟨i, u⟩ := x
    have k := (cellsRise_cons i u r).mp h
    by_cases hp : p (i, u)
    · rw [List.filter_cons_of_pos hp]
      exact (cellsRise_cons _ _ _).mpr ⟨fun e he => k.1 e (List.mem_of_mem_filter he), ih k.2⟩
    · rw [List.filter_cons_of_neg hp]; exact ih k.2

theorem storeWf_iff {w : Nat} (st : Store w) :
    storeWf st = true ↔ cellsRise st.cells = true ∧ ∀ c ∈ st.cells, c.2 ≠ undefRead w st.undef c.1 := by
  simp [storeWf]

/-- Writing a cell keeps the canonical form. -/
theorem storeSet_wf {w : Nat} {st : Store w} (h : storeWf st = true) (a : Nat) (v : BitVec w) :
    storeWf (storeSet st a v) = true := by
  rw [storeWf_iff] at h ⊢
  unfold storeSet
  split
  · exact ⟨cellsRise_filter h.1 _, fun c hc => h.2 c (List.mem_of_mem_filter hc)⟩
  · next hv =>
    refine ⟨cellsRise_cellPut h.1 a v, fun c hc => ?_⟩
    rcases mem_cellPut hc with e | e
    · subst e; exact hv
    · exact h.2 c e

theorem storeWrite_wf {w : Nat} (l : List (BitVec w)) {st : Store w} (h : storeWf st = true) (a : Nat) :
    storeWf (storeWrite st a l) = true := by
  induction l generalizing st a with
  | nil => exact h
  | cons v r ih => exact ih (storeSet_wf h a v) _

theorem storeZero_wf {w : Nat} {st : Store w} (h : storeWf st = true) (lo n : Nat) :
    storeWf (storeZero st lo n) = true := by
  rw [storeWf_iff] at h ⊢
  refine ⟨cellsRise_filter h.1 _, fun c hc => ?_⟩
  have m := List.mem_filter.mp hc
  have : ¬ (lo ≤ c.1 ∧ c.1 < lo + n) := by simpa [Nat.not_lt, imp_iff_not_or, Nat.not_le] using m.2
  show c.2 ≠ undefRead w (st.undef.flatMap (undefCut lo n)) c.1
  rw [undefRead_cut, if_neg this]
  exact h.2 c m.1

theorem storeUndef_wf {w : Nat} {st : Store w} (h : storeWf st = true) (lo n tag : Nat) :
    storeWf (storeUndef st lo n tag) = true := by
  rw [storeWf_iff] at h ⊢
  refine ⟨cellsRise_filter h.1 _, fun c hc => ?_⟩
  have m := List.mem_filter.mp hc
  have : ¬ (lo ≤ c.1 ∧ c.1 < lo + n) := by simpa [Nat.not_lt, imp_iff_not_or, Nat.not_le] using m.2
  show c.2 ≠ undefRead w (⟨lo, n, tag⟩ :: st.undef) c.1
  unfold undefRead
  rw [if_neg this]
  exact h.2 c m.1

end Sys2Proof.Machine
end

