-- ==== Sys2Proof/Laws/State.lean ====
section
/-! SUPPORT. One lemma per unit and update of the state: what is read of a unit after one is set, and the parts of the
state each update leaves alone. -/

namespace Sys2Proof.Machine

/-! ### Units by number -/

@[simp] theorem spindleOf_setSpindle (s : State) (p k : Nat) (x) :
    spindleOf (setSpindle s p x) k = if p = k then x else spindleOf s k := tget_tset _ _ _ _ _
@[simp] theorem setSpindle_keeps (s : State) (p : Nat) (x) :
    (setSpindle s p x).pending = s.pending ∧ (setSpindle s p x).time = s.time ∧ (setSpindle s p x).draws = s.draws ∧
    (setSpindle s p x).out = s.out ∧ (setSpindle s p x).orders = s.orders ∧ (setSpindle s p x).spires = s.spires ∧
    (setSpindle s p x).domes = s.domes ∧ (setSpindle s p x).channels = s.channels ∧
    (setSpindle s p x).parts = s.parts ∧ (setSpindle s p x).jobs = s.jobs ∧
    (setSpindle s p x).mailboxes = s.mailboxes ∧ (setSpindle s p x).running = s.running ∧
    (setSpindle s p x).lastServed = s.lastServed ∧ (setSpindle s p x).streams = s.streams ∧
    (setSpindle s p x).decoders = s.decoders ∧ (setSpindle s p x).suspended = s.suspended ∧
    (setSpindle s p x).motion = s.motion ∧ (setSpindle s p x).prepUnits = s.prepUnits ∧
    (setSpindle s p x).workItems = s.workItems ∧ (setSpindle s p x).prepBusy = s.prepBusy ∧
    (setSpindle s p x).prepLoad = s.prepLoad ∧ (setSpindle s p x).prepSat = s.prepSat ∧
    (setSpindle s p x).prepUfl = s.prepUfl ∧ (setSpindle s p x).netPorts = s.netPorts ∧
    (setSpindle s p x).pipes = s.pipes ∧ (setSpindle s p x).tracks = s.tracks ∧
    (setSpindle s p x).orings = s.orings ∧ (setSpindle s p x).skein = s.skein ∧ (setSpindle s p x).sec = s.sec ∧
    (setSpindle s p x).belfry = s.belfry ∧ (setSpindle s p x).power = s.power ∧ (setSpindle s p x).hif = s.hif ∧
    (setSpindle s p x).boot = s.boot :=
  ⟨rfl, rfl, rfl, rfl, rfl, rfl, rfl, rfl, rfl, rfl, rfl, rfl, rfl, rfl, rfl, rfl, rfl, rfl, rfl, rfl, rfl, rfl,
  rfl, rfl, rfl, rfl, rfl, rfl, rfl, rfl, rfl, rfl, rfl⟩

@[simp] theorem spireOf_setSpire (s : State) (i k : Nat) (x) :
    spireOf (setSpire s i x) k = if i = k then x else spireOf s k := tget_tset _ _ _ _ _
@[simp] theorem setSpire_keeps (s : State) (i : Nat) (x) :
    (setSpire s i x).pending = s.pending ∧ (setSpire s i x).time = s.time ∧ (setSpire s i x).draws = s.draws ∧
    (setSpire s i x).out = s.out ∧ (setSpire s i x).orders = s.orders ∧ (setSpire s i x).spindles = s.spindles ∧
    (setSpire s i x).domes = s.domes ∧ (setSpire s i x).channels = s.channels ∧ (setSpire s i x).parts = s.parts ∧
    (setSpire s i x).jobs = s.jobs ∧ (setSpire s i x).mailboxes = s.mailboxes ∧
    (setSpire s i x).running = s.running ∧ (setSpire s i x).lastServed = s.lastServed ∧
    (setSpire s i x).streams = s.streams ∧ (setSpire s i x).decoders = s.decoders ∧
    (setSpire s i x).suspended = s.suspended ∧ (setSpire s i x).motion = s.motion ∧
    (setSpire s i x).prepUnits = s.prepUnits ∧ (setSpire s i x).workItems = s.workItems ∧
    (setSpire s i x).prepBusy = s.prepBusy ∧ (setSpire s i x).prepLoad = s.prepLoad ∧
    (setSpire s i x).prepSat = s.prepSat ∧ (setSpire s i x).prepUfl = s.prepUfl ∧
    (setSpire s i x).netPorts = s.netPorts ∧ (setSpire s i x).pipes = s.pipes ∧ (setSpire s i x).tracks = s.tracks ∧
    (setSpire s i x).orings = s.orings ∧ (setSpire s i x).skein = s.skein ∧ (setSpire s i x).sec = s.sec ∧
    (setSpire s i x).belfry = s.belfry ∧ (setSpire s i x).power = s.power ∧ (setSpire s i x).hif = s.hif ∧
    (setSpire s i x).boot = s.boot :=
  ⟨rfl, rfl, rfl, rfl, rfl, rfl, rfl, rfl, rfl, rfl, rfl, rfl, rfl, rfl, rfl, rfl, rfl, rfl, rfl, rfl, rfl, rfl,
  rfl, rfl, rfl, rfl, rfl, rfl, rfl, rfl, rfl, rfl, rfl⟩

@[simp] theorem domeOf_setDome (s : State) (d k : Nat) (x) :
    domeOf (setDome s d x) k = if d = k then x else domeOf s k := tget_tset _ _ _ _ _
@[simp] theorem setDome_keeps (s : State) (d : Nat) (x) :
    (setDome s d x).pending = s.pending ∧ (setDome s d x).time = s.time ∧ (setDome s d x).draws = s.draws ∧
    (setDome s d x).out = s.out ∧ (setDome s d x).orders = s.orders ∧ (setDome s d x).spindles = s.spindles ∧
    (setDome s d x).spires = s.spires ∧ (setDome s d x).channels = s.channels ∧ (setDome s d x).parts = s.parts ∧
    (setDome s d x).jobs = s.jobs ∧ (setDome s d x).mailboxes = s.mailboxes ∧ (setDome s d x).running = s.running ∧
    (setDome s d x).lastServed = s.lastServed ∧ (setDome s d x).streams = s.streams ∧
    (setDome s d x).decoders = s.decoders ∧ (setDome s d x).suspended = s.suspended ∧
    (setDome s d x).motion = s.motion ∧ (setDome s d x).prepUnits = s.prepUnits ∧
    (setDome s d x).workItems = s.workItems ∧ (setDome s d x).prepBusy = s.prepBusy ∧
    (setDome s d x).prepLoad = s.prepLoad ∧ (setDome s d x).prepSat = s.prepSat ∧
    (setDome s d x).prepUfl = s.prepUfl ∧ (setDome s d x).netPorts = s.netPorts ∧ (setDome s d x).pipes = s.pipes ∧
    (setDome s d x).tracks = s.tracks ∧ (setDome s d x).orings = s.orings ∧ (setDome s d x).skein = s.skein ∧
    (setDome s d x).sec = s.sec ∧ (setDome s d x).belfry = s.belfry ∧ (setDome s d x).power = s.power ∧
    (setDome s d x).hif = s.hif ∧ (setDome s d x).boot = s.boot :=
  ⟨rfl, rfl, rfl, rfl, rfl, rfl, rfl, rfl, rfl, rfl, rfl, rfl, rfl, rfl, rfl, rfl, rfl, rfl, rfl, rfl, rfl, rfl,
  rfl, rfl, rfl, rfl, rfl, rfl, rfl, rfl, rfl, rfl, rfl⟩

@[simp] theorem channelOf_setChannel (s : State) (c k : Nat) (x) :
    channelOf (setChannel s c x) k = if c = k then x else channelOf s k := tget_tset _ _ _ _ _
@[simp] theorem setChannel_keeps (s : State) (c : Nat) (x) :
    (setChannel s c x).pending = s.pending ∧ (setChannel s c x).time = s.time ∧ (setChannel s c x).draws = s.draws ∧
    (setChannel s c x).out = s.out ∧ (setChannel s c x).orders = s.orders ∧
    (setChannel s c x).spindles = s.spindles ∧ (setChannel s c x).spires = s.spires ∧
    (setChannel s c x).domes = s.domes ∧ (setChannel s c x).parts = s.parts ∧ (setChannel s c x).jobs = s.jobs ∧
    (setChannel s c x).mailboxes = s.mailboxes ∧ (setChannel s c x).running = s.running ∧
    (setChannel s c x).lastServed = s.lastServed ∧ (setChannel s c x).streams = s.streams ∧
    (setChannel s c x).decoders = s.decoders ∧ (setChannel s c x).suspended = s.suspended ∧
    (setChannel s c x).motion = s.motion ∧ (setChannel s c x).prepUnits = s.prepUnits ∧
    (setChannel s c x).workItems = s.workItems ∧ (setChannel s c x).prepBusy = s.prepBusy ∧
    (setChannel s c x).prepLoad = s.prepLoad ∧ (setChannel s c x).prepSat = s.prepSat ∧
    (setChannel s c x).prepUfl = s.prepUfl ∧ (setChannel s c x).netPorts = s.netPorts ∧
    (setChannel s c x).pipes = s.pipes ∧ (setChannel s c x).tracks = s.tracks ∧
    (setChannel s c x).orings = s.orings ∧ (setChannel s c x).skein = s.skein ∧ (setChannel s c x).sec = s.sec ∧
    (setChannel s c x).belfry = s.belfry ∧ (setChannel s c x).power = s.power ∧ (setChannel s c x).hif = s.hif ∧
    (setChannel s c x).boot = s.boot :=
  ⟨rfl, rfl, rfl, rfl, rfl, rfl, rfl, rfl, rfl, rfl, rfl, rfl, rfl, rfl, rfl, rfl, rfl, rfl, rfl, rfl, rfl, rfl,
  rfl, rfl, rfl, rfl, rfl, rfl, rfl, rfl, rfl, rfl, rfl⟩

@[simp] theorem jobOf_setJob (s : State) (j k : Nat) (x) :
    jobOf (setJob s j x) k = if j = k then x else jobOf s k := tget_tset _ _ _ _ _
@[simp] theorem setJob_keeps (s : State) (j : Nat) (x) :
    (setJob s j x).pending = s.pending ∧ (setJob s j x).time = s.time ∧ (setJob s j x).draws = s.draws ∧
    (setJob s j x).out = s.out ∧ (setJob s j x).orders = s.orders ∧ (setJob s j x).spindles = s.spindles ∧
    (setJob s j x).spires = s.spires ∧ (setJob s j x).domes = s.domes ∧ (setJob s j x).channels = s.channels ∧
    (setJob s j x).parts = s.parts ∧ (setJob s j x).mailboxes = s.mailboxes ∧ (setJob s j x).running = s.running ∧
    (setJob s j x).lastServed = s.lastServed ∧ (setJob s j x).streams = s.streams ∧
    (setJob s j x).decoders = s.decoders ∧ (setJob s j x).suspended = s.suspended ∧
    (setJob s j x).motion = s.motion ∧ (setJob s j x).prepUnits = s.prepUnits ∧
    (setJob s j x).workItems = s.workItems ∧ (setJob s j x).prepBusy = s.prepBusy ∧
    (setJob s j x).prepLoad = s.prepLoad ∧ (setJob s j x).prepSat = s.prepSat ∧ (setJob s j x).prepUfl = s.prepUfl ∧
    (setJob s j x).netPorts = s.netPorts ∧ (setJob s j x).pipes = s.pipes ∧ (setJob s j x).tracks = s.tracks ∧
    (setJob s j x).orings = s.orings ∧ (setJob s j x).skein = s.skein ∧ (setJob s j x).sec = s.sec ∧
    (setJob s j x).belfry = s.belfry ∧ (setJob s j x).power = s.power ∧ (setJob s j x).hif = s.hif ∧
    (setJob s j x).boot = s.boot :=
  ⟨rfl, rfl, rfl, rfl, rfl, rfl, rfl, rfl, rfl, rfl, rfl, rfl, rfl, rfl, rfl, rfl, rfl, rfl, rfl, rfl, rfl, rfl,
  rfl, rfl, rfl, rfl, rfl, rfl, rfl, rfl, rfl, rfl, rfl⟩

@[simp] theorem mailboxOf_setMailbox (s : State) (m k : Nat) (x) :
    mailboxOf (setMailbox s m x) k = if m = k then x else mailboxOf s k := tget_tset _ _ _ _ _
@[simp] theorem setMailbox_keeps (s : State) (m : Nat) (x) :
    (setMailbox s m x).pending = s.pending ∧ (setMailbox s m x).time = s.time ∧ (setMailbox s m x).draws = s.draws ∧
    (setMailbox s m x).out = s.out ∧ (setMailbox s m x).orders = s.orders ∧
    (setMailbox s m x).spindles = s.spindles ∧ (setMailbox s m x).spires = s.spires ∧
    (setMailbox s m x).domes = s.domes ∧ (setMailbox s m x).channels = s.channels ∧
    (setMailbox s m x).parts = s.parts ∧ (setMailbox s m x).jobs = s.jobs ∧ (setMailbox s m x).running = s.running ∧
    (setMailbox s m x).lastServed = s.lastServed ∧ (setMailbox s m x).streams = s.streams ∧
    (setMailbox s m x).decoders = s.decoders ∧ (setMailbox s m x).suspended = s.suspended ∧
    (setMailbox s m x).motion = s.motion ∧ (setMailbox s m x).prepUnits = s.prepUnits ∧
    (setMailbox s m x).workItems = s.workItems ∧ (setMailbox s m x).prepBusy = s.prepBusy ∧
    (setMailbox s m x).prepLoad = s.prepLoad ∧ (setMailbox s m x).prepSat = s.prepSat ∧
    (setMailbox s m x).prepUfl = s.prepUfl ∧ (setMailbox s m x).netPorts = s.netPorts ∧
    (setMailbox s m x).pipes = s.pipes ∧ (setMailbox s m x).tracks = s.tracks ∧
    (setMailbox s m x).orings = s.orings ∧ (setMailbox s m x).skein = s.skein ∧ (setMailbox s m x).sec = s.sec ∧
    (setMailbox s m x).belfry = s.belfry ∧ (setMailbox s m x).power = s.power ∧ (setMailbox s m x).hif = s.hif ∧
    (setMailbox s m x).boot = s.boot :=
  ⟨rfl, rfl, rfl, rfl, rfl, rfl, rfl, rfl, rfl, rfl, rfl, rfl, rfl, rfl, rfl, rfl, rfl, rfl, rfl, rfl, rfl, rfl,
  rfl, rfl, rfl, rfl, rfl, rfl, rfl, rfl, rfl, rfl, rfl⟩

@[simp] theorem streamOf_setStream (s : State) (i k : Nat) (x) :
    streamOf (setStream s i x) k = if i = k then x else streamOf s k := tget_tset _ _ _ _ _
@[simp] theorem setStream_keeps (s : State) (i : Nat) (x) :
    (setStream s i x).pending = s.pending ∧ (setStream s i x).time = s.time ∧ (setStream s i x).draws = s.draws ∧
    (setStream s i x).out = s.out ∧ (setStream s i x).orders = s.orders ∧ (setStream s i x).spindles = s.spindles ∧
    (setStream s i x).spires = s.spires ∧ (setStream s i x).domes = s.domes ∧
    (setStream s i x).channels = s.channels ∧ (setStream s i x).parts = s.parts ∧ (setStream s i x).jobs = s.jobs ∧
    (setStream s i x).mailboxes = s.mailboxes ∧ (setStream s i x).running = s.running ∧
    (setStream s i x).lastServed = s.lastServed ∧ (setStream s i x).decoders = s.decoders ∧
    (setStream s i x).suspended = s.suspended ∧ (setStream s i x).motion = s.motion ∧
    (setStream s i x).prepUnits = s.prepUnits ∧ (setStream s i x).workItems = s.workItems ∧
    (setStream s i x).prepBusy = s.prepBusy ∧ (setStream s i x).prepLoad = s.prepLoad ∧
    (setStream s i x).prepSat = s.prepSat ∧ (setStream s i x).prepUfl = s.prepUfl ∧
    (setStream s i x).netPorts = s.netPorts ∧ (setStream s i x).pipes = s.pipes ∧
    (setStream s i x).tracks = s.tracks ∧ (setStream s i x).orings = s.orings ∧ (setStream s i x).skein = s.skein ∧
    (setStream s i x).sec = s.sec ∧ (setStream s i x).belfry = s.belfry ∧ (setStream s i x).power = s.power ∧
    (setStream s i x).hif = s.hif ∧ (setStream s i x).boot = s.boot :=
  ⟨rfl, rfl, rfl, rfl, rfl, rfl, rfl, rfl, rfl, rfl, rfl, rfl, rfl, rfl, rfl, rfl, rfl, rfl, rfl, rfl, rfl, rfl,
  rfl, rfl, rfl, rfl, rfl, rfl, rfl, rfl, rfl, rfl, rfl⟩

@[simp] theorem decoderOf_setDecoder (s : State) (e k : Nat) (x) :
    decoderOf (setDecoder s e x) k = if e = k then x else decoderOf s k := tget_tset _ _ _ _ _
@[simp] theorem setDecoder_keeps (s : State) (e : Nat) (x) :
    (setDecoder s e x).pending = s.pending ∧ (setDecoder s e x).time = s.time ∧ (setDecoder s e x).draws = s.draws ∧
    (setDecoder s e x).out = s.out ∧ (setDecoder s e x).orders = s.orders ∧
    (setDecoder s e x).spindles = s.spindles ∧ (setDecoder s e x).spires = s.spires ∧
    (setDecoder s e x).domes = s.domes ∧ (setDecoder s e x).channels = s.channels ∧
    (setDecoder s e x).parts = s.parts ∧ (setDecoder s e x).jobs = s.jobs ∧
    (setDecoder s e x).mailboxes = s.mailboxes ∧ (setDecoder s e x).running = s.running ∧
    (setDecoder s e x).lastServed = s.lastServed ∧ (setDecoder s e x).streams = s.streams ∧
    (setDecoder s e x).suspended = s.suspended ∧ (setDecoder s e x).motion = s.motion ∧
    (setDecoder s e x).prepUnits = s.prepUnits ∧ (setDecoder s e x).workItems = s.workItems ∧
    (setDecoder s e x).prepBusy = s.prepBusy ∧ (setDecoder s e x).prepLoad = s.prepLoad ∧
    (setDecoder s e x).prepSat = s.prepSat ∧ (setDecoder s e x).prepUfl = s.prepUfl ∧
    (setDecoder s e x).netPorts = s.netPorts ∧ (setDecoder s e x).pipes = s.pipes ∧
    (setDecoder s e x).tracks = s.tracks ∧ (setDecoder s e x).orings = s.orings ∧
    (setDecoder s e x).skein = s.skein ∧ (setDecoder s e x).sec = s.sec ∧ (setDecoder s e x).belfry = s.belfry ∧
    (setDecoder s e x).power = s.power ∧ (setDecoder s e x).hif = s.hif ∧ (setDecoder s e x).boot = s.boot :=
  ⟨rfl, rfl, rfl, rfl, rfl, rfl, rfl, rfl, rfl, rfl, rfl, rfl, rfl, rfl, rfl, rfl, rfl, rfl, rfl, rfl, rfl, rfl,
  rfl, rfl, rfl, rfl, rfl, rfl, rfl, rfl, rfl, rfl, rfl⟩

@[simp] theorem motionOf_setMotion (s : State) (u k : Nat) (x) :
    motionOf (setMotion s u x) k = if u = k then x else motionOf s k := tget_tset _ _ _ _ _
@[simp] theorem setMotion_keeps (s : State) (u : Nat) (x) :
    (setMotion s u x).pending = s.pending ∧ (setMotion s u x).time = s.time ∧ (setMotion s u x).draws = s.draws ∧
    (setMotion s u x).out = s.out ∧ (setMotion s u x).orders = s.orders ∧ (setMotion s u x).spindles = s.spindles ∧
    (setMotion s u x).spires = s.spires ∧ (setMotion s u x).domes = s.domes ∧
    (setMotion s u x).channels = s.channels ∧ (setMotion s u x).parts = s.parts ∧ (setMotion s u x).jobs = s.jobs ∧
    (setMotion s u x).mailboxes = s.mailboxes ∧ (setMotion s u x).running = s.running ∧
    (setMotion s u x).lastServed = s.lastServed ∧ (setMotion s u x).streams = s.streams ∧
    (setMotion s u x).decoders = s.decoders ∧ (setMotion s u x).suspended = s.suspended ∧
    (setMotion s u x).prepUnits = s.prepUnits ∧ (setMotion s u x).workItems = s.workItems ∧
    (setMotion s u x).prepBusy = s.prepBusy ∧ (setMotion s u x).prepLoad = s.prepLoad ∧
    (setMotion s u x).prepSat = s.prepSat ∧ (setMotion s u x).prepUfl = s.prepUfl ∧
    (setMotion s u x).netPorts = s.netPorts ∧ (setMotion s u x).pipes = s.pipes ∧
    (setMotion s u x).tracks = s.tracks ∧ (setMotion s u x).orings = s.orings ∧ (setMotion s u x).skein = s.skein ∧
    (setMotion s u x).sec = s.sec ∧ (setMotion s u x).belfry = s.belfry ∧ (setMotion s u x).power = s.power ∧
    (setMotion s u x).hif = s.hif ∧ (setMotion s u x).boot = s.boot :=
  ⟨rfl, rfl, rfl, rfl, rfl, rfl, rfl, rfl, rfl, rfl, rfl, rfl, rfl, rfl, rfl, rfl, rfl, rfl, rfl, rfl, rfl, rfl,
  rfl, rfl, rfl, rfl, rfl, rfl, rfl, rfl, rfl, rfl, rfl⟩

@[simp] theorem prepUnitOf_setPrepUnit (s : State) (u k : Nat) (x) :
    prepUnitOf (setPrepUnit s u x) k = if u = k then x else prepUnitOf s k := tget_tset _ _ _ _ _
@[simp] theorem setPrepUnit_keeps (s : State) (u : Nat) (x) :
    (setPrepUnit s u x).pending = s.pending ∧ (setPrepUnit s u x).time = s.time ∧
    (setPrepUnit s u x).draws = s.draws ∧ (setPrepUnit s u x).out = s.out ∧ (setPrepUnit s u x).orders = s.orders ∧
    (setPrepUnit s u x).spindles = s.spindles ∧ (setPrepUnit s u x).spires = s.spires ∧
    (setPrepUnit s u x).domes = s.domes ∧ (setPrepUnit s u x).channels = s.channels ∧
    (setPrepUnit s u x).parts = s.parts ∧ (setPrepUnit s u x).jobs = s.jobs ∧
    (setPrepUnit s u x).mailboxes = s.mailboxes ∧ (setPrepUnit s u x).running = s.running ∧
    (setPrepUnit s u x).lastServed = s.lastServed ∧ (setPrepUnit s u x).streams = s.streams ∧
    (setPrepUnit s u x).decoders = s.decoders ∧ (setPrepUnit s u x).suspended = s.suspended ∧
    (setPrepUnit s u x).motion = s.motion ∧ (setPrepUnit s u x).workItems = s.workItems ∧
    (setPrepUnit s u x).prepBusy = s.prepBusy ∧ (setPrepUnit s u x).prepLoad = s.prepLoad ∧
    (setPrepUnit s u x).prepSat = s.prepSat ∧ (setPrepUnit s u x).prepUfl = s.prepUfl ∧
    (setPrepUnit s u x).netPorts = s.netPorts ∧ (setPrepUnit s u x).pipes = s.pipes ∧
    (setPrepUnit s u x).tracks = s.tracks ∧ (setPrepUnit s u x).orings = s.orings ∧
    (setPrepUnit s u x).skein = s.skein ∧ (setPrepUnit s u x).sec = s.sec ∧ (setPrepUnit s u x).belfry = s.belfry ∧
    (setPrepUnit s u x).power = s.power ∧ (setPrepUnit s u x).hif = s.hif ∧ (setPrepUnit s u x).boot = s.boot :=
  ⟨rfl, rfl, rfl, rfl, rfl, rfl, rfl, rfl, rfl, rfl, rfl, rfl, rfl, rfl, rfl, rfl, rfl, rfl, rfl, rfl, rfl, rfl,
  rfl, rfl, rfl, rfl, rfl, rfl, rfl, rfl, rfl, rfl, rfl⟩

@[simp] theorem netPortOf_setNetPort (s : State) (e k : Nat) (x) :
    netPortOf (setNetPort s e x) k = if e = k then x else netPortOf s k := tget_tset _ _ _ _ _
@[simp] theorem setNetPort_keeps (s : State) (e : Nat) (x) :
    (setNetPort s e x).pending = s.pending ∧ (setNetPort s e x).time = s.time ∧ (setNetPort s e x).draws = s.draws ∧
    (setNetPort s e x).out = s.out ∧ (setNetPort s e x).orders = s.orders ∧
    (setNetPort s e x).spindles = s.spindles ∧ (setNetPort s e x).spires = s.spires ∧
    (setNetPort s e x).domes = s.domes ∧ (setNetPort s e x).channels = s.channels ∧
    (setNetPort s e x).parts = s.parts ∧ (setNetPort s e x).jobs = s.jobs ∧
    (setNetPort s e x).mailboxes = s.mailboxes ∧ (setNetPort s e x).running = s.running ∧
    (setNetPort s e x).lastServed = s.lastServed ∧ (setNetPort s e x).streams = s.streams ∧
    (setNetPort s e x).decoders = s.decoders ∧ (setNetPort s e x).suspended = s.suspended ∧
    (setNetPort s e x).motion = s.motion ∧ (setNetPort s e x).prepUnits = s.prepUnits ∧
    (setNetPort s e x).workItems = s.workItems ∧ (setNetPort s e x).prepBusy = s.prepBusy ∧
    (setNetPort s e x).prepLoad = s.prepLoad ∧ (setNetPort s e x).prepSat = s.prepSat ∧
    (setNetPort s e x).prepUfl = s.prepUfl ∧ (setNetPort s e x).pipes = s.pipes ∧
    (setNetPort s e x).tracks = s.tracks ∧ (setNetPort s e x).orings = s.orings ∧
    (setNetPort s e x).skein = s.skein ∧ (setNetPort s e x).sec = s.sec ∧ (setNetPort s e x).belfry = s.belfry ∧
    (setNetPort s e x).power = s.power ∧ (setNetPort s e x).hif = s.hif ∧ (setNetPort s e x).boot = s.boot :=
  ⟨rfl, rfl, rfl, rfl, rfl, rfl, rfl, rfl, rfl, rfl, rfl, rfl, rfl, rfl, rfl, rfl, rfl, rfl, rfl, rfl, rfl, rfl,
  rfl, rfl, rfl, rfl, rfl, rfl, rfl, rfl, rfl, rfl, rfl⟩

@[simp] theorem pipeOf_setPipe (s : State) (i k : Nat) (x) :
    pipeOf (setPipe s i x) k = if i = k then x else pipeOf s k := tget_tset _ _ _ _ _
@[simp] theorem setPipe_keeps (s : State) (i : Nat) (x) :
    (setPipe s i x).pending = s.pending ∧ (setPipe s i x).time = s.time ∧ (setPipe s i x).draws = s.draws ∧
    (setPipe s i x).out = s.out ∧ (setPipe s i x).orders = s.orders ∧ (setPipe s i x).spindles = s.spindles ∧
    (setPipe s i x).spires = s.spires ∧ (setPipe s i x).domes = s.domes ∧ (setPipe s i x).channels = s.channels ∧
    (setPipe s i x).parts = s.parts ∧ (setPipe s i x).jobs = s.jobs ∧ (setPipe s i x).mailboxes = s.mailboxes ∧
    (setPipe s i x).running = s.running ∧ (setPipe s i x).lastServed = s.lastServed ∧
    (setPipe s i x).streams = s.streams ∧ (setPipe s i x).decoders = s.decoders ∧
    (setPipe s i x).suspended = s.suspended ∧ (setPipe s i x).motion = s.motion ∧
    (setPipe s i x).prepUnits = s.prepUnits ∧ (setPipe s i x).workItems = s.workItems ∧
    (setPipe s i x).prepBusy = s.prepBusy ∧ (setPipe s i x).prepLoad = s.prepLoad ∧
    (setPipe s i x).prepSat = s.prepSat ∧ (setPipe s i x).prepUfl = s.prepUfl ∧
    (setPipe s i x).netPorts = s.netPorts ∧ (setPipe s i x).tracks = s.tracks ∧ (setPipe s i x).orings = s.orings ∧
    (setPipe s i x).skein = s.skein ∧ (setPipe s i x).sec = s.sec ∧ (setPipe s i x).belfry = s.belfry ∧
    (setPipe s i x).power = s.power ∧ (setPipe s i x).hif = s.hif ∧ (setPipe s i x).boot = s.boot :=
  ⟨rfl, rfl, rfl, rfl, rfl, rfl, rfl, rfl, rfl, rfl, rfl, rfl, rfl, rfl, rfl, rfl, rfl, rfl, rfl, rfl, rfl, rfl,
  rfl, rfl, rfl, rfl, rfl, rfl, rfl, rfl, rfl, rfl, rfl⟩

@[simp] theorem oringOf_setOring (s : State) (r k : Nat) (x) :
    oringOf (setOring s r x) k = if r = k then x else oringOf s k := tget_tset _ _ _ _ _
@[simp] theorem setOring_keeps (s : State) (r : Nat) (x) :
    (setOring s r x).pending = s.pending ∧ (setOring s r x).time = s.time ∧ (setOring s r x).draws = s.draws ∧
    (setOring s r x).out = s.out ∧ (setOring s r x).orders = s.orders ∧ (setOring s r x).spindles = s.spindles ∧
    (setOring s r x).spires = s.spires ∧ (setOring s r x).domes = s.domes ∧ (setOring s r x).channels = s.channels ∧
    (setOring s r x).parts = s.parts ∧ (setOring s r x).jobs = s.jobs ∧ (setOring s r x).mailboxes = s.mailboxes ∧
    (setOring s r x).running = s.running ∧ (setOring s r x).lastServed = s.lastServed ∧
    (setOring s r x).streams = s.streams ∧ (setOring s r x).decoders = s.decoders ∧
    (setOring s r x).suspended = s.suspended ∧ (setOring s r x).motion = s.motion ∧
    (setOring s r x).prepUnits = s.prepUnits ∧ (setOring s r x).workItems = s.workItems ∧
    (setOring s r x).prepBusy = s.prepBusy ∧ (setOring s r x).prepLoad = s.prepLoad ∧
    (setOring s r x).prepSat = s.prepSat ∧ (setOring s r x).prepUfl = s.prepUfl ∧
    (setOring s r x).netPorts = s.netPorts ∧ (setOring s r x).pipes = s.pipes ∧ (setOring s r x).tracks = s.tracks ∧
    (setOring s r x).skein = s.skein ∧ (setOring s r x).sec = s.sec ∧ (setOring s r x).belfry = s.belfry ∧
    (setOring s r x).power = s.power ∧ (setOring s r x).hif = s.hif ∧ (setOring s r x).boot = s.boot :=
  ⟨rfl, rfl, rfl, rfl, rfl, rfl, rfl, rfl, rfl, rfl, rfl, rfl, rfl, rfl, rfl, rfl, rfl, rfl, rfl, rfl, rfl, rfl,
  rfl, rfl, rfl, rfl, rfl, rfl, rfl, rfl, rfl, rfl, rfl⟩

@[simp] theorem partOf_setPart (s : State) (n k : Nat) (x) :
    partOf (setPart s n x) k = if n = k then some x else partOf s k := tfind_tset _ _ _ _
@[simp] theorem setPart_keeps (s : State) (n : Nat) (x) :
    (setPart s n x).pending = s.pending ∧ (setPart s n x).time = s.time ∧ (setPart s n x).draws = s.draws ∧
    (setPart s n x).out = s.out ∧ (setPart s n x).orders = s.orders ∧ (setPart s n x).spindles = s.spindles ∧
    (setPart s n x).spires = s.spires ∧ (setPart s n x).domes = s.domes ∧ (setPart s n x).channels = s.channels ∧
    (setPart s n x).jobs = s.jobs ∧ (setPart s n x).mailboxes = s.mailboxes ∧ (setPart s n x).running = s.running ∧
    (setPart s n x).lastServed = s.lastServed ∧ (setPart s n x).streams = s.streams ∧
    (setPart s n x).decoders = s.decoders ∧ (setPart s n x).suspended = s.suspended ∧
    (setPart s n x).motion = s.motion ∧ (setPart s n x).prepUnits = s.prepUnits ∧
    (setPart s n x).workItems = s.workItems ∧ (setPart s n x).prepBusy = s.prepBusy ∧
    (setPart s n x).prepLoad = s.prepLoad ∧ (setPart s n x).prepSat = s.prepSat ∧
    (setPart s n x).prepUfl = s.prepUfl ∧ (setPart s n x).netPorts = s.netPorts ∧ (setPart s n x).pipes = s.pipes ∧
    (setPart s n x).tracks = s.tracks ∧ (setPart s n x).orings = s.orings ∧ (setPart s n x).skein = s.skein ∧
    (setPart s n x).sec = s.sec ∧ (setPart s n x).belfry = s.belfry ∧ (setPart s n x).power = s.power ∧
    (setPart s n x).hif = s.hif ∧ (setPart s n x).boot = s.boot :=
  ⟨rfl, rfl, rfl, rfl, rfl, rfl, rfl, rfl, rfl, rfl, rfl, rfl, rfl, rfl, rfl, rfl, rfl, rfl, rfl, rfl, rfl, rfl,
  rfl, rfl, rfl, rfl, rfl, rfl, rfl, rfl, rfl, rfl, rfl⟩

/-! ### Whole parts -/

@[simp] theorem setHif_hif (s : State) (x) : (setHif s x).hif = x := rfl
@[simp] theorem setHif_keeps (s : State) (x) :
    (setHif s x).pending = s.pending ∧ (setHif s x).time = s.time ∧ (setHif s x).draws = s.draws ∧
    (setHif s x).out = s.out ∧ (setHif s x).orders = s.orders ∧ (setHif s x).spindles = s.spindles ∧
    (setHif s x).spires = s.spires ∧ (setHif s x).domes = s.domes ∧ (setHif s x).channels = s.channels ∧
    (setHif s x).parts = s.parts ∧ (setHif s x).jobs = s.jobs ∧ (setHif s x).mailboxes = s.mailboxes ∧
    (setHif s x).running = s.running ∧ (setHif s x).lastServed = s.lastServed ∧ (setHif s x).streams = s.streams ∧
    (setHif s x).decoders = s.decoders ∧ (setHif s x).suspended = s.suspended ∧ (setHif s x).motion = s.motion ∧
    (setHif s x).prepUnits = s.prepUnits ∧ (setHif s x).workItems = s.workItems ∧
    (setHif s x).prepBusy = s.prepBusy ∧ (setHif s x).prepLoad = s.prepLoad ∧ (setHif s x).prepSat = s.prepSat ∧
    (setHif s x).prepUfl = s.prepUfl ∧ (setHif s x).netPorts = s.netPorts ∧ (setHif s x).pipes = s.pipes ∧
    (setHif s x).tracks = s.tracks ∧ (setHif s x).orings = s.orings ∧ (setHif s x).skein = s.skein ∧
    (setHif s x).sec = s.sec ∧ (setHif s x).belfry = s.belfry ∧ (setHif s x).power = s.power ∧
    (setHif s x).boot = s.boot :=
  ⟨rfl, rfl, rfl, rfl, rfl, rfl, rfl, rfl, rfl, rfl, rfl, rfl, rfl, rfl, rfl, rfl, rfl, rfl, rfl, rfl, rfl, rfl,
  rfl, rfl, rfl, rfl, rfl, rfl, rfl, rfl, rfl, rfl, rfl⟩

@[simp] theorem setSkein_skein (s : State) (x) : (setSkein s x).skein = x := rfl
@[simp] theorem setSkein_keeps (s : State) (x) :
    (setSkein s x).pending = s.pending ∧ (setSkein s x).time = s.time ∧ (setSkein s x).draws = s.draws ∧
    (setSkein s x).out = s.out ∧ (setSkein s x).orders = s.orders ∧ (setSkein s x).spindles = s.spindles ∧
    (setSkein s x).spires = s.spires ∧ (setSkein s x).domes = s.domes ∧ (setSkein s x).channels = s.channels ∧
    (setSkein s x).parts = s.parts ∧ (setSkein s x).jobs = s.jobs ∧ (setSkein s x).mailboxes = s.mailboxes ∧
    (setSkein s x).running = s.running ∧ (setSkein s x).lastServed = s.lastServed ∧
    (setSkein s x).streams = s.streams ∧ (setSkein s x).decoders = s.decoders ∧
    (setSkein s x).suspended = s.suspended ∧ (setSkein s x).motion = s.motion ∧
    (setSkein s x).prepUnits = s.prepUnits ∧ (setSkein s x).workItems = s.workItems ∧
    (setSkein s x).prepBusy = s.prepBusy ∧ (setSkein s x).prepLoad = s.prepLoad ∧
    (setSkein s x).prepSat = s.prepSat ∧ (setSkein s x).prepUfl = s.prepUfl ∧ (setSkein s x).netPorts = s.netPorts ∧
    (setSkein s x).pipes = s.pipes ∧ (setSkein s x).tracks = s.tracks ∧ (setSkein s x).orings = s.orings ∧
    (setSkein s x).sec = s.sec ∧ (setSkein s x).belfry = s.belfry ∧ (setSkein s x).power = s.power ∧
    (setSkein s x).hif = s.hif ∧ (setSkein s x).boot = s.boot :=
  ⟨rfl, rfl, rfl, rfl, rfl, rfl, rfl, rfl, rfl, rfl, rfl, rfl, rfl, rfl, rfl, rfl, rfl, rfl, rfl, rfl, rfl, rfl,
  rfl, rfl, rfl, rfl, rfl, rfl, rfl, rfl, rfl, rfl, rfl⟩

@[simp] theorem setSec_sec (s : State) (x) : (setSec s x).sec = x := rfl
@[simp] theorem setSec_keeps (s : State) (x) :
    (setSec s x).pending = s.pending ∧ (setSec s x).time = s.time ∧ (setSec s x).draws = s.draws ∧
    (setSec s x).out = s.out ∧ (setSec s x).orders = s.orders ∧ (setSec s x).spindles = s.spindles ∧
    (setSec s x).spires = s.spires ∧ (setSec s x).domes = s.domes ∧ (setSec s x).channels = s.channels ∧
    (setSec s x).parts = s.parts ∧ (setSec s x).jobs = s.jobs ∧ (setSec s x).mailboxes = s.mailboxes ∧
    (setSec s x).running = s.running ∧ (setSec s x).lastServed = s.lastServed ∧ (setSec s x).streams = s.streams ∧
    (setSec s x).decoders = s.decoders ∧ (setSec s x).suspended = s.suspended ∧ (setSec s x).motion = s.motion ∧
    (setSec s x).prepUnits = s.prepUnits ∧ (setSec s x).workItems = s.workItems ∧
    (setSec s x).prepBusy = s.prepBusy ∧ (setSec s x).prepLoad = s.prepLoad ∧ (setSec s x).prepSat = s.prepSat ∧
    (setSec s x).prepUfl = s.prepUfl ∧ (setSec s x).netPorts = s.netPorts ∧ (setSec s x).pipes = s.pipes ∧
    (setSec s x).tracks = s.tracks ∧ (setSec s x).orings = s.orings ∧ (setSec s x).skein = s.skein ∧
    (setSec s x).belfry = s.belfry ∧ (setSec s x).power = s.power ∧ (setSec s x).hif = s.hif ∧
    (setSec s x).boot = s.boot :=
  ⟨rfl, rfl, rfl, rfl, rfl, rfl, rfl, rfl, rfl, rfl, rfl, rfl, rfl, rfl, rfl, rfl, rfl, rfl, rfl, rfl, rfl, rfl,
  rfl, rfl, rfl, rfl, rfl, rfl, rfl, rfl, rfl, rfl, rfl⟩

@[simp] theorem setBelfry_belfry (s : State) (x) : (setBelfry s x).belfry = x := rfl
@[simp] theorem setBelfry_keeps (s : State) (x) :
    (setBelfry s x).pending = s.pending ∧ (setBelfry s x).time = s.time ∧ (setBelfry s x).draws = s.draws ∧
    (setBelfry s x).out = s.out ∧ (setBelfry s x).orders = s.orders ∧ (setBelfry s x).spindles = s.spindles ∧
    (setBelfry s x).spires = s.spires ∧ (setBelfry s x).domes = s.domes ∧ (setBelfry s x).channels = s.channels ∧
    (setBelfry s x).parts = s.parts ∧ (setBelfry s x).jobs = s.jobs ∧ (setBelfry s x).mailboxes = s.mailboxes ∧
    (setBelfry s x).running = s.running ∧ (setBelfry s x).lastServed = s.lastServed ∧
    (setBelfry s x).streams = s.streams ∧ (setBelfry s x).decoders = s.decoders ∧
    (setBelfry s x).suspended = s.suspended ∧ (setBelfry s x).motion = s.motion ∧
    (setBelfry s x).prepUnits = s.prepUnits ∧ (setBelfry s x).workItems = s.workItems ∧
    (setBelfry s x).prepBusy = s.prepBusy ∧ (setBelfry s x).prepLoad = s.prepLoad ∧
    (setBelfry s x).prepSat = s.prepSat ∧ (setBelfry s x).prepUfl = s.prepUfl ∧
    (setBelfry s x).netPorts = s.netPorts ∧ (setBelfry s x).pipes = s.pipes ∧ (setBelfry s x).tracks = s.tracks ∧
    (setBelfry s x).orings = s.orings ∧ (setBelfry s x).skein = s.skein ∧ (setBelfry s x).sec = s.sec ∧
    (setBelfry s x).power = s.power ∧ (setBelfry s x).hif = s.hif ∧ (setBelfry s x).boot = s.boot :=
  ⟨rfl, rfl, rfl, rfl, rfl, rfl, rfl, rfl, rfl, rfl, rfl, rfl, rfl, rfl, rfl, rfl, rfl, rfl, rfl, rfl, rfl, rfl,
  rfl, rfl, rfl, rfl, rfl, rfl, rfl, rfl, rfl, rfl, rfl⟩

@[simp] theorem setPower_power (s : State) (x) : (setPower s x).power = x := rfl
@[simp] theorem setPower_keeps (s : State) (x) :
    (setPower s x).pending = s.pending ∧ (setPower s x).time = s.time ∧ (setPower s x).draws = s.draws ∧
    (setPower s x).out = s.out ∧ (setPower s x).orders = s.orders ∧ (setPower s x).spindles = s.spindles ∧
    (setPower s x).spires = s.spires ∧ (setPower s x).domes = s.domes ∧ (setPower s x).channels = s.channels ∧
    (setPower s x).parts = s.parts ∧ (setPower s x).jobs = s.jobs ∧ (setPower s x).mailboxes = s.mailboxes ∧
    (setPower s x).running = s.running ∧ (setPower s x).lastServed = s.lastServed ∧
    (setPower s x).streams = s.streams ∧ (setPower s x).decoders = s.decoders ∧
    (setPower s x).suspended = s.suspended ∧ (setPower s x).motion = s.motion ∧
    (setPower s x).prepUnits = s.prepUnits ∧ (setPower s x).workItems = s.workItems ∧
    (setPower s x).prepBusy = s.prepBusy ∧ (setPower s x).prepLoad = s.prepLoad ∧
    (setPower s x).prepSat = s.prepSat ∧ (setPower s x).prepUfl = s.prepUfl ∧ (setPower s x).netPorts = s.netPorts ∧
    (setPower s x).pipes = s.pipes ∧ (setPower s x).tracks = s.tracks ∧ (setPower s x).orings = s.orings ∧
    (setPower s x).skein = s.skein ∧ (setPower s x).sec = s.sec ∧ (setPower s x).belfry = s.belfry ∧
    (setPower s x).hif = s.hif ∧ (setPower s x).boot = s.boot :=
  ⟨rfl, rfl, rfl, rfl, rfl, rfl, rfl, rfl, rfl, rfl, rfl, rfl, rfl, rfl, rfl, rfl, rfl, rfl, rfl, rfl, rfl, rfl,
  rfl, rfl, rfl, rfl, rfl, rfl, rfl, rfl, rfl, rfl, rfl⟩

@[simp] theorem setBoot_boot (s : State) (x) : (setBoot s x).boot = x := rfl
@[simp] theorem setBoot_keeps (s : State) (x) :
    (setBoot s x).pending = s.pending ∧ (setBoot s x).time = s.time ∧ (setBoot s x).draws = s.draws ∧
    (setBoot s x).out = s.out ∧ (setBoot s x).orders = s.orders ∧ (setBoot s x).spindles = s.spindles ∧
    (setBoot s x).spires = s.spires ∧ (setBoot s x).domes = s.domes ∧ (setBoot s x).channels = s.channels ∧
    (setBoot s x).parts = s.parts ∧ (setBoot s x).jobs = s.jobs ∧ (setBoot s x).mailboxes = s.mailboxes ∧
    (setBoot s x).running = s.running ∧ (setBoot s x).lastServed = s.lastServed ∧
    (setBoot s x).streams = s.streams ∧ (setBoot s x).decoders = s.decoders ∧
    (setBoot s x).suspended = s.suspended ∧ (setBoot s x).motion = s.motion ∧
    (setBoot s x).prepUnits = s.prepUnits ∧ (setBoot s x).workItems = s.workItems ∧
    (setBoot s x).prepBusy = s.prepBusy ∧ (setBoot s x).prepLoad = s.prepLoad ∧ (setBoot s x).prepSat = s.prepSat ∧
    (setBoot s x).prepUfl = s.prepUfl ∧ (setBoot s x).netPorts = s.netPorts ∧ (setBoot s x).pipes = s.pipes ∧
    (setBoot s x).tracks = s.tracks ∧ (setBoot s x).orings = s.orings ∧ (setBoot s x).skein = s.skein ∧
    (setBoot s x).sec = s.sec ∧ (setBoot s x).belfry = s.belfry ∧ (setBoot s x).power = s.power ∧
    (setBoot s x).hif = s.hif :=
  ⟨rfl, rfl, rfl, rfl, rfl, rfl, rfl, rfl, rfl, rfl, rfl, rfl, rfl, rfl, rfl, rfl, rfl, rfl, rfl, rfl, rfl, rfl,
  rfl, rfl, rfl, rfl, rfl, rfl, rfl, rfl, rfl, rfl, rfl⟩

@[simp] theorem setLife_boot (s : State) (x) : (setLife s x).boot = { s.boot with life := x } := rfl
@[simp] theorem setLife_keeps (s : State) (x) :
    (setLife s x).pending = s.pending ∧ (setLife s x).time = s.time ∧ (setLife s x).draws = s.draws ∧
    (setLife s x).out = s.out ∧ (setLife s x).orders = s.orders ∧ (setLife s x).spindles = s.spindles ∧
    (setLife s x).spires = s.spires ∧ (setLife s x).domes = s.domes ∧ (setLife s x).channels = s.channels ∧
    (setLife s x).parts = s.parts ∧ (setLife s x).jobs = s.jobs ∧ (setLife s x).mailboxes = s.mailboxes ∧
    (setLife s x).running = s.running ∧ (setLife s x).lastServed = s.lastServed ∧
    (setLife s x).streams = s.streams ∧ (setLife s x).decoders = s.decoders ∧
    (setLife s x).suspended = s.suspended ∧ (setLife s x).motion = s.motion ∧
    (setLife s x).prepUnits = s.prepUnits ∧ (setLife s x).workItems = s.workItems ∧
    (setLife s x).prepBusy = s.prepBusy ∧ (setLife s x).prepLoad = s.prepLoad ∧ (setLife s x).prepSat = s.prepSat ∧
    (setLife s x).prepUfl = s.prepUfl ∧ (setLife s x).netPorts = s.netPorts ∧ (setLife s x).pipes = s.pipes ∧
    (setLife s x).tracks = s.tracks ∧ (setLife s x).orings = s.orings ∧ (setLife s x).skein = s.skein ∧
    (setLife s x).sec = s.sec ∧ (setLife s x).belfry = s.belfry ∧ (setLife s x).power = s.power ∧
    (setLife s x).hif = s.hif :=
  ⟨rfl, rfl, rfl, rfl, rfl, rfl, rfl, rfl, rfl, rfl, rfl, rfl, rfl, rfl, rfl, rfl, rfl, rfl, rfl, rfl, rfl, rfl,
  rfl, rfl, rfl, rfl, rfl, rfl, rfl, rfl, rfl, rfl, rfl⟩

@[simp] theorem emit_out (s : State) (x) : (emit s x).out = x :: s.out := rfl
@[simp] theorem emit_keeps (s : State) (x) :
    (emit s x).pending = s.pending ∧ (emit s x).time = s.time ∧ (emit s x).draws = s.draws ∧
    (emit s x).orders = s.orders ∧ (emit s x).spindles = s.spindles ∧ (emit s x).spires = s.spires ∧
    (emit s x).domes = s.domes ∧ (emit s x).channels = s.channels ∧ (emit s x).parts = s.parts ∧
    (emit s x).jobs = s.jobs ∧ (emit s x).mailboxes = s.mailboxes ∧ (emit s x).running = s.running ∧
    (emit s x).lastServed = s.lastServed ∧ (emit s x).streams = s.streams ∧ (emit s x).decoders = s.decoders ∧
    (emit s x).suspended = s.suspended ∧ (emit s x).motion = s.motion ∧ (emit s x).prepUnits = s.prepUnits ∧
    (emit s x).workItems = s.workItems ∧ (emit s x).prepBusy = s.prepBusy ∧ (emit s x).prepLoad = s.prepLoad ∧
    (emit s x).prepSat = s.prepSat ∧ (emit s x).prepUfl = s.prepUfl ∧ (emit s x).netPorts = s.netPorts ∧
    (emit s x).pipes = s.pipes ∧ (emit s x).tracks = s.tracks ∧ (emit s x).orings = s.orings ∧
    (emit s x).skein = s.skein ∧ (emit s x).sec = s.sec ∧ (emit s x).belfry = s.belfry ∧
    (emit s x).power = s.power ∧ (emit s x).hif = s.hif ∧ (emit s x).boot = s.boot :=
  ⟨rfl, rfl, rfl, rfl, rfl, rfl, rfl, rfl, rfl, rfl, rfl, rfl, rfl, rfl, rfl, rfl, rfl, rfl, rfl, rfl, rfl, rfl,
  rfl, rfl, rfl, rfl, rfl, rfl, rfl, rfl, rfl, rfl, rfl⟩

@[simp] theorem drawn_draws (s : State) : (drawn s).draws = s.draws + 1 := rfl
@[simp] theorem drawn_keeps (s : State) :
    (drawn s).pending = s.pending ∧ (drawn s).time = s.time ∧ (drawn s).out = s.out ∧ (drawn s).orders = s.orders ∧
    (drawn s).spindles = s.spindles ∧ (drawn s).spires = s.spires ∧ (drawn s).domes = s.domes ∧
    (drawn s).channels = s.channels ∧ (drawn s).parts = s.parts ∧ (drawn s).jobs = s.jobs ∧
    (drawn s).mailboxes = s.mailboxes ∧ (drawn s).running = s.running ∧ (drawn s).lastServed = s.lastServed ∧
    (drawn s).streams = s.streams ∧ (drawn s).decoders = s.decoders ∧ (drawn s).suspended = s.suspended ∧
    (drawn s).motion = s.motion ∧ (drawn s).prepUnits = s.prepUnits ∧ (drawn s).workItems = s.workItems ∧
    (drawn s).prepBusy = s.prepBusy ∧ (drawn s).prepLoad = s.prepLoad ∧ (drawn s).prepSat = s.prepSat ∧
    (drawn s).prepUfl = s.prepUfl ∧ (drawn s).netPorts = s.netPorts ∧ (drawn s).pipes = s.pipes ∧
    (drawn s).tracks = s.tracks ∧ (drawn s).orings = s.orings ∧ (drawn s).skein = s.skein ∧ (drawn s).sec = s.sec ∧
    (drawn s).belfry = s.belfry ∧ (drawn s).power = s.power ∧ (drawn s).hif = s.hif ∧ (drawn s).boot = s.boot :=
  ⟨rfl, rfl, rfl, rfl, rfl, rfl, rfl, rfl, rfl, rfl, rfl, rfl, rfl, rfl, rfl, rfl, rfl, rfl, rfl, rfl, rfl, rfl,
  rfl, rfl, rfl, rfl, rfl, rfl, rfl, rfl, rfl, rfl, rfl⟩

@[simp] theorem ordered_orders (s : State) : (ordered s).orders = s.orders + 1 := rfl
@[simp] theorem ordered_keeps (s : State) :
    (ordered s).pending = s.pending ∧ (ordered s).time = s.time ∧ (ordered s).draws = s.draws ∧
    (ordered s).out = s.out ∧ (ordered s).spindles = s.spindles ∧ (ordered s).spires = s.spires ∧
    (ordered s).domes = s.domes ∧ (ordered s).channels = s.channels ∧ (ordered s).parts = s.parts ∧
    (ordered s).jobs = s.jobs ∧ (ordered s).mailboxes = s.mailboxes ∧ (ordered s).running = s.running ∧
    (ordered s).lastServed = s.lastServed ∧ (ordered s).streams = s.streams ∧ (ordered s).decoders = s.decoders ∧
    (ordered s).suspended = s.suspended ∧ (ordered s).motion = s.motion ∧ (ordered s).prepUnits = s.prepUnits ∧
    (ordered s).workItems = s.workItems ∧ (ordered s).prepBusy = s.prepBusy ∧ (ordered s).prepLoad = s.prepLoad ∧
    (ordered s).prepSat = s.prepSat ∧ (ordered s).prepUfl = s.prepUfl ∧ (ordered s).netPorts = s.netPorts ∧
    (ordered s).pipes = s.pipes ∧ (ordered s).tracks = s.tracks ∧ (ordered s).orings = s.orings ∧
    (ordered s).skein = s.skein ∧ (ordered s).sec = s.sec ∧ (ordered s).belfry = s.belfry ∧
    (ordered s).power = s.power ∧ (ordered s).hif = s.hif ∧ (ordered s).boot = s.boot :=
  ⟨rfl, rfl, rfl, rfl, rfl, rfl, rfl, rfl, rfl, rfl, rfl, rfl, rfl, rfl, rfl, rfl, rfl, rfl, rfl, rfl, rfl, rfl,
  rfl, rfl, rfl, rfl, rfl, rfl, rfl, rfl, rfl, rfl, rfl⟩

/-! ### A unit after an update of another part -/

@[simp] theorem units_setSpindle (s : State) (k : Nat) (x) (n : Nat) :
    spireOf (setSpindle s k x) n = spireOf s n ∧ domeOf (setSpindle s k x) n = domeOf s n ∧
    channelOf (setSpindle s k x) n = channelOf s n ∧ jobOf (setSpindle s k x) n = jobOf s n ∧
    mailboxOf (setSpindle s k x) n = mailboxOf s n ∧ streamOf (setSpindle s k x) n = streamOf s n ∧
    decoderOf (setSpindle s k x) n = decoderOf s n ∧ motionOf (setSpindle s k x) n = motionOf s n ∧
    prepUnitOf (setSpindle s k x) n = prepUnitOf s n ∧ netPortOf (setSpindle s k x) n = netPortOf s n ∧
    pipeOf (setSpindle s k x) n = pipeOf s n ∧ oringOf (setSpindle s k x) n = oringOf s n ∧
    partOf (setSpindle s k x) n = partOf s n ∧ runningOf (setSpindle s k x) n = runningOf s n :=
  ⟨rfl, rfl, rfl, rfl, rfl, rfl, rfl, rfl, rfl, rfl, rfl, rfl, rfl, rfl⟩

@[simp] theorem units_setSpire (s : State) (k : Nat) (x) (n : Nat) :
    spindleOf (setSpire s k x) n = spindleOf s n ∧ domeOf (setSpire s k x) n = domeOf s n ∧
    channelOf (setSpire s k x) n = channelOf s n ∧ jobOf (setSpire s k x) n = jobOf s n ∧
    mailboxOf (setSpire s k x) n = mailboxOf s n ∧ streamOf (setSpire s k x) n = streamOf s n ∧
    decoderOf (setSpire s k x) n = decoderOf s n ∧ motionOf (setSpire s k x) n = motionOf s n ∧
    prepUnitOf (setSpire s k x) n = prepUnitOf s n ∧ netPortOf (setSpire s k x) n = netPortOf s n ∧
    pipeOf (setSpire s k x) n = pipeOf s n ∧ oringOf (setSpire s k x) n = oringOf s n ∧
    partOf (setSpire s k x) n = partOf s n ∧ runningOf (setSpire s k x) n = runningOf s n :=
  ⟨rfl, rfl, rfl, rfl, rfl, rfl, rfl, rfl, rfl, rfl, rfl, rfl, rfl, rfl⟩

@[simp] theorem units_setDome (s : State) (k : Nat) (x) (n : Nat) :
    spindleOf (setDome s k x) n = spindleOf s n ∧ spireOf (setDome s k x) n = spireOf s n ∧
    channelOf (setDome s k x) n = channelOf s n ∧ jobOf (setDome s k x) n = jobOf s n ∧
    mailboxOf (setDome s k x) n = mailboxOf s n ∧ streamOf (setDome s k x) n = streamOf s n ∧
    decoderOf (setDome s k x) n = decoderOf s n ∧ motionOf (setDome s k x) n = motionOf s n ∧
    prepUnitOf (setDome s k x) n = prepUnitOf s n ∧ netPortOf (setDome s k x) n = netPortOf s n ∧
    pipeOf (setDome s k x) n = pipeOf s n ∧ oringOf (setDome s k x) n = oringOf s n ∧
    partOf (setDome s k x) n = partOf s n ∧ runningOf (setDome s k x) n = runningOf s n :=
  ⟨rfl, rfl, rfl, rfl, rfl, rfl, rfl, rfl, rfl, rfl, rfl, rfl, rfl, rfl⟩

@[simp] theorem units_setChannel (s : State) (k : Nat) (x) (n : Nat) :
    spindleOf (setChannel s k x) n = spindleOf s n ∧ spireOf (setChannel s k x) n = spireOf s n ∧
    domeOf (setChannel s k x) n = domeOf s n ∧ jobOf (setChannel s k x) n = jobOf s n ∧
    mailboxOf (setChannel s k x) n = mailboxOf s n ∧ streamOf (setChannel s k x) n = streamOf s n ∧
    decoderOf (setChannel s k x) n = decoderOf s n ∧ motionOf (setChannel s k x) n = motionOf s n ∧
    prepUnitOf (setChannel s k x) n = prepUnitOf s n ∧ netPortOf (setChannel s k x) n = netPortOf s n ∧
    pipeOf (setChannel s k x) n = pipeOf s n ∧ oringOf (setChannel s k x) n = oringOf s n ∧
    partOf (setChannel s k x) n = partOf s n ∧ runningOf (setChannel s k x) n = runningOf s n :=
  ⟨rfl, rfl, rfl, rfl, rfl, rfl, rfl, rfl, rfl, rfl, rfl, rfl, rfl, rfl⟩

@[simp] theorem units_setJob (s : State) (k : Nat) (x) (n : Nat) :
    spindleOf (setJob s k x) n = spindleOf s n ∧ spireOf (setJob s k x) n = spireOf s n ∧
    domeOf (setJob s k x) n = domeOf s n ∧ channelOf (setJob s k x) n = channelOf s n ∧
    mailboxOf (setJob s k x) n = mailboxOf s n ∧ streamOf (setJob s k x) n = streamOf s n ∧
    decoderOf (setJob s k x) n = decoderOf s n ∧ motionOf (setJob s k x) n = motionOf s n ∧
    prepUnitOf (setJob s k x) n = prepUnitOf s n ∧ netPortOf (setJob s k x) n = netPortOf s n ∧
    pipeOf (setJob s k x) n = pipeOf s n ∧ oringOf (setJob s k x) n = oringOf s n ∧
    partOf (setJob s k x) n = partOf s n ∧ runningOf (setJob s k x) n = runningOf s n :=
  ⟨rfl, rfl, rfl, rfl, rfl, rfl, rfl, rfl, rfl, rfl, rfl, rfl, rfl, rfl⟩

@[simp] theorem units_setMailbox (s : State) (k : Nat) (x) (n : Nat) :
    spindleOf (setMailbox s k x) n = spindleOf s n ∧ spireOf (setMailbox s k x) n = spireOf s n ∧
    domeOf (setMailbox s k x) n = domeOf s n ∧ channelOf (setMailbox s k x) n = channelOf s n ∧
    jobOf (setMailbox s k x) n = jobOf s n ∧ streamOf (setMailbox s k x) n = streamOf s n ∧
    decoderOf (setMailbox s k x) n = decoderOf s n ∧ motionOf (setMailbox s k x) n = motionOf s n ∧
    prepUnitOf (setMailbox s k x) n = prepUnitOf s n ∧ netPortOf (setMailbox s k x) n = netPortOf s n ∧
    pipeOf (setMailbox s k x) n = pipeOf s n ∧ oringOf (setMailbox s k x) n = oringOf s n ∧
    partOf (setMailbox s k x) n = partOf s n ∧ runningOf (setMailbox s k x) n = runningOf s n :=
  ⟨rfl, rfl, rfl, rfl, rfl, rfl, rfl, rfl, rfl, rfl, rfl, rfl, rfl, rfl⟩

@[simp] theorem units_setStream (s : State) (k : Nat) (x) (n : Nat) :
    spindleOf (setStream s k x) n = spindleOf s n ∧ spireOf (setStream s k x) n = spireOf s n ∧
    domeOf (setStream s k x) n = domeOf s n ∧ channelOf (setStream s k x) n = channelOf s n ∧
    jobOf (setStream s k x) n = jobOf s n ∧ mailboxOf (setStream s k x) n = mailboxOf s n ∧
    decoderOf (setStream s k x) n = decoderOf s n ∧ motionOf (setStream s k x) n = motionOf s n ∧
    prepUnitOf (setStream s k x) n = prepUnitOf s n ∧ netPortOf (setStream s k x) n = netPortOf s n ∧
    pipeOf (setStream s k x) n = pipeOf s n ∧ oringOf (setStream s k x) n = oringOf s n ∧
    partOf (setStream s k x) n = partOf s n ∧ runningOf (setStream s k x) n = runningOf s n :=
  ⟨rfl, rfl, rfl, rfl, rfl, rfl, rfl, rfl, rfl, rfl, rfl, rfl, rfl, rfl⟩

@[simp] theorem units_setDecoder (s : State) (k : Nat) (x) (n : Nat) :
    spindleOf (setDecoder s k x) n = spindleOf s n ∧ spireOf (setDecoder s k x) n = spireOf s n ∧
    domeOf (setDecoder s k x) n = domeOf s n ∧ channelOf (setDecoder s k x) n = channelOf s n ∧
    jobOf (setDecoder s k x) n = jobOf s n ∧ mailboxOf (setDecoder s k x) n = mailboxOf s n ∧
    streamOf (setDecoder s k x) n = streamOf s n ∧ motionOf (setDecoder s k x) n = motionOf s n ∧
    prepUnitOf (setDecoder s k x) n = prepUnitOf s n ∧ netPortOf (setDecoder s k x) n = netPortOf s n ∧
    pipeOf (setDecoder s k x) n = pipeOf s n ∧ oringOf (setDecoder s k x) n = oringOf s n ∧
    partOf (setDecoder s k x) n = partOf s n ∧ runningOf (setDecoder s k x) n = runningOf s n :=
  ⟨rfl, rfl, rfl, rfl, rfl, rfl, rfl, rfl, rfl, rfl, rfl, rfl, rfl, rfl⟩

@[simp] theorem units_setMotion (s : State) (k : Nat) (x) (n : Nat) :
    spindleOf (setMotion s k x) n = spindleOf s n ∧ spireOf (setMotion s k x) n = spireOf s n ∧
    domeOf (setMotion s k x) n = domeOf s n ∧ channelOf (setMotion s k x) n = channelOf s n ∧
    jobOf (setMotion s k x) n = jobOf s n ∧ mailboxOf (setMotion s k x) n = mailboxOf s n ∧
    streamOf (setMotion s k x) n = streamOf s n ∧ decoderOf (setMotion s k x) n = decoderOf s n ∧
    prepUnitOf (setMotion s k x) n = prepUnitOf s n ∧ netPortOf (setMotion s k x) n = netPortOf s n ∧
    pipeOf (setMotion s k x) n = pipeOf s n ∧ oringOf (setMotion s k x) n = oringOf s n ∧
    partOf (setMotion s k x) n = partOf s n ∧ runningOf (setMotion s k x) n = runningOf s n :=
  ⟨rfl, rfl, rfl, rfl, rfl, rfl, rfl, rfl, rfl, rfl, rfl, rfl, rfl, rfl⟩

@[simp] theorem units_setPrepUnit (s : State) (k : Nat) (x) (n : Nat) :
    spindleOf (setPrepUnit s k x) n = spindleOf s n ∧ spireOf (setPrepUnit s k x) n = spireOf s n ∧
    domeOf (setPrepUnit s k x) n = domeOf s n ∧ channelOf (setPrepUnit s k x) n = channelOf s n ∧
    jobOf (setPrepUnit s k x) n = jobOf s n ∧ mailboxOf (setPrepUnit s k x) n = mailboxOf s n ∧
    streamOf (setPrepUnit s k x) n = streamOf s n ∧ decoderOf (setPrepUnit s k x) n = decoderOf s n ∧
    motionOf (setPrepUnit s k x) n = motionOf s n ∧ netPortOf (setPrepUnit s k x) n = netPortOf s n ∧
    pipeOf (setPrepUnit s k x) n = pipeOf s n ∧ oringOf (setPrepUnit s k x) n = oringOf s n ∧
    partOf (setPrepUnit s k x) n = partOf s n ∧ runningOf (setPrepUnit s k x) n = runningOf s n :=
  ⟨rfl, rfl, rfl, rfl, rfl, rfl, rfl, rfl, rfl, rfl, rfl, rfl, rfl, rfl⟩

@[simp] theorem units_setNetPort (s : State) (k : Nat) (x) (n : Nat) :
    spindleOf (setNetPort s k x) n = spindleOf s n ∧ spireOf (setNetPort s k x) n = spireOf s n ∧
    domeOf (setNetPort s k x) n = domeOf s n ∧ channelOf (setNetPort s k x) n = channelOf s n ∧
    jobOf (setNetPort s k x) n = jobOf s n ∧ mailboxOf (setNetPort s k x) n = mailboxOf s n ∧
    streamOf (setNetPort s k x) n = streamOf s n ∧ decoderOf (setNetPort s k x) n = decoderOf s n ∧
    motionOf (setNetPort s k x) n = motionOf s n ∧ prepUnitOf (setNetPort s k x) n = prepUnitOf s n ∧
    pipeOf (setNetPort s k x) n = pipeOf s n ∧ oringOf (setNetPort s k x) n = oringOf s n ∧
    partOf (setNetPort s k x) n = partOf s n ∧ runningOf (setNetPort s k x) n = runningOf s n :=
  ⟨rfl, rfl, rfl, rfl, rfl, rfl, rfl, rfl, rfl, rfl, rfl, rfl, rfl, rfl⟩

@[simp] theorem units_setPipe (s : State) (k : Nat) (x) (n : Nat) :
    spindleOf (setPipe s k x) n = spindleOf s n ∧ spireOf (setPipe s k x) n = spireOf s n ∧
    domeOf (setPipe s k x) n = domeOf s n ∧ channelOf (setPipe s k x) n = channelOf s n ∧
    jobOf (setPipe s k x) n = jobOf s n ∧ mailboxOf (setPipe s k x) n = mailboxOf s n ∧
    streamOf (setPipe s k x) n = streamOf s n ∧ decoderOf (setPipe s k x) n = decoderOf s n ∧
    motionOf (setPipe s k x) n = motionOf s n ∧ prepUnitOf (setPipe s k x) n = prepUnitOf s n ∧
    netPortOf (setPipe s k x) n = netPortOf s n ∧ oringOf (setPipe s k x) n = oringOf s n ∧
    partOf (setPipe s k x) n = partOf s n ∧ runningOf (setPipe s k x) n = runningOf s n :=
  ⟨rfl, rfl, rfl, rfl, rfl, rfl, rfl, rfl, rfl, rfl, rfl, rfl, rfl, rfl⟩

@[simp] theorem units_setOring (s : State) (k : Nat) (x) (n : Nat) :
    spindleOf (setOring s k x) n = spindleOf s n ∧ spireOf (setOring s k x) n = spireOf s n ∧
    domeOf (setOring s k x) n = domeOf s n ∧ channelOf (setOring s k x) n = channelOf s n ∧
    jobOf (setOring s k x) n = jobOf s n ∧ mailboxOf (setOring s k x) n = mailboxOf s n ∧
    streamOf (setOring s k x) n = streamOf s n ∧ decoderOf (setOring s k x) n = decoderOf s n ∧
    motionOf (setOring s k x) n = motionOf s n ∧ prepUnitOf (setOring s k x) n = prepUnitOf s n ∧
    netPortOf (setOring s k x) n = netPortOf s n ∧ pipeOf (setOring s k x) n = pipeOf s n ∧
    partOf (setOring s k x) n = partOf s n ∧ runningOf (setOring s k x) n = runningOf s n :=
  ⟨rfl, rfl, rfl, rfl, rfl, rfl, rfl, rfl, rfl, rfl, rfl, rfl, rfl, rfl⟩

@[simp] theorem units_setPart (s : State) (k : Nat) (x) (n : Nat) :
    spindleOf (setPart s k x) n = spindleOf s n ∧ spireOf (setPart s k x) n = spireOf s n ∧
    domeOf (setPart s k x) n = domeOf s n ∧ channelOf (setPart s k x) n = channelOf s n ∧
    jobOf (setPart s k x) n = jobOf s n ∧ mailboxOf (setPart s k x) n = mailboxOf s n ∧
    streamOf (setPart s k x) n = streamOf s n ∧ decoderOf (setPart s k x) n = decoderOf s n ∧
    motionOf (setPart s k x) n = motionOf s n ∧ prepUnitOf (setPart s k x) n = prepUnitOf s n ∧
    netPortOf (setPart s k x) n = netPortOf s n ∧ pipeOf (setPart s k x) n = pipeOf s n ∧
    oringOf (setPart s k x) n = oringOf s n ∧ runningOf (setPart s k x) n = runningOf s n :=
  ⟨rfl, rfl, rfl, rfl, rfl, rfl, rfl, rfl, rfl, rfl, rfl, rfl, rfl, rfl⟩

@[simp] theorem units_setHif (s : State) (x) (n : Nat) :
    spindleOf (setHif s x) n = spindleOf s n ∧ spireOf (setHif s x) n = spireOf s n ∧
    domeOf (setHif s x) n = domeOf s n ∧ channelOf (setHif s x) n = channelOf s n ∧
    jobOf (setHif s x) n = jobOf s n ∧ mailboxOf (setHif s x) n = mailboxOf s n ∧
    streamOf (setHif s x) n = streamOf s n ∧ decoderOf (setHif s x) n = decoderOf s n ∧
    motionOf (setHif s x) n = motionOf s n ∧ prepUnitOf (setHif s x) n = prepUnitOf s n ∧
    netPortOf (setHif s x) n = netPortOf s n ∧ pipeOf (setHif s x) n = pipeOf s n ∧
    oringOf (setHif s x) n = oringOf s n ∧ partOf (setHif s x) n = partOf s n ∧
    runningOf (setHif s x) n = runningOf s n :=
  ⟨rfl, rfl, rfl, rfl, rfl, rfl, rfl, rfl, rfl, rfl, rfl, rfl, rfl, rfl, rfl⟩

@[simp] theorem units_setSkein (s : State) (x) (n : Nat) :
    spindleOf (setSkein s x) n = spindleOf s n ∧ spireOf (setSkein s x) n = spireOf s n ∧
    domeOf (setSkein s x) n = domeOf s n ∧ channelOf (setSkein s x) n = channelOf s n ∧
    jobOf (setSkein s x) n = jobOf s n ∧ mailboxOf (setSkein s x) n = mailboxOf s n ∧
    streamOf (setSkein s x) n = streamOf s n ∧ decoderOf (setSkein s x) n = decoderOf s n ∧
    motionOf (setSkein s x) n = motionOf s n ∧ prepUnitOf (setSkein s x) n = prepUnitOf s n ∧
    netPortOf (setSkein s x) n = netPortOf s n ∧ pipeOf (setSkein s x) n = pipeOf s n ∧
    oringOf (setSkein s x) n = oringOf s n ∧ partOf (setSkein s x) n = partOf s n ∧
    runningOf (setSkein s x) n = runningOf s n :=
  ⟨rfl, rfl, rfl, rfl, rfl, rfl, rfl, rfl, rfl, rfl, rfl, rfl, rfl, rfl, rfl⟩

@[simp] theorem units_setSec (s : State) (x) (n : Nat) :
    spindleOf (setSec s x) n = spindleOf s n ∧ spireOf (setSec s x) n = spireOf s n ∧
    domeOf (setSec s x) n = domeOf s n ∧ channelOf (setSec s x) n = channelOf s n ∧
    jobOf (setSec s x) n = jobOf s n ∧ mailboxOf (setSec s x) n = mailboxOf s n ∧
    streamOf (setSec s x) n = streamOf s n ∧ decoderOf (setSec s x) n = decoderOf s n ∧
    motionOf (setSec s x) n = motionOf s n ∧ prepUnitOf (setSec s x) n = prepUnitOf s n ∧
    netPortOf (setSec s x) n = netPortOf s n ∧ pipeOf (setSec s x) n = pipeOf s n ∧
    oringOf (setSec s x) n = oringOf s n ∧ partOf (setSec s x) n = partOf s n ∧
    runningOf (setSec s x) n = runningOf s n :=
  ⟨rfl, rfl, rfl, rfl, rfl, rfl, rfl, rfl, rfl, rfl, rfl, rfl, rfl, rfl, rfl⟩

@[simp] theorem units_setBelfry (s : State) (x) (n : Nat) :
    spindleOf (setBelfry s x) n = spindleOf s n ∧ spireOf (setBelfry s x) n = spireOf s n ∧
    domeOf (setBelfry s x) n = domeOf s n ∧ channelOf (setBelfry s x) n = channelOf s n ∧
    jobOf (setBelfry s x) n = jobOf s n ∧ mailboxOf (setBelfry s x) n = mailboxOf s n ∧
    streamOf (setBelfry s x) n = streamOf s n ∧ decoderOf (setBelfry s x) n = decoderOf s n ∧
    motionOf (setBelfry s x) n = motionOf s n ∧ prepUnitOf (setBelfry s x) n = prepUnitOf s n ∧
    netPortOf (setBelfry s x) n = netPortOf s n ∧ pipeOf (setBelfry s x) n = pipeOf s n ∧
    oringOf (setBelfry s x) n = oringOf s n ∧ partOf (setBelfry s x) n = partOf s n ∧
    runningOf (setBelfry s x) n = runningOf s n :=
  ⟨rfl, rfl, rfl, rfl, rfl, rfl, rfl, rfl, rfl, rfl, rfl, rfl, rfl, rfl, rfl⟩

@[simp] theorem units_setPower (s : State) (x) (n : Nat) :
    spindleOf (setPower s x) n = spindleOf s n ∧ spireOf (setPower s x) n = spireOf s n ∧
    domeOf (setPower s x) n = domeOf s n ∧ channelOf (setPower s x) n = channelOf s n ∧
    jobOf (setPower s x) n = jobOf s n ∧ mailboxOf (setPower s x) n = mailboxOf s n ∧
    streamOf (setPower s x) n = streamOf s n ∧ decoderOf (setPower s x) n = decoderOf s n ∧
    motionOf (setPower s x) n = motionOf s n ∧ prepUnitOf (setPower s x) n = prepUnitOf s n ∧
    netPortOf (setPower s x) n = netPortOf s n ∧ pipeOf (setPower s x) n = pipeOf s n ∧
    oringOf (setPower s x) n = oringOf s n ∧ partOf (setPower s x) n = partOf s n ∧
    runningOf (setPower s x) n = runningOf s n :=
  ⟨rfl, rfl, rfl, rfl, rfl, rfl, rfl, rfl, rfl, rfl, rfl, rfl, rfl, rfl, rfl⟩

@[simp] theorem units_setBoot (s : State) (x) (n : Nat) :
    spindleOf (setBoot s x) n = spindleOf s n ∧ spireOf (setBoot s x) n = spireOf s n ∧
    domeOf (setBoot s x) n = domeOf s n ∧ channelOf (setBoot s x) n = channelOf s n ∧
    jobOf (setBoot s x) n = jobOf s n ∧ mailboxOf (setBoot s x) n = mailboxOf s n ∧
    streamOf (setBoot s x) n = streamOf s n ∧ decoderOf (setBoot s x) n = decoderOf s n ∧
    motionOf (setBoot s x) n = motionOf s n ∧ prepUnitOf (setBoot s x) n = prepUnitOf s n ∧
    netPortOf (setBoot s x) n = netPortOf s n ∧ pipeOf (setBoot s x) n = pipeOf s n ∧
    oringOf (setBoot s x) n = oringOf s n ∧ partOf (setBoot s x) n = partOf s n ∧
    runningOf (setBoot s x) n = runningOf s n :=
  ⟨rfl, rfl, rfl, rfl, rfl, rfl, rfl, rfl, rfl, rfl, rfl, rfl, rfl, rfl, rfl⟩

@[simp] theorem units_setLife (s : State) (x) (n : Nat) :
    spindleOf (setLife s x) n = spindleOf s n ∧ spireOf (setLife s x) n = spireOf s n ∧
    domeOf (setLife s x) n = domeOf s n ∧ channelOf (setLife s x) n = channelOf s n ∧
    jobOf (setLife s x) n = jobOf s n ∧ mailboxOf (setLife s x) n = mailboxOf s n ∧
    streamOf (setLife s x) n = streamOf s n ∧ decoderOf (setLife s x) n = decoderOf s n ∧
    motionOf (setLife s x) n = motionOf s n ∧ prepUnitOf (setLife s x) n = prepUnitOf s n ∧
    netPortOf (setLife s x) n = netPortOf s n ∧ pipeOf (setLife s x) n = pipeOf s n ∧
    oringOf (setLife s x) n = oringOf s n ∧ partOf (setLife s x) n = partOf s n ∧
    runningOf (setLife s x) n = runningOf s n :=
  ⟨rfl, rfl, rfl, rfl, rfl, rfl, rfl, rfl, rfl, rfl, rfl, rfl, rfl, rfl, rfl⟩

@[simp] theorem units_emit (s : State) (x) (n : Nat) :
    spindleOf (emit s x) n = spindleOf s n ∧ spireOf (emit s x) n = spireOf s n ∧ domeOf (emit s x) n = domeOf s n ∧
    channelOf (emit s x) n = channelOf s n ∧ jobOf (emit s x) n = jobOf s n ∧
    mailboxOf (emit s x) n = mailboxOf s n ∧ streamOf (emit s x) n = streamOf s n ∧
    decoderOf (emit s x) n = decoderOf s n ∧ motionOf (emit s x) n = motionOf s n ∧
    prepUnitOf (emit s x) n = prepUnitOf s n ∧ netPortOf (emit s x) n = netPortOf s n ∧
    pipeOf (emit s x) n = pipeOf s n ∧ oringOf (emit s x) n = oringOf s n ∧ partOf (emit s x) n = partOf s n ∧
    runningOf (emit s x) n = runningOf s n :=
  ⟨rfl, rfl, rfl, rfl, rfl, rfl, rfl, rfl, rfl, rfl, rfl, rfl, rfl, rfl, rfl⟩

@[simp] theorem units_drawn (s : State)  (n : Nat) :
    spindleOf (drawn s) n = spindleOf s n ∧ spireOf (drawn s) n = spireOf s n ∧ domeOf (drawn s) n = domeOf s n ∧
    channelOf (drawn s) n = channelOf s n ∧ jobOf (drawn s) n = jobOf s n ∧ mailboxOf (drawn s) n = mailboxOf s n ∧
    streamOf (drawn s) n = streamOf s n ∧ decoderOf (drawn s) n = decoderOf s n ∧
    motionOf (drawn s) n = motionOf s n ∧ prepUnitOf (drawn s) n = prepUnitOf s n ∧
    netPortOf (drawn s) n = netPortOf s n ∧ pipeOf (drawn s) n = pipeOf s n ∧ oringOf (drawn s) n = oringOf s n ∧
    partOf (drawn s) n = partOf s n ∧ runningOf (drawn s) n = runningOf s n :=
  ⟨rfl, rfl, rfl, rfl, rfl, rfl, rfl, rfl, rfl, rfl, rfl, rfl, rfl, rfl, rfl⟩

@[simp] theorem units_ordered (s : State)  (n : Nat) :
    spindleOf (ordered s) n = spindleOf s n ∧ spireOf (ordered s) n = spireOf s n ∧
    domeOf (ordered s) n = domeOf s n ∧ channelOf (ordered s) n = channelOf s n ∧ jobOf (ordered s) n = jobOf s n ∧
    mailboxOf (ordered s) n = mailboxOf s n ∧ streamOf (ordered s) n = streamOf s n ∧
    decoderOf (ordered s) n = decoderOf s n ∧ motionOf (ordered s) n = motionOf s n ∧
    prepUnitOf (ordered s) n = prepUnitOf s n ∧ netPortOf (ordered s) n = netPortOf s n ∧
    pipeOf (ordered s) n = pipeOf s n ∧ oringOf (ordered s) n = oringOf s n ∧ partOf (ordered s) n = partOf s n ∧
    runningOf (ordered s) n = runningOf s n :=
  ⟨rfl, rfl, rfl, rfl, rfl, rfl, rfl, rfl, rfl, rfl, rfl, rfl, rfl, rfl, rfl⟩

end Sys2Proof.Machine
end

