-- ==== Sys2Proof/Laws/Vector.lean ====
section
/-! SUPPORT. What the issue of one vector instruction does, and what its lane writes read back as. -/

namespace Sys2Proof

open Machine

/-- `w` has what `y` has but for where its engine stands. -/
structure SameBody (y w : Spindle) : Prop where
  regs : keepsBut [] y w
  flags : w.vec.nanJob = y.vec.nanJob ∧ w.vec.permJob = y.vec.permJob ∧ w.vec.emptyJob = y.vec.emptyJob
    ∧ w.vec.nan = y.vec.nan ∧ w.vec.perm = y.vec.perm ∧ w.vec.empty = y.vec.empty

/-- `y` is `x` but for its registers and flags. -/
structure RegsOnly (x y : Spindle) : Prop where
  job : y.job = x.job
  agen : y.agen = x.agen
  dma : y.dma = x.dma
  busy : y.busy = x.busy
  scale : y.scale = x.scale
  blocks : y.vec.blocks = x.vec.blocks
  started : y.vec.started = x.vec.started
  error : y.vec.error = x.vec.error

/-- All registers are kept where each is. -/
theorem keepsBut_of {l : List VecReg} {x y : Spindle}
    (h1 : VecReg.lanes ∉ l → y.vec.v = x.vec.v) (h2 : VecReg.masks ∉ l → y.vec.m = x.vec.m)
    (h3 : VecReg.addresses ∉ l → y.vec.x = x.vec.x)
    (h4 : VecReg.tags ∉ l → y.vec.packTag = x.vec.packTag ∧ y.vec.unpackTag = x.vec.unpackTag)
    (h5 : VecReg.fallback ∉ l → y.vec.fb = x.vec.fb) (h6 : VecReg.accumulator ∉ l → y.acc = x.acc)
    (h7 : VecReg.cache ∉ l → y.cache = x.cache ∧ y.bad = x.bad) (h8 : VecReg.counts ∉ l → y.arr = x.arr) :
    keepsBut l x y := by
  intro r hr
  cases r
  exacts [h1 hr, h2 hr, h3 hr, h4 hr, h5 hr, h6 hr, h7 hr, h8 hr]

theorem startBlock_blocks (x : Spindle) (b : VBlock) : (startBlock x b).vec.blocks = x.vec.blocks := by
  unfold startBlock
  cases x.scale.judging <;> dsimp only
  all_goals (repeat' split) <;> rfl

theorem startBlock_started (x : Spindle) (b : VBlock) : (startBlock x b).vec.started = true := by
  unfold startBlock
  dsimp only
  split <;> rfl

theorem startBlock_judging (x : Spindle) (b : VBlock) : (startBlock x b).scale = x.scale := by
  unfold startBlock; rfl

/-- An instruction that issues and is done writes its result and moves the engine on. -/
theorem vecIssue_done {s : State} {p op : Nat} {f : Spindle → Insn → VecOut} {y : Spindle}
    (h : Can.issue s p op = true) (hf : f (standing s p) (insnOf (standing s p)) = .done y)
    (hy : RegsOnly (standing s p) y) :
    ∃ w, vecIssue s p op f = setSpindle s p w ∧ SameBody y w ∧ movedOn (standing s p) w := by
  obtain ⟨hjob, hag, hdm, hbu, hsc, hb, hs, he⟩ := hy
  unfold Can.issue at h
  simp only [Bool.and_eq_true, bne_iff_ne, ne_eq, Bool.not_eq_true', Bool.or_eq_true, beq_iff_eq] at h
  obtain ⟨⟨⟨⟨⟨⟨hr, hne⟩, h4⟩, h5⟩, hw⟩, hop⟩, hn⟩ := h
  obtain ⟨j, hj'⟩ := Option.isSome_iff_exists.mp hr
  cases hbl : (spindleOf s p).vec.blocks with
  | nil => simp [hbl] at hne
  | cons b r =>
    have hfb : frontBlock (spindleOf s p) = b := by simp [frontBlock, hbl]
    have hst : standing s p = if (spindleOf s p).vec.started then spindleOf s p else startBlock (spindleOf s p) b := by
      simp [standing, hbl]
    have hstart : (standing s p).vec.started = true := by
      rw [hst]; split
      · assumption
      · exact startBlock_started _ _
    have hblk : (standing s p).vec.blocks = b :: r := by
      rw [hst]; split
      · exact hbl
      · rw [startBlock_blocks, hbl]
    have hfront : frontBlock (standing s p) = b := by simp [frontBlock, hblk]
    have hscale : (standing s p).scale.judging = (spindleOf s p).scale.judging := by
      rw [hst]; split
      · rfl
      · rw [startBlock_judging]
    have guard : ((spindleOf s p).vec.state = 4 || (spindleOf s p).vec.state = 5
        || (!(spindleOf s p).vec.started && blockWaits (spindleOf s p) b)) = false := by
      rw [hfb] at hw
      rw [decide_eq_false h4, decide_eq_false h5]
      rcases hw with hw | hw <;> simp [hw]
    have unf : vecIssue s p op f =
        (match (stepPos b (posOf (standing s p).vec)).bind (seekPos b (blockFuel b)) with
          | some q => setSpindle s p { y with vec := atPos y.vec b q }
          | none => judge (setSpindle s p (finishBlock y b)) p) := by
      unfold vecIssue
      simp only [hj', hbl, guard]
      rw [← hst]
      simp only [insnOf, hfront] at hop hf
      simp only [hop, hf, ne_eq, not_true_eq_false, if_false, Bool.false_eq_true]
      all_goals rfl
    rw [unf]
    unfold movedOn nextPos
    rw [hfront]
    cases hq : (stepPos b (posOf (standing s p).vec)).bind (seekPos b (blockFuel b)) with
    | some q =>
      refine ⟨_, rfl, ⟨keepsBut_of ?_ ?_ ?_ ?_ ?_ ?_ ?_ ?_, ⟨rfl, rfl, rfl, rfl, rfl, rfl⟩⟩, hjob, hag, hdm, hbu, he,
        rfl, rfl, hb, hs.trans hstart, rfl, hsc⟩
      all_goals intro _
      all_goals first | rfl | exact ⟨rfl, rfl⟩
    | none =>
      have hjn : (spindleOf s p).scale.judging = none := by
        rcases hn with hn | hn
        · simp [nextPos, hfront, hq] at hn
        · simpa using hn
      have hyj : y.scale.judging = none := by rw [hsc, hscale, hjn]
      have hjudge : judge (setSpindle s p (finishBlock y b)) p = setSpindle s p (finishBlock y b) := by
        unfold judge
        simp [finishBlock, hyj]
      refine ⟨finishBlock y b, hjudge, ⟨keepsBut_of ?_ ?_ ?_ ?_ ?_ ?_ ?_ ?_, ?_⟩, ?_⟩
      all_goals unfold finishBlock
      all_goals first
        | exact fun _ => rfl
        | exact fun _ => ⟨rfl, rfl⟩
        | exact ⟨rfl, rfl, rfl, rfl, rfl, rfl⟩
        | simp [hyj, hb, hjob, hag, hdm, hbu, he]

/-- Lanes written in a row of registers. -/
theorem storeGet_foldl_lanes (f : Nat → Option Word) (r : Nat) (l : List Nat) (st : Store 32) (a : Nat)
    (hnd : l.Nodup) :
    storeGet (l.foldl (fun st k => match f k with | none => st | some w => storeSet st (32 * r + k) w) st) a =
      if 32 * r ≤ a ∧ a - 32 * r ∈ l then (f (a - 32 * r)).getD (storeGet st a) else storeGet st a := by
  induction l generalizing st with
  | nil => simp
  | cons k t ih =>
    have hn := List.nodup_cons.mp hnd
    rw [List.foldl_cons, ih _ hn.2]
    by_cases hk : 32 * r + k = a
    · subst hk
      have : 32 * r + k - 32 * r = k := by omega
      rw [this]
      simp only [Nat.le_add_right, true_and, hn.1, ↓reduceIte, List.mem_cons, true_or]
      cases f k <;> simp
    · have key : (32 * r ≤ a ∧ a - 32 * r ∈ t) ↔ (32 * r ≤ a ∧ a - 32 * r ∈ k :: t) := by
        constructor
        · rintro ⟨h1, h2⟩; exact ⟨h1, List.mem_cons_of_mem _ h2⟩
        · rintro ⟨h1, h2⟩
          rcases List.mem_cons.mp h2 with h2 | h2
          · omega
          · exact ⟨h1, h2⟩
      have hs : storeGet (match f k with | none => st | some w => storeSet st (32 * r + k) w) a = storeGet st a := by
        cases f k <;> simp [hk]
      rw [hs]
      by_cases hc : 32 * r ≤ a ∧ a - 32 * r ∈ t
      · rw [if_pos hc, if_pos (key.mp hc)]
      · rw [if_neg hc, if_neg (fun h => hc (key.mpr h))]

/-- A lane after a register's lanes are written where `f` gives a value. -/
theorem laneOf_writeLanes (v : VecEngine) (d : Nat) (f : Nat → Option Word) (r l : Nat) (hl : l < 32) :
    laneOf (writeLanes v d f) r l = if r = d then (f l).getD (laneOf v r l) else laneOf v r l := by
  refine (storeGet_foldl_lanes f d (List.range 32) v.v (32 * r + l) List.nodup_range).trans ?_
  unfold laneOf
  by_cases hr : r = d
  · subst hr
    have : 32 * r + l - 32 * r = l := by omega
    simp [this, hl]
  · rw [if_neg (by rw [List.mem_range]; omega), if_neg hr]

theorem SameBody.but {l : List VecReg} {x y w : Spindle} (h : SameBody y w) (k : keepsBut l x y) :
    keepsBut l x w := by
  intro r hr
  have a := h.regs r (by simp)
  have b := k r hr
  cases r <;> simp_all [keepsReg]

theorem SameBody.flagsAre {x y w : Spindle} (h : SameBody y w) {a b c : Bool} (k : flagsAre x y a b c) :
    flagsAre x w a b c := by
  obtain ⟨h1, h2, h3, h4, h5, h6⟩ := h.flags
  unfold Sys2Proof.flagsAre at *
  rw [h1, h2, h3, h4, h5, h6]
  exact k

theorem SameBody.laneOf {y w : Spindle} (h : SameBody y w) (n l : Nat) : laneOf w.vec n l = laneOf y.vec n l := by
  have e : w.vec.v = y.vec.v := h.regs .lanes (by simp)
  unfold Machine.laneOf
  rw [e]

theorem SameBody.counts {y w : Spindle} (h : SameBody y w) : w.arr = y.arr := h.regs .counts (by simp)

theorem SameBody.xregOf {y w : Spindle} (h : SameBody y w) (n : Nat) : xregOf w.vec n = xregOf y.vec n := by
  have e : w.vec.x = y.vec.x := h.regs .addresses (by simp)
  unfold Machine.xregOf
  rw [e]

theorem SameBody.maskOfReg {y w : Spindle} (h : SameBody y w) (n : Nat) : maskOfReg w.vec n = maskOfReg y.vec n := by
  have e : w.vec.m = y.vec.m := h.regs .masks (by simp)
  unfold Machine.maskOfReg
  rw [e]

/-- What a spindle is after it was written. -/
@[simp] theorem spindleOf_setSpindle_self (s : State) (p : Nat) (w : Spindle) : spindleOf (setSpindle s p w) p = w := by
  simp [spindleOf, setSpindle]

/-- A command whose effect is the issue of one instruction. -/
theorem exec_vecIssue {s : State} {p op : Nat} {f : Spindle → Insn → VecOut} {y : Spindle}
    {o : Host.Outcome State Fault Refusal} (ho : o = finish s (vecIssue s p op f))
    (h : Can.issue s p op = true) (hf : f (standing s p) (insnOf (standing s p)) = .done y)
    (hy : RegsOnly (standing s p) y) :
    ∃ w, o = .next (setSpindle s p w) ∧ SameBody y w ∧ movedOn (standing s p) w := by
  obtain ⟨w, h1, h2, h3⟩ := vecIssue_done h hf hy
  exact ⟨w, by rw [ho, h1]; rfl, h2, h3⟩

end Sys2Proof
end

