-- ==== Sys2Proof/WellFormed.lean ====
section
/-! DEFINITION. Which commands are well formed: operands whose lengths and alignments the rules fix. Ranges that a type
already holds need no check. The block carries out every command; a term that is not well formed stands for nothing that
reaches the module. -/

namespace Sys2Proof

/-- Host bytes, where they came, of exactly n bytes. -/
def bytesOf (o : Option Bytes) (n : Nat) : Bool := match o with | none => true | some b => b.length == n

/-- Host bytes, where they came, of at most n bytes. -/
def atMost (o : Option Bytes) (n : Nat) : Bool := match o with | none => true | some b => decide (b.length ≤ n)

/-- The bytes of a memory request. -/
def MemOp.bytes (op : MemOp) : Nat := match op with | .read n => n | .write data => data.length

/-- A request is 1 to 64 bytes within one 64-byte piece (R210). -/
def oneMemoryEntry (offset n : Nat) : Bool := decide (1 ≤ n) && decide (offset % 64 + n ≤ 64)

/-- A dword of configuration space: aligned and below 4,096 (R482); NumVFs at most TotalVFs, 8 (R483). -/
def CfgOp.wf (op : CfgOp) : Bool :=
  match op with
  | .read off | .write off _ => off % 4 == 0 && decide (off < 4096)
  | .vfs _ num => decide (num ≤ 8)
  | .busMaster _ | .ats _ | .aspm _ _ _ | .msix _ _ | .timeout _ => true

/-- An ADMIT: identities of 32 bytes, one for each member, and a report of 384 bytes (R341, R342, R416). -/
def AdmitInfo.wf (i : AdmitInfo) : Bool :=
  i.members.length == i.size.toNat + 1 && i.members.all (fun m => m.length == 32) && i.report.length == 384

/-- A command is well formed: a register write is aligned (R485), host bytes have the length their rule gives
(descriptors R391, ring entries R282, owner records R414, session requests R418, formation tables R341, requests of R268,
R289 and R459), and so have sensor lists, keys and flits (R477, R423, R333). -/
def Instr.wf (c : Instr) : Bool :=
  match c with
  | .registerWrite _ off _ => off.toNat % 4 == 0
  | .configurationRequest _ op => op.wf
  | .memoryRequest _ _ offset op => oneMemoryEntry offset op.bytes
  | .poolGroup _ pairs => !pairs.isEmpty
  | .mr4Read _ celsius => decide (-64 ≤ celsius) && decide (celsius ≤ 191)
  | .ringEntryRead _ entry => bytesOf entry 32
  | .chunkCopyComplete _ data => atMost data 4096
  | .motionSearchRequest _ _ _ request => request.length == 64
  | .preparationRequest _ request => request.length == 64
  | .cmdSkeinForm _ table => (match table with | none => true | some b => b.length % 64 == 0 && decide (b.length ≤ 1024))
  | .cmdSkeinRelay _ inner => bytesOf inner 128
  | .flit _ f => decide (f.payload.length ≤ 120)
  | .linkKeyExchange _ peer peerEphemeral signature => peer.length == 32 && peerEphemeral.length == 32 && signature.length == 64
  | .admitMessage info => info.wf
  | .relayedCommand descriptor => descriptor.length == 128
  | .relayCompletion _ completion => completion.length == 32
  | .creditGrant _ _ _ _ slotClass _ => decide (slotClass ≤ 8)
  | .commandBegin _ entry => bytesOf entry 128
  | .cmdOwnerEnroll _ record => bytesOf record 256
  | .cmdSessionOpen _ request => bytesOf request 256
  | .cmdBlfRequest _ request => atMost request 65536
  | .thermalRead _ sensors => sensors.length == 4
  | .invalidationRequest _ base length => base % 4096 == 0 && length % 4096 == 0 && decide (0 < length)
  | .translationCompletion _ page translated _ _ => decide (page < 2 ^ 52) && decide (translated < 2 ^ 52)
  | .imageVerified image => !image.readable || image.header.length == 256
  | .firmwareStartEnd found => decide found.failedChannels.Nodup
  | .lanLocalTimeLoRead _ | .netFlowArrivalLoRead _ _ | .netFlowSrNtpLoRead _ _ | .pwrEnergyLoRead _
  | .blfSeqLoRead _ | .blfIdLoRead _ | .bar0BadAccess _ _ | .droopEvent _ | .droopHold _ | .holdResume _
  | .rateWindow _ _ | .opSlewSettled | .arrayIdle _ | .waveAdmit _ | .wavefrontIssue _ | .weightSetLoaded _
  | .operationComplete _ | .descriptorFetch _ | .head _ | .workFetch _ | .arm _ | .jump _ | .endProgram _
  | .acquire _ | .release _ | .barrier _ | .waitLocal _ | .drain _ | .skeinBarrier _ | .copy _ | .copyComplete _
  | .vector _ | .vNop _ | .vXset _ | .vXadd _ | .vTagset _ | .vAdd _ | .vSub _ | .vMul _ | .vFma _ | .vMin _
  | .vMax _ | .vAbs _ | .vNeg _ | .vCvt _ | .vQmul _ | .vSel _ | .vBcasti _ | .vAnd _ | .vOr _ | .vXor _ | .vExp2 _
  | .vLog2 _ | .vRcp _ | .vRsqrt _ | .vCmpeq _ | .vCmplt _ | .vCmple _ | .vMand _ | .vMor _ | .vMnot _ | .vRsum _
  | .vRprod _ | .vRmax _ | .vRmin _ | .vRargmax _ | .vRargmin _ | .vPerm _ | .vSlideup _ | .vSlidedn _ | .vBcast _
  | .vVld _ | .vVst _ | .vTld _ | .vTst _ | .vFld _ | .vFst _ | .vMacm _ | .vMulm _ | .conv _ | .stemHead _
  | .stemEnd _ | .poolAcquire _ _ _ | .poolShare _ _ _ _ | .poolRelease _ _ _ | .freeRingRefill _ _
  | .memoryReadComplete _ _ | .refreshDue _ _ | .wckOscillatorRun _ _ _ | .retrainPause _ _ _ | .cmdStreamOpen _
  | .cmdStreamClose _ | .streamDrainEnd _ | .medRingDoorbell _ _ _ | .cmdPortConfig _ | .ethLinkChange _ _
  | .frameReceive _ _ _ | .reorderTimeout _ | .pictureStart _ _ | .waitBufRetry _ | .pictureDrop _
  | .contextSwitch _ _ | .pictureComplete _ _ _ _ | .pictureReject _ _ _ | .pictureAbandon _
  | .motionSearchComplete _ | .workItemStart _ | .workItemComplete _ _ | .batchComplete _ _ | .batchOpenRetry _ _
  | .liveRequestDrop _ _ | .cmdPipeCreate _ _ | .cmdPipeRemove _ | .cmdQueueCreate _ | .cmdPipeAttach _
  | .cmdPipeDetach _ | .cmdPrepSubmit _ | .cmdOringCreate _ | .cmdOringDestroy _ | .resultBobbinRetry _ _
  | .trackStep _ _ | .recordWrite _ | .lanOringDoorbell _ _ _ | .answerPart _ | .cmdSkeinDissolve _ _
  | .cmdSkeinExclude _ | .cmdSkeinPort _ | .cmdSkeinPlace _ | .cmdSkeinQueue _ | .cmdSkeinBarrier _ | .nak _ _
  | .portDown _ _ | .portUp _ | .admitReply _ _ | .formationTimeout | .sendEntry _ _ | .message _ | .slotFree _ _
  | .creditReturn _ _ _ _ _ _ | .arrive _ _ | .skeinRelease _ | .heartbeat _ | .heartbeatArrival | .managerLost
  | .lossNotice _ | .paceReport | .pacePublish _ | .paceCeiling _ | .cmdPartCreate _ | .cmdPartDelete _
  | .cmdPartGrow _ | .cmdPartShrink _ | .cmdJobDefine _ | .cmdJobUndefine _ | .cmdJobStart _ | .cmdJobAbort _
  | .cmdJobPreempt _ | .cmdJobResume _ | .jobDispatch _ | .saveComplete _ | .restoreComplete _ _ | .timeLimit _
  | .jobEnd _ | .cmdClientLimit _ | .cmdClientStats _ | .cmdSeqJoin _ | .cmdSeqLeave _ | .sequenceStep _
  | .lanMbCfgWrite _ _ _ | .lanMbCmdDoorbell _ _ _ | .lanMbCplDoorbell _ _ _ | .lanMbEvtDoorbell _ _ _
  | .cmdDevInfo _ | .cmdModelLoad _ _ | .cmdModelUnload _ | .cmdAdapterInstall _ | .cmdMemWrite _ _
  | .cmdPoolCreate _ | .cmdPoolDestroy _ | .cmdIdentityGet _ | .cmdAttest _ | .cmdAuditExport _ | .cmdSessionClose _
  | .cmdSvAdvance _ | .cmdCeilingLower _ | .cmdSkeinBind _ | .cmdDebugDisable _ | .cmdBlfRecords _ | .belfryStatus
  | .belfryIdentity | .belfryLog | .stageFw | .stageParam | .commit | .partialReset | .indicatorId
  | .encoderEdge _ _ _ | .trigger | .csiFrame _ _ _ _ _ | .pairTimeout | .callReturn _ _ | .callDeadline
  | .coreWatchdog | .tamperSample _ | .vblfFalling | .vblfInRange | .identityLine | .faultLine | .newRecordNotice
  | .tamperNotice | .sealNotice | .stateNotice | .powerSample _ _ _ _ _ | .powerDisagree | .powerRecalFit
  | .cmdPowerLimit _ | .cmdPowerRecal _ | .cmdJobPower _ | .thermalStep _ | .thermalEnd _ | .startCondition
  | .railPowerGood | .railTimeout | .dipBegin _ | .dipEnd _ _ | .dipLimit _ _ | .overvoltageWindow _ _
  | .overvoltage75V _ _ | .holdBankCharged | .holdBankLow | .receivedTlpError _ | .hostReadCompletion _ _
  | .completionTimeout _ | .msiXWindow _ _ | .aspmL1Idle | .perstAssert | .perstRelease | .hotReset | .dlDown
  | .pfFlr | .vfEnableCleared | .vfFlr _ | .busMasterEnableCleared _ | .patrolScrub _ _ | .fatalRestart
  | .lifelogSecond | .lifelogCommitTimer | .cmdLifelogExport _ | .cmdLifelogCommit _ | .romLoaderStart _
  | .lanBootCtrlWrite _ _ | .lanRecGo _ _ | .recReadComplete _ | .recProgramComplete _ | .recReadBackComplete _
  | .droopRecovered _ | .retrainPauseEnd _ | .pcieLinkUp _ _ | .configReady | .l1Exit | .creditGrantAck _ _ _ _
  | .skeinDissolveNotice => true

end Sys2Proof
end

