-- ==== Sys2Proof/Tests/Slice0.lean ====
section
/-! SUPPORT. The row's own tests: ill-formed commands refused, a state that meets the hypotheses of each statement, and
results that the spec works out. -/

namespace Sys2Proof.Tests

open Sys2Proof Machine

-- One theorem at a time: many kernel evaluations at once need more memory than the check allows.
set_option Elab.async false

/-! ### Small states -/

/-- Bytes at places of an area of n zero bytes. -/
def place (n : Nat) (l : List (Nat × Bytes)) : Bytes :=
  l.foldl (fun a e => fit e.1 a ++ e.2 ++ a.drop (e.1 + e.2.length)) (zeroBytes n)

/-- Job 0 of partition 0 runs. -/
def jobbed (s : State) : State := setJob s 0 { jobOf s 0 with state := 2 }

/-- Spindle 0 holds `x` for job 0. -/
def spun (x : Spindle) : State := setSpindle (jobbed State.reset) 0 { x with job := some 0 }

/-- An instruction word: opcode, Vd, Va, Vb, mask, TY, Xn and IMM (R136). -/
def word (op vd va vb mask ty xn imm : Nat) : BitVec 64 :=
  BitVec.ofNat 64 (op * 2 ^ 56 + vd * 2 ^ 50 + va * 2 ^ 46 + vb * 2 ^ 42 + mask * 2 ^ 39 + ty * 2 ^ 38 + xn * 2 ^ 35 + imm)

/-- The engine of spindle 0 stands at an instruction, with registers of its own. -/
def vecOn (v : VecEngine) (w : BitVec 64) : State :=
  spun { vec := { v with blocks := [{ vl := 4, insns := [w, 0] }], started := true, state := 1, vl := 4 } }

/-- The same with every register zero. -/
def vecAt (op : Nat) : State := vecOn {} (word op 1 0 2 0 0 0 0)

/-- A small operation: two wavefronts of one INT8 column into tile 0. -/
def smallHead : HeadDesc := { counts := [2, 1, 1, 1, 1, 1], cols := 1, accTiles := 1 }
def smallOp : ArrayOp := { head := smallHead, sets := [(0, [{ data := zeroBytes 32 }])] }
def arrayOn (op : ArrayOp) : State := spun { arr := { op := some op, idle := false, state := 2 } }

/-- A slot runs a command with these body bytes for partition n. -/
def commanded (s : State) (slot op n : Nat) (l : List (Nat × Bytes)) : State :=
  let r : Running := { desc := place 128 ((0, toLE 2 op) :: (3, toLE 1 n) :: l), checked := true }
  { s with running := tset s.running slot r }

/-- Partition 0 holds granule 0 and spire 0. -/
def parted (x : Partition) : State :=
  setSpire (setPart State.reset 0 { x with granules := [0] }) 0 { owner := some 0 }

/-- Every rail is up and the module runs. -/
def running (s : State) : State := setBoot s { s.boot with
  rails := 8, started := true, romRunning := true, stage := 3, perst := false, firmwareEnded := true, bootsCounted := true }

/-! ### Witnesses: the vector engine and the array -/

theorem witness_VectorElements : elementOps.all (fun e => Can.issue (vecAt e.op) 0 e.op) = true := by decide +kernel
theorem witness_VectorMoves : [0x00, 0x01, 0x02, 0x03, 0x1A, 0x1B].all (fun o => Can.issue (vecAt o) 0 o) = true := by
  decide +kernel
theorem witness_VectorMasks : (compareOps.all (fun e => Can.issue (vecAt e.op) 0 e.op)
    && maskOps.all (fun e => Can.issue (vecAt e.op) 0 e.op)) = true := by decide +kernel
theorem witness_VectorReductions : (reduceOps.all (fun e => Can.issue (vecAt e.op) 0 e.op)
    && [0x44, 0x45].all (fun o => Can.issue (vecAt o) 0 o)) = true := by decide +kernel
theorem witness_VectorPermutes : [0x50, 0x51, 0x52, 0x53].all (fun o => Can.issue (vecAt o) 0 o) = true := by
  decide +kernel
theorem witness_VectorLoads : loadOps.all (fun e => Can.issue (vecAt e.op) 0 e.op
    && Can.load (standing (vecAt e.op) 0)) = true := by decide +kernel
theorem witness_VectorStores : (Can.issue (vecAt 0x61) 0 0x61 && Can.store (standing (vecAt 0x61) 0)) = true := by
  decide +kernel
/-- The last row of the accumulator memory, and of the fallback buffers. -/
theorem witness_VectorRows : [(0x62, false), (0x63, false), (0x64, true), (0x65, true)].all (fun e =>
    let s := vecOn {} (word e.1 1 0 2 0 0 0 (if e.2 then 127 else 511))
    Can.issue s 0 e.1 && Can.row (standing s 0) e.2) = true := by decide +kernel

theorem witness_WeightWavefront : Can.weightWave (arrayOn smallOp) 0 0 smallOp = true := by decide +kernel
/-- The 32nd wavefront of the first group. -/
theorem witness_StationaryGroup :
    let op : ArrayOp := { smallOp with head := { smallHead with outStat := true }, issued := 31, sets := [] }
    Can.groupEnd (arrayOn op) 0 0 op = true := by decide +kernel
theorem witness_WeightSets : let op : ArrayOp := { smallOp with sets := [] }
    Can.weightSetLoaded (arrayOn op) 0 op 0 = true := by decide +kernel
/-- An operation whose wavefronts have all issued, judged with its blocks done and with a block to come. -/
theorem witness_OperationReports : let op : ArrayOp := { smallOp with issued := 2 }
    let at' := fun (jd : Judgement) => spun { arr := { op := some op, state := 2 }, scale := { judging := some jd } }
    (Can.operationComplete (at' {}) 0 op && Can.operationComplete (at' { blocks := [{}] }) 0 op) = true := by decide +kernel
theorem witness_ArrayIdleAndGates : Can.waveAdmit (spun { arr := { op := some smallOp, waiting := true } }) 0 = true
    ∧ arrayLive (arrayOn smallOp) 0 = some smallOp ∧ feederReady smallOp = true ∧ (domeOf State.reset 3).hold = false := by
  decide +kernel

/-! ### Witnesses: programs, copies, stems -/

/-- Spindle 0 of a running job of partition 0 whose program holds these descriptors from offset 0. -/
def programmed (x : Partition) (l : List Bytes) : State :=
  setSpindle (jobbed (parted x)) 0 { job := some 0, agen := {
    slots := l.zipIdx.map (fun e => (e.2, (e.2, e.1))), state := 1, last := l.length } }

/-- One descriptor of a kind with bytes at places. -/
def desc (kind : Nat) (l : List (Nat × Bytes)) : Bytes := place 64 ((0, toLE 1 kind) :: l)

theorem witness_ProgramSteps :
    (let s := programmed {} []
     runningJob s 0 = some 0 ∧ agenLive s 0 = true ∧ firstMissing (spindleOf s 0) 64 0 = some 0 ∧
      0 ≤ (spindleOf s 0).agen.last ∧ (partOf s (jobOf s 0).part.toNat).map (fun q => decide (64 ≤ regionBytes q) && !badRead q 0 64) = some true) ∧
    (let s := programmed { badHalves := [0] } []
     runningJob s 0 = some 0 ∧ agenLive s 0 = true ∧ firstMissing (spindleOf s 0) 64 0 = some 0 ∧
      (partOf s (jobOf s 0).part.toNat).map (fun q => decide (64 ≤ regionBytes q) && badRead q 0 64) = some true) ∧
    (Can.arm (programmed {} [desc 3 []]) 0 0 && Can.desc (programmed {} [desc 4 []]) 0 0 4
      && Can.vector (programmed {} [desc 7 []]) 0 0 && Can.endProgram (programmed {} [desc 0 []]) 0 0) = true := by
  decide +kernel

/-- A HEAD with WORK, and one with its three STREAMs. -/
theorem witness_HeadOpens : (Can.workFetch (programmed {} [desc 1 [(1, [8])]]) 0 0
    && Can.head (programmed {} [desc 1 [], desc 2 [], desc 2 [], desc 2 []]) 0 0) = true := by decide +kernel

/-- ACQUIRE and RELEASE at an empty semaphore. -/
theorem witness_SyncRequests :
    let at' := fun (op : Byte) => programmed {} [desc 5 [(1, [op]), (4, [1])]]
    (Can.sync (at' 0) 0 0 0 && Can.sync (at' 1) 0 0 1) = true ∧
    (semOf (at' 1) (syncSpire (at' 1) 0) (syncNumber (at' 1) 0)).barrier = false ∧
    (semOf (at' 1) (syncSpire (at' 1) 0) (syncNumber (at' 1) 0)).queue = [] ∧
    (semOf (at' 1) (syncSpire (at' 1) 0) (syncNumber (at' 1) 0)).value.toNat + syncCount (at' 1) 0 ≤ 65535 := by
  decide +kernel
theorem witness_BarriersAndWaits :
    let at' := fun (op : Byte) => programmed {} [desc 5 [(1, [op]), (4, [1])]]
    (Can.sync (at' 2) 0 0 2 && [3, 4].all (fun o => Can.desc (at' o) 0 0 5 && settled (at' o) 0
      && byteAt (descAt (at' o) 0) 1 == o.toNat)) = true := by decide +kernel

/-- A fill of 64 bytes of the spire cache of spire 0. -/
def fillCopy : Bytes := desc 6 [(2, [7]), (8, [0xA5]), (24, [64])]

theorem witness_CopyBegins : Can.copy (programmed {} [fillCopy]) 0 0 = true ∧
    (let s := programmed {} [fillCopy]
     let t := setSpindle s 0 { spindleOf s 0 with dma := { copies := List.replicate 8 {} } }
     Can.desc t 0 0 6 = true ∧ blocksDone (spindleOf t 0) = true ∧ 8 ≤ (spindleOf t 0).dma.copies.length) := by
  decide +kernel
theorem witness_CopyMoves :
    let e : CopyReq := { desc := fillCopy }
    let s := programmed {} []
    Can.copyComplete (setSpindle s 0 { spindleOf s 0 with dma := { copies := [e] } }) 0 0 e = true := by decide +kernel

/-- The stem engine of spire 0 runs an entry of a kind for job 0. -/
def stemmed (kind : Byte) : State :=
  let s := jobbed (parted { region := storeWrite {} 0 (place 64 [(0, [kind]), (2, [1, 1, 1, 1, 1])]) })
  setSpire s 0 { spireOf s 0 with stem := { job := some 0, state := 1 } }

theorem witness_StemEntries :
    (Can.stemRuns (stemmed 1) 0 0 1 && Can.stemRuns (stemmed 2) 0 0 2 && Can.stem (stemmed 0) 0 0 0) = true := by
  decide +kernel

/-! ### Witnesses: memory, pools, rings, partitions -/

/-- Every channel runs. -/
def channelled (s : State) : State := { s with channels := (List.range 24).map (fun c => (c, { state := 2 })) }

/-- The last 64 bytes of a region, and a request of one byte at its start. -/
theorem witness_MemoryRequests :
    let x : Partition := { granules := [0] }
    let s := channelled (parted {})
    let r := queuedRequest x .host 0 0 (.read 1)
    let c := requestChannel x 0
    (Can.memoryRequest s .host 0 0 1 x && Can.queueRests (channelOf s c) r
      && Can.memoryRequest s .host 0 (regionBytes x - 64) 64 x) = true ∧ badWrite x 0 64 = false ∧
    (channelOf s c).state = 2 ∧ (channelOf s c).queue = [] ∧
    (let t := setChannel s c { channelOf s c with queue := [r] }
     (pickOf (channelOf t c) false).isSome = true ∧ writesPending (channelOf t c) = 0 ∧ badRead x 0 1 = false) := by
  decide +kernel
theorem witness_RefreshAndRetraining :
    let s := channelled State.reset
    (channelOf s 23).state = 2 ∧ (let t := setChannel s 0 { state := 2, due0 := true }
      ((channelOf t 0).due0 || (channelOf t 0).due1) = true ∧ (channelOf t 0).state = 2) ∧
    (let t := setChannel s 0 { state := 3 }
     (channelOf t 0).state = 3 ∧ writesPending (channelOf t 0) = 0) := by decide +kernel

/-- Partition 0 with pool 0 of four bobbins, two of them free on chip and bobbin 2 held by owner 0x1000. -/
def pool0 : Pool := { count := 4, cached := [0, 1], ring := [3], ctrl := 65536, owners := [(2, [0x1000#16])] }
def part0 : Partition := { granules := [0], pools := [(0, pool0)] }
def pooled : State := parted { pools := [(0, pool0)] }

theorem witness_PoolRequests :
    (Can.acquire pooled 0 0 part0 pool0 && Can.held pooled 0 (handleOf 0 0 2) 0x1000#16 part0 pool0 2) = true ∧
    partOf pooled 0 = some part0 ∧ (ownersOf pool0 2).contains 0x2000#16 = false ∧ (ownersOf pool0 2).length < 4 ∧
    (ownersOf pool0 2).Nodup ∧ pool0.cached.length < 8 ∧ pool0.ring ≠ [] ∧ refillBad part0 pool0 = false ∧
    (poolOf part0 0).isSome = true ∧ (∀ e ∈ [((0 : Fin 8), 0x1000#16)], e.1 = 0) := by
  refine ⟨?_, ?_, ?_, ?_, ?_, ?_, ?_, ?_, ?_, by simp⟩ <;> decide +kernel
theorem witness_PoolCommands :
    Can.poolCreate (commanded (parted {}) 8 0x0320 0 [(12, [1]), (28, toLE 4 4096)]) 8 { granules := [0] } = true ∧
    (let v : Pool := { pool0 with owners := [] }
     Can.poolDestroy (commanded (parted { pools := [(0, v)] }) 8 0x0321 0 []) 8 { part0 with pools := [(0, v)] } v = true) := by
  decide +kernel

/-- Output ring 63 of partition 0. -/
def ring63 : ORing := { valid := true, fn := 1, base := 4096, units := 64, status := 8 }

theorem witness_OutputRings :
    (Can.oringCreate (commanded (parted {}) 0 0x0610 0 [(8, [63]), (24, [64])]) 0
      && Can.oringDestroy (commanded (setOring (parted {}) 63 ring63) 0 0x0611 0 [(8, [63])]) 0) = true ∧
    (oringOf (setOring State.reset 63 ring63) 63).valid = true ∧
    (let r : Record := { bytes := zeroBytes 64 }
     Can.recordWrite (setOring (parted {}) 63 { ring63 with waiting := [r] }) 63 r [] = true) := by decide +kernel

theorem witness_PartitionCommands :
    Can.partCreate (commanded (channelled (running State.reset)) 8 0x0201 7
      [(10, [1]), (12, [0, 0, 0, 0x80]), (24, [0, 0, 0, 0x80])]) 8 = true ∧
    Can.partDelete (commanded (parted {}) 8 0x0202 0 []) 8 { granules := [0] } = true ∧
    Can.partGrow (commanded (channelled (parted {})) 8 0x0203 0 [(12, [2]), (16, [2])]) 8 { granules := [0] } = true ∧
    (let x : Partition := { granules := [0, 1] }
     Can.partShrink (commanded (setSpire (setPart (parted {}) 0 x) 1 { owner := some 0 }) 8 0x0204 0 [(12, [2]), (16, [2])]) 8 x
      = true) := by decide +kernel

/-! ### Witnesses: jobs, mailboxes and their commands -/

/-- Partition 0 holds at offset 0 a description of one spindle, whose program at 256 is END alone, and one spire. -/
def described (x : Partition) : Partition :=
  { x with granules := [0], region := storeWrite {} 0 ([1, 0, 1] ++ zeroBytes 62 ++ [1]) }
def registered : Partition := described { quota := 1, descs := [{ offset := 0, saveBytes := 25600 }] }

theorem witness_JobTable :
    Can.jobDefine (commanded (parted (described {})) 0 0x0401 0 []) 0 (described {}) = true ∧
    Can.jobUndefine (commanded (parted registered) 0 0x0402 0 []) 0 registered = true ∧
    Can.jobStart (commanded (parted registered) 0 0x0410 0 []) 0 = true ∧
    (let c := commanded (parted {}) 0 0x0420 0 [(8, [255]), (10, toLE 2 1024)]
     Can.partCommand c 0 0x0420 [(8, 1), (10, 2)] { granules := [0] } = true ∧ le (cmdDesc c 0) 10 2 ≤ 1024) ∧
    (let c := commanded (parted {}) 0 0x0421 0 [(8, [64])]
     Can.partCommand c 0 0x0421 [(8, 8)] { granules := [0] } = true ∧ le (cmdDesc c 0) 8 8 % 64 = 0) := by decide +kernel

/-- Job 1 of partition 0 with an identifier of serial 0, and a command of slot 0 that names it. -/
def jobNow (x : Job) : State := setJob (parted registered) 1 x
def savingBad (x : Job) : State := setJob (parted { registered with badHalves := [0] }) 1 x
def jobCmd (x : Job) (op : Nat) : State := commanded (jobNow x) 0 op 0 [(8, [1])]

theorem witness_JobRuns :
    Can.jobDispatch (jobNow { state := 1, header := { spindles := 1, spires := 1 } }) 1 registered = true ∧
    (Can.jobCommand (jobCmd { state := 1 } 0x0411) 0 0x0411 1 && Can.jobCommand (jobCmd { state := 6 } 0x0411) 0 0x0411 1
      && Can.jobCommand (jobCmd { state := 2, header := { preemptible := true } } 0x0412) 0 0x0412 1
      && Can.jobCommand (jobCmd { state := 4 } 0x0413) 0 0x0413 1) = true ∧
    (jobOf (jobNow { state := 6, time := 8, header := { timeLimit := 8 } }) 1).header.timeLimit ≤ 8 ∧
    (Can.saveComplete (jobNow { state := 3 }) 1 && Can.savePoint (savingBad { state := 3, saveBytes := 64 }) 1
      && saveAreaBad (savingBad { state := 3, saveBytes := 64 }) 1 && Can.jobEnd (jobNow { state := 7, endFormed := true }) 1) = true ∧
    (let s := jobNow { state := 6, saved := some {}, save := 4096, saveBytes := 4096 }
     (jobOf s 1).saved = some {} ∧ partOf s (jobOf s 1).part.toNat = some registered ∧ restoreWaits s 1 = false ∧
     badRead registered 4096 4096 = false) := by decide +kernel
theorem witness_AnswersAndSequences :
    (let h : JobHeader := { answer := true, sequences := true, stepSem := 1, goSem := 2 }
     let x : Job := { state := 2, header := h, args := [4096], seqs := some {} }
     let s := setSem (setSem (jobNow x) 0 0 { value := 1 }) 0 1 { value := 1 }
     jobOf s 1 = x ∧ partOf s 0 = some registered ∧ (semOf s 0 0).barrier = false ∧ (semOf s 0 0).value ≠ 0 ∧
     (semOf s 0 1).barrier = false ∧ (semOf s 0 1).value ≠ 0 ∧ badRead registered 4096 64 = false ∧
     tableBytes h = 64 ∧ (h.goSpire, h.goSem) ≠ (h.stepSpire, h.stepSem)) ∧
    (let x : Job := { state := 2, header := { sequences := true }, seqs := some { live := [{ ticket := 3 }] } }
     let q : SeqSet := { live := [{ ticket := 3 }] }
     Can.seqJoin (commanded (jobNow x) 0 0x0430 0 [(8, [1])]) 0 1 q registered = true ∧
     (let c := commanded (jobNow x) 0 0x0431 0 [(8, [1]), (12, [3])]
      Can.seqCommand c 0 0x0431 [(8, 8)] 1 q = true ∧
      q.live.any (fun e => e.ticket == le (cmdDesc c 0) 12 4 && !e.leave) = true)) := by decide +kernel

/-- Mailbox 8 with valid bases and sizes. -/
def mb8 : Mailbox := { present := true, evtLog2 := 6, cplLog2 := 5, cmdLog2 := 4 }
def mailed (b : Mailbox) : State := setMailbox State.reset 8 b

theorem witness_MailboxRegisters :
    (Can.mailboxWrite (mailed mb8) 0 8 false && Can.mailboxWrite (setMailbox State.reset 0 mb8) 1 0 false) = true ∧
    Can.mailboxWrite (mailed { mb8 with enable := true }) 0 8 true = true ∧ (0 : Word).getLsbD 31 = false ∧
    mailboxSound (mailboxSized mb8 0x80060504#32) = true ∧ mailboxSound (mailboxSized mb8 0x80060503#32) = false ∧
    countDiff 16#32 (0 : Word) ≤ 2 ^ mb8.cmdLog2.toNat ∧ countDiff (0 : Word) 0 ≤ countDiff (0 : Word) 0 ∧
    mb8.held = [] ∧ mb8.state ≠ 3 := by decide +kernel

/-- A descriptor of 128 bytes. -/
def descWith (op : Nat) (l : List (Nat × Bytes)) : Bytes := place 128 ((0, toLE 2 op) :: l)

theorem witness_CommandsBegin :
    (let s := mailed { mb8 with enable := true, cmdProduced := 1, state := 1 }
     Can.takeHead s 8 = true ∧ descriptorFailure s 8 (descWith 0 []) = some stBadOpcode ∧
     descriptorFailure s 8 (descWith 0x0101 []) = none ∧ hostNeed (descWith 0x0101 []) = none ∧
     descriptorFailure s 8 (descWith 0x0101 [(2, [1])]) = none ∧
     keyedCheck s (descWith 0x0101 [(2, [1])]) = .error stNotPermitted) ∧
    (let s := mailed { mb8 with enable := true, cmdProduced := 1, cplProduced := 32 }
     headWaits s 8 = true ∧ headReady s 8 = false) ∧
    Can.relayed { State.reset with skein := { State.reset.skein with state := 2 } } = true := by decide +kernel

/-- A critical CMD_DEV_INFO with counter 2 and its authentication under the key `k`. -/
def keyedHead : Bytes := place 104 [(0, toLE 2 0x0101), (2, [1]), (96, [2])]
def keyedDesc (k : CommandKey) : Bytes := keyedHead ++ fit 24 (Config.hmacSha512 k.key keyedHead)

theorem fit_length (n : Nat) (b : Bytes) : (fit n b).length = n := by simp [fit, zeroBytes]; omega
theorem witness_CommandsBegin_keyed (k : CommandKey) :
    fit 24 (Config.hmacSha512 k.key ((keyedDesc k).take 104)) = slice (keyedDesc k) 104 24 := by
  have h : keyedHead.length = 104 := by decide +kernel
  rw [slice, keyedDesc, ← h, List.take_left, List.drop_left, List.take_of_length_le (by simp [fit_length])]
theorem witness_CommandsBegin_counter :
    let k : CommandKey := { last := 1 }
    k.last < le (keyedDesc k) 96 8 ∧ descriptorFailure State.reset 8 (keyedDesc k) = none ∧
    bitOf (byteAt (keyedDesc k) 2) 0 = true := by
  refine ⟨?_, ?_, ?_⟩ <;> decide +kernel
theorem witness_CompletionWritten :
    (let s := commanded (mailed { mb8 with enable := true }) 8 0x0101 0 []
     let u := setCfg s 0 { cfgOf s 0 with busMaster := true }
     Can.command u 8 0x0101 [] = true ∧ Can.postNow u 8 = true ∧ readOf u (.lantern 8) = none ∧ (cmdDesc u 8).length = 128 ∧
     bitOf (byteAt (cmdDesc u 8) 2) 1 = false ∧ (mailboxOf u 8).enable = true ∧
     (runningOf u 8).any (fun r => !r.discard) = true) := by decide +kernel
theorem witness_ModelMemory :
    (let c := commanded (parted {}) 0 0x0301 0 [(16, toLE 8 273), (24, toLE 8 4096)]
     Can.modelLoad c 0 (zeroBytes 273) { granules := [0] } = true) ∧
    (let i : ModelImage := { base := 4096, length := 8192, bank0 := 8192, bank1 := 8448, bankLength := 256 }
     let x : Partition := { granules := [0], images := [i] }
     Can.modelUnload (commanded (parted x) 0 0x0302 0 [(8, toLE 8 4096)]) 0 x i = true ∧
     Can.adapterInstall (commanded (parted x) 0 0x0310 0 [(24, toLE 4 256), (28, toLE 8 4096)]) 0 x x i = true) ∧
    Can.memWrite (commanded (parted {}) 0 0x0311 0 [(16, toLE 8 64), (24, [1])]) 0 { granules := [0] } = true := by
  decide +kernel

/-! ### Witnesses: keys, fuses, the skein -/

theorem witness_IdentityAndAttestation :
    (let c := commanded State.reset 8 0x0801 0 [(8, [64])]
     Can.command c 8 0x0801 [(8, 8)] = true ∧ le (cmdDesc c 8) 8 8 % 64 = 0) ∧
    (let c := commanded State.reset 8 0x0802 0 [(8, [63]), (16, [1])]
     Can.command c 8 0x0802 [(8, 40)] = true ∧ le (cmdDesc c 8) 8 8 % 64 ≠ 0) ∧
    Can.command (commanded State.reset 8 0x0803 0 []) 8 0x0803 [(8, 8)] = true := by decide +kernel

/-- An owner record with counter 1, and a session request of partition 0. -/
def ownerRecord : Bytes := place 256 [(0, [7]), (32, [1])]
def ownedBy (k : Bytes) : State :=
  setSec (parted {}) { (parted {}).sec with ownerKey := some k, reports := [zeroBytes 64] }

theorem witness_OwnersAndSessions :
    (let c := commanded State.reset 8 0x0804 0 [(96, [1])]
     Can.command c 8 0x0804 [(8, 8)] = true ∧ ownerFailure c (cmdDesc c 8) ownerRecord = none ∧
     ownerFailure c (cmdDesc c 8) (zeroBytes 256) = some stBadArgument) ∧
    (let c := commanded (parted {}) 0 0x0805 0 [(96, [1])]
     Can.command c 0 0x0805 [(8, 16)] = true ∧ le (cmdDesc c 0) 8 8 % 64 = 0 ∧ le (cmdDesc c 0) 16 8 % 64 = 0 ∧
     sessionFailure c (cmdDesc c 0) (zeroBytes 256) = some stNotPermitted) ∧
    Can.command (commanded State.reset 0 0x0806 0 []) 0 0x0806 [] = true := by decide +kernel
/-- A session request that the owner of key `k` signed passes: the signature is the one thing not computed here. -/
theorem witness_OwnersAndSessions_session (k : Bytes)
    (h : Config.ed25519Verify k (ascii "MOAJO-SESSION" ++ (place 256 [(40, [1])]).take 112) (zeroBytes 64) = true) :
    sessionFailure (ownedBy k) (place 128 [(96, [1])]) (place 256 [(40, [1])]) = none := by
  have e : slice (place 256 [(40, [1])]) 112 64 = zeroBytes 64 := by decide +kernel
  have p : partOf (ownedBy k) (descPart (place 128 [(96, [1])])) = some { granules := [0] } := by rfl
  have c : (!zeros (place 256 [(40, [1])]) 33 7 || !zeros (place 256 [(40, [1])]) 176 80
      || decide (byteAt (place 256 [(40, [1])]) 32 ≠ descPart (place 128 [(96, [1])]))
      || decide (le (place 256 [(40, [1])]) 40 8 ≠ le (place 128 [(96, [1])]) 96 8)
      || !([zeroBytes 64].contains (slice (place 256 [(40, [1])]) 48 64))) = false := by decide +kernel
  have n : ¬ le (place 256 [(40, [1])]) 40 8 ≤ 0 := by decide +kernel
  have o : (ownedBy k).sec.ownerKey = some k := rfl
  have r : (ownedBy k).sec.reports = [zeroBytes 64] := rfl
  have z : (ownedBy k).sec.ownerCounter = 0 := rfl
  simp only [sessionFailure, p, o, r, z, e, h]
  rw [c]
  simp only [Bool.false_eq_true, if_false, Bool.not_true, if_neg n]

theorem witness_FuseCommands :
    (let s := setSec State.reset { State.reset.sec with svRunning := 64 }
     let c := commanded s 8 0x0810 0 [(8, [64])]
     Can.command c 8 0x0810 [(8, 1)] = true ∧ byteAt (cmdDesc c 8) 8 ≤ c.sec.svRunning ∧ c.sec.svFused < 64 ∧
     64 < byteAt (cmdDesc (commanded s 8 0x0810 0 [(8, [65])]) 8) 8) ∧
    (let s := setSec State.reset { State.reset.sec with ceilSteps := 15 }
     let c := commanded s 8 0x0811 0 [(8, [1])]
     Can.command c 8 0x0811 [(8, 1)] = true ∧ c.sec.ceilSteps + byteAt (cmdDesc c 8) 8 ≤ 16 ∧
     16 < c.sec.ceilSteps + byteAt (cmdDesc (commanded s 8 0x0811 0 [(8, [2])]) 8) 8) ∧
    (let s := setSec State.reset { State.reset.sec with skeinSteps := 7 }
     let c := commanded s 8 0x0812 0 [(39, [1])]
     Can.command c 8 0x0812 [(8, 32)] = true ∧ (slice (cmdDesc c 8) 8 32).all (· == 0) = false ∧ s.skein.state ≠ 2 ∧
     s.sec.skeinSteps < 8) ∧
    (let c := commanded State.reset 8 0x0813 0 []
     Can.command c 8 0x0813 [] = true ∧ c.sec.debugDisabled = false) := by decide +kernel

/-- Port 0 with these registers. -/
def linked (x : LinkPort) : State := setLinkPort State.reset 0 x
/-- A formed skein of members 0 and 1, reached by port 0, seen from member i. -/
def woven (i : BitVec 4) (x : LinkPort) : State :=
  let s := linked x
  { s with skein := { s.skein with
    state := 2, manager := i == 0, size := 1, index := i, live := 3, routes := 0x88#64 } }
def flit0 : Flit := ⟨true, true, true, 0, false, 0, 0, 0, 1, true, true, false, 2, 1, 0, []⟩

theorem witness_LinkPorts :
    ((linkPortOf State.reset 0).enabled = true ∧ (linkPortOf State.reset 0).state ≠ 2) ∧
    (reachesNeighbour (linked { state := 2 }) 0 = false ∧ (linkPortOf (linked { state := 2 }) 0).state = 2) ∧
    (let s := woven 0 { state := 2, neighbour := 1 }
     reachesNeighbour s 0 = true ∧ s.skein.manager = true ∧ (linkPortOf s 0).neighbour = BitVec.ofNat 4 1) ∧
    (let s := woven 1 { state := 2 }
     reachesNeighbour s 0 = true ∧ s.skein.manager = false ∧ (linkPortOf s 0).neighbour = 0) ∧
    (let c := commanded (linked { state := 2 }) 8 0x0910 0 [(8, [3, 1])]
     Can.command c 8 0x0910 [(8, 2)] = true ∧ byteAt (cmdDesc c 8) 8 = 3 ∧ byteAt (cmdDesc c 8) 9 = 1) ∧
    (let x := linkPortOf (linked { state := 2 }) 0
     (flit0.crcOk && flit0.fecOk && flit0.seq == x.expected) = true ∧ x.tx = [] ∧ x.owed = [] ∧ x.replay.length < 64) ∧
    (let s := setLinkPort (woven 0 { state := 2 }) 1 { state := 2, credits := (List.range 8).map (fun k => (k, 32)) }
     let f := { flit0 with dest := 1 }
     f.dest ≠ s.skein.index ∧ routeValid (routeOf s.skein.routes 1) = true ∧ routePort (routeOf s.skein.routes 1) = 0 ∧
     (linkPortOf s 1).current = [] ∧ 0 < tget (linkPortOf s 1).credits 5 0) ∧
    ((linkPortOf (linked { state := 2, replay := [flit0] }) 0).replay.findIdx? (fun f => f.seq == 0) = some 0) := by
  decide +kernel
theorem witness_SkeinFormation :
    (let s := setSec State.reset { State.reset.sec with skeinId := [1] }
     let c := commanded s 8 0x0901 0 [(16, [2, 1])]
     Can.command c 8 0x0901 [(8, 10)] = true ∧ 2 ≤ byteAt (cmdDesc c 8) 16 ∧ byteAt (cmdDesc c 8) 17 < 2 ∧
     le (cmdDesc c 8) 8 8 % 64 = 0 ∧ s.skein.state = 0 ∧ (fit 32 s.sec.skeinId).all (· == 0) = false) ∧
    ((linkPortOf (linked { state := 2 }) 0).state = 2 ∧ (linked { state := 2 }).skein.forming = none) ∧
    (let f : Formation := { slot := 8, members := [[], [], []], next := 1 }
     let s := { State.reset with skein := { State.reset.skein with forming := some f } }
     s.skein.forming = some f ∧ (1 : BitVec 4).toNat = f.next ∧ f.next + 1 < f.members.length ∧
     ({ f with next := 2 } : Formation).members.length ≤ 3) ∧
    (let c := commanded (woven 0 {}) 8 0x0902 0 []
     Can.command c 8 0x0902 [] = true ∧ skeinManager c = true ∧ (jobsWhere c skeinJob).isEmpty = true) ∧
    (skeinFormed (woven 1 {}) = true ∧ (woven 1 {}).skein.manager = false) := by decide +kernel
theorem witness_SkeinLossAndRelays :
    (let c := commanded (woven 0 {}) 8 0x0904 0 [(8, [1])]
     Can.command c 8 0x0904 [(8, 1)] = true ∧ byteAt (cmdDesc c 8) 8 = 1 ∧ skeinManager c = true ∧ skeinLive c 1 = true) ∧
    (skeinFormed (woven 1 {}) = true ∧ (woven 1 {}).skein.manager = false ∧ (0 : BitVec 4) ≠ (woven 1 {}).skein.index) ∧
    (1 ≠ ownIndex (woven 0 {}) ∧ (woven 0 {}).skein.index = 0 ∧ tget (woven 0 {}).skein.unanswered 1 0 < 3) ∧
    (let c := commanded (woven 0 {}) 8 0x0903 0 [(8, [1]), (16, [128]), (24, [32])]
     Can.command c 8 0x0903 [(8, 1), (16, 16)] = true ∧ le (cmdDesc c 8) 16 8 % 128 = 0 ∧ le (cmdDesc c 8) 24 8 % 32 = 0) ∧
    ([({ member := 15 } : Relay)].find? (fun r => r.member == (15 : BitVec 4).toNat) = some { member := 15 }) := by
  decide +kernel

/-- Partition 0 in the skein, expert 5 at home on member 1. -/
def knit (x : Partition) : Partition :=
  { x with granules := [0], experts := [(5, { home := 1, epoch := 3, valid := true })] }
def wovenPart (x : Partition) : State := setSpire (setPart (woven 0 {}) 0 (knit x)) 0 { owner := some 0 }
/-- A send queue whose entry 0 names expert 5 and 64 bytes at 4096; a receive queue of four slots. -/
def sendQ : SkQueue := { slots := 4, base := 8192 }
def recvQ : SkQueue := { receive := true, slots := 4, base := 8192, sem := 1, freeSem := 2, awaiting := [1] }
def msg0 : SkMessage := ⟨1, 0, 0, 0, 0, 5, 3, 0, zeroBytes 64⟩

theorem witness_SkeinQueues :
    (let c := commanded (wovenPart {}) 0 0x0920 0 [(8, [5, 0, 15, 7, 3, 0, 1])]
     Can.partCommand c 0 0x0920 [(8, 7)] (knit {}) = true) ∧
    (let c := commanded (wovenPart {}) 0 0x0921 0 [(8, [3, 1]), (16, toLE 8 4096), (24, [4]), (33, [2])]
     let d := cmdDesc c 0
     Can.partCommand c 0 0x0921 [(8, 8), (16, 10), (32, 16)] (knit {}) = true ∧ queueFields d = true ∧
     (queueOf (knit {}) 3).isSome = bitOf (byteAt d 9) 1 ∧ skeinFormed c = true ∧ partOwnsSpire c 0 0 = true ∧
     (queueRecord d).grants.getD 1 0 ≠ 0 ∧ (queueRecord d).grants.getD 0 0 = 0 ∧ skeinLive c 1 = true) ∧
    (let x := knit { skQueues := [(0, recvQ)] }
     queueOf x 0 = some recvQ ∧ (1 : BitVec 4).toNat ∈ recvQ.awaiting) ∧
    (let x := knit { skQueues := [(0, sendQ)], region := storeWrite {} 8192 (place 32 [(1, [16]), (8, [64]), (12, [5])]) }
     let s := setSem (wovenPart x) 0 0 { value := 1 }
     let p : CreditPool := { dest := 1, credits := 1 }
     let e : SendEntry := ⟨4096, 64, 1, 0, 0, 5, 3, 0⟩
     Can.sendEntry { s with skein := { s.skein with pools := [p] } } 0 0 x sendQ e p = true) ∧
    ([({ dest := 1, expert := 5 } : SkOut)].contains ⟨1, 0, 0, 5, 0⟩ = true) ∧
    (let x := knit { skQueues := [(0, recvQ)] }
     let s := setJob (wovenPart x) 0 { state := 2, header := { skeinQueues := 1 } }
     judgeMessage s 0 x msg0 = .accepted ∧ judgeMessage (wovenPart x) 0 x msg0 ≠ .accepted ∧
     64 + msg0.payload.length ≤ slotBytes recvQ ∧ Can.pulse s 0 1 = true) ∧
    (let s := setSem (wovenPart {}) 0 2 { value := 1 }
     (semOf s 0 2).barrier = false ∧ (semOf s 0 2).value ≠ 0) := by decide +kernel
theorem witness_SkeinBarriersAndPace :
    (let c := commanded (wovenPart {}) 0 0x0930 0 [(8, [15, 31]), (12, toLE 2 288), (14, [3])]
     let d := cmdDesc c 0
     Can.command c 0 0x0930 [(8, 9)] = true ∧ byteAt d 16 = 0 ∧ byteAt d 8 < 16 ∧ le d 12 2 ≤ 288 ∧
     tfind c.skein.barriers 15 = none ∧ bitOf (le d 14 2) (ownIndex c) = true ∧
     (bitsSet 16 (le d 14 2)).all (skeinLive c) = true) ∧
    (let k : SkBarrier := { need := 2, members := 3 }
     let s := { wovenPart {} with skein := { (wovenPart {}).skein with barriers := [(15, k)] } }
     tfind s.skein.barriers 15 = some k ∧ skeinManager s = true ∧ bitOf k.members.toNat 1 = true ∧
     k.arrived ||| BitVec.ofNat 16 (2 ^ 1) ≠ k.members ∧
     ({ k with arrived := 1 } : SkBarrier).arrived ||| BitVec.ofNat 16 (2 ^ 1) = k.members ∧
     (let t := setSem s 0 0 { barrier := true, arrivals := [.spindle 0] }
      (semOf t 0 0).barrier = true ∧ (semOf t 0 0).queue = [] ∧ (semOf t 0 0).pendingReturn = 0)) ∧
    (let s := { wovenPart {} with skein := { (wovenPart {}).skein with pace := true } }
     skeinFormed s = true ∧ s.skein.pace = true ∧ skeinLive s 1 = true ∧ s.skein.reported = [] ∧
     s.jobs.any (fun e => fixedRateJob e.2) = false) := by decide +kernel
theorem witness_SkeinBarriersAndPace_sync :
    let k : SkBarrier := { sem := 1, need := 2, members := 3 }
    let s := programmed {} [desc 5 [(1, [5, 1, 0, 2])]]
    Can.skeinSync { s with skein := { s.skein with barriers := [(15, k)] } } 0 0 0 1 2 15 k = true := by decide +kernel

/-! ### Witnesses: media -/

/-- Partition 0 with pool 0 of bobbins of 64 KiB, and stream 255 of 64 × 64 pictures of codec 3 in it. -/
def pool64k : Pool := { count := 4, sizeClass := 4, cached := [0, 1], ctrl := 1048576, owners := [(2, [0x1000#16])] }
def part64k (q : List (Nat × BatchQueue)) : Partition := { granules := [0], pools := [(0, pool64k)], batchQueues := q }
def streamDecl0 : Bytes := place 16 [(0, [3]), (2, [64]), (4, [64])]
def streaming (x : Stream) : State := setStream (parted (part64k [])) 255 { x with decode := streamDecl0, ringEntries := 16 }
def reading (x : Stream) : State :=
  let s := streaming x
  { s with hif := { s.hif with reads := [{ reader := .intake 255, bytes := 32 }] } }
def frame0 : Frame := ⟨true, false, none, 0, false, 0, 0, 0, .other⟩
def pic0 : PicInfo := ⟨true, true, false, true, false, false, false, false, false, 64, 64, 64, 64, 0, 0, [], [], 0, false, false⟩

theorem witness_StreamsAndIntake :
    (let c := commanded (parted (part64k [])) 0 0x0501 0 [(8, [255]), (12, streamDecl0), (44, [16])]
     Can.partCommand c 0 0x0501 [(8, 84)] (part64k []) = true ∧ openFields (part64k []) (cmdDesc c 0) = true ∧
     (streamOf c 255).state = 0 ∧ flowRefused c (cmdDesc c 0) = false ∧
     openFields (part64k []) (place 128 [(10, [3])]) = false) ∧
    (let c := commanded (streaming { state := 1 }) 0 0x0502 0 [(8, [255])]
     Can.command c 0 0x0502 [(8, 3)] = true ∧ (streamOf c 255).state ≠ 4 ∧ (streamOf c 255).part.val = descPart (cmdDesc c 0)) ∧
    decoding (streaming { state := 4 }) 255 = false ∧
    (Can.ringDoorbell (streaming { state := 1 }) 0 255 && Can.ringDoorbell (streaming { state := 3 }) 1 255) = true ∧
    countDiff 16#32 (streamOf (streaming { state := 1 }) 255).consumed ≤ (streamOf (streaming { state := 1 }) 255).ringEntries ∧
    (let s := reading { state := 1 }
     (readOf s (.intake 255)).isSome = true ∧ streamRuns (streamOf s 255) = true ∧ (streamOf s 255).entry = none ∧
     entryBroken (place 32 [(8, [64]), (12, [1])]) = false ∧ entryBroken (zeroBytes 32) = true) := by decide +kernel
theorem witness_StreamsAndIntake_chunks :
    (let e := place 32 [(8, [64]), (12, [2])]
     let s := reading { state := 1, entry := some e, assembling := some {} }
     (streamOf s 255).entry = some e ∧ (streamOf s 255).assembling = some {} ∧ partOf s 0 = some (part64k []) ∧
     0 + min 4096 (le e 8 4) ≤ (bobbinRange (part64k []) 0).2) ∧
    (let d := cmdDesc (commanded State.reset 8 0x0510 0 [(8, [1, 3]), (10, toLE 2 4094)]) 8
     Can.command (commanded State.reset 8 0x0510 0 [(8, [1, 3]), (10, toLE 2 4094)]) 8 0x0510 [(8, 10), (20, 20)] = true ∧
     byteAt d 8 < 2 ∧ bitOf (byteAt d 9) 1 = true ∧ le d 10 2 ≤ 4094 ∧ field (byteAt d 9) 2 2 ≠ 3 ∧
     bitOf (byteAt d 12) 0 = false) ∧
    (let x : NetPort := { link := true, enabled := true }
     (netPortOf (setNetPort State.reset 1 x) 1).link = true ∧ macAccepts x frame0.dstMac = true ∧ x.vlan.isNone = true ∧
     frame0.malformed = false) ∧
    (let h : HeldPacket := { seq := 7 }
     let s := streaming { state := 1, source := 1, held := [h], nextSeq := some 5 }
     streamRuns (streamOf s 255) = true ∧ (streamOf s 255).held = [h]) := by decide +kernel
/-- An RTP packet of stream 255 on port 0: next in order, late, and already held. -/
theorem witness_StreamsAndIntake_packets :
    let f : Frame := { frame0 with body := .rtp 0 5 9 false 0 (some [1]) }
    let x : Stream := { state := 1, source := 1, nextSeq := some 5, assembling := some {}, lastTs := some 9, flow := zeroBytes 44 }
    let s := setNetPort (streaming x) 0 { link := true, enabled := true }
    matchingFlow s 0 (fun w => filtersMatch w f 0 && w.udp == f.udpPort.toNat && w.pt == 0) = some 255 ∧
    (streamOf s 255).held = [] ∧ (streamOf s 255).nextSeq = some 5 ∧ seqAhead (streamOf s 255) 4 = 65535 ∧
    32768 ≤ seqAhead (streamOf s 255) 3 ∧ seqAhead (streamOf s 255) 3 < 65535 := by decide +kernel

/-- A unit that stream 255 offers to engine 7, and what its picture does. -/
theorem witness_PicturesAndMotion :
    (let s := streaming { state := 1, ready := [{}] }
     (decoderOf s 7).state = 0 ∧ (match nextReady s with | some (.unit k a) => decide (k = 255 ∧ a = {}) | _ => false) = true ∧ headerFailure (streamOf s 255) {} pic0 = none ∧
     headerFailure (streamOf s 255) {} { pic0 with broken := true } = some stBadArgument ∧
     (acquirePicture s 255 {} pic0).2.isSome = true) ∧
    (let s := streaming { state := 2, waitingPic := some { info := some pic0 } }
     (match nextReady s with | some (.granted k p) => decide (k = 255 ∧ p = { info := some pic0 }) | _ => false) = true ∧
     (match nextReady { s with suspended := [(255, {})] } with | some (.saved k p) => decide (k = 255 ∧ p = {}) | _ => false) = true) ∧
    (let s := streaming { state := 3, waitingPic := some { info := some pic0 } }
     (streamOf s 255).state = 3 ∧ (streamOf s 255).waitingPic = some { info := some pic0 } ∧
     (streamDecl (streamOf s 255)).review = false ∧
     0 + (streamDecl (streamOf s 255)).waitLimit < ({ s with time := 3300001 } : State).time.toNat) := by decide +kernel
theorem witness_PicturesAndMotion_engines :
    (let s := streaming { state := 1, ready := [{}] }
     let s := (List.range 8).foldl (fun s k => setDecoder s k { state := 2, picture := some {}, stream := 1 }) s
     (decoderOf s 7).picture = some {} ∧ (List.range 8).all (fun k => (decoderOf s k).state ≠ 0) = true ∧
     liveReady s = true) ∧
    (let p : Picture := { info := some pic0 }
     let s := setDecoder (streaming { state := 2 }) 7 { state := 1, picture := some p, stream := 255 }
     (decoderOf s 7).picture = some p ∧ p.info = some pic0 ∧ partOf s (streamOf s 255).part.val = some (part64k []) ∧
     0 ≤ budgetOf (streamOf s 255) p ∧ pictureBad (part64k []) (streamOf s 255) p = false ∧
     budgetOf (streamOf s 255) p < 2 ^ 40) ∧
    (let b := place 64 [(0, toLE 4 2), (4, toLE 4 2), (9, [1, 1]), (12, [1]), (16, toLE 8 262144), (24, toLE 8 262144)]
     let x := part64k []
     (motionOf (parted x) 1).state = 0 ∧ searchFailure x 0x1000#16 (zeroBytes 64) = some stBadArgument ∧
     searchFailure x 0x1000#16 b = none ∧
     (let s := setMotion (parted x) 1 { state := 1, request := b }
      (motionOf s 1).step = none ∧ searchBad x (decodeSearch b).cur (decodeSearch b).ref = false ∧
      badRead x (decodeSearch b).list 8 = false ∧ badRead x (decodeSearch b).out 8 = false)) := by decide +kernel

/-- Queue 15 of pipeline 255: 1 × 1 images, four slots a batch. -/
def queueDecl : Bytes := place 64 [(0, [1]), (2, [1]), (4, [1]), (5, [1]), (8, [4])]
def queue15 (b : List Batch) (w : List PrepReq) : BatchQueue := { pipe := 255, decl := queueDecl, batches := b, waiting := w }
def prepping (b : List Batch) (w : List PrepReq) : State :=
  let s := parted (part64k [(15, queue15 b w)])
  setPipe s 255 { valid := true, stages := [place 64 [(0, [1]), (4, [15])], place 64 [(0, [2])]] }
/-- A request for a host slot. -/
def hostSlot : Bytes := place 64 [(4, [1]), (12, [15])]

theorem witness_PreparationAndBatches :
    (let x := part64k [(15, queue15 [{}] [])]
     (pipeOf (prepping [{}] []) 255).valid = true ∧ prepFailure x 255 hostSlot none = none ∧
     prepFailure x 255 (zeroBytes 64) none = some stBadArgument ∧ boundQueue x 15 = some (queue15 [{}] []) ∧
     openBatch (queue15 [{}] []) = some {} ∧ requestBoxes x (decodePrep hostSlot) = [(0, 0, 0, 0)] ∧
     (decodePrep hostSlot).close = false ∧ 0 + 1 < (decodeDecl queueDecl).slots) ∧
    (let w : WorkItem := ⟨0, 15, 0, 0, 0, 255, false, hostSlot, (0, 0, 0, 0)⟩
     let s := { prepping [{ slots := [{}] }] [] with workItems := [w] }
     (prepUnitOf s 3).state = 0 ∧ nextItem s.workItems = some w ∧
     (let t := setPrepUnit s 3 { item := some w }
      (prepUnitOf t 3).item = some w ∧ (itemSlot t w).any (fun e => !e.2.2.2.done && !slotBad e.1 e.2.1 e.2.2.1 w.slot) = true) ∧
     (decodePrep hostSlot).host = true ∧ (decodePrep (zeroBytes 64)).host = false ∧
     frameBad (part64k []) (frameInfo (part64k []) 2) = false) ∧
    (let v := queue15 [{ closed := true, slots := [{ done := true }] }] []
     v.batches.find? (fun b => !b.complete) = v.batches.head? ∧
     v.batches.all (fun b => b.closed && b.slots.all (·.done)) = true ∧
     ((queue15 [{}] []).batches.all (fun b => b.closed && b.slots.all (·.done))) = false) ∧
    (let r : PrepReq := { bytes := hostSlot, boxes := [(0, 0, 0, 0)] }
     (queue15 [] [r]).waiting = [r] ∧ r.assigned + 1 = r.boxes.length ∧ openBatch (queue15 [] [r]) = none ∧
     (openNewBatch (prepping [] [r]) 0 15 (queue15 [] [r]) false).2.isSome = true) ∧
    (let b : Batch := { complete := true }
     let s := prepping [b] []
     byteAt (stageAt (pipeOf s 255) (stageInput (pipeOf s 255) 1)) 4 = 15 ∧ netOfQueue (pipeOf s 255) 15 = some 1 ∧
     batchToStart (queue15 [b] []) = some b ∧ batchLate s (queue15 [b] []) b = false ∧ b.result = none) := by decide +kernel

/-! ### Witnesses: pipelines and the Belfry -/

/-- Stages: source, PREP to queue 15, NET of the description at 0, TRACK on it. -/
def stage0 : Bytes := place 32 [(1, [0xFF]), (4, [1, 2])]
def stage1 : Bytes := place 32 [(0, [1]), (4, [15])]
def stage2 : Bytes := place 32 [(0, [2, 1]), (6, [1])]
def stage3 : Bytes := place 32 [(0, [3, 2]), (4, [0xFF, 1, 0, 1, 1]), (11, [1, 1])]
def piped (ps : List PipePicture) : State :=
  let x : Partition := { part64k [] with descs := [{ offset := 0 }] }
  setPipe (parted x) 255 { valid := true, ring := 63, stages := [stage0, stage1, stage2, stage3], pictures := ps }
def pipeCmd (op : Nat) (l : List (Nat × Bytes)) : State :=
  commanded (setStream (piped []) 7 { state := 1 }) 0 op 0 ((8, [255]) :: l)

theorem witness_Pipelines :
    (let x : Partition := { part64k [] with descs := [{ offset := 0 }] }
     let c := commanded (setOring (parted x) 63 ring63) 0 0x0601 0 [(8, [255]), (11, [4]), (20, [63])]
     Can.partCommand c 0 0x0601 [(8, 13)] x = true ∧ (oringOf c 63).valid = true ∧ (pipeOf c 255).valid = false ∧
     stagesSound x (pipeOf (piped []) 255) = true ∧ stagesSound x { stages := [stage1, stage0] } = false) ∧
    (let p := pipeOf (piped []) 255
     (Can.pipeCommand (pipeCmd 0x0602 []) 0 0x0602 [(8, 3)] 255 p
      && Can.pipeCommand (pipeCmd 0x0602 [(10, [1])]) 0 0x0602 [(8, 3)] 255 p) = true ∧ p.removing = false ∧
     Can.pipeCommand (pipeCmd 0x0603 [(16, queueDecl)]) 0 0x0603 [(8, 1), (10, 2), (16, 64)] 255 p = true ∧
     Can.pipeCommand (pipeCmd 0x0604 [(10, [7])]) 0 0x0604 [(8, 4)] 255 p = true ∧
     (streamOf (pipeCmd 0x0604 [(10, [7])]) 7).consumer = none ∧
     Can.pipeCommand (pipeCmd 0x0605 [(10, [7])]) 0 0x0605 [(8, 4)] 255 p = true ∧
     Can.pipeCommand (pipeCmd 0x0606 [(16, hostSlot)]) 0 0x0606 [(8, 2), (16, 64)] 255 p = true) ∧
    (prepFailure (part64k []) 255 hostSlot none = some stBadArgument ∧ stBadArgument ≠ stUncorrectable) := by decide +kernel
theorem witness_Pipelines_track :
    let q : PipePicture := { left := [0, 1, 2], detections := [(2, [{ score := 0x3F800000#32 }])] }
    let prev : PipePicture := { entered := [1, 2, 3], left := [0, 1, 2, 3] }
    (Can.trackStep (piped [q]) 255 0 3 0 q = true ∧ detectionsAt q 2 = [{ score := 0x3F800000#32 }] ∧
     freeTrack (piped [q]) = some 0 ∧ (pipeOf (piped [q]) 255).deferred = []) ∧
    (let s := { piped [prev, q] with tracks := [(5, { pipe := 255 })] }
     Can.trackStep s 255 0 3 1 q = true ∧ previousPicture (pipeOf s 255) 1 3 0 = some prev) ∧
    isNaN (fp32 0x3F800000#32) = false ∧ numLt (fp32 0x3F800000#32) (fp32 0#32) = false := by decide +kernel
theorem witness_Pipelines_tracks :
    (tracksOf { State.reset with tracks := [(5, { pipe := 255 })] } 255 0).isEmpty = false ∧
    tracksOf State.reset 255 0 = [] := by
  simp [tracksOf, State.reset]

/-- The Belfry runs with this content. -/
def belfryOn (b : Belfry) : State := setBelfry State.reset { b with powered := true }

theorem witness_BelfryMeasuring :
    (let s := belfryOn { state := 2, params := { triggerCounts := 4, n := 100, maxInterval := 100 }, count := 4 }
     s.belfry.powered = true ∧ s.belfry.state = 2 ∧ (true != s.belfry.encA) = true ∧
     4 ≤ (s.belfry.count - s.belfry.lastTrigger).natAbs) ∧
    (let s := belfryOn { state := 2, triggered := some 4, frames := [0], calling := some 3 }
     s.belfry.triggered = some 4 ∧ 1 ∉ s.belfry.frames ∧ s.belfry.frames.length < 2) ∧
    (let s := belfryOn { state := 2, params := { n := 100, maxInterval := 100 }, calling := some 100, interval := some 0, totals := { boundary := 100 } }
     s.belfry.calling = some 100 ∧ s.belfry.interval = some 0 ∧ ¬ (100 : Int) < s.belfry.totals.boundary ∧
     ¬ s.belfry.params.maxInterval < ((100 : Int) - 0).natAbs ∧ 1 ≤ s.belfry.params.n) ∧
    (let b : Belfry := { samples := [false, false, true] }
     (decide (2 ≤ b.samples.length) && (b.samples.take 2).all (· == false)) = true ∧ b.tamperOpen = false) ∧
    State.reset.belfry.powered = false := by decide +kernel

/-- A request in the Belfry's inbox, and the command that waits for its reply. -/
def asked (bop n : Nat) (l : List (Nat × Bytes)) : State :=
  belfryOn { inboxFull := true, inbox := place n ((0, toLE 2 bop) :: (4, toLE 4 n) :: l) }

theorem witness_BelfryRequests :
    (let c := commanded (belfryOn {}) 8 0x0B01 0 [(8, [64]), (16, [16]), (28, [64])]
     Can.command c 8 0x0B01 [(8, 24)] = true ∧ c.belfry.inboxFull = false ∧ waitingSlots c 0x0B01 (fun _ => true) = [] ∧
     blfOperations.contains 0x0030 = true ∧ blfOperations.contains 0 = false) ∧
    (let s := { State.reset with running := [(9, { desc := place 128 [(0, toLE 2 0x0B01)], waiting := true })] }
     waitingSlots s 0x0B01 (fun _ => true) = [9] ∧ (runningOf s 9).isSome = true) ∧
    Can.command (commanded (belfryOn {}) 8 0x0B02 0 [(24, [64])]) 8 0x0B02 [(8, 18)] = true ∧
    ([0x0001, 0x0002, 0x0021, 0x0030].all (fun o => Can.blfOperation (asked o 16 []) o)) = true ∧
    (let s := asked 0x0003 20 [(18, [1])]
     Can.blfOperation s 0x0003 = true ∧ s.belfry.inbox.length = 20) ∧
    ([0x0010, 0x0011].all (fun o => Can.blfOperation (asked o 21 []) o)) = true ∧
    (let s := asked 0x0020 49 [(16, [4])]
     Can.blfOperation s 0x0020 = true ∧ 17 ≤ s.belfry.inbox.length ∧ commitFailure s.belfry s.belfry.inbox = none ∧
     commitFailure s.belfry (asked 0x0020 17 []).belfry.inbox = some stBadArgument) ∧
    (setBoot State.reset { State.reset.boot with stage := 3 }).boot.stage = 3 := by decide +kernel

/-! ### Witnesses: power, start, errors, the host link, registers, the machine as a whole -/

def booted (b : Boot) : State := setBoot State.reset b
def powered (p : Power) : State := setPower (running State.reset) p
def hosted (h : HostIf) : State := setHif (running State.reset) h

theorem witness_PowerControl :
    (running State.reset).boot.started = true ∧ State.reset.boot.started = false ∧
    (16 ≤ (powered { disagree := 16 }).power.disagree ∧ (powered { disagree := 16 }).power.measuredOnly = false ∧
     (powered { disagree := 15 }).power.disagree < 16) ∧
    Can.command (commanded State.reset 8 0x0702 0 []) 8 0x0702 [] = true ∧ (powered { recal := [8] }).power.recal = [8] ∧
    Can.command (commanded State.reset 8 0x0701 0 [(8, toLE 4 120000)]) 8 0x0701 [(8, 4)] = true ∧
    (let c := jobCmd { state := 2 } 0x0703
     Can.command c 0 0x0703 [(8, 5)] = true ∧
     (match jobNamed c (descPart (cmdDesc c 0)) (le (cmdDesc c 0) 8 4) with | .ok j => j == 1 | .error _ => false) = true) ∧
    (let at' := fun (t : BitVec 16) => setDome State.reset 3 { throttling := true, junction := t }
     (domeOf (at' 1520) 3).throttling = true ∧ 95 * 16 ≤ (domeOf (at' 1520) 3).junction.toInt ∧
     (domeOf (at' 1472) 3).junction.toInt ≤ 92 * 16 ∧ (domeOf (at' 1519) 3).junction.toInt < 95 * 16 ∧
     92 * 16 < (domeOf (at' 1473) 3).junction.toInt) := by decide +kernel
theorem witness_SupplyAndRails :
    (let s := fun (n : Nat) => booted { started := true, rails := n, stage := 1 }
     (s 7).boot.rails = 7 ∧ (s 6).boot.rails < 7 ∧ (s 8).boot.rails = 8 ∧ (s 0).boot.started = true ∧
     (s 8).power.dip = false ∧ (s 8).boot.stage ≠ 3) ∧
    ((running State.reset).boot.stage = 3 ∧ (running State.reset).power.dip = false ∧ (powered { dip := true }).power.dip = true) := by
  decide +kernel
theorem witness_StartAndRecovery :
    (let s := fun (r : Bool) => booted { rails := 8, started := true, romRunning := true, stage := 1, perst := false, requested := r }
     Can.readImage (s true) = true ∧ Can.readImage (s false) = true ∧ (s true).boot.requested = true) ∧
    (Can.romStart (booted { rails := 8 }) = true ∧ Can.romStart State.reset = false ∧ Can.readImage State.reset = false) ∧
    (booted { stage := 2 }).boot.firmwareEnded = false ∧ (booted { recState := 1 }).boot.recState = 1 ∧
    ((booted { recState := 3, stage := 4 }).boot.recState = 3 ∧ (booted { recState := 3, stage := 4 }).boot.stage = 4) := by
  decide +kernel
theorem witness_StartAndRecovery_image (i : FwImage) :
    (booted { recState := 4, stage := 4, staged := some i }).boot.staged = some i ∧
    (booted { recState := 4, romRunning := true, perst := false, staged := some i }).boot.stage = 0 := ⟨rfl, rfl⟩
theorem witness_ErrorsAndLifeLog :
    placeSpire (.spire 31) = some 31 ∧ (running State.reset).boot.stage = 3 ∧ State.reset.boot.stage ≠ 3 ∧
    (running State.reset).boot.bootsCounted = true ∧ State.reset.boot.bootsCounted = false ∧
    Can.command (commanded State.reset 8 0x0A02 0 []) 8 0x0A02 [] = true ∧
    (let c := commanded State.reset 8 0x0A01 0 [(8, [64]), (16, [1])]
     Can.command c 8 0x0A01 [(8, 40)] = true ∧ le (cmdDesc c 8) 8 8 % 64 = 0) := by decide +kernel
theorem witness_PcieResets :
    State.reset.boot.perst = true ∧ (running State.reset).boot.perst = false ∧ (booted { perst := false }).boot.stage ≠ 3 ∧
    (hosted { linkUp := true }).hif.linkUp = true ∧ (hosted { configReady := true }).hif.configReady = true ∧
    ((hosted { vfEnable := true, numVfs := 8 }).hif.vfEnable = true ∧ (7 : Fin 8).val < (hosted { vfEnable := true, numVfs := 8 }).hif.numVfs) ∧
    State.reset.hif.vfEnable = false ∧ (running State.reset).boot.romRunning = true := by decide +kernel
theorem witness_PcieRequests :
    (let r : HostRead := { tag := 9, bytes := 64, reader := .lantern 8, sent := true }
     let s := commanded (hosted { reads := [r] }) 8 0x0311 0 [(24, [64])]
     openRead s 9 = some r ∧ (runningOf s 8).any (fun x => le x.desc 0 2 == 0x0311 && reservedZero x.desc [(8, 20)] && !x.waiting)
      = true ∧ openRead s 8 = none) ∧
    (let h : HostIf := { linkUp := true, configReady := true, vfEnable := true, numVfs := 7, xlateSent := [(1, 5, false)] }
     h.xlateSent.find? (fun e => e.1 == (1 : Fn).val && e.2.1 == 5) = some (1, 5, false) ∧
     h.xlateSent.find? (fun e => e.1 == (1 : Fn).val && e.2.1 == 6) = none ∧
     ((7 : Fn).val == 0 || (h.vfEnable && decide ((7 : Fn).val ≤ h.numVfs))) = true ∧
     ((!h.vfEnable || decide (h.numVfs < (8 : Fn).val)) = true)) := by decide +kernel
theorem witness_Registers :
    (let s := setMailbox (running State.reset) 8 mb8
     s.boot.stage = 3 ∧ Can.mailboxWrite s 0 8 false = true ∧ Can.mailboxWrite s 1 8 false = false) ∧
    (let s := setStream (running State.reset) 255 { state := 1 }
     shows 1 (streamOwner s 255) = true ∧ shows 2 (streamOwner s 255) = false) ∧ State.reset.boot.stage ≠ 3 ∧
    (((2 : BitVec 28).toNat % 4 != 0) = true) := by decide +kernel
theorem witness_StepRunsCommand :
    State.reset.pending = [] ∧ (running State.reset).pending = [] ∧ (running State.reset).boot.rails = 8 ∧
    State.reset.boot.rails ≠ 8 := by decide +kernel
theorem witness_FusesNeverUnburnt : FuseInv State.reset ∧ (running State.reset).boot.stage = 3 := by
  refine ⟨?_, rfl⟩
  simp [FuseInv, State.reset]
theorem witness_BelfrySeparation :
    belfryInput .trigger = true ∧ belfryInput .fatalRestart = false ∧ belfryRequest .fatalRestart = false ∧
    (belfryOn { secret := [1] }).belfry.secret ≠ [] := by decide +kernel
theorem witness_WorkCounterFetch : Can.workFetch (programmed {} [desc 1 [(1, [8])]]) 0 0 = true := by decide +kernel

/-! ### Results that the spec works out -/

/-- The table of R73: target, source bits, result bits, saturations, underflows. -/
theorem test_conversions :
    [(fmtBf16, 0x3F808000#32, 0x3F81, 0, 0), (fmtBf16, 0xBF808000#32, 0xBF81, 0, 0), (fmtBf16, 0x7F7FFFFF#32, 0x7F7F, 1, 0),
     (fmtBf16, 0x7F800000#32, 0x7F7F, 1, 0), (fmtBf16, 0xFFC01234#32, 0x7FC0, 0, 0), (fmtBf16, 0x00008000#32, 0x0001, 0, 0),
     (fmtBf16, 0x00007FFF#32, 0x0000, 0, 1), (fmtBf16, 0x80000200#32, 0x8000, 0, 1), (fmtFp16, 0x477FF000#32, 0x7BFF, 1, 0),
     (fmtFp16, 0x3F801000#32, 0x3C01, 0, 0), (fmtFp16, 0x33000000#32, 0x0001, 0, 0), (fmtFp16, 0x32800000#32, 0x0000, 0, 1),
     (fmtE4m3, 0x3F880000#32, 0x39, 0, 0), (fmtE4m3, 0x43E80000#32, 0x7E, 1, 0), (fmtE4m3, 0x3A800000#32, 0x01, 0, 0),
     (fmtE5m2, 0x47700000#32, 0x7B, 1, 0), (fmtE2m1, 0x40200000#32, 0x5, 0, 0), (fmtE2m1, 0x40A00000#32, 0x7, 0, 0),
     (fmtE2m1, 0x40E00000#32, 0x7, 1, 0), (fmtE2m1, 0xBE800000#32, 0x9, 0, 0), (fmtInt8, 0x42FF0000#32, 0x7F, 1, 0),
     (fmtInt8, 0xC2FF0000#32, 0x80, 0, 0), (fmtInt8, 0xBF000000#32, 0xFF, 0, 0), (fmtInt8, 0x3EFAE148#32, 0x00, 0, 1),
     (fmtUint8, 0xC0400000#32, 0x00, 1, 0), (fmtUint8, 0xBF000000#32, 0x00, 1, 0), (fmtUint8, 0xBE99999A#32, 0x00, 0, 1)].all
      (fun r => toElement r.1 (fp32 r.2.1) == ⟨r.2.2.1, r.2.2.2.1, r.2.2.2.2⟩) = true := by decide +kernel

/-- The block of the example under R64. -/
def beltBlock : List FpVal := (List.range 32).map (fun i => fp32 (tget
  [(5, 0x40400000#32), (17, 0xC0200000#32), (30, 0x3F666666#32), (9, 0x3E570A3D#32), (12, 0xBE4CCCCD#32),
   (3, 0x3DA00000#32), (4, 0xBC800000#32), (7, 0x3C23D70A#32)] i 0))

theorem test_en4_block :
    let p := packEn4 beltBlock 4 19
    p.entry = 0x337A ∧ (packCodes fmtEn4 p.codes).getD 1 0 = 0x30 ∧ (packCodes fmtEn4 p.codes).getD 2 0 = 0x8F ∧
    p.codes.getD 9 0 = 7 ∧ p.codes.getD 12 0 = 0xA ∧ leNat p.knots = 0x00003F66C0204040 ∧ p.sat = 0 ∧ p.ufl = 1 := by
  decide +kernel
/-- The same block under L = 2. -/
theorem test_en4_limit : let p := packEn4 beltBlock 2 19
    p.codes.getD 3 0 = 1 ∧ p.codes.getD 12 0 = 0xE ∧ field p.entry 0 8 = 124 := by decide +kernel
/-- R69: 460 and 470 under E4M3. -/
theorem test_mx_scale :
    let one := fun (w : Word) => packMx fmtE4m3 (fp32 w :: List.replicate 31 .zero) 0
    ((one 0x43E60000#32).codes.getD 0 0, (one 0x43E60000#32).sat, field (one 0x43E60000#32).entry 0 8) = (0x7E, 0, 127) ∧
    ((one 0x43EB0000#32).codes.getD 0 0, (one 0x43EB0000#32).sat) = (0x7E, 1) := by decide +kernel
/-- The example of chapter 9: usable offset 0x10040 of a protected region. -/
theorem test_protected_block : let x : Partition := { ecc := true, granules := List.range 12 }
    (dataBlock x 0x10040, checkBlock 0x10040, blockChannel 264, blockChannel 287, blockRow 264) = (264, 287, 11, 10, 0) := by
  decide +kernel
/-- The colours of the example of chapter 12, before normalisation. -/
theorem test_colour : colourOf 1 2 103 120 140 = [123, 97, 84] := by decide +kernel
/-- No word spells a command: the table gives no row a bit. -/
theorem test_no_word : (decodeTableWord 64 0).isNone = true ∧ State.reset.withFetchWord 64 0 = State.reset := by decide

/-! ### Commands that are not well formed are refused by the check -/

def flat0 : FwImage := ⟨true, [], []⟩

theorem smoke_ill_formed :
    [Instr.registerWrite 0 0x1021 0, .configurationRequest 0 (.read 2), .configurationRequest 0 (.write 4096 0),
     .configurationRequest 0 (.vfs true 9), .memoryRequest .host 0 60 (.read 5), .memoryRequest .host 0 0 (.read 0),
     .poolGroup 0 [], .mr4Read 0 192, .ringEntryRead 0 (some []), .motionSearchRequest 0 0 0 [], .preparationRequest 0 [],
     .cmdSkeinForm 8 (some [0]), .cmdSkeinRelay 8 (some []), .flit 0 { flit0 with payload := zeroBytes 121 },
     .linkKeyExchange 0 [] [] [], .admitMessage ⟨1, 1, [], 0, [], false⟩, .relayedCommand [], .relayCompletion 1 [],
     .creditGrant 0 0 0 0 9 1, .commandBegin 8 (some (zeroBytes 64)), .cmdOwnerEnroll 8 (some []), .cmdSessionOpen 0 (some []),
     .thermalRead 0 [], .invalidationRequest 0 1 4096, .invalidationRequest 0 0 0, .translationCompletion 0 (2 ^ 52) 0 true true,
     .imageVerified flat0, .firmwareStartEnd ⟨[3, 3], [], []⟩].all (fun c => !c.wf) = true := by decide +kernel
theorem smoke_too_long (b : Bytes) (h : b.length = 65537) : (Instr.chunkCopyComplete 0 (some b)).wf = false ∧
    (Instr.cmdBlfRequest 8 (some b)).wf = false := by
  constructor <;> simp only [Instr.wf, atMost, h] <;> decide
theorem smoke_well_formed :
    [Instr.registerWrite 0 0x1020 0, .configurationRequest 0 (.read 4092), .memoryRequest .host 0 60 (.read 4),
     .poolGroup 0 [(0, 0)], .mr4Read 0 85, .ringEntryRead 0 (some (zeroBytes 32)), .ringEntryRead 0 none,
     .commandBegin 8 (some (zeroBytes 128)), .thermalRead 0 [0, 0, 0, 0], .flit 0 flit0, .cmdDevInfo 8].all Instr.wf = true := by
  decide +kernel

/-! ### One step -/

/-- A write of LAN_MB_CFG reaches the mailbox through the register window (R393, R485). -/
theorem test_register_write :
    (match exec (.registerWrite 0 0x1820 0x00060504#32) (setMailbox (running State.reset) 8 mb8) with
     | .next t => decide (((mailboxOf t 8).evtLog2, (mailboxOf t 8).cplLog2, (mailboxOf t 8).cmdLog2) = (6, 5, 4))
     | _ => false) = true := by decide +kernel
/-- CMD_DEV_INFO leaves its slot and counts one completion (R394, R400). -/
theorem test_dev_info :
    (match step { commanded (mailed { mb8 with enable := true }) 8 0x0101 0 [] with pending := [.cmdDevInfo 8] } with
     | .next t => decide ((mailboxOf t 8).cplProduced = 1) && (runningOf t 8).isNone && t.pending.isEmpty
     | _ => false) = true := by decide +kernel
/-- The queue is first in, first out. -/
theorem test_queue_order :
    (match step { State.reset with pending := [.ethLinkChange 0 true, .perstAssert] } with
     | .next t => decide (t.pending = [.perstAssert])
     | _ => false) = true := by decide +kernel

end Sys2Proof.Tests
end

section
/-! PROOFS. The register window of BAR0 (R11, R45, R306, R393, R461, R480, R484 to R486, R515, R523): what a write of
each group of registers does, what the LO and HI registers show, what a LO read leaves behind, and the statement of
chapter 00. -/

namespace Sys2Proof.Machine

/-! ### Outcomes, tables and MSI-X vectors -/

/-- An effect that leaves the queue alone is the outcome itself. -/
theorem finish_eq_next {F : List Field} {s t : State} (h : Only F s t) (hF : Field.pending ∉ F) :
    finish s t = .next t := by
  have hp : t.pending = s.pending := h.keeps .pending hF
  unfold finish
  rw [← hp]

@[simp] theorem finish_self (s : State) : finish s s = .next s := rfl
@[simp] theorem finish_setVec (s : State) (fn k : Nat) (x : MsixVec) :
    finish s (setVec s fn k x) = .next (setVec s fn k x) := rfl

theorem tset_tset {α : Type} (t : Table α) (k : Nat) (u v : α) : tset (tset t k u) k v = tset t k v := by
  induction t with
  | nil => simp [tset]
  | cons e r ih =>
    obtain ⟨i, w⟩ := e
    by_cases hi : i = k
    · simp [tset, hi]
    · by_cases hk : k < i <;> simp [tset, hi, hk, ih]

@[simp] theorem vecOf_setVec_same (s : State) (fn k : Nat) (x : MsixVec) : vecOf (setVec s fn k x) fn k = x := by
  simp [vecOf, setVec]
@[simp] theorem cfgOf_setVec (s : State) (fn k : Nat) (x : MsixVec) (f : Nat) :
    cfgOf (setVec s fn k x) f = cfgOf s f := rfl
@[simp] theorem setVec_setVec (s : State) (fn k : Nat) (x y : MsixVec) :
    setVec (setVec s fn k x) fn k y = setVec s fn k y := by
  simp [setVec, tset_tset, setHif]

/-- A vector whose cause may leave sends it when its pending bit is set (R491). -/
theorem sendPending_of_ready {s : State} {fn k : Nat} (hp : (vecOf s fn k).pendingBit = true)
    (he : (cfgOf s fn).msixEnable = true) (hf : (cfgOf s fn).msixMask = false) (hm : (vecOf s fn k).masked = false) :
    sendPending fn s k = raiseVector (setVec s fn k { vecOf s fn k with pendingBit := false }) fn k := by
  simp [sendPending, hp, he, hf, hm]

/-- A masked vector, or one with nothing pending, sends nothing (R491). -/
theorem sendPending_of_not_ready {s : State} {fn k : Nat} (h : (vecOf s fn k).masked = true ∨
    (vecOf s fn k).pendingBit = false ∨ (cfgOf s fn).msixEnable = false ∨ (cfgOf s fn).msixMask = true) :
    sendPending fn s k = s := by
  unfold sendPending
  obtain h | h | h | h := h <;> simp [h]

/-! ### Writes, by the group of registers that the offset names -/

theorem lanternRuns_of_stage {s : State} (hs : s.boot.stage = 3) : lanternRuns s = true := decide_eq_true hs
theorem lanternRuns_of_stage_ne {s : State} (hs : s.boot.stage ≠ 3) : lanternRuns s = false := decide_eq_false hs

theorem exec_registerWrite_ofNat {off : Nat} (h : off < 2 ^ 28) (s : State) (fn : Fn) (v : Word) :
    exec (.registerWrite fn (BitVec.ofNat 28 off) v) s = finish s (registerWrite s fn.val off v) := by
  have e : (BitVec.ofNat 28 off).toNat = off := by rw [BitVec.toNat_ofNat, Nat.mod_eq_of_lt h]
  change finish s (registerWrite s fn.val (BitVec.ofNat 28 off).toNat v) = _
  rw [e]

/-- The boot and recovery registers take writes in every stage (R523). -/
theorem exec_registerWrite_recovery (s : State) (fn : Fn) (v : Word) {off : Nat} (h4 : off % 4 = 0) (lo : 0x700 ≤ off)
    (hi : off < 0x718) :
    exec (.registerWrite fn (BitVec.ofNat 28 off) v) s = finish s (writeRecovery s fn.val off v) := by
  rw [exec_registerWrite_ofNat (by omega), registerWrite, if_neg (by omega), if_pos (by simp [lo, hi])]

section
variable {s : State} (hs : s.boot.stage = 3) (fn : Fn) (v : Word)
include hs

/-- While the module runs the offset alone says which group a write goes to (R11, R485). -/
theorem registerWrite_running (fn off : Nat) : registerWrite s fn off v =
    if off % 4 ≠ 0 then s
    else if 0x700 ≤ off ∧ off < 0x718 then writeRecovery s fn off v
    else if 0x1000 ≤ off ∧ off < 0x1900 then writeMailbox s fn ((off - 0x1000) / 0x100) (off % 0x100) v
    else if (0x6000 ≤ off ∧ off < 0x6400) ∧ off % 16 = 0 then oringDoorbell s fn ((off - 0x6000) / 16) v
    else if 0xF000 ≤ off ∧ off < 0xF030 then writeVector s fn (off - 0xF000) v
    else if (0x5010000 ≤ off ∧ off < 0x5014000) ∧ off % 0x40 = 0x18 then
      medRingDoorbell s fn ((off - 0x5010000) / 0x40) v
    else s := by
  simp only [registerWrite, lanternRuns_of_stage hs, Bool.not_true, Bool.false_eq_true, if_false, Bool.and_eq_true,
    decide_eq_true_eq]

theorem exec_registerWrite_mailbox (m : Fin 9) {o : Nat} (h4 : o % 4 = 0) (ho : o < 0x100) :
    exec (.registerWrite fn (BitVec.ofNat 28 (0x1000 + 0x100 * m.val + o)) v) s
      = finish s (writeMailbox s fn.val m.val o v) := by
  have hq : (0x1000 + 0x100 * m.val + o - 0x1000) / 0x100 = m.val := by omega
  have hr : (0x1000 + 0x100 * m.val + o) % 0x100 = o := by omega
  rw [exec_registerWrite_ofNat (by omega), registerWrite_running hs, if_neg (by omega), if_neg (by omega),
    if_pos (by omega), hq, hr]

theorem exec_registerWrite_oring (r : Fin 64) :
    exec (.registerWrite fn (BitVec.ofNat 28 (0x6000 + 16 * r.val)) v) s = exec (.lanOringDoorbell fn r v) s := by
  have hq : (0x6000 + 16 * r.val - 0x6000) / 16 = r.val := by omega
  rw [exec_registerWrite_ofNat (by omega), registerWrite_running hs, if_neg (by omega), if_neg (by omega),
    if_neg (by omega), if_pos (by omega), hq]
  rfl

theorem exec_registerWrite_stream (k : Fin 256) :
    exec (.registerWrite fn (BitVec.ofNat 28 (0x5010018 + 0x40 * k.val)) v) s = exec (.medRingDoorbell fn k v) s := by
  have hq : (0x5010018 + 0x40 * k.val - 0x5010000) / 0x40 = k.val := by omega
  rw [exec_registerWrite_ofNat (by omega), registerWrite_running hs, if_neg (by omega), if_neg (by omega),
    if_neg (by omega), if_neg (by omega), if_neg (by omega), if_pos (by omega), hq]
  rfl

theorem exec_registerWrite_vector (k : Fin 3) {o : Nat} (h4 : o % 4 = 0) (ho : o < 16) :
    exec (.registerWrite fn (BitVec.ofNat 28 (0xF000 + 16 * k.val + o)) v) s
      = finish s (writeVector s fn.val (16 * k.val + o) v) := by
  have hq : 0xF000 + 16 * k.val + o - 0xF000 = 16 * k.val + o := by omega
  rw [exec_registerWrite_ofNat (by omega), registerWrite_running hs, if_neg (by omega), if_neg (by omega),
    if_neg (by omega), if_neg (by omega), if_pos (by omega), hq]

end

/-- A write that no register of the function takes changes nothing (R11, R485, R515). -/
theorem registerWrite_ignored {s : State} {fn off : Nat} {v : Word}
    (h : off % 4 ≠ 0 ∨ (s.boot.stage ≠ 3 ∧ (off < 0x700 ∨ 0x718 ≤ off)) ∨ (fn ≠ 0 ∧ 0x700 ≤ off ∧ off < 0x718) ∨
      off < 0x700 ∨ (0x718 ≤ off ∧ off < 0x1000) ∨ (0x1900 ≤ off ∧ off < 0x6000) ∨ (0x6400 ≤ off ∧ off < 0xF000) ∨
      (0xF030 ≤ off ∧ off < 0x5010000) ∨ 0x5014000 ≤ off) : registerWrite s fn off v = s := by
  by_cases h4 : off % 4 ≠ 0
  · rw [registerWrite, if_pos h4]
  by_cases hr : 0x700 ≤ off ∧ off < 0x718
  · rw [registerWrite, if_neg h4, if_pos (by simpa using hr), writeRecovery, if_pos (by omega)]
  by_cases hs : s.boot.stage = 3
  · simp only [hs, ne_eq, not_true_eq_false, false_and, false_or] at h
    rw [registerWrite_running hs, if_neg h4, if_neg hr, if_neg (by omega), if_neg (by omega), if_neg (by omega),
      if_neg (by omega)]
  · rw [registerWrite, if_neg h4, if_neg (by simpa using hr), if_pos (by simp [lanternRuns_of_stage_ne hs])]

/-! ### Words of an MSI-X vector (R484) -/

section
variable (s : State) (fn k : Nat) (v : Word)

theorem writeVector_addrLo : writeVector s fn (16 * k) v = setVec s fn k { vecOf s fn k with addrLo := v } := by
  simp [writeVector]
theorem writeVector_addrHi : writeVector s fn (16 * k + 4) v = setVec s fn k { vecOf s fn k with addrHi := v } := by
  simp [writeVector, Nat.mul_add_div]
theorem writeVector_data : writeVector s fn (16 * k + 8) v = setVec s fn k { vecOf s fn k with data := v } := by
  simp [writeVector, Nat.mul_add_div]
theorem writeVector_control : writeVector s fn (16 * k + 12) v =
    sendPending fn (setVec s fn k { vecOf s fn k with masked := v.getLsbD 0 }) k := by
  simp [writeVector, Nat.mul_add_div]

variable {s fn k v}

/-- A vector that stays masked, or that has no cause to send, takes its mask bit only (R491). -/
theorem writeVector_control_quiet (h : v.getLsbD 0 = true ∨ (vecOf s fn k).pendingBit = false ∨
    (cfgOf s fn).msixEnable = false ∨ (cfgOf s fn).msixMask = true) :
    writeVector s fn (16 * k + 12) v = setVec s fn k { vecOf s fn k with masked := v.getLsbD 0 } := by
  rw [writeVector_control, sendPending_of_not_ready]
  simpa using h

/-- A vector unmasked sends the cause that its pending bit holds (R491). -/
theorem writeVector_control_sends (hm : v.getLsbD 0 = false) (hp : (vecOf s fn k).pendingBit = true)
    (he : (cfgOf s fn).msixEnable = true) (hf : (cfgOf s fn).msixMask = false) :
    writeVector s fn (16 * k + 12) v =
      raiseVector (setVec s fn k { vecOf s fn k with masked := false, pendingBit := false }) fn k := by
  rw [writeVector_control, hm, sendPending_of_ready] <;> simp [hp, he, hf]

end

/-! ### Bases of a mailbox (R393) -/

/-- A mailbox with its base of number k, in the order of its registers, replaced. -/
def withBase (b : Mailbox) (k : Fin 4) (f : BitVec 64 → BitVec 64) : Mailbox :=
  match k with
  | 0 => { b with cmdBase := f b.cmdBase }
  | 1 => { b with cplBase := f b.cplBase }
  | 2 => { b with evtBase := f b.evtBase }
  | 3 => { b with statBase := f b.statBase }

theorem writeBase_of_can {s : State} {fn m : Nat} (h : Can.mailboxWrite s fn m false = true) (k : Fin 4) (hi : Bool)
    (v : Word) : writeBase s fn m (8 * k.val + if hi then 4 else 0) v =
      setMailbox s m (withBase (mailboxOf s m) k (putHalf · hi v)) := by
  obtain ⟨⟨hp, hw⟩, he⟩ : ((mailboxOf s m).present = true ∧ mailboxWriter fn m = true) ∧
      (mailboxOf s m).enable = false := by
    simpa [Can.mailboxWrite] using h
  unfold writeBase
  rw [if_neg (by simp [hp, hw, he])]
  fin_cases k <;> cases hi <;> rfl

/-- A write of a base of a disabled mailbox by a function that may write it (R393, R409). -/
theorem exec_registerWrite_base {s : State} (hs : s.boot.stage = 3) {fn : Fn} {m : Fin 9}
    (h : Can.mailboxWrite s fn m false = true) (k : Fin 4) (hi : Bool) (v : Word) :
    exec (.registerWrite fn (BitVec.ofNat 28 (0x1000 + 0x100 * m.val + 8 * k.val + if hi then 4 else 0)) v) s
      = .next (setMailbox s m (withBase (mailboxOf s m) k (putHalf · hi v))) := by
  have ho : 8 * k.val + (if hi then 4 else 0) < 0x20 := by split <;> omega
  rw [Nat.add_assoc, exec_registerWrite_mailbox hs fn v m (by split <;> omega) (by omega), writeMailbox, if_pos ho,
    writeBase_of_can h, finish_eq_next (only_setMailbox _ _ _) (by decide)]

theorem writeBase_of_cannot {s : State} {fn m : Nat} (h : Can.mailboxWrite s fn m false = false) (off : Nat) (v : Word) :
    writeBase s fn m off v = s := by
  unfold writeBase
  rw [if_pos]
  revert h
  unfold Can.mailboxWrite
  cases (mailboxOf s m).present <;> cases mailboxWriter fn m <;> cases (mailboxOf s m).enable <;> simp

/-! ### LO and HI registers (R45, R306, R461, R480) -/

@[simp] theorem latchesOf_setLatches (s : State) (fn k : Nat) (l : Latches) :
    latchesOf (setLatches s fn l) k = if fn = k then l else latchesOf s k := tget_tset _ _ _ _ _
@[simp] theorem latchesOf_emit (s : State) (o : Output) (k : Nat) : latchesOf (emit s o) k = latchesOf s k := rfl

theorem loRead_of_sees {s : State} (hs : s.boot.stage = 3) {sees : Bool} (hsees : sees = true) (fn off : Nat)
    (f : Latches → Latches) : loRead s fn off sees f =
      setLatches (emit s (.regValue fn off (registerValue s fn off))) fn (f (latchesOf s fn)) := by
  simp [loRead, lanternRuns_of_stage hs, hsees]

theorem loRead_hidden (s : State) (fn off : Nat) (f : Latches → Latches) :
    loRead s fn off false f = emit s (.regValue fn off (registerValue s fn off)) := by
  simp [loRead]

theorem finish_loRead (s : State) (fn off : Nat) (sees : Bool) (f : Latches → Latches) :
    finish s (loRead s fn off sees f) = .next (loRead s fn off sees f) :=
  finish_eq_next (only_loRead _ _ _ _ _) (by decide)

theorem streamOwner_congr {s t : State} (h : t.streams = s.streams) (k : Nat) : streamOwner t k = streamOwner s k := by
  have hk : streamOf t k = streamOf s k := by simp only [streamOf, h]
  simp only [streamOwner, hk]

/-- What a LO read leaves where the function sees the register: the value sent, the latches of the function, and the
rest of the state. -/
theorem loRead_effect {s : State} (hs : s.boot.stage = 3) {sees : Bool} (hsees : sees = true) (fn off : Nat)
    (f : Latches → Latches) :
    let t := loRead s fn off sees f
    t.out = .regValue fn off (registerValue s fn off) :: s.out ∧ t.boot = s.boot ∧ t.streams = s.streams ∧
    (∀ k, latchesOf t k = if fn = k then f (latchesOf s fn) else latchesOf s k) ∧
    t.hif = { s.hif with latches := t.hif.latches } ∧ Only [.hif, .out] s t := by
  refine ⟨?_, ?_, ?_, fun k => ?_, ?_, (only_loRead _ _ _ _ _).mono (by decide)⟩ <;> rw [loRead_of_sees hs hsees]
  · rfl
  · rfl
  · rfl
  · simp
  · rfl

/-- A LO read whose HI register shows `hi` of the function's latches. -/
theorem loRead_latches_high {s : State} (hs : s.boot.stage = 3) {fn off : Nat} {x : BitVec 64} {f : Latches → Latches}
    {hi : Latches → Word} (hlo : registerValue s fn off = lowWord x)
    (hhi : ∀ u k, u.boot.stage = 3 → registerValue u k (off + 4) = hi (latchesOf u k))
    (hf : hi (f (latchesOf s fn)) = highWord x) :
    let t := loRead s fn off true f
    t.out = .regValue fn off (x.extractLsb' 0 32) :: s.out ∧ registerValue t fn (off + 4) = x.extractLsb' 32 32 ∧
    (∀ k, k ≠ fn → registerValue t k (off + 4) = registerValue s k (off + 4)) ∧
    t.hif = { s.hif with latches := t.hif.latches } ∧ Only [.hif, .out] s t := by
  obtain ⟨hout, hboot, -, hl, hhif, honly⟩ := loRead_effect hs rfl fn off f
  have ht : (loRead s fn off true f).boot.stage = 3 := by rw [hboot, hs]
  refine ⟨by rw [hout, hlo]; rfl, ?_, fun k hk => ?_, hhif, honly⟩
  · rw [hhi _ _ ht, hl, if_pos rfl, hf]; rfl
  · rw [hhi _ _ ht, hhi _ _ hs, hl, if_neg (Ne.symm hk)]

theorem flowReg_arrivalHi (s : State) (fn k : Nat) : flowReg s fn k 0x08 = tget (latchesOf s fn).arrivalHi k 0 := rfl
theorem flowReg_srNtpHi (s : State) (fn k : Nat) : flowReg s fn k 0x10 = tget (latchesOf s fn).srNtpHi k 0 := rfl
theorem flowReg_srRtp (s : State) (fn k : Nat) : flowReg s fn k 0x14 = tget (latchesOf s fn).srRtp k 0 := rfl
theorem flowReg_srStamp (s : State) (fn k : Nat) : flowReg s fn k 0x18 = tget (latchesOf s fn).srStamp k 0 := rfl

section
variable {s : State} (hs : s.boot.stage = 3) (fn : Nat)
include hs

theorem registerValue_low {off : Nat} (h : off < 0x100000) : registerValue s fn off = lowRegister s fn off := by
  simp [registerValue, lanternRuns_of_stage hs, h]
theorem registerValue_high {off : Nat} (h : 0x100000 ≤ off) : registerValue s fn off = highRegister s fn off := by
  simp [registerValue, lanternRuns_of_stage hs, Nat.not_lt.mpr h]

theorem registerValue_time : registerValue s fn 0x200 = lowWord s.time := registerValue_low hs fn (by decide)
theorem registerValue_timeHi : registerValue s fn 0x204 = (latchesOf s fn).timeHi := registerValue_low hs fn (by decide)
theorem registerValue_energy : registerValue s fn 0x9000014 = lowWord s.power.energy :=
  registerValue_high hs fn (by decide)
theorem registerValue_energyHi : registerValue s fn 0x9000018 = (latchesOf s fn).energyHi :=
  registerValue_high hs fn (by decide)
theorem registerValue_blfSeq : registerValue s fn 0x8000004 = lowWord s.belfry.mirSeq :=
  registerValue_high hs fn (by decide)
theorem registerValue_blfSeqHi : registerValue s fn 0x8000008 = (latchesOf s fn).blfSeqHi :=
  registerValue_high hs fn (by decide)
theorem registerValue_blfId : registerValue s fn 0x800000C = lowWord s.belfry.mirId :=
  registerValue_high hs fn (by decide)
theorem registerValue_blfIdHi : registerValue s fn 0x8000010 = (latchesOf s fn).blfIdHi :=
  registerValue_high hs fn (by decide)

/-- The registers of a stream's flow show their values to the functions that see the stream (R306, R486). -/
theorem registerValue_flow (k : Fin 256) {off o : Nat} (hoff : off = 0x6010000 + 0x20 * k.val + o) (ho : o < 0x20) :
    registerValue s fn off = seen (shows fn (streamOwner s k.val)) (flowReg s fn k.val o) := by
  have hq : (off - 0x6010000) / 0x20 = k.val := by omega
  have hr : off % 0x20 = o := by omega
  rw [registerValue_high hs fn (by omega), highRegister]
  simp only [hq, hr, Bool.and_eq_true, decide_eq_true_eq]
  rw [if_neg (by omega), if_neg (by omega), if_neg (by omega), if_neg (by omega), if_neg (by omega), if_neg (by omega),
    if_neg (by omega), if_neg (by omega), if_pos (by omega)]

/-- The registers of a job entry show zeros to a function that does not see the job (R389, R486). -/
theorem registerValue_job_hidden {j : Nat} (hj : j < 1024) (h : shows fn (jobOwner s j) = false) :
    registerValue s fn (0x8000 + 16 * j) = 0 := by
  have hq : (0x8000 + 16 * j - 0x8000) / 16 = j := by omega
  rw [registerValue_low hs fn (by omega), lowRegister]
  simp only [hq, h, Bool.and_eq_true, decide_eq_true_eq]
  rw [if_neg (by omega), if_neg (by omega), if_neg (by omega), if_neg (by omega), if_neg (by omega), if_neg (by omega),
    if_pos (by omega)]
  rfl

/-- A LO read of a stream's flow that the function sees: the register at its own place is sent, and every register of
the flow then shows as the latches of the function hold. -/
theorem loRead_flow (k : Fin 256) (hsees : shows fn (streamOwner s k.val) = true) {off o : Nat}
    (hoff : off = 0x6010000 + 0x20 * k.val + o) (ho : o < 0x20) (f : Latches → Latches) :
    let t := loRead s fn off (shows fn (streamOwner s k.val)) f
    t.out = .regValue fn off (flowReg s fn k.val o) :: s.out ∧
    (∀ place q, place = 0x6010000 + 0x20 * k.val + q → q < 0x20 → registerValue t fn place = flowReg t fn k.val q) ∧
    latchesOf t fn = f (latchesOf s fn) ∧ t.hif = { s.hif with latches := t.hif.latches } ∧ Only [.hif, .out] s t := by
  obtain ⟨hout, hboot, hstreams, hl, hhif, honly⟩ := loRead_effect hs hsees fn off f
  refine ⟨?_, fun place q hplace hq => ?_, by rw [hl, if_pos rfl], hhif, honly⟩
  · rw [hout, registerValue_flow hs fn k hoff ho, hsees]
    rfl
  · rw [registerValue_flow (by rw [hboot, hs]) fn k hplace hq, streamOwner_congr hstreams, hsees]
    rfl

/-- A LO read of a foreign stream's flow sends zero and latches nothing (R486). -/
theorem finish_loRead_flow_foreign (k : Fin 256) (hsees : shows fn (streamOwner s k.val) = false) {off o : Nat}
    (hoff : off = 0x6010000 + 0x20 * k.val + o) (ho : o < 0x20) (f : Latches → Latches) :
    finish s (loRead s fn off (shows fn (streamOwner s k.val)) f) = .next (emit s (.regValue fn off 0)) := by
  rw [hsees, loRead_hidden, registerValue_flow hs fn k hoff ho, hsees]
  rfl

end

/-- Before the module runs only HIF_ALIVE, HIF_BOOT and the recovery registers show values (R515). -/
theorem registerValue_before {s : State} (hs : s.boot.stage ≠ 3) (fn : Nat) {off : Nat} (h0 : off ≠ 0)
    (h30 : off ≠ 0x30) (hr : ¬ (0x700 ≤ off ∧ off < 0x718)) : registerValue s fn off = 0 := by
  rw [registerValue, if_pos (by simp [lanternRuns_of_stage_ne hs]), earlyRegister]
  simp [h0, h30, hr]

theorem loRead_before {s : State} (hs : s.boot.stage ≠ 3) (fn : Nat) (sees : Bool) (f : Latches → Latches) {off : Nat}
    (h : 0x718 ≤ off ∨ off = 0x200) : loRead s fn off sees f = emit s (.regValue fn off 0) := by
  simp only [loRead, lanternRuns_of_stage_ne hs, Bool.false_and, Bool.false_eq_true, if_false]
  rw [registerValue_before hs fn (by omega) (by omega) (by omega)]

/-! ### The statement of chapter 00 -/

/-- Settles O54: each clause is the lemma of its group of registers, and the LO reads are one lemma about a latched
pair. -/
theorem registers : Obligations.Registers := by
  unfold Obligations.Registers
  refine ⟨?base, ?closed, ?mailbox, ?rings, ?msix, ?recovery, ?ignored, ?pairs, ?flows, ?foreign, ?before, ?alive⟩
  case base =>
    intro s fn m k hi v hs hcan
    refine ⟨_, exec_registerWrite_base hs hcan k hi v, ?_, fun n hn => ?_, only_setMailbox _ _ _⟩
    · rw [mailboxOf_setMailbox, if_pos rfl]
      fin_cases k <;> rfl
    · rw [mailboxOf_setMailbox, if_neg (Ne.symm hn)]
  case closed =>
    intro s fn m k v hs hcan
    rw [exec_registerWrite_mailbox hs fn v m (by omega) (by omega), writeMailbox, if_pos (by omega),
      writeBase_of_cannot hcan, finish_self]
  case mailbox =>
    intro s fn m v hs
    exact ⟨exec_registerWrite_mailbox hs fn v m (o := 0x20) rfl (by decide),
      exec_registerWrite_mailbox hs fn v m (o := 0x24) rfl (by decide),
      exec_registerWrite_mailbox hs fn v m (o := 0x28) rfl (by decide),
      exec_registerWrite_mailbox hs fn v m (o := 0x2C) rfl (by decide)⟩
  case rings =>
    intro s fn r k v hs
    exact ⟨exec_registerWrite_oring hs fn v r, exec_registerWrite_stream hs fn v k⟩
  case msix =>
    intro s fn k v hs
    refine ⟨?_, ?_, ?_, fun h => ?_, fun hm hp he hf => ?_⟩ <;> beta_reduce <;>
      rw [exec_registerWrite_vector hs fn v k (by decide) (by decide)]
    · rw [Nat.add_zero, writeVector_addrLo, finish_setVec]
    · rw [writeVector_addrHi, finish_setVec]
    · rw [writeVector_data, finish_setVec]
    · rw [writeVector_control_quiet h, finish_setVec]
    · rw [writeVector_control_sends hm hp he hf]
      exact finish_eq_next (((only_setVec _ _ _ _).mono (by decide)).trans (only_raiseVector _ _ _)) (by decide)
  case recovery =>
    intro s v
    exact ⟨exec_registerWrite_recovery s 0 v (off := 0x700) rfl (by decide) (by decide),
      exec_registerWrite_recovery s 0 v (off := 0x710) rfl (by decide) (by decide),
      exec_registerWrite_recovery s 0 v (off := 0x704) rfl (by decide) (by decide),
      exec_registerWrite_recovery s 0 v (off := 0x708) rfl (by decide) (by decide),
      exec_registerWrite_recovery s 0 v (off := 0x70C) rfl (by decide) (by decide)⟩
  case ignored =>
    intro s fn off v h
    have hkept : registerWrite s fn.val off.toNat v = s :=
      registerWrite_ignored (by simpa [or_assoc, and_assoc] using h)
    change finish s (registerWrite s fn.val off.toNat v) = _
    rw [hkept, finish_self]
  case pairs =>
    intro s fn hs
    simp only [List.forall_mem_cons, List.not_mem_nil, false_implies, implies_true, and_true]
    refine ⟨⟨_, finish_loRead .., ?_⟩, ⟨_, finish_loRead .., ?_⟩, ⟨_, finish_loRead .., ?_⟩, ⟨_, finish_loRead .., ?_⟩⟩
    · exact loRead_latches_high hs (registerValue_time hs _) (fun _ k hu => registerValue_timeHi hu k) rfl
    · exact loRead_latches_high hs (registerValue_energy hs _) (fun _ k hu => registerValue_energyHi hu k) rfl
    · exact loRead_latches_high hs (registerValue_blfSeq hs _) (fun _ k hu => registerValue_blfSeqHi hu k) rfl
    · exact loRead_latches_high hs (registerValue_blfId hs _) (fun _ k hu => registerValue_blfIdHi hu k) rfl
  case flows =>
    intro s fn k hs hsees
    constructor
    · obtain ⟨hout, hshow, hl, hhif, honly⟩ := loRead_flow hs fn.val k hsees
        (off := 0x6010004 + 0x20 * k.val) (o := 4) (by omega) (by decide)
        (fun l => { l with arrivalHi := tset l.arrivalHi k.val (highWord (streamOf s k.val).arrival) })
      refine ⟨_, finish_loRead .., hout, ?_, hhif, honly⟩
      rw [hshow _ 8 (by omega) (by decide), flowReg_arrivalHi, hl, tget_tset, if_pos rfl]
      rfl
    · obtain ⟨hout, hshow, hl, hhif, honly⟩ := loRead_flow hs fn.val k hsees
        (off := 0x601000C + 0x20 * k.val) (o := 0xC) (by omega) (by decide)
        (fun l => { l with
          srNtpHi := tset l.srNtpHi k.val (highWord (streamOf s k.val).srNtp)
          srRtp := tset l.srRtp k.val (streamOf s k.val).srRtp
          srStamp := tset l.srStamp k.val (streamOf s k.val).srStamp })
      refine ⟨_, finish_loRead .., hout, ?_, ?_, ?_, hhif, honly⟩
      · rw [hshow _ 0x10 (by omega) (by decide), flowReg_srNtpHi, hl, tget_tset, if_pos rfl]
        rfl
      · rw [hshow _ 0x14 (by omega) (by decide), flowReg_srRtp, hl, tget_tset, if_pos rfl]
      · rw [hshow _ 0x18 (by omega) (by decide), flowReg_srStamp, hl, tget_tset, if_pos rfl]
  case foreign =>
    intro s fn k hs hsees
    exact ⟨finish_loRead_flow_foreign hs fn k hsees (o := 4) (by omega) (by decide) _,
      finish_loRead_flow_foreign hs fn k hsees (o := 0xC) (by omega) (by decide) _⟩
  case before =>
    intro s fn k hs
    simp only [List.forall_mem_cons, List.not_mem_nil, false_implies, implies_true, and_true]
    refine ⟨?_, ?_, ?_, ?_, ?_, ?_⟩ <;>
      exact (finish_loRead ..).trans (congrArg _ (loRead_before hs _ _ _ (by omega)))
  case alive =>
    intro s
    have halive : ∀ fn, s.boot.stage = 3 → registerValue s fn 0 = 0x51567256#32 := fun fn hs =>
      registerValue_low hs fn (by decide)
    refine ⟨?_, halive, fun fn j hs hj hfn hstate hpart => registerValue_job_hidden hs fn hj ?_⟩
    · by_cases hs : s.boot.stage = 3
      · exact halive 0 hs
      · rw [registerValue, if_pos (by simp [lanternRuns_of_stage_ne hs])]
        rfl
    · rw [jobOwner, if_neg hstate]
      simp [shows, hfn, hpart]

end Sys2Proof.Machine
end

section
/-! PROOFS. The frame of every command (R16, R373, R388, R395) and the state right after reset (R29, R41, R480, R512). -/

namespace Sys2Proof

open Machine

/-! ### Every command answers, in its own parts of the state -/

/-- Each command has an effect, and its outcome is that effect with the queue of before. -/
theorem exec_eq_finish (c : Instr) (s : State) : ∃ b, exec c s = finish s b := by
  cases c <;> exact ⟨_, rfl⟩

theorem exec_keeps_pending {c : Instr} {s t : State} (h : exec c s = .next t) : t.pending = s.pending := by
  obtain ⟨b, hb⟩ := exec_eq_finish c s
  cases hb.symm.trans h
  rfl

/-- A command changes no part of the state but those listed for it: the frame lemma of its own meaning, one arm a
command. -/
theorem exec_only_touches : ∀ (c : Instr) (s t : State), exec c s = .next t → Only (touches c) s t
  | .registerWrite .., _, _, h => only_execRegisterWrite _ _ _ _ _ h
  | .lanLocalTimeLoRead .., _, _, h => only_execLanLocalTimeLoRead _ _ _ h
  | .netFlowArrivalLoRead .., _, _, h => only_execNetFlowArrivalLoRead _ _ _ _ h
  | .netFlowSrNtpLoRead .., _, _, h => only_execNetFlowSrNtpLoRead _ _ _ _ h
  | .pwrEnergyLoRead .., _, _, h => only_execPwrEnergyLoRead _ _ _ h
  | .blfSeqLoRead .., _, _, h => only_execBlfSeqLoRead _ _ _ h
  | .blfIdLoRead .., _, _, h => only_execBlfIdLoRead _ _ _ h
  | .bar0BadAccess .., _, _, h => only_execBar0BadAccess _ _ _ _ h
  | .configurationRequest .., _, _, h => only_execConfigurationRequest _ _ _ _ h
  | .droopEvent .., _, _, h => only_execDroopEvent _ _ _ h
  | .droopHold .., _, _, h => only_execDroopHold _ _ _ h
  | .holdResume .., _, _, h => only_execHoldResume _ _ _ h
  | .rateWindow .., _, _, h => only_execRateWindow _ _ _ _ h
  | .opSlewSettled, _, _, h => only_execOpSlewSettled _ _ h
  | .arrayIdle .., _, _, h => only_execArrayIdle _ _ _ h
  | .waveAdmit .., _, _, h => only_execWaveAdmit _ _ _ h
  | .wavefrontIssue .., _, _, h => only_execWavefrontIssue _ _ _ h
  | .weightSetLoaded .., _, _, h => only_execWeightSetLoaded _ _ _ h
  | .operationComplete .., _, _, h => only_execOperationComplete _ _ _ h
  | .descriptorFetch .., _, _, h => only_execDescriptorFetch _ _ _ h
  | .head .., _, _, h => only_execHead _ _ _ h
  | .workFetch .., _, _, h => only_execWorkFetch _ _ _ h
  | .arm .., _, _, h => only_execArm _ _ _ h
  | .jump .., _, _, h => only_execJump _ _ _ h
  | .endProgram .., _, _, h => only_execEndProgram _ _ _ h
  | .acquire .., _, _, h => only_execAcquire _ _ _ h
  | .release .., _, _, h => only_execRelease _ _ _ h
  | .barrier .., _, _, h => only_execBarrier _ _ _ h
  | .waitLocal .., _, _, h => only_execWaitLocal _ _ _ h
  | .drain .., _, _, h => only_execDrain _ _ _ h
  | .skeinBarrier .., _, _, h => only_execSkeinBarrier _ _ _ h
  | .copy .., _, _, h => only_execCopy _ _ _ h
  | .copyComplete .., _, _, h => only_execCopyComplete _ _ _ h
  | .vector .., _, _, h => only_execVector _ _ _ h
  | .vNop .., _, _, h => only_execVNop _ _ _ h
  | .vXset .., _, _, h => only_execVXset _ _ _ h
  | .vXadd .., _, _, h => only_execVXadd _ _ _ h
  | .vTagset .., _, _, h => only_execVTagset _ _ _ h
  | .vAdd .., _, _, h => only_execVAdd _ _ _ h
  | .vSub .., _, _, h => only_execVSub _ _ _ h
  | .vMul .., _, _, h => only_execVMul _ _ _ h
  | .vFma .., _, _, h => only_execVFma _ _ _ h
  | .vMin .., _, _, h => only_execVMin _ _ _ h
  | .vMax .., _, _, h => only_execVMax _ _ _ h
  | .vAbs .., _, _, h => only_execVAbs _ _ _ h
  | .vNeg .., _, _, h => only_execVNeg _ _ _ h
  | .vCvt .., _, _, h => only_execVCvt _ _ _ h
  | .vQmul .., _, _, h => only_execVQmul _ _ _ h
  | .vSel .., _, _, h => only_execVSel _ _ _ h
  | .vBcasti .., _, _, h => only_execVBcasti _ _ _ h
  | .vAnd .., _, _, h => only_execVAnd _ _ _ h
  | .vOr .., _, _, h => only_execVOr _ _ _ h
  | .vXor .., _, _, h => only_execVXor _ _ _ h
  | .vExp2 .., _, _, h => only_execVExp2 _ _ _ h
  | .vLog2 .., _, _, h => only_execVLog2 _ _ _ h
  | .vRcp .., _, _, h => only_execVRcp _ _ _ h
  | .vRsqrt .., _, _, h => only_execVRsqrt _ _ _ h
  | .vCmpeq .., _, _, h => only_execVCmpeq _ _ _ h
  | .vCmplt .., _, _, h => only_execVCmplt _ _ _ h
  | .vCmple .., _, _, h => only_execVCmple _ _ _ h
  | .vMand .., _, _, h => only_execVMand _ _ _ h
  | .vMor .., _, _, h => only_execVMor _ _ _ h
  | .vMnot .., _, _, h => only_execVMnot _ _ _ h
  | .vRsum .., _, _, h => only_execVRsum _ _ _ h
  | .vRprod .., _, _, h => only_execVRprod _ _ _ h
  | .vRmax .., _, _, h => only_execVRmax _ _ _ h
  | .vRmin .., _, _, h => only_execVRmin _ _ _ h
  | .vRargmax .., _, _, h => only_execVRargmax _ _ _ h
  | .vRargmin .., _, _, h => only_execVRargmin _ _ _ h
  | .vPerm .., _, _, h => only_execVPerm _ _ _ h
  | .vSlideup .., _, _, h => only_execVSlideup _ _ _ h
  | .vSlidedn .., _, _, h => only_execVSlidedn _ _ _ h
  | .vBcast .., _, _, h => only_execVBcast _ _ _ h
  | .vVld .., _, _, h => only_execVVld _ _ _ h
  | .vVst .., _, _, h => only_execVVst _ _ _ h
  | .vTld .., _, _, h => only_execVTld _ _ _ h
  | .vTst .., _, _, h => only_execVTst _ _ _ h
  | .vFld .., _, _, h => only_execVFld _ _ _ h
  | .vFst .., _, _, h => only_execVFst _ _ _ h
  | .vMacm .., _, _, h => only_execVMacm _ _ _ h
  | .vMulm .., _, _, h => only_execVMulm _ _ _ h
  | .conv .., _, _, h => only_execConv _ _ _ h
  | .stemHead .., _, _, h => only_execStemHead _ _ _ h
  | .stemEnd .., _, _, h => only_execStemEnd _ _ _ h
  | .poolAcquire .., _, _, h => only_execPoolAcquire _ _ _ _ _ h
  | .poolGroup .., _, _, h => only_execPoolGroup _ _ _ _ h
  | .poolShare .., _, _, h => only_execPoolShare _ _ _ _ _ _ h
  | .poolRelease .., _, _, h => only_execPoolRelease _ _ _ _ _ h
  | .freeRingRefill .., _, _, h => only_execFreeRingRefill _ _ _ _ h
  | .memoryRequest .., _, _, h => only_execMemoryRequest _ _ _ _ _ _ h
  | .memoryReadComplete .., _, _, h => only_execMemoryReadComplete _ _ _ _ h
  | .refreshDue .., _, _, h => only_execRefreshDue _ _ _ _ h
  | .mr4Read .., _, _, h => only_execMr4Read _ _ _ _ h
  | .wckOscillatorRun .., _, _, h => only_execWckOscillatorRun _ _ _ _ _ h
  | .retrainPause .., _, _, h => only_execRetrainPause _ _ _ _ _ h
  | .cmdStreamOpen .., _, _, h => only_execCmdStreamOpen _ _ _ h
  | .cmdStreamClose .., _, _, h => only_execCmdStreamClose _ _ _ h
  | .streamDrainEnd .., _, _, h => only_execStreamDrainEnd _ _ _ h
  | .medRingDoorbell .., _, _, h => only_execMedRingDoorbell _ _ _ _ _ h
  | .ringEntryRead .., _, _, h => only_execRingEntryRead _ _ _ _ h
  | .chunkCopyComplete .., _, _, h => only_execChunkCopyComplete _ _ _ _ h
  | .cmdPortConfig .., _, _, h => only_execCmdPortConfig _ _ _ h
  | .ethLinkChange .., _, _, h => only_execEthLinkChange _ _ _ _ h
  | .frameReceive .., _, _, h => only_execFrameReceive _ _ _ _ _ h
  | .reorderTimeout .., _, _, h => only_execReorderTimeout _ _ _ h
  | .pictureStart .., _, _, h => only_execPictureStart _ _ _ _ h
  | .waitBufRetry .., _, _, h => only_execWaitBufRetry _ _ _ h
  | .pictureDrop .., _, _, h => only_execPictureDrop _ _ _ h
  | .contextSwitch .., _, _, h => only_execContextSwitch _ _ _ _ h
  | .pictureComplete .., _, _, h => only_execPictureComplete _ _ _ _ _ _ h
  | .pictureReject .., _, _, h => only_execPictureReject _ _ _ _ _ h
  | .pictureAbandon .., _, _, h => only_execPictureAbandon _ _ _ h
  | .motionSearchRequest .., _, _, h => only_execMotionSearchRequest _ _ _ _ _ _ h
  | .motionSearchComplete .., _, _, h => only_execMotionSearchComplete _ _ _ h
  | .preparationRequest .., _, _, h => only_execPreparationRequest _ _ _ _ h
  | .workItemStart .., _, _, h => only_execWorkItemStart _ _ _ h
  | .workItemComplete .., _, _, h => only_execWorkItemComplete _ _ _ _ h
  | .batchComplete .., _, _, h => only_execBatchComplete _ _ _ _ h
  | .batchOpenRetry .., _, _, h => only_execBatchOpenRetry _ _ _ _ h
  | .liveRequestDrop .., _, _, h => only_execLiveRequestDrop _ _ _ _ h
  | .cmdPipeCreate .., _, _, h => only_execCmdPipeCreate _ _ _ _ h
  | .cmdPipeRemove .., _, _, h => only_execCmdPipeRemove _ _ _ h
  | .cmdQueueCreate .., _, _, h => only_execCmdQueueCreate _ _ _ h
  | .cmdPipeAttach .., _, _, h => only_execCmdPipeAttach _ _ _ h
  | .cmdPipeDetach .., _, _, h => only_execCmdPipeDetach _ _ _ h
  | .cmdPrepSubmit .., _, _, h => only_execCmdPrepSubmit _ _ _ h
  | .cmdOringCreate .., _, _, h => only_execCmdOringCreate _ _ _ h
  | .cmdOringDestroy .., _, _, h => only_execCmdOringDestroy _ _ _ h
  | .resultBobbinRetry .., _, _, h => only_execResultBobbinRetry _ _ _ _ h
  | .trackStep .., _, _, h => only_execTrackStep _ _ _ _ h
  | .recordWrite .., _, _, h => only_execRecordWrite _ _ _ h
  | .lanOringDoorbell .., _, _, h => only_execLanOringDoorbell _ _ _ _ _ h
  | .answerPart .., _, _, h => only_execAnswerPart _ _ _ h
  | .cmdSkeinForm .., _, _, h => only_execCmdSkeinForm _ _ _ _ h
  | .cmdSkeinDissolve .., _, _, h => only_execCmdSkeinDissolve _ _ _ _ h
  | .cmdSkeinRelay .., _, _, h => only_execCmdSkeinRelay _ _ _ _ h
  | .cmdSkeinExclude .., _, _, h => only_execCmdSkeinExclude _ _ _ h
  | .cmdSkeinPort .., _, _, h => only_execCmdSkeinPort _ _ _ h
  | .cmdSkeinPlace .., _, _, h => only_execCmdSkeinPlace _ _ _ h
  | .cmdSkeinQueue .., _, _, h => only_execCmdSkeinQueue _ _ _ h
  | .cmdSkeinBarrier .., _, _, h => only_execCmdSkeinBarrier _ _ _ h
  | .flit .., _, _, h => only_execFlit _ _ _ _ h
  | .nak .., _, _, h => only_execNak _ _ _ _ h
  | .portDown .., _, _, h => only_execPortDown _ _ _ _ h
  | .portUp .., _, _, h => only_execPortUp _ _ _ h
  | .linkKeyExchange .., _, _, h => only_execLinkKeyExchange _ _ _ _ _ _ h
  | .admitMessage .., _, _, h => only_execAdmitMessage _ _ _ h
  | .admitReply .., _, _, h => only_execAdmitReply _ _ _ _ h
  | .formationTimeout, _, _, h => only_execFormationTimeout _ _ h
  | .relayedCommand .., _, _, h => only_execRelayedCommand _ _ _ h
  | .relayCompletion .., _, _, h => only_execRelayCompletion _ _ _ _ h
  | .sendEntry .., _, _, h => only_execSendEntry _ _ _ _ h
  | .message .., _, _, h => only_execMessage _ _ _ h
  | .slotFree .., _, _, h => only_execSlotFree _ _ _ _ h
  | .creditReturn .., _, _, h => only_execCreditReturn _ _ _ _ _ _ _ _ h
  | .creditGrant .., _, _, h => only_execCreditGrant _ _ _ _ _ _ _ _ h
  | .arrive .., _, _, h => only_execArrive _ _ _ _ h
  | .skeinRelease .., _, _, h => only_execSkeinRelease _ _ _ h
  | .heartbeat .., _, _, h => only_execHeartbeat _ _ _ h
  | .heartbeatArrival, _, _, h => only_execHeartbeatArrival _ _ h
  | .managerLost, _, _, h => only_execManagerLost _ _ h
  | .lossNotice .., _, _, h => only_execLossNotice _ _ _ h
  | .paceReport, _, _, h => only_execPaceReport _ _ h
  | .pacePublish .., _, _, h => only_execPacePublish _ _ _ h
  | .paceCeiling .., _, _, h => only_execPaceCeiling _ _ _ h
  | .cmdPartCreate .., _, _, h => only_execCmdPartCreate _ _ _ h
  | .cmdPartDelete .., _, _, h => only_execCmdPartDelete _ _ _ h
  | .cmdPartGrow .., _, _, h => only_execCmdPartGrow _ _ _ h
  | .cmdPartShrink .., _, _, h => only_execCmdPartShrink _ _ _ h
  | .cmdJobDefine .., _, _, h => only_execCmdJobDefine _ _ _ h
  | .cmdJobUndefine .., _, _, h => only_execCmdJobUndefine _ _ _ h
  | .cmdJobStart .., _, _, h => only_execCmdJobStart _ _ _ h
  | .cmdJobAbort .., _, _, h => only_execCmdJobAbort _ _ _ h
  | .cmdJobPreempt .., _, _, h => only_execCmdJobPreempt _ _ _ h
  | .cmdJobResume .., _, _, h => only_execCmdJobResume _ _ _ h
  | .jobDispatch .., _, _, h => only_execJobDispatch _ _ _ h
  | .saveComplete .., _, _, h => only_execSaveComplete _ _ _ h
  | .restoreComplete .., _, _, h => only_execRestoreComplete _ _ _ _ h
  | .timeLimit .., _, _, h => only_execTimeLimit _ _ _ h
  | .jobEnd .., _, _, h => only_execJobEnd _ _ _ h
  | .cmdClientLimit .., _, _, h => only_execCmdClientLimit _ _ _ h
  | .cmdClientStats .., _, _, h => only_execCmdClientStats _ _ _ h
  | .cmdSeqJoin .., _, _, h => only_execCmdSeqJoin _ _ _ h
  | .cmdSeqLeave .., _, _, h => only_execCmdSeqLeave _ _ _ h
  | .sequenceStep .., _, _, h => only_execSequenceStep _ _ _ h
  | .lanMbCfgWrite .., _, _, h => only_execLanMbCfgWrite _ _ _ _ _ h
  | .lanMbCmdDoorbell .., _, _, h => only_execLanMbCmdDoorbell _ _ _ _ _ h
  | .lanMbCplDoorbell .., _, _, h => only_execLanMbCplDoorbell _ _ _ _ _ h
  | .lanMbEvtDoorbell .., _, _, h => only_execLanMbEvtDoorbell _ _ _ _ _ h
  | .commandBegin .., _, _, h => only_execCommandBegin _ _ _ _ h
  | .cmdDevInfo .., _, _, h => only_execCmdDevInfo _ _ _ h
  | .cmdModelLoad .., _, _, h => only_execCmdModelLoad _ _ _ _ h
  | .cmdModelUnload .., _, _, h => only_execCmdModelUnload _ _ _ h
  | .cmdAdapterInstall .., _, _, h => only_execCmdAdapterInstall _ _ _ h
  | .cmdMemWrite .., _, _, h => only_execCmdMemWrite _ _ _ _ h
  | .cmdPoolCreate .., _, _, h => only_execCmdPoolCreate _ _ _ h
  | .cmdPoolDestroy .., _, _, h => only_execCmdPoolDestroy _ _ _ h
  | .cmdIdentityGet .., _, _, h => only_execCmdIdentityGet _ _ _ h
  | .cmdAttest .., _, _, h => only_execCmdAttest _ _ _ h
  | .cmdAuditExport .., _, _, h => only_execCmdAuditExport _ _ _ h
  | .cmdOwnerEnroll .., _, _, h => only_execCmdOwnerEnroll _ _ _ _ h
  | .cmdSessionOpen .., _, _, h => only_execCmdSessionOpen _ _ _ _ h
  | .cmdSessionClose .., _, _, h => only_execCmdSessionClose _ _ _ h
  | .cmdSvAdvance .., _, _, h => only_execCmdSvAdvance _ _ _ h
  | .cmdCeilingLower .., _, _, h => only_execCmdCeilingLower _ _ _ h
  | .cmdSkeinBind .., _, _, h => only_execCmdSkeinBind _ _ _ h
  | .cmdDebugDisable .., _, _, h => only_execCmdDebugDisable _ _ _ h
  | .cmdBlfRequest .., _, _, h => only_execCmdBlfRequest _ _ _ _ h
  | .cmdBlfRecords .., _, _, h => only_execCmdBlfRecords _ _ _ h
  | .belfryStatus, _, _, h => only_execBelfryStatus _ _ h
  | .belfryIdentity, _, _, h => only_execBelfryIdentity _ _ h
  | .belfryLog, _, _, h => only_execBelfryLog _ _ h
  | .stageFw, _, _, h => only_execStageFw _ _ h
  | .stageParam, _, _, h => only_execStageParam _ _ h
  | .commit, _, _, h => only_execCommit _ _ h
  | .partialReset, _, _, h => only_execPartialReset _ _ h
  | .indicatorId, _, _, h => only_execIndicatorId _ _ h
  | .encoderEdge .., _, _, h => only_execEncoderEdge _ _ _ _ _ h
  | .trigger, _, _, h => only_execTrigger _ _ h
  | .csiFrame .., _, _, h => only_execCsiFrame _ _ _ _ _ _ _ h
  | .pairTimeout, _, _, h => only_execPairTimeout _ _ h
  | .callReturn .., _, _, h => only_execCallReturn _ _ _ _ h
  | .callDeadline, _, _, h => only_execCallDeadline _ _ h
  | .coreWatchdog, _, _, h => only_execCoreWatchdog _ _ h
  | .tamperSample .., _, _, h => only_execTamperSample _ _ _ h
  | .vblfFalling, _, _, h => only_execVblfFalling _ _ h
  | .vblfInRange, _, _, h => only_execVblfInRange _ _ h
  | .identityLine, _, _, h => only_execIdentityLine _ _ h
  | .faultLine, _, _, h => only_execFaultLine _ _ h
  | .newRecordNotice, _, _, h => only_execNewRecordNotice _ _ h
  | .tamperNotice, _, _, h => only_execTamperNotice _ _ h
  | .sealNotice, _, _, h => only_execSealNotice _ _ h
  | .stateNotice, _, _, h => only_execStateNotice _ _ h
  | .powerSample .., _, _, h => only_execPowerSample _ _ _ _ _ _ _ h
  | .powerDisagree, _, _, h => only_execPowerDisagree _ _ h
  | .powerRecalFit, _, _, h => only_execPowerRecalFit _ _ h
  | .cmdPowerLimit .., _, _, h => only_execCmdPowerLimit _ _ _ h
  | .cmdPowerRecal .., _, _, h => only_execCmdPowerRecal _ _ _ h
  | .cmdJobPower .., _, _, h => only_execCmdJobPower _ _ _ h
  | .thermalRead .., _, _, h => only_execThermalRead _ _ _ _ h
  | .thermalStep .., _, _, h => only_execThermalStep _ _ _ h
  | .thermalEnd .., _, _, h => only_execThermalEnd _ _ _ h
  | .startCondition, _, _, h => only_execStartCondition _ _ h
  | .railPowerGood, _, _, h => only_execRailPowerGood _ _ h
  | .railTimeout, _, _, h => only_execRailTimeout _ _ h
  | .dipBegin .., _, _, h => only_execDipBegin _ _ _ h
  | .dipEnd .., _, _, h => only_execDipEnd _ _ _ _ h
  | .dipLimit .., _, _, h => only_execDipLimit _ _ _ _ h
  | .overvoltageWindow .., _, _, h => only_execOvervoltageWindow _ _ _ _ h
  | .overvoltage75V .., _, _, h => only_execOvervoltage75V _ _ _ _ h
  | .holdBankCharged, _, _, h => only_execHoldBankCharged _ _ h
  | .holdBankLow, _, _, h => only_execHoldBankLow _ _ h
  | .receivedTlpError .., _, _, h => only_execReceivedTlpError _ _ _ h
  | .hostReadCompletion .., _, _, h => only_execHostReadCompletion _ _ _ _ h
  | .completionTimeout .., _, _, h => only_execCompletionTimeout _ _ _ h
  | .msiXWindow .., _, _, h => only_execMsiXWindow _ _ _ _ h
  | .invalidationRequest .., _, _, h => only_execInvalidationRequest _ _ _ _ _ h
  | .translationCompletion .., _, _, h => only_execTranslationCompletion _ _ _ _ _ _ _ h
  | .aspmL1Idle, _, _, h => only_execAspmL1Idle _ _ h
  | .perstAssert, _, _, h => only_execPerstAssert _ _ h
  | .perstRelease, _, _, h => only_execPerstRelease _ _ h
  | .hotReset, _, _, h => only_execHotReset _ _ h
  | .dlDown, _, _, h => only_execDlDown _ _ h
  | .pfFlr, _, _, h => only_execPfFlr _ _ h
  | .vfEnableCleared, _, _, h => only_execVfEnableCleared _ _ h
  | .vfFlr .., _, _, h => only_execVfFlr _ _ _ h
  | .busMasterEnableCleared .., _, _, h => only_execBusMasterEnableCleared _ _ _ h
  | .patrolScrub .., _, _, h => only_execPatrolScrub _ _ _ _ h
  | .fatalRestart, _, _, h => only_execFatalRestart _ _ h
  | .lifelogSecond, _, _, h => only_execLifelogSecond _ _ h
  | .lifelogCommitTimer, _, _, h => only_execLifelogCommitTimer _ _ h
  | .cmdLifelogExport .., _, _, h => only_execCmdLifelogExport _ _ _ h
  | .cmdLifelogCommit .., _, _, h => only_execCmdLifelogCommit _ _ _ h
  | .romLoaderStart .., _, _, h => only_execRomLoaderStart _ _ _ h
  | .imageVerified .., _, _, h => only_execImageVerified _ _ _ h
  | .firmwareStartEnd .., _, _, h => only_execFirmwareStartEnd _ _ _ h
  | .lanBootCtrlWrite .., _, _, h => only_execLanBootCtrlWrite _ _ _ _ h
  | .lanRecGo .., _, _, h => only_execLanRecGo _ _ _ _ h
  | .recReadComplete .., _, _, h => only_execRecReadComplete _ _ _ h
  | .recProgramComplete .., _, _, h => only_execRecProgramComplete _ _ _ h
  | .recReadBackComplete .., _, _, h => only_execRecReadBackComplete _ _ _ h
  | .droopRecovered .., _, _, h => only_execDroopRecovered _ _ _ h
  | .retrainPauseEnd .., _, _, h => only_execRetrainPauseEnd _ _ _ h
  | .pcieLinkUp .., _, _, h => only_execPcieLinkUp _ _ _ _ h
  | .configReady, _, _, h => only_execConfigReady _ _ h
  | .l1Exit, _, _, h => only_execL1Exit _ _ h
  | .creditGrantAck .., _, _, h => only_execCreditGrantAck _ _ _ _ _ _ h
  | .skeinDissolveNotice, _, _, h => only_execSkeinDissolveNotice _ _ h

/-- Settles O59: the outcome is that of the command's effect, and the lists of `touches` frame it. -/
theorem framesOfCommands : Obligations.FramesOfCommands := by
  intro c s
  obtain ⟨b, hb⟩ := exec_eq_finish c s
  exact ⟨_, hb, exec_only_touches c s _ hb, exec_keeps_pending hb⟩

/-! ### The state right after reset (R29, R41, R480, R512) -/

theorem domeOf_reset (d : Nat) : domeOf State.reset d = {} := rfl
theorem spireOf_reset (i : Nat) : spireOf State.reset i = {} := rfl

/-- A dome shows its reset values: OP 5, no droop, no hold, no corrected error. -/
theorem domeReg_reset (d : Nat) : domeReg State.reset d 0 = 0x50000000#32 ∧ domeReg State.reset d 4 = 0 ∧
    domeReg State.reset d 0xC = 0 := by
  simp only [domeReg, domeOf_reset]
  decide

/-- No sensor of a dome has been read. -/
theorem powerReg_sensor_reset (fn : Nat) (d : Fin 4) :
    powerReg State.reset fn (0x20 + 4 * d.val) = 0x80008000#32 := by
  have hplace : 0x20 ≤ 0x20 + 4 * d.val ∧ 0x20 + 4 * d.val < 0x30 := by omega
  simp only [powerReg, domeOf_reset, Bool.and_eq_true, decide_eq_true_eq]
  rw [if_neg (by omega), if_neg (by omega), if_neg (by omega), if_neg (by omega), if_neg (by omega), if_neg (by omega),
    if_neg (by omega), if_pos hplace]
  rfl

/-- No spire is assigned. -/
theorem spireOwnerReg_reset (k : Nat) : spireOwnerReg State.reset k = 0 := by
  simp only [spireOwnerReg, spireOf_reset]
  rfl

theorem fuseInv_reset : FuseInv State.reset := by
  unfold FuseInv
  decide

/-- Settles O56: the tables are empty, and each group of registers shows its reset column. -/
theorem resetState : Obligations.ResetState :=
  ⟨rfl, rfl, rfl, rfl, rfl, rfl, rfl, rfl, rfl, rfl, fun d => domeReg_reset d, rfl, rfl, rfl,
    powerReg_sensor_reset 0, fun k => spireOwnerReg_reset k, rfl, rfl, rfl, rfl, rfl, rfl, rfl, rfl, rfl, fuseInv_reset⟩

end Sys2Proof
end

section
/-! PROOFS. The partition commands (R24, R26, R27, R224, R361 to R364). -/

namespace Sys2Proof.Machine

/-! ### A command of a slot, and its completion -/

/-- A command whose slot runs it and whose reserved bytes are zero has its own effect (R10, R392). -/
theorem command_of_can {s : State} {slot opcode : Nat} {named : List (Nat × Nat)}
    (h : Can.command s slot opcode named = true) (f : Bytes → State) :
    command s slot opcode named f = f (cmdDesc s slot) := by
  obtain ⟨hd, hz⟩ : descOf s slot opcode = some (cmdDesc s slot) ∧ reservedZero (cmdDesc s slot) named = true := by
    simpa [Can.command] using h
  simp [command, onCommand, hd, hz]

/-- The slot of such a command runs it, and its effect has not begun. -/
theorem runningOf_of_can {s : State} {slot opcode : Nat} {named : List (Nat × Nat)}
    (h : Can.command s slot opcode named = true) :
    ∃ r, runningOf s slot = some r ∧ r.desc = cmdDesc s slot ∧ le r.desc 0 2 = opcode := by
  obtain ⟨hd, -⟩ : descOf s slot opcode = some (cmdDesc s slot) ∧ reservedZero (cmdDesc s slot) named = true := by
    simpa [Can.command] using h
  unfold descOf at hd
  split at hd
  · cases hd
  next r hr =>
    split at hd
    next hop => exact ⟨r, hr, Option.some.inj hd, by simp_all⟩
    · cases hd

theorem command_of_partCommand {s : State} {slot opcode : Nat} {named : List (Nat × Nat)} {x : Partition}
    (h : Can.partCommand s slot opcode named x = true) :
    Can.command s slot opcode named = true ∧ partOf s (descPart (cmdDesc s slot)) = some x := by
  simpa [Can.partCommand] using h

/-- A command that completes after an effect that leaves the queue alone. -/
theorem finish_complete {F : List Field} {s u : State} (h : Only F s u) (hF : Field.pending ∉ F) (slot : Nat)
    (st : Status) (b : Bytes) : finish s (complete u slot st b) = .next (complete u slot st b) := by
  have hp : (complete u slot st b).pending = s.pending :=
    ((only_complete u slot st b).keeps .pending (by decide)).trans (h.keeps .pending hF)
  unfold finish
  rw [← hp]

/-! ### Slots after completions -/

/-- A completion takes its command out of its slot; what follows leaves the slots alone (R399). -/
theorem running_completeAs {s : State} {i : Nat} {r : Running} (h : runningOf s i = some r) (op : Nat) (st : Status)
    (b : Bytes) : (completeAs s i op st b).running = tdel s.running i := by
  have hreads : (endSlotReads { s with running := tdel s.running i } i).running = tdel s.running i :=
    (only_endSlotReads _ _).keeps .running (by decide)
  have hrest : ∀ t, (mailboxRest t i).running = t.running := fun t => (only_mailboxRest t i).keeps .running (by decide)
  have hpost : ∀ t bytes irq, (postCompletionEntry t i bytes irq).running = t.running := fun t bytes irq =>
    (only_postCompletionEntry t i bytes irq).keeps .running (by decide)
  simp only [completeAs, h]
  split
  · exact hreads
  · split
    · rw [hrest, hreads]
    · rw [hrest, hpost, hreads]

theorem runningOf_complete (s : State) (i k : Nat) (st : Status) (b : Bytes) :
    runningOf (complete s i st b) k = if i = k then none else runningOf s k := by
  unfold complete
  split
  next h =>
    by_cases hik : i = k
    · rw [if_pos hik, ← hik, h]
    · rw [if_neg hik]
  next r h =>
    rw [runningOf, running_completeAs h, tfind_tdel]
    rfl

theorem runningOf_foldl_complete (l : List Nat) (s : State) (k : Nat) (st : Status) (b : Bytes) :
    runningOf (l.foldl (fun t i => complete t i st b) s) k = if k ∈ l then none else runningOf s k := by
  induction l generalizing s with
  | nil => simp
  | cons i l ih =>
    rw [List.foldl_cons, ih, runningOf_complete]
    by_cases hi : k = i <;> by_cases hk : k ∈ l <;> simp [hi, hk, Ne.symm]

theorem mem_waitingSlots {s : State} {slot opcode : Nat} {p : Bytes → Bool} :
    slot ∈ waitingSlots s opcode p ↔
      slot < 10 ∧ ∃ r, runningOf s slot = some r ∧ r.waiting = true ∧ le r.desc 0 2 = opcode ∧ p r.desc = true := by
  unfold waitingSlots
  rw [List.mem_filter, List.mem_range]
  cases hr : runningOf s slot <;> simp [and_assoc]

/-- A waiting slot is empty once its command has completed. -/
theorem runningOf_completeWaiting (s : State) (opcode : Nat) (p : Bytes → Bool) (st : Status) (b : Bytes) (k : Nat) :
    runningOf (completeWaiting s opcode p st b) k = if k ∈ waitingSlots s opcode p then none else runningOf s k :=
  runningOf_foldl_complete _ _ _ _ _

theorem runningOf_deferCompletion {s : State} {slot : Nat} {r : Running} (h : runningOf s slot = some r) :
    runningOf (deferCompletion s slot) slot = some { r with waiting := true } := by
  simp only [deferCompletion, h]
  exact (tfind_tset _ _ _ _).trans (if_pos rfl)

/-! ### A list of spires, each changed alike -/

/-- A change of one spire at a time, made along a list: each spire named is changed once for all, each other stands. -/
theorem spireOf_foldl {f : State → Nat → State} {g : Spire → Spire}
    (hf : ∀ s i k, spireOf (f s i) k = if i = k then g (spireOf s k) else spireOf s k) (hg : ∀ x, g (g x) = g x)
    (l : List Nat) (s : State) (k : Nat) :
    spireOf (l.foldl f s) k = if k ∈ l then g (spireOf s k) else spireOf s k := by
  induction l generalizing s with
  | nil => simp
  | cons i l ih =>
    rw [List.foldl_cons, ih, hf]
    by_cases hi : k = i <;> by_cases hk : k ∈ l <;> simp [hi, hk, hg, Ne.symm]

/-- What a spire holds once it is assigned to partition n (R26). -/
def assignedSpire (n : Nat) (x : Spire) : Spire :=
  { x with owner := some (Fin.ofNat 8 n), cache := {}, bad := [], work := [], sems := [] }

theorem spireOf_assignSpire (s : State) (n i k : Nat) :
    spireOf (assignSpire s n i) k = if i = k then assignedSpire n (spireOf s k) else spireOf s k := by
  have hspindles : ∀ (l : List Nat) (t : State), (l.foldl (fun t k => setSpindle t (8 * i + k)
      (zeroSpindle (spindleOf t (8 * i + k)))) t).spires = t.spires := fun l t =>
    (Only.foldl _ (fun _ _ => only_setSpindle _ _ _) l (Only.refl [.spindles] t)).keeps .spires (by decide)
  have hset : (assignSpire s n i).spires = (setSpire s i (assignedSpire n (spireOf s i))).spires := hspindles _ _
  have hunit := spireOf_setSpire s i k (assignedSpire n (spireOf s i))
  rw [spireOf, hset, ← spireOf, hunit]
  split
  next h => rw [h]
  · rfl

theorem spireOf_assignSpires (s : State) (n : Nat) (l : List Nat) (k : Nat) :
    spireOf (assignSpires s n l) k = if k ∈ l then assignedSpire n (spireOf s k) else spireOf s k :=
  spireOf_foldl (f := fun t i => assignSpire t n i) (fun s i k => spireOf_assignSpire s n i k) (fun _ => rfl) l s k

/-- A spire of partition n after it was assigned: n's, with a zero cache and no semaphore. -/
theorem spireOf_assigned {s t : State} {n : Nat} {l : List Nat} (hn : n < 8)
    (ht : t.spires = (assignSpires s n l).spires) :
    (∀ i ∈ l, partOwnsSpire t n i = true ∧ (spireOf t i).cache = {} ∧ (spireOf t i).sems = []) ∧
    (∀ i, i ∉ l → spireOf t i = spireOf s i) := by
  have hu : ∀ i, spireOf t i = if i ∈ l then assignedSpire n (spireOf s i) else spireOf s i := fun i => by
    rw [spireOf, ht, ← spireOf, spireOf_assignSpires]
  refine ⟨fun i hi => ?_, fun i hi => by rw [hu, if_neg hi]⟩
  have hv : (Fin.ofNat 8 n).val = n := Nat.mod_eq_of_lt hn
  rw [partOwnsSpire, hu, if_pos hi]
  exact ⟨beq_iff_eq.mpr hv, rfl, rfl⟩

/-- A list of spires taken away from their partition (R27). -/
theorem spireOf_unassigned (s : State) (l : List Nat) (k : Nat) :
    spireOf (l.foldl (fun t i => setSpire t i { spireOf t i with owner := none }) s) k =
      if k ∈ l then { spireOf s k with owner := none } else spireOf s k :=
  spireOf_foldl (f := fun t i => setSpire t i { spireOf t i with owner := none })
    (g := fun x => { x with owner := none })
    (fun s i k => by
      rw [spireOf_setSpire]
      split
      next h => rw [h]
      · rfl)
    (fun _ => rfl) l s k

/-! ### Granules that join or leave a partition -/

/-- The region of a partition that takes granules `l`, where `draw` is the next draw (R224). -/
def joinedRegion (x : Partition) (l : List Nat) (draw : Nat) : Store 8 :=
  let more := regionBytes { x with granules := x.granules ++ l } - regionBytes x
  if x.ecc then storeZero x.region (regionBytes x) more else storeUndef x.region (regionBytes x) more draw

theorem partOf_joinGranules (s : State) (n : Nat) (x : Partition) (l : List Nat) (k : Nat) :
    partOf (joinGranules s n x l) k = if n = k then
      some { x with granules := x.granules ++ l, region := joinedRegion x l s.draws } else partOf s k := by
  unfold joinGranules joinedRegion
  split
  · rw [partOf_setPart]
  · exact partOf_setPart _ _ _ _

/-- Bytes held before granules joined stand. -/
theorem storeGet_joinedRegion_below {x : Partition} {a : Nat} (h : a < regionBytes x) (l : List Nat) (draw : Nat) :
    storeGet (joinedRegion x l draw) a = storeGet x.region a := by
  unfold joinedRegion
  split
  · rw [storeGet_storeZero, if_neg (by omega)]
  · rw [storeGet_storeUndef, if_neg (by omega)]

/-- Protected granules hold zeros when they join. -/
theorem storeGet_joinedRegion_above {x : Partition} (hecc : x.ecc = true) {l : List Nat} {a : Nat}
    (lo : regionBytes x ≤ a) (hi : a < regionBytes { x with granules := x.granules ++ l }) (draw : Nat) :
    storeGet (joinedRegion x l draw) a = 0 := by
  unfold joinedRegion
  rw [if_pos hecc, storeGet_storeZero, if_pos (by omega)]

/-- A protected partition whose storage is new reads as zero everywhere. -/
theorem storeGet_joinedRegion_new {x : Partition} (hecc : x.ecc = true) (hr : x.region = {}) (l : List Nat)
    (draw a : Nat) : storeGet (joinedRegion x l draw) a = 0 := by
  unfold joinedRegion
  rw [if_pos hecc, storeGet_storeZero, hr]
  split <;> rfl

/-- Bytes below the granules that leave stand (R363). -/
theorem storeGet_cutGranules {x : Partition} {k a : Nat} (h : a < regionBytes (cutGranules x k)) :
    storeGet (cutGranules x k).region a = storeGet x.region a := by
  have hlo : a < regionBytes { x with granules := x.granules.take k } := h
  rw [cutGranules, storeGet_storeZero, if_neg (by omega)]

/-! ### CMD_PART_CREATE (R362) -/

theorem partOf_modPart (s : State) (n : Nat) (f : Partition → Partition) (k : Nat) :
    partOf (modPart s n f) k = if n = k then (partOf s k).map f else partOf s k := by
  unfold modPart
  by_cases hk : n = k
  · subst hk
    split <;> simp_all
  · split <;> simp [hk]

theorem quota_le_of_createFailure {s : State} {d : Bytes} (h : createFailure s d = none) : le d 10 2 ≤ 1024 := by
  by_contra hq
  simp [createFailure, Nat.not_le.mp hq] at h

/-- The partition that a CREATE describes, before its granules join it. -/
def describedPart (d : Bytes) : Partition :=
  { ecc := bitOf (byteAt d 8) 0, quota := BitVec.ofNat 11 (le d 10 2) }

/-- A CREATE adds its partition, under two draws of its own, and touches no other. -/
theorem partOf_createPart (s : State) (d : Bytes) : ∃ tag draw, ∀ k, partOf (createPart s d) k =
    if descPart d = k then some { describedPart d with
      granules := bodyGranules d 16, keyTag := tag, region := joinedRegion (describedPart d) (bodyGranules d 16) draw }
    else partOf s k := by
  let a := assignSpires s (descPart d) (bodySpires d 12)
  let j := joinGranules a (descPart d) (describedPart d) (bodyGranules d 16)
  refine ⟨j.draws, a.draws, fun k => ?_⟩
  have ha : partOf a k = partOf s k := congrArg (tfind · k) ((only_assignSpires _ _ _).keeps .parts (by decide))
  have hu : partOf (createPart s d) k = partOf (modPart j (descPart d) (fun x => { x with keyTag := j.draws })) k := rfl
  rw [hu, partOf_modPart, partOf_joinGranules, ha]
  split <;> rfl

theorem spires_createPart (s : State) (d : Bytes) :
    (createPart s d).spires = (assignSpires s (descPart d) (bodySpires d 12)).spires :=
  ((only_modPart _ _ _).keeps .spires (by decide)).trans ((only_joinGranules _ _ _ _).keeps .spires (by decide))

theorem mailboxOf_createPart (s : State) (d : Bytes) (k : Nat) : mailboxOf (createPart s d) k =
    if descPart d = k then { present := true } else mailboxOf s k := by
  let a := assignSpires s (descPart d) (bodySpires d 12)
  let j := joinGranules a (descPart d) (describedPart d) (bodyGranules d 16)
  have ha : a.mailboxes = s.mailboxes := (only_assignSpires _ _ _).keeps .mailboxes (by decide)
  have hj : j.mailboxes = a.mailboxes := (only_joinGranules _ _ _ _).keeps .mailboxes (by decide)
  have hm : (modPart j (descPart d) (fun x => { x with keyTag := j.draws })).mailboxes = j.mailboxes :=
    (only_modPart _ _ _).keeps .mailboxes (by decide)
  have hu : mailboxOf (createPart s d) k = if descPart d = k then { present := true } else
      mailboxOf (modPart j (descPart d) (fun x => { x with keyTag := j.draws })) k := mailboxOf_setMailbox _ _ _ _
  rw [hu, mailboxOf, hm, hj, ha]
  rfl

theorem exec_cmdPartCreate {s : State} {slot : Fin 10} (h : Can.partCreate s slot = true) :
    exec (.cmdPartCreate slot) s = .next (complete (createPart s (cmdDesc s slot)) slot stOk []) := by
  obtain ⟨⟨hc, -⟩, hf⟩ : (Can.command s slot 0x0201 [(8, 1), (10, 18)] = true ∧ _) ∧
      createFailure s (cmdDesc s slot) = none := by simpa [Can.partCreate] using h
  change finish s (cmdPartCreate s slot) = _
  rw [cmdPartCreate, command_of_can hc, hf, finish_complete (only_createPart _ _) (by decide)]

/-! ### CMD_PART_DELETE (R364) -/

theorem tfind_map {α β : Type} (f : α → β) (t : Table α) (k : Nat) :
    tfind (t.map (fun e => (e.1, f e.2))) k = (tfind t k).map f := by
  induction t with
  | nil => rfl
  | cons e r ih => by_cases h : e.1 = k <;> simp [tfind, h, ih]

/-- A spire when partition n is deleted: free where it was n's. -/
def leaveSpire (n : Nat) (x : Spire) : Spire :=
  if x.owner.any (fun k => k.val == n) then { x with owner := none } else x

theorem leaveSpire_not_owned (n : Nat) (x : Spire) : (leaveSpire n x).owner.any (fun k => k.val == n) = false := by
  unfold leaveSpire
  split
  · rfl
  next h => simpa using h

section
variable (s : State) (n : Nat)

theorem parts_removePart : (removePart s n).parts = tdel s.parts n := (only_endReads _ _).keeps .parts (by decide)
theorem running_removePart : (removePart s n).running = tdel s.running n :=
  (only_endReads _ _).keeps .running (by decide)
theorem orings_removePart :
    (removePart s n).orings = s.orings.filter (fun e => !(e.2.valid && e.2.part.val == n)) :=
  (only_endReads _ _).keeps .orings (by decide)
theorem keys_removePart : (removePart s n).sec.keys = tdel s.sec.keys n :=
  congrArg Security.keys ((only_endReads _ _).keeps .sec (by decide))
theorem spires_removePart : (removePart s n).spires = s.spires.map (fun e => (e.1, leaveSpire n e.2)) :=
  (only_endReads _ _).keeps .spires (by decide)

/-- No spire belongs to a partition that was removed. -/
theorem partOwnsSpire_removePart (i : Nat) : partOwnsSpire (removePart s n) n i = false := by
  rw [partOwnsSpire, spireOf, spires_removePart, tget, tfind_map]
  cases tfind s.spires i with
  | none => rfl
  | some x => exact leaveSpire_not_owned n x

end

theorem streams_deferCompletion (s : State) (slot : Nat) : (deferCompletion s slot).streams = s.streams :=
  (only_deferCompletion _ _).keeps .streams (by decide)
theorem pipes_deferCompletion (s : State) (slot : Nat) : (deferCompletion s slot).pipes = s.pipes :=
  (only_deferCompletion _ _).keeps .pipes (by decide)
theorem jobs_deferCompletion (s : State) (slot : Nat) : (deferCompletion s slot).jobs = s.jobs :=
  (only_deferCompletion _ _).keeps .jobs (by decide)

theorem partBusy_deferCompletion (s : State) (slot n : Nat) :
    partBusy (deferCompletion s slot) n = partBusy s n := by
  simp only [partBusy, streams_deferCompletion, pipes_deferCompletion, jobs_deferCompletion]

/-- A partition that nothing keeps has no stream to drain, no pipeline to remove and no job. -/
theorem nothing_left_of_not_busy {s : State} {n : Nat} (h : partBusy s n = false) :
    s.streams.filter (fun e => e.2.state ≠ 0 && e.2.state ≠ 4 && e.2.part.val == n) = [] ∧
    s.pipes.filter (fun e => e.2.valid && e.2.part.val == n) = [] ∧
    s.jobs.any (fun e => nonTerminal e.2 && e.2.part.toNat == n) = false := by
  rw [partBusy, Bool.or_eq_false_iff, Bool.or_eq_false_iff] at h
  obtain ⟨⟨hstreams, hpipes⟩, hjobs⟩ := h
  refine ⟨List.filter_eq_nil_iff.mpr fun e he hdrain => ?_, List.filter_eq_nil_iff.mpr (List.any_eq_false.mp hpipes),
    hjobs⟩
  have hidle := List.any_eq_false.mp hstreams e he
  simp_all

/-- The state at the end of a deletion that waits for nothing: the partition removed, its waiting commands done. -/
def deletedState (s : State) (slot n : Nat) : State :=
  completeWaiting (removePart (deferCompletion s slot) n) 0x0202 (fun d => descPart d == n) stOk []

/-- The deleting command waits from its first step on. -/
theorem mem_waitingSlots_deferCompletion {s : State} {slot : Fin 10} (hc : Can.command s slot 0x0202 [] = true) :
    slot.val ∈ waitingSlots (deferCompletion s slot) 0x0202 (fun d => descPart d == descPart (cmdDesc s slot)) := by
  obtain ⟨r, hr, hd, hop⟩ := runningOf_of_can hc
  exact mem_waitingSlots.mpr ⟨slot.isLt, _, runningOf_deferCompletion hr, rfl, hop, by simp [hd]⟩

/-- With nothing to drain or to remove, the deletion ends in the command's own step. -/
theorem exec_cmdPartDelete {s : State} {slot : Fin 10} {x : Partition}
    (hp : Can.partCommand s slot 0x0202 [] x = true) (hb : partBusy s (descPart (cmdDesc s slot)) = false) :
    exec (.cmdPartDelete slot) s = .next (deletedState s slot (descPart (cmdDesc s slot))) := by
  obtain ⟨hc, hx⟩ := command_of_partCommand hp
  obtain ⟨hstreams, hpipes, hjobs⟩ := nothing_left_of_not_busy hb
  have hwait := List.isEmpty_eq_false_iff.mpr (List.ne_nil_of_mem (mem_waitingSlots_deferCompletion hc))
  have heffect : cmdPartDelete s slot = deletedState s slot (descPart (cmdDesc s slot)) := by
    rw [cmdPartDelete, command_of_can hc]
    simp only [hx, Option.isNone_some, Bool.false_eq_true, if_false, hjobs, streams_deferCompletion, hstreams,
      pipes_deferCompletion, hpipes, List.map_nil, List.foldl_nil]
    rw [tryFinishDelete, if_neg (by simp [hwait, partBusy_deferCompletion, hb]), deletedState]
  rw [← heffect]
  exact finish_eq_next (only_cmdPartDelete s slot) (by decide)

/-- The slot of the deletion is empty at its end: it was that of the partition's own mailbox, or it completed. -/
theorem runningOf_deletedState {s : State} {slot : Fin 10} (hc : Can.command s slot 0x0202 [] = true) :
    runningOf (deletedState s slot (descPart (cmdDesc s slot))) slot = none := by
  obtain ⟨slot_lt, r, hr, hwaits⟩ := mem_waitingSlots.mp (mem_waitingSlots_deferCompletion hc)
  have hrun : runningOf (removePart (deferCompletion s slot) (descPart (cmdDesc s slot))) slot =
      if descPart (cmdDesc s slot) = slot then none else some r := by
    rw [runningOf, running_removePart, tfind_tdel]
    exact congrArg (ite _ none) hr
  rw [deletedState, runningOf_completeWaiting]
  by_cases hown : descPart (cmdDesc s slot) = slot
  · rw [hrun, if_pos hown, ite_self]
  · rw [if_neg hown] at hrun
    rw [if_pos (mem_waitingSlots.mpr ⟨slot_lt, r, hrun, hwaits⟩)]

section
variable (s : State) (slot n : Nat)

theorem parts_deletedState : (deletedState s slot n).parts = tdel s.parts n :=
  calc (deletedState s slot n).parts
    _ = (removePart (deferCompletion s slot) n).parts := (only_completeWaiting _ _ _ _ _).keeps .parts (by decide)
    _ = tdel (deferCompletion s slot).parts n := parts_removePart _ _
    _ = tdel s.parts n := congrArg (tdel · n) ((only_deferCompletion _ _).keeps .parts (by decide))

theorem partOwnsSpire_deletedState (i : Nat) : partOwnsSpire (deletedState s slot n) n i = false := by
  have hspires : (deletedState s slot n).spires = (removePart (deferCompletion s slot) n).spires :=
    (only_completeWaiting _ _ _ _ _).keeps .spires (by decide)
  rw [partOwnsSpire, spireOf, hspires]
  exact partOwnsSpire_removePart _ _ _

theorem key_deletedState : tfind (deletedState s slot n).sec.keys n = none := by
  have hsec : (deletedState s slot n).sec = (removePart (deferCompletion s slot) n).sec :=
    (only_completeWaiting _ _ _ _ _).keeps .sec (by decide)
  rw [hsec, keys_removePart, tfind_tdel, if_pos rfl]

theorem orings_deletedState : ∀ e ∈ (deletedState s slot n).orings, ¬ (e.2.valid = true ∧ e.2.part.val = n) := by
  have horings : (deletedState s slot n).orings = (removePart (deferCompletion s slot) n).orings :=
    (only_completeWaiting _ _ _ _ _).keeps .orings (by decide)
  rw [horings, orings_removePart]
  rintro e he ⟨hvalid, hpart⟩
  simpa [hvalid, hpart] using (List.mem_filter.mp he).2

end

/-! ### CMD_PART_GROW and CMD_PART_SHRINK (R363) -/

/-- The state before a GROW completes: its spires assigned, its granules joined. -/
def grownState (s : State) (n : Nat) (x : Partition) (spires granules : List Nat) : State :=
  let t := assignSpires s n spires
  if granules.isEmpty then t else joinGranules t n x granules

theorem only_grownState (s : State) (n : Nat) (x : Partition) (spires granules : List Nat) :
    Only [.draws, .spindles, .spires, .parts] s (grownState s n x spires granules) :=
  Only.ite ((only_assignSpires _ _ _).mono (by decide))
    (((only_assignSpires _ _ _).mono (by decide)).step (only_joinGranules _ _ _ _) (by decide))

theorem spires_grownState (s : State) (n : Nat) (x : Partition) (spires granules : List Nat) :
    (grownState s n x spires granules).spires = (assignSpires s n spires).spires := by
  unfold grownState
  split
  · rfl
  · exact (only_joinGranules _ _ _ _).keeps .spires (by decide)

/-- The partition after a GROW: its granules and its region, and nothing else of it, may be new. -/
theorem partOf_grownState {s : State} {n : Nat} {x : Partition} (hx : partOf s n = some x)
    (spires granules : List Nat) : ∃ region, partOf (grownState s n x spires granules) n =
      some { x with granules := x.granules ++ granules, region := region } ∧
    (∀ a, a < regionBytes x → storeGet region a = storeGet x.region a) ∧
    (x.ecc = true → ∀ a, regionBytes x ≤ a → a < regionBytes { x with granules := x.granules ++ granules } →
      storeGet region a = 0) := by
  cases granules with
  | nil =>
    refine ⟨x.region, ?_, fun _ _ => rfl, fun _ a lo hi => ?_⟩
    · rw [List.append_nil, ← hx]
      exact congrArg (tfind · n) ((only_assignSpires _ _ _).keeps .parts (by decide))
    · rw [List.append_nil] at hi
      exact absurd lo (Nat.not_le.mpr hi)
  | cons g l =>
    exact ⟨_, (partOf_joinGranules _ _ _ _ _).trans (if_pos rfl), fun a h => storeGet_joinedRegion_below h _ _,
      fun hecc a lo hi => storeGet_joinedRegion_above hecc lo hi _⟩

theorem exec_cmdPartGrow {s : State} {slot : Fin 10} {x : Partition} (h : Can.partGrow s slot x = true) :
    let d := cmdDesc s slot
    exec (.cmdPartGrow slot) s = .next (complete
      (grownState s (descPart d) x (bodySpires d 12) (bodyGranules d 16)) slot stOk []) := by
  obtain ⟨⟨hp, -⟩, hf⟩ : (Can.partCommand s slot 0x0203 [(12, 16)] x = true ∧ _) ∧
      growFailure s (cmdDesc s slot) x = none := by simpa [Can.partGrow] using h
  obtain ⟨hc, hx⟩ := command_of_partCommand hp
  change finish s (cmdPartGrow s slot) = _
  rw [cmdPartGrow, command_of_can hc]
  simp only [hx, hf]
  exact finish_complete (only_grownState _ _ _ _ _) (by decide) _ _ _

/-- The state before a SHRINK completes: its spires free, its granules above the first k gone. -/
def shrunkState (s : State) (n : Nat) (x : Partition) (spires : List Nat) (k : Nat) : State :=
  setPart (spires.foldl (fun t i => setSpire t i { spireOf t i with owner := none }) s) n (cutGranules x k)

theorem only_shrunkState (s : State) (n : Nat) (x : Partition) (spires : List Nat) (k : Nat) :
    Only [.spires, .parts] s (shrunkState s n x spires k) :=
  ((Only.foldl _ (fun _ _ => only_setSpire _ _ _) spires (Only.refl [.spires] s)).mono (by decide)).step
    (only_setPart _ _ _) (by decide)

theorem spireOf_shrunkState (s : State) (n : Nat) (x : Partition) (spires : List Nat) (k i : Nat) :
    spireOf (shrunkState s n x spires k) i =
      if i ∈ spires then { spireOf s i with owner := none } else spireOf s i :=
  spireOf_unassigned s spires i

theorem exec_cmdPartShrink {s : State} {slot : Fin 10} {x : Partition} (h : Can.partShrink s slot x = true) :
    let d := cmdDesc s slot
    exec (.cmdPartShrink slot) s = .next (complete (shrunkState s (descPart d) x (bodySpires d 12)
      (x.granules.length - (bodyGranules d 16).length)) slot stOk []) := by
  obtain ⟨hp, hf⟩ : Can.partCommand s slot 0x0204 [(12, 16)] x = true ∧ shrinkFailure s (cmdDesc s slot) x = none := by
    simpa [Can.partShrink] using h
  obtain ⟨hc, hx⟩ := command_of_partCommand hp
  change finish s (cmdPartShrink s slot) = _
  rw [cmdPartShrink, command_of_can hc]
  simp only [hx, hf]
  exact finish_complete (only_shrunkState _ _ _ _ _) (by decide) _ _ _

/-! ### The statement on partition commands -/

/-- Settles O26: each command is its effect and a completion, and each part of the effect is the lemma of the
operation that makes it. -/
theorem partitionCommands : Obligations.PartitionCommands := by
  refine ⟨?create, ?delete, ?grow, ?shrink⟩
  case create =>
    intro s slot h
    obtain ⟨⟨-, hn⟩, hf⟩ : (_ ∧ descPart (cmdDesc s slot) < 8) ∧ createFailure s (cmdDesc s slot) = none := by
      simpa [Can.partCreate] using h
    have hquota := quota_le_of_createFailure hf
    obtain ⟨tag, draw, hpart⟩ := partOf_createPart s (cmdDesc s slot)
    obtain ⟨hin, hout⟩ := spireOf_assigned hn (spires_createPart s (cmdDesc s slot))
    refine ⟨_, _, exec_cmdPartCreate h, (hpart _).trans (if_pos rfl), ?_, rfl, rfl, rfl, rfl, rfl,
      fun hecc a => storeGet_joinedRegion_new (x := describedPart _) hecc rfl _ _ a, hin, hout, ?_, fun m hm => ⟨?_, ?_⟩⟩
    · exact Nat.mod_eq_of_lt (by omega)
    · rw [mailboxOf_createPart, if_pos rfl]
    · rw [hpart, if_neg hm.symm]
    · rw [mailboxOf_createPart, if_neg hm.symm]
  case delete =>
    intro s slot x h
    obtain ⟨hp, hb⟩ : Can.partCommand s slot 0x0202 [] x = true ∧ partBusy s (descPart (cmdDesc s slot)) = false := by
      simpa [Can.partDelete] using h
    have hpart : ∀ m, partOf (deletedState s slot (descPart (cmdDesc s slot))) m =
        if descPart (cmdDesc s slot) = m then none else partOf s m := fun m => by
      rw [partOf, parts_deletedState, tfind_tdel, partOf]
    exact ⟨_, exec_cmdPartDelete hp hb, runningOf_deletedState (command_of_partCommand hp).1,
      (hpart _).trans (if_pos rfl), partOwnsSpire_deletedState s slot _, key_deletedState s slot _,
      orings_deletedState s slot _, fun m hm => (hpart m).trans (if_neg hm.symm)⟩
  case grow =>
    intro s slot x h
    obtain ⟨⟨hp, hn⟩, -⟩ : (Can.partCommand s slot 0x0203 [(12, 16)] x = true ∧
        descPart (cmdDesc s slot) < 8) ∧ _ := by simpa [Can.partGrow] using h
    obtain ⟨region, hpart, hbelow, habove⟩ := partOf_grownState (command_of_partCommand hp).2
      (bodySpires (cmdDesc s slot) 12) (bodyGranules (cmdDesc s slot) 16)
    obtain ⟨hin, hout⟩ := spireOf_assigned hn (spires_grownState s _ x (bodySpires (cmdDesc s slot) 12)
      (bodyGranules (cmdDesc s slot) 16))
    exact ⟨_, _, exec_cmdPartGrow h, hpart, rfl, hbelow, habove, rfl, hin, hout⟩
  case shrink =>
    intro s slot x h
    refine ⟨_, _, exec_cmdPartShrink h, (partOf_setPart _ _ _ _).trans (if_pos rfl), rfl,
      fun a ha => storeGet_cutGranules ha, fun i hi => ?_, fun i hi => ?_⟩
    · rw [spireOf_shrunkState, if_pos hi]
      exact ⟨rfl, rfl⟩
    · rw [spireOf_shrunkState, if_neg hi]

end Sys2Proof.Machine
end

section
/-! PROOFS. Idle arrays, the wave gates, droop and hold (R36, R39 to R41, R100, R102, R474). -/

namespace Sys2Proof.Machine

/-! ### ARRAY_IDLE -/

/-- An array with a wavefront ready waits at the gate once it is idle (R100). -/
theorem arrayIdle_of_ready {s : State} {p : Nat} {op : ArrayOp} (hop : arrayLive s p = some op)
    (hwave : op.issued < waveTotal op.head) (hready : feederReady op = true)
    (hstate : (spindleOf s p).arr.state ≠ 5) :
    arrayIdle s p = setSpindle s p { spindleOf s p with arr := { (spindleOf s p).arr with
      idle := true, waiting := true, state := 1 } } := by
  simp only [arrayIdle, hop, hwave, hready, hstate, ne_eq, not_false_eq_true, decide_true, Bool.and_self, Bool.or_true,
    if_true]

/-- An array without an operation is marked idle and no more. -/
theorem arrayIdle_of_none {s : State} {p : Nat} (hop : arrayLive s p = none) :
    arrayIdle s p = setSpindle s p { spindleOf s p with arr := { (spindleOf s p).arr with idle := true } } := by
  simp [arrayIdle, hop]

/-- In every case three fields of one array are all that ARRAY_IDLE writes. -/
theorem arrayIdle_eq (s : State) (p : Nat) : ∃ waiting state, arrayIdle s p =
    setSpindle s p { spindleOf s p with arr := { (spindleOf s p).arr with
      idle := true, waiting := waiting, state := state } } :=
  ⟨_, _, rfl⟩

/-! ### The arrays a wave takes -/

theorem length_waveTakes_le (s : State) (d : Nat) : (waveTakes s d).length ≤ 16 := List.length_take_le _ _

/-- A change of one unit at a time, made along a list: each unit named is changed once for all, each other stands.
`spireOf_foldl` is the case of the spires. -/
theorem unitOf_foldl {α : Type} {unitOf : State → Nat → α} {f : State → Nat → State} {g : α → α}
    (hf : ∀ s i k, unitOf (f s i) k = if i = k then g (unitOf s k) else unitOf s k) (hg : ∀ x, g (g x) = g x)
    (l : List Nat) (s : State) (k : Nat) :
    unitOf (l.foldl f s) k = if k ∈ l then g (unitOf s k) else unitOf s k := by
  induction l generalizing s with
  | nil => simp
  | cons i l ih =>
    rw [List.foldl_cons, ih, hf]
    by_cases hi : k = i <;> by_cases hk : k ∈ l <;> simp [hi, hk, hg, Ne.symm]

/-- What an array's spindle holds once the gate has admitted it (R100). -/
def admittedSpindle (x : Spindle) : Spindle :=
  { x with arr := { x.arr with waiting := false, idle := false, state := 2 } }

theorem spindleOf_admitArray (s : State) (p k : Nat) :
    spindleOf (admitArray s p) k = if p = k then admittedSpindle (spindleOf s k) else spindleOf s k := by
  refine (spindleOf_setSpindle s p k (admittedSpindle (spindleOf s p))).trans ?_
  split
  next h => rw [h]
  · rfl

theorem spindleOf_admitArrays (l : List Nat) (s : State) (k : Nat) :
    spindleOf (l.foldl admitArray s) k = if k ∈ l then admittedSpindle (spindleOf s k) else spindleOf s k :=
  unitOf_foldl spindleOf_admitArray (fun _ => rfl) l s k

theorem only_admitArrays (l : List Nat) (s : State) : Only [.spindles] s (l.foldl admitArray s) :=
  Only.foldl _ only_admitArray l (Only.refl _ s)

/-! ### Issue fractions under feed-forward -/

/-- From s to t the domes differ in their issue fractions alone, and none has risen (R474). -/
def FractionsFall (s t : State) : Prop :=
  ∀ e, ∃ f ≤ (domeOf s e).fraction, domeOf t e = { domeOf s e with fraction := f }

theorem FractionsFall.of_domes_eq {s t : State} (h : t.domes = s.domes) : FractionsFall s t :=
  fun e => ⟨(domeOf s e).fraction, BitVec.le_refl _, by rw [domeOf, h]; rfl⟩

theorem FractionsFall.setPower (s : State) (x : Power) : FractionsFall s (setPower s x) := .of_domes_eq rfl

theorem FractionsFall.trans {s t u : State} (h : FractionsFall s t) (k : FractionsFall t u) : FractionsFall s u := by
  intro e
  obtain ⟨f, hf, ht⟩ := h e
  obtain ⟨g, hg, hu⟩ := k e
  rw [ht] at hg hu
  exact ⟨g, BitVec.le_trans hg hf, hu⟩

theorem FractionsFall.foldl {α : Type} {f : State → α → State} (hf : ∀ s a, FractionsFall s (f s a)) (l : List α)
    (s : State) : FractionsFall s (l.foldl f s) := by
  induction l generalizing s with
  | nil => exact .of_domes_eq rfl
  | cons a l ih => exact (hf s a).trans (ih _)

theorem FractionsFall.fraction_le {s t : State} (h : FractionsFall s t) (e : Nat) :
    (domeOf t e).fraction.toNat ≤ (domeOf s e).fraction.toNat := by
  obtain ⟨f, hf, ht⟩ := h e
  rw [ht]
  exact hf

theorem FractionsFall.eq_but_fraction {s t : State} (h : FractionsFall s t) (e : Nat) :
    domeOf t e = { domeOf s e with fraction := (domeOf t e).fraction } := by
  obtain ⟨f, -, ht⟩ := h e
  rw [ht]

/-- The fraction of one dome cut to a free value where that is less (R474). -/
def cutFraction (s : State) (d : Nat) : State :=
  let x := domeOf s d
  let f := Config.issueFraction s.draws d s.power.limit.toNat s.power.estimate.toNat s.power.measured.toNat
  setDome (drawn s) d { x with fraction := if f < x.fraction then f else x.fraction }

theorem fractionsFall_cutFraction (s : State) (d : Nat) : FractionsFall s (cutFraction s d) := by
  intro e
  simp only [cutFraction, domeOf_setDome, units_drawn]
  by_cases hde : d = e
  · subst hde
    rw [if_pos rfl]
    refine ⟨_, ?_, rfl⟩
    split
    next hf => exact BitVec.le_of_lt hf
    · exact BitVec.le_refl _
  · rw [if_neg hde]
    exact ⟨(domeOf s e).fraction, BitVec.le_refl _, rfl⟩

theorem power_cutFractions (l : List Nat) (s : State) : (l.foldl cutFraction s).power = s.power := by
  induction l generalizing s with
  | nil => rfl
  | cons d l ih => exact ih (cutFraction s d)

theorem feedForward_measuredOnly {s : State} (h : s.power.measuredOnly = true) (n : Nat) :
    feedForward s n = setPower s { s.power with admitted := s.power.admitted + n } := if_pos h

theorem feedForward_free {s : State} (h : s.power.measuredOnly = false) (n : Nat) : feedForward s n =
    (List.range 4).foldl cutFraction (setPower s { s.power with admitted := s.power.admitted + n }) :=
  if_neg (by simp [setPower, h])

theorem admitted_feedForward (s : State) (n : Nat) :
    (feedForward s n).power.admitted = s.power.admitted + n := by
  cases h : s.power.measuredOnly
  · rw [feedForward_free h, power_cutFractions]
    rfl
  · rw [feedForward_measuredOnly h]
    rfl

theorem fractionsFall_feedForward (s : State) (n : Nat) : FractionsFall s (feedForward s n) := by
  cases h : s.power.measuredOnly
  · rw [feedForward_free h]
    exact (FractionsFall.setPower s _).trans (.foldl fractionsFall_cutFraction _ _)
  · rw [feedForward_measuredOnly h]
    exact .setPower s _

theorem domeOf_feedForward_measuredOnly {s : State} (h : s.power.measuredOnly = true) (n e : Nat) :
    domeOf (feedForward s n) e = domeOf s e := by
  rw [feedForward_measuredOnly h]
  rfl

theorem spindleOf_feedForward (s : State) (n k : Nat) : spindleOf (feedForward s n) k = spindleOf s k := by
  rw [spindleOf, (only_feedForward s n).keeps .spindles (by decide), spindleOf]

/-! ### WAVE_ADMIT -/

/-- A dome once its gate has admitted the arrays ps (R100, R102). -/
def gatedDome (x : Dome) (ps : List Nat) : Dome :=
  { x with
    waveCount := satInc x.waveCount, lastSize := BitVec.ofNat 5 ps.length
    nextStart := BitVec.ofNat 6 ((ps.getLastD 0 + 1) % 64) }

/-- The machine with a wave admitted, its current not yet in the regulator demand. -/
def wavePassed (s : State) (d : Nat) : State :=
  (waveTakes s d).foldl admitArray (setDome s d (gatedDome (domeOf s d) (waveTakes s d)))

theorem waveAdmit_of_can {s : State} {d : Nat} (h : Can.waveAdmit s d = true) :
    waveAdmit s d = feedForward (wavePassed s d) (waveTakes s d).length := by
  obtain ⟨hne, hissue⟩ : waveTakes s d ≠ [] ∧ issueAllowed s d = true := by simpa [Can.waveAdmit] using h
  obtain ⟨last, hlast⟩ := Option.isSome_iff_exists.mp (List.getLast?_isSome.mpr hne)
  simp [waveAdmit, wavePassed, gatedDome, hlast, hissue]

theorem spindleOf_wavePassed (s : State) (d k : Nat) : spindleOf (wavePassed s d) k =
    if k ∈ waveTakes s d then admittedSpindle (spindleOf s k) else spindleOf s k :=
  spindleOf_admitArrays _ _ _

theorem domeOf_wavePassed (s : State) (d k : Nat) : domeOf (wavePassed s d) k =
    if d = k then gatedDome (domeOf s d) (waveTakes s d) else domeOf s k := by
  rw [domeOf, wavePassed, (only_admitArrays _ _).keeps .domes (by decide), ← domeOf, domeOf_setDome]

theorem fraction_wavePassed (s : State) (d k : Nat) :
    (domeOf (wavePassed s d) k).fraction = (domeOf s k).fraction := by
  rw [domeOf_wavePassed]
  split
  next h => rw [← h]; rfl
  · rfl

theorem power_wavePassed (s : State) (d : Nat) : (wavePassed s d).power = s.power :=
  (only_admitArrays _ _).keeps .power (by decide)

/-! ### Droop and hold -/

theorem droopEvent_armed {s : State} {d : Nat} (h : (domeOf s d).droopArmed = true) :
    domeOf (droopEvent s d) d =
      { domeOf s d with droopCount := satInc (domeOf s d).droopCount, droopArmed := false } := by
  simp [droopEvent, h]

theorem droopEvent_counted {s : State} {d : Nat} (h : (domeOf s d).droopArmed = false) : droopEvent s d = s := by
  simp [droopEvent, h]

@[simp] theorem domeOf_modDome (s : State) (d : Nat) (f : Spindle → Spindle) (k : Nat) :
    domeOf (modDome s d f) k = domeOf s k := rfl

theorem domeOf_droopHold {s : State} {d : Nat} (h : (domeOf s d).hold = false) :
    domeOf (droopHold s d) d = { domeOf s d with hold := true, holdCount := satInc (domeOf s d).holdCount } := by
  simp [droopHold, h]

theorem domeOf_holdResume (s : State) (d : Nat) :
    domeOf (holdResume s d) d = { domeOf s d with hold := false } := by
  simp [holdResume]

theorem issueAllowed_of_hold {s : State} {d : Nat} (h : (domeOf s d).hold = true) : issueAllowed s d = false := by
  simp [issueAllowed, h]

/-! ### The statement on idle arrays and gates -/

/-- Settles O13: each command is its effect, and each part of the effect is the lemma of the operation that makes
it. -/
theorem arrayIdleAndGates : Obligations.ArrayIdleAndGates := by
  refine ⟨?idle, ?wave, ?droop, fun _ _ => rfl, ?hold, ?resume, fun _ _ _ => rfl, fun _ => rfl⟩
  case idle =>
    intro s p
    obtain ⟨waiting, state, heq⟩ := arrayIdle_eq s p
    refine ⟨_, finish_eq_next (only_arrayIdle s p) (by decide), ?_, fun op hop hwave hready hstate => ?_,
      fun hop => ?_, ?_, ?_⟩
    · simp [heq]
    · simp [arrayIdle_of_ready hop hwave hready hstate]
    · simp [arrayIdle_of_none hop]
    · simp [heq]
    · simp [heq]
  case wave =>
    intro s d h
    have hfall := fractionsFall_feedForward (wavePassed s d) (waveTakes s d).length
    refine ⟨_, finish_eq_next (only_waveAdmit s d) (by decide), length_waveTakes_le s d, ?_⟩
    rw [waveAdmit_of_can h]
    refine ⟨fun p hp => ?_, fun p hp => ?_, ?_, fun e => ?_, fun hm e => ?_, ?_⟩
    · rw [spindleOf_feedForward, spindleOf_wavePassed, if_pos hp]
      exact ⟨rfl, rfl⟩
    · rw [spindleOf_feedForward, spindleOf_wavePassed, if_neg hp]
    · exact (hfall.eq_but_fraction d).trans (by rw [domeOf_wavePassed, if_pos rfl]; rfl)
    · exact (hfall.fraction_le e).trans_eq (by rw [fraction_wavePassed])
    · rw [domeOf_feedForward_measuredOnly (by rw [power_wavePassed, hm]), fraction_wavePassed]
    · rw [admitted_feedForward, power_wavePassed]
  case droop =>
    intro s d
    exact ⟨_, finish_eq_next (only_droopEvent s d) (by decide), droopEvent_armed, droopEvent_counted⟩
  case hold =>
    intro s d h
    have hdome := domeOf_droopHold h
    exact ⟨_, finish_eq_next (only_droopHold s d) (by decide), hdome, issueAllowed_of_hold (by rw [hdome]),
      only_droopHold s d⟩
  case resume =>
    intro s d
    exact ⟨_, finish_eq_next (only_holdResume s d) (by decide), domeOf_holdResume s d, only_holdResume s d⟩

end Sys2Proof.Machine
end

section
/-! PROOFS. The work fetch, and the HEAD that opens an operation (R75, R91, R102, R105, R106, R122, R125, R126). -/

namespace Sys2Proof.Machine

/-! ### The descriptor that stands next -/

/-- A descriptor that may execute, with its own condition met, has its own effect (R126, R133). -/
theorem onDesc_of_can {s : State} {p j kind : Nat} (h : Can.desc s p j kind = true) {ready : Spindle → Bool}
    (hready : ready (spindleOf s p) = true) (f : Nat → Spindle → Bytes → State) :
    onDesc s p kind ready f = f j (spindleOf s p) (descAt s p) := by
  obtain ⟨⟨⟨hlive, hrun⟩, hnext⟩, hkind⟩ : ((agenLive s p = true ∧ runningJob s p = some j) ∧
      (nextDesc (spindleOf s p)).isSome = true) ∧ kindOf (descAt s p) = kind := by simpa [Can.desc] using h
  obtain ⟨d, hd⟩ := Option.isSome_iff_exists.mp hnext
  have hat : descAt s p = d := by simp [descAt, hd]
  rw [hat] at hkind ⊢
  simp [onDesc, hrun, hd, hlive, hkind, hready]

/-! ### Work counters -/

@[simp] theorem workOf_setWork (s : State) (spire n : Nat) (w : WorkCounter) (i k : Nat) :
    workOf (setWork s spire n w) i k = if spire = i ∧ n = k then w else workOf s i k := by
  by_cases hi : spire = i
  · subst hi
    simp [workOf, setWork]
  · simp [workOf, setWork, hi]

@[simp] theorem workOf_setSpindle (s : State) (p : Nat) (x : Spindle) (i k : Nat) :
    workOf (setSpindle s p x) i k = workOf s i k := rfl

/-- What a fetch answers: VALUE, or all ones from an exhausted counter (R122). -/
theorem fetchWork_answer (w : WorkCounter) :
    (fetchWork w).1.getD 0xFFFFFFFF#32 = if w.value < w.limit then w.value else 0xFFFFFFFF#32 := by
  unfold fetchWork
  split <;> rfl

/-- What a fetch leaves: VALUE counted up, but never past LIMIT (R122). -/
theorem fetchWork_counter (w : WorkCounter) :
    (fetchWork w).2 = if w.value < w.limit then { w with value := w.value + 1 } else w := by
  unfold fetchWork
  split <;> rfl

/-! ### WORK_FETCH -/

/-- A spindle whose HEAD has fetched item v: it goes on where v is within COUNT5, else at EXIT (R125). -/
def fetchedSpindle (x : Spindle) (h : HeadDesc) (v : Word) : Spindle :=
  let y := executing x x.agen.next 1 3
  let y := { y with agen := { y.agen with workItem := v } }
  if v.toNat < h.counts.getD 5 1 then { y with agen := { y.agen with workReady := true } } else goTo y h.exit

theorem workItem_fetchedSpindle (x : Spindle) (h : HeadDesc) (v : Word) :
    (fetchedSpindle x h v).agen.workItem = v := by
  unfold fetchedSpindle
  split <;> rfl

theorem fetchedSpindle_in_range {h : HeadDesc} {v : Word} (x : Spindle) (hv : v.toNat < h.counts.getD 5 1) :
    (fetchedSpindle x h v).agen.workReady = true ∧ (fetchedSpindle x h v).agen.next = x.agen.next := by
  rw [fetchedSpindle, if_pos hv]
  exact ⟨rfl, rfl⟩

theorem fetchedSpindle_past_range {h : HeadDesc} {v : Word} (x : Spindle) (hv : h.counts.getD 5 1 ≤ v.toNat) :
    (fetchedSpindle x h v).agen.workReady = false ∧ (fetchedSpindle x h v).agen.next = h.exit := by
  rw [fetchedSpindle, if_neg (Nat.not_lt.mpr hv)]
  exact ⟨rfl, rfl⟩

/-- A fetch changes the address generator alone. -/
theorem fetchedSpindle_eq (x : Spindle) (h : HeadDesc) (v : Word) :
    fetchedSpindle x h v = { x with agen := (fetchedSpindle x h v).agen } := by
  unfold fetchedSpindle
  split <;> rfl

theorem workFetch_of_can {s : State} {p j : Nat} (hc : Can.workFetch s p j = true) :
    let h := decodeHead (descAt s p)
    let w := workOf s h.wcSpire h.wc
    workFetch s p = setSpindle (setWork s h.wcSpire h.wc (fetchWork w).2) p
      (fetchedSpindle (spindleOf s p) h ((fetchWork w).1.getD 0xFFFFFFFF#32)) := by
  obtain ⟨⟨⟨⟨hdesc, hblocks, harray⟩, hready⟩, hwork⟩, howns⟩ : (((Can.desc s p j 1 = true ∧
      blocksDone (spindleOf s p) = true ∧ arrayDone (spindleOf s p) = true) ∧
      (spindleOf s p).agen.workReady = false) ∧ (decodeHead (descAt s p)).work = true) ∧
      ownsSpire s j (decodeHead (descAt s p)).wcSpire = true := by simpa [Can.workFetch, settled] using hc
  intro h w
  rw [workFetch, onDesc_of_can hdesc (by simp [hblocks, harray, hready])]
  simp only [hwork, howns, Bool.not_true, Bool.false_eq_true, if_false, fetchedSpindle, apply_ite (setSpindle _ p)]
  rfl

/-! ### HEAD -/

/-- The operation that a HEAD opens with its STREAMs a, b and c (R105). -/
def openedOp (x : Spindle) (h : HeadDesc) (a b c : Bytes) : ArrayOp where
  head := h
  sa := decodeStream a
  sb := decodeStream b
  sc := decodeStream c
  pc := x.agen.next
  item := x.agen.workItem.toNat

/-- The array with an operation opened: its counters and its skew record cleared, its formats, mode and state shown
(R75, R91, R102). -/
def openedArray (a : ArrayUnit) (op : ArrayOp) : ArrayUnit :=
  { a with
    satCount := 0, uflCount := 0, wavefronts := 0, stallDrain := 0, stallFeed := 0, gated := 0
    fmtA := BitVec.ofNat 4 op.head.fmtA, fmtB := BitVec.ofNat 4 op.head.fmtB, mode := op.head.outStat
    skew := { a.skew with valid := false }, waiting := a.idle, op := some op
    state := if widthOf a = 0 then 8 else if a.idle then 1 else 2 }

/-- The spindle with that operation opened and in judgement, to go on behind the four descriptors (R105, R157). -/
def openedSpindle (x : Spindle) (op : ArrayOp) (blocks : List VBlock) : Spindle :=
  goTo (executing { x with
    arr := openedArray x.arr op
    scale := { x.scale with
      judging := some { head := op.head, pc := x.agen.next, blocks := blocks }, attempt := false } }
    x.agen.next 1 2) (x.agen.next + 4)

theorem startOperation_of_can {s : State} {p j : Nat} (hc : Can.head s p j = true) :
    let x := spindleOf s p
    let at' := fun k => (tableDesc x (x.agen.next + k)).getD []
    ∃ blocks, startOperation s p = setSpindle s p
      (openedSpindle x (openedOp x (decodeHead (descAt s p)) (at' 1) (at' 2) (at' 3)) blocks) := by
  obtain ⟨⟨⟨⟨⟨hdesc, hblocks, harray⟩, hsa⟩, hsb⟩, hsc⟩, hwork⟩ : ((((Can.desc s p j 1 = true ∧
      blocksDone (spindleOf s p) = true ∧ arrayDone (spindleOf s p) = true) ∧
      (tableDesc (spindleOf s p) ((spindleOf s p).agen.next + 1)).isSome = true) ∧
      (tableDesc (spindleOf s p) ((spindleOf s p).agen.next + 2)).isSome = true) ∧
      (tableDesc (spindleOf s p) ((spindleOf s p).agen.next + 3)).isSome = true) ∧
      (!(decodeHead (descAt s p)).work || (spindleOf s p).agen.workReady) = true := by
    simpa only [Can.head, settled, Bool.and_eq_true] using hc
  obtain ⟨a, ha⟩ := Option.isSome_iff_exists.mp hsa
  obtain ⟨b, hb⟩ := Option.isSome_iff_exists.mp hsb
  obtain ⟨c, hc⟩ := Option.isSome_iff_exists.mp hsc
  have hfetched : ((decodeHead (descAt s p)).work && !(spindleOf s p).agen.workReady) = false := by
    simpa [or_iff_not_imp_left] using hwork
  intro x at'
  refine ⟨epilogueBlocks (jobRegion s j) x.agen.program (x.agen.last - x.agen.next) (x.agen.next + 4), ?_⟩
  rw [startOperation, onDesc_of_can hdesc (by simp [hblocks, harray])]
  simp only [x, at', ha, hb, hc, hfetched, Bool.false_eq_true, if_false, Option.getD_some]
  rfl

/-! ### The statement on the work fetch and the HEAD -/

/-- Settles O15: each command is its effect on one spindle, a fetch also on its counter, and each part of the effect
is a field of that spindle. -/
theorem headOpens : Obligations.HeadOpens := by
  refine ⟨?fetch, ?head⟩
  case fetch =>
    intro s p j hc
    refine ⟨_, finish_eq_next (only_workFetch s p) (by decide), ?_⟩
    simp only [workFetch_of_can hc, fetchWork_answer, fetchWork_counter, spindleOf_setSpindle, workOf_setSpindle,
      workOf_setWork, and_self, if_true, true_and, and_true]
    exact ⟨workItem_fetchedSpindle _ _ _, fetchedSpindle_in_range _, fetchedSpindle_past_range _,
      fetchedSpindle_eq _ _ _⟩
  case head =>
    intro s p j hc
    obtain ⟨blocks, heq⟩ := startOperation_of_can hc
    refine ⟨_, finish_eq_next (only_startOperation s p) (by decide), ?_⟩
    rw [heq, spindleOf_setSpindle, if_pos rfl]
    exact ⟨rfl, rfl, rfl, rfl, rfl, rfl, rfl, rfl, rfl, rfl, rfl, rfl, rfl, rfl, rfl, rfl, rfl, rfl, rfl, rfl, rfl,
      rfl⟩

end Sys2Proof.Machine
end

section
/-! PROOFS. Wavefronts, weight sets and the judgement of an operation (R77 to R82, R89, R93, R98, R110 to R114, R157 to
R166). -/

namespace Sys2Proof.Machine

/-! ### Entries drained one after another (R82, R113, R166) -/

/-- The entries that a wavefront drains into, each named by an α, and the group sums of each. -/
structure DrainPlan (α : Type) where
  row : α → Nat
  col : α → Nat
  sums : α → List FpVal

/-- The place of an entry in the accumulators. -/
def DrainPlan.place {α : Type} (w : DrainPlan α) (e : α) : Nat := 32 * w.row e + w.col e

/-- A final pass of MODE 2 writes the shadow tiles too (R166). -/
abbrev shadowed (h : HeadDesc) (i : List Nat) : Prop := h.mode = 2 ∧ finalPass h i = true

/-- What an entry holds once group sums are drained into it, with the counts: `drainedEntry` of the accumulators
alone. -/
def drainedAt (h : HeadDesc) (i : List Nat) (acc : Store 32) (a : Nat) (gs : List FpVal) : Rounded :=
  drainAll (fmtInteger h.fmtA) (h.accInit && firstPass h i) (storeGet acc a) gs

section
variable {α : Type} (h : HeadDesc) (i : List Nat) (w : DrainPlan α)

/-- The entries of a list drained in its order. -/
def drainPlan (d : Drained) (l : List α) : Drained :=
  l.foldl (fun d e => drainEntry h i d (w.row e) (w.col e) (w.sums e)) d

/-- Neither of two entries is the other, nor the other's shadow. -/
def DrainPlan.Apart (e k : α) : Prop :=
  w.place e ≠ w.place k ∧ w.place e ≠ w.place k + 1024 * h.accTiles ∧ w.place k ≠ w.place e + 1024 * h.accTiles

theorem storeGet_drainEntry (d : Drained) (row col : Nat) (gs : List FpVal) (b : Nat) :
    storeGet (drainEntry h i d row col gs).acc b =
      if b = 32 * row + col ∨ (shadowed h i ∧ b = 32 * row + col + 1024 * h.accTiles) then
        BitVec.ofNat 32 (drainedAt h i d.acc (32 * row + col) gs).bits else storeGet d.acc b := by
  simp only [drainEntry, apply_ite (storeGet · b), storeGet_storeSet]
  by_cases hb : 32 * row + col = b <;> by_cases hs : 32 * row + col + 1024 * h.accTiles = b <;>
    simp [drainedAt, shadowed, hb, hs, eq_comm (a := b), and_comm]

/-- Draining leaves every entry that is neither drained into nor the shadow of one. -/
theorem storeGet_drainPlan_of_ne {a : Nat} (l : List α) (d : Drained)
    (ha : ∀ e ∈ l, a ≠ w.place e ∧ (shadowed h i → a ≠ w.place e + 1024 * h.accTiles)) :
    storeGet (drainPlan h i w d l).acc a = storeGet d.acc a := by
  induction l generalizing d with
  | nil => rfl
  | cons e l ih =>
    obtain ⟨⟨hne, hshadow⟩, hl⟩ := List.forall_mem_cons.mp ha
    refine (ih _ hl).trans ?_
    rw [storeGet_drainEntry, if_neg]
    rintro (hb | ⟨hs, hb⟩)
    · exact hne hb
    · exact hshadow hs hb

variable {h w} in
/-- An entry apart from one drained before it is drained as if that one had not been. -/
theorem drainedAt_drainEntry {e k : α} (hek : w.Apart h e k) (d : Drained) :
    drainedAt h i (drainEntry h i d (w.row e) (w.col e) (w.sums e)).acc (w.place k) (w.sums k) =
      drainedAt h i d.acc (w.place k) (w.sums k) := by
  obtain ⟨hne, -, hshadow⟩ := hek
  rw [drainedAt, storeGet_drainEntry, if_neg, ← drainedAt]
  rintro (hb | ⟨-, hb⟩)
  · exact hne hb.symm
  · exact hshadow hb

variable {l : List α} (hl : l.Pairwise (w.Apart h))
include hl

/-- Entries apart from each other each hold their own sums, and so do their shadows. -/
theorem storeGet_drainPlan (d : Drained) {e : α} (he : e ∈ l) :
    let r := drainedAt h i d.acc (w.place e) (w.sums e)
    storeGet (drainPlan h i w d l).acc (w.place e) = BitVec.ofNat 32 r.bits ∧
    (shadowed h i → storeGet (drainPlan h i w d l).acc (w.place e + 1024 * h.accTiles) = BitVec.ofNat 32 r.bits) := by
  induction l generalizing d with
  | nil => cases he
  | cons k l ih =>
    obtain ⟨hk, hrest⟩ := List.pairwise_cons.mp hl
    rcases List.mem_cons.mp he with rfl | he
    · have hkeep : ∀ b, (b = w.place e ∨ shadowed h i ∧ b = w.place e + 1024 * h.accTiles) →
          storeGet (drainPlan h i w d (e :: l)).acc b =
            BitVec.ofNat 32 (drainedAt h i d.acc (w.place e) (w.sums e)).bits := fun b hb => by
        refine (storeGet_drainPlan_of_ne h i w l _ fun k' hk' => ?_).trans ?_
        · obtain ⟨hne, hle, hge⟩ := hk k' hk'
          omega
        · rw [storeGet_drainEntry]
          exact if_pos hb
      exact ⟨hkeep _ (.inl rfl), fun hs => hkeep _ (.inr ⟨hs, rfl⟩)⟩
    · have hrec := ih hrest (drainEntry h i d (w.row k) (w.col k) (w.sums k)) he
      rwa [drainedAt_drainEntry i (hk e he)] at hrec

/-- The counts of such a drain are the sums of those of its entries. -/
theorem counts_drainPlan (d : Drained) :
    let r := fun e => drainedAt h i d.acc (w.place e) (w.sums e)
    (drainPlan h i w d l).sat = d.sat + (l.map (fun e => (r e).sat)).sum ∧
    (drainPlan h i w d l).ufl = d.ufl + (l.map (fun e => (r e).ufl)).sum := by
  induction l generalizing d with
  | nil => exact ⟨rfl, rfl⟩
  | cons k l ih =>
    obtain ⟨hk, hrest⟩ := List.pairwise_cons.mp hl
    obtain ⟨hsat, hufl⟩ := ih hrest (drainEntry h i d (w.row k) (w.col k) (w.sums k))
    have hsame : ∀ f : Rounded → Nat, (l.map (fun e => f (drainedAt h i (drainEntry h i d (w.row k) (w.col k)
        (w.sums k)).acc (w.place e) (w.sums e)))).sum =
          (l.map (fun e => f (drainedAt h i d.acc (w.place e) (w.sums e)))).sum :=
      fun f => congrArg List.sum (List.map_congr_left fun e he => congrArg f (drainedAt_drainEntry i (hk e he) d))
    simp only [List.map_cons, List.sum_cons, ← Nat.add_assoc]
    exact ⟨hsat.trans (congrArg _ (hsame (·.sat))), hufl.trans (congrArg _ (hsame (·.ufl)))⟩

end

/-! ### A wavefront that may issue (R77, R80, R100, R471) -/

theorem wavefrontIssue_of_can {s : State} {p j : Nat} {op : ArrayOp} (h : Can.wave s p j op = true) :
    ∃ t, takeTokens s p j op.head = some t ∧ wavefrontIssue s p =
      if op.head.outStat then issueStationaryWave s p t op else issueWeightWave s p t op := by
  obtain ⟨⟨⟨⟨⟨⟨⟨hlive, hjob⟩, hleft⟩, hwaiting⟩, hidle⟩, hissue⟩, hready⟩, htokens⟩ : (((((((arrayLive s p = some op ∧
      runningJob s p = some j) ∧ op.issued < waveTotal op.head) ∧ (spindleOf s p).arr.waiting = false) ∧
      (spindleOf s p).arr.idle = false) ∧ issueAllowed s (domeOfSpindle p) = true) ∧ feederReady op = true) ∧
      (takeTokens s p j op.head).isSome = true) := by simpa [Can.wave] using h
  obtain ⟨t, ht⟩ := Option.isSome_iff_exists.mp htokens
  refine ⟨t, ht, ?_⟩
  simp [wavefrontIssue, hlive, hjob, Nat.not_le.mpr hleft, hwaiting, hissue, hready, hidle, ht]

/-- The accumulators and counts before a wavefront drains. -/
def undrained (x : Spindle) (op : ArrayOp) : Drained := { acc := x.acc, amax := op.amax, sat := 0, ufl := 0 }

/-! ### A weight-stationary wavefront (R79) -/

/-- The entries of a weight-stationary wavefront, one a column. -/
def wavePlan (x : Spindle) (op : ArrayOp) : DrainPlan Nat where
  row _ := waveRow op
  col c := c
  sums := waveSums x op

/-- Columns of one row are apart, wherever the shadow tiles lie. -/
theorem wavePlan_apart (x : Spindle) (op : ArrayOp) {n : Nat} (hn : n ≤ 32) :
    (List.range n).Pairwise ((wavePlan x op).Apart op.head) := by
  refine List.nodup_range.pairwise_of_forall_ne fun a ha b hb hab => ?_
  have ha := List.mem_range.mp ha
  have hb := List.mem_range.mp hb
  simp only [DrainPlan.Apart, DrainPlan.place, wavePlan]
  omega

/-- What a weight-stationary wavefront drains. -/
def waveDrained (x : Spindle) (op : ArrayOp) : Drained :=
  drainPlan op.head (waveIndex op) (wavePlan x op) (undrained x op)
    (List.range (columnsUsed op.head (waveIndex op)))

/-- The operation once the units of its next weight-stationary wavefront have come and passed. -/
def wavePresented (x : Spindle) (op : ArrayOp) : ArrayOp :=
  { op with sets := setsFor op op.issued, blkA := op.blkA + (waveWest x op).length }

theorem issueWeightWave_of_passed {s : State} {p : Nat} {op : ArrayOp} (t : Nat)
    (hread : ((List.range (if bothFour op.head then 2 else 1)).any
      (unitBad (spindleOf s p).bad op.head.fmtA op.sa (waveIndex op))) = false)
    (hcheck : checkUnits op.head.fmtA op.blkA (waveWest (spindleOf s p) op) = none) :
    ∃ gated, issueWeightWave s p t op = setSpindle s p (afterWave (spindleOf s p)
      (wavePresented (spindleOf s p) op) (waveDrained (spindleOf s p) op) gated t) := by
  rw [waveWest, waveIndex] at hcheck
  rw [waveIndex] at hread
  refine ⟨(weightWave (spindleOf s p) op (waveIndex op) (waveWest (spindleOf s p) op)
    (((setsFor op op.issued).head?.map (·.2)).getD [])).2, ?_⟩
  simp only [issueWeightWave, hread, hcheck, Bool.false_eq_true, if_false]
  rfl

/-! ### The last wavefront of an output-stationary group (R81, R110) -/

/-- The entries of an output-stationary group, named by row and column of the tile. -/
def groupPlan (op : ArrayOp) : DrainPlan (Nat × Nat) where
  row e := 32 * op.head.accBase + streamAddr op.sc (groupIndex op) + e.1
  col e := e.2
  sums e := [groupSumOf op e.1 e.2]

/-- The entries of a tile of n columns, row by row. -/
def tileEntries (n : Nat) : List (Nat × Nat) := (List.range 32).product (List.range n)

@[simp] theorem mem_tileEntries {n : Nat} {e : Nat × Nat} : e ∈ tileEntries n ↔ e.1 < 32 ∧ e.2 < n :=
  List.mem_product.trans (and_congr List.mem_range List.mem_range)

/-- Entries of a tile are apart, for the shadow tiles lie at least one tile behind. -/
theorem groupPlan_apart (op : ArrayOp) {n : Nat} (hn : n ≤ 32) (htiles : 1 ≤ op.head.accTiles) :
    (tileEntries n).Pairwise ((groupPlan op).Apart op.head) := by
  refine (List.nodup_range.product List.nodup_range).pairwise_of_forall_ne fun a ha b hb hab => ?_
  obtain ⟨ham, han⟩ := mem_tileEntries.mp ha
  obtain ⟨hbm, hbn⟩ := mem_tileEntries.mp hb
  have hab : ¬(a.1 = b.1 ∧ a.2 = b.2) := fun he => hab (Prod.ext he.1 he.2)
  simp only [DrainPlan.Apart, DrainPlan.place, groupPlan]
  omega

/-- What an output-stationary group drains at its last wavefront. -/
def groupDrained (x : Spindle) (op : ArrayOp) : Drained :=
  drainPlan op.head (groupIndex op) (groupPlan op) (undrained x op) (tileEntries (columnsUsed op.head (groupIndex op)))

theorem stationaryGroup_eq (x : Spindle) (op : ArrayOp) :
    stationaryGroup x op (groupIndex op) = groupDrained x op := by
  rw [groupDrained, drainPlan, tileEntries, List.product.eq_def, List.foldl_flatMap]
  simp only [List.foldl_map]
  rfl

theorem two_le_groupWaves (h : HeadDesc) : 2 ≤ groupWaves h := by
  unfold groupWaves
  split <;> decide

theorem issueStationaryWave_last {s : State} {p : Nat} {op : ArrayOp} (t : Nat)
    (hlast : op.issued % groupWaves op.head = groupWaves op.head - 1) :
    ∃ gated, issueStationaryWave s p t op = setSpindle s p (afterWave (spindleOf s p) op
      (groupDrained (spindleOf s p) op) gated t) := by
  have hn := two_le_groupWaves op.head
  have hw : op.issued % groupWaves op.head ≠ 0 := by omega
  have hend : op.issued % groupWaves op.head + 1 = groupWaves op.head := by omega
  refine ⟨stationaryGated op (columnsUsed op.head (groupIndex op)) (op.issued % groupWaves op.head), ?_⟩
  simp only [issueStationaryWave, beq_eq_false_iff_ne.mpr hw, if_neg hw, if_pos hend, Bool.false_and,
    Bool.false_eq_true, if_false, ← stationaryGroup_eq]
  rfl

/-! ### WEIGHT_SET_LOADED (R80, R98, R112) -/

/-- The operation with the weight set of visit v behind those it holds (R112). -/
def withSet (cache : Store 8) (op : ArrayOp) (v : Nat) : ArrayOp :=
  { op with sets := op.sets ++ [(v, northSet cache op v)], blkB := op.blkB + (northUnits op v).length }

/-- A set whose units can be read and pass joins the sets held. -/
theorem weightSetLoaded_of_can {s : State} {p : Nat} {op : ArrayOp} {v : Nat}
    (h : Can.weightSetLoaded s p op v = true) : weightSetLoaded s p =
    setSpindle s p { spindleOf s p with arr := { (spindleOf s p).arr with
      op := some (withSet (spindleOf s p).cache op v) } } := by
  obtain ⟨⟨⟨⟨⟨hlive, hweight⟩, hheld⟩, hnext⟩, hread⟩, hcheck⟩ : ((((arrayLive s p = some op ∧
      op.head.outStat = false) ∧ op.sets.length < 2) ∧ nextSet op = some v) ∧ ((northUnits op v).any
        (unitBad (spindleOf s p).bad op.head.fmtB op.sb (nestIndex op.head op.item v))) = false) ∧
      checkUnits op.head.fmtB op.blkB (northSet (spindleOf s p).cache op v) = none := by
    simpa only [Can.weightSetLoaded, Bool.and_eq_true, Bool.not_eq_true', decide_eq_true_eq,
      Option.isNone_iff_eq_none] using h
  have hlength : (northSet (spindleOf s p).cache op v).length = (northUnits op v).length := List.length_map _
  simp only [weightSetLoaded, hlive, hweight, Nat.not_le.mpr hheld, decide_false, Bool.or_false, Bool.false_eq_true,
    if_false]
  cases hlast : op.sets.getLast? with
  | none =>
    obtain rfl : setStart op.head op.item op.issued = v := by simpa [nextSet, hlast] using hnext
    simp only [hread, hcheck, hlength, Bool.false_eq_true, if_false, withSet]
  | some e =>
    have hstart : nextSetStart op.head op.item e.1 = some v := by simpa [nextSet, hlast] using hnext
    simp only [hstart, hread, hcheck, hlength, Bool.false_eq_true, if_false, withSet]

/-! ### OPERATION_COMPLETE and the judgement (R89, R93, R157 to R166) -/

theorem operationComplete_of_can {s : State} {p : Nat} {op : ArrayOp} (h : Can.operationComplete s p op = true) :
    operationComplete s p = judge (setSpindle s p (operationReport (spindleOf s p) op)) p := by
  obtain ⟨hlive, hissued⟩ : arrayLive s p = some op ∧ waveTotal op.head ≤ op.issued := by
    simpa [Can.operationComplete] using h
  simp only [operationComplete, hlive, Nat.not_lt.mpr hissued, if_false]

/-- The judgement that an array's report leaves: done with its wavefronts, counters and registers saved (R166). -/
def reportedJudgement (x : Spindle) (op : ArrayOp) (jd : Judgement) : Judgement :=
  { jd with
    arrayDone := true, amax := op.amax, snapSat := x.arr.satCount, snapUfl := x.arr.uflCount
    savedX := x.vec.x, savedPack := x.vec.packTag, savedUnpack := x.vec.unpackTag }

theorem judging_operationReport {x : Spindle} {jd : Judgement} (h : x.scale.judging = some jd) (op : ArrayOp) :
    (operationReport x op).scale.judging = some (reportedJudgement x op jd) :=
  congrArg (Option.map (reportedJudgement x op)) h

/-- A judgement with epilogue blocks to come waits. -/
theorem judge_of_blocks_left {s : State} {p : Nat} {jd : Judgement} (h : (spindleOf s p).scale.judging = some jd)
    (hleft : jd.done < jd.blocks.length) : judge s p = s := by
  simp [judge, h, hleft]

/-- With the counters as the array reported them nothing is repeated: the operation is judged (R158, R166). -/
theorem judge_of_reported {s : State} {p : Nat} {jd : Judgement} (h : (spindleOf s p).scale.judging = some jd)
    (harray : jd.arrayDone = true) (hdone : jd.blocks.length ≤ jd.done)
    (hsat : jd.snapSat = (spindleOf s p).arr.satCount) (hufl : jd.snapUfl = (spindleOf s p).arr.uflCount) :
    judge s p = judgeFinal s p jd := by
  simp only [judge, h, harray, Nat.not_lt.mpr hdone, hsat, hufl, Bool.not_true, decide_false, Bool.or_self,
    Bool.false_eq_true, if_false, Bool.and_assoc, Bool.and_not_self, Bool.and_false]

/-- The spindle that a final judgement leaves (R158, R161, R162). -/
def judgedSpindle (x : Spindle) (jd : Judgement) : Spindle :=
  let passed := overLimit jd.head x.arr.satCount x.arr.uflCount
  { x with scale := { x.scale with
      amax := jd.amax, overrun := passed, judging := none
      limitCount := if passed then satInc x.scale.limitCount else x.scale.limitCount
      events := if passed && decide (x.scale.events < 16) then x.scale.events + 1 else x.scale.events
      slots := if jd.head.mode = 1 ∨ jd.head.mode = 2 then
        x.scale.slots.set jd.head.slot (slotEnter (x.scale.slots.getD jd.head.slot {}) jd.amax) else x.scale.slots } }

theorem spindleOf_raiseSatLimit (s : State) (p pc attempt : Nat) (sat ufl : Word) (k : Nat) :
    spindleOf (raiseSatLimit s p pc attempt sat ufl) k = spindleOf s k := by
  rw [spindleOf, (only_raiseSatLimit _ _ _ _ _ _).keeps .spindles (by decide), spindleOf]

theorem spindleOf_judgeFinal (s : State) (p : Nat) (jd : Judgement) :
    spindleOf (judgeFinal s p jd) p = judgedSpindle (spindleOf s p) jd := by
  simp only [judgeFinal, apply_ite (spindleOf · p), spindleOf_raiseSatLimit, ite_self, spindleOf_setSpindle, if_true]
  rfl

end Sys2Proof.Machine

/-! ### The statements on the matrix array -/

namespace Sys2Proof

open Machine

/-- Settles O9: the drain is that of one row, whose columns are apart. -/
theorem weightWavefront : Obligations.WeightWavefront := by
  intro s p j op h
  obtain ⟨⟨⟨⟨hwave, hweight⟩, hcols⟩, hread⟩, hcheck⟩ : (((Can.wave s p j op = true ∧ op.head.outStat = false) ∧
      columnsUsed op.head (waveIndex op) ≤ 32) ∧
      ((List.range (if bothFour op.head then 2 else 1)).any
        (unitBad (spindleOf s p).bad op.head.fmtA op.sa (waveIndex op))) = false) ∧
      checkUnits op.head.fmtA op.blkA (waveWest (spindleOf s p) op) = none := by
    simpa only [Can.weightWave, Bool.and_eq_true, Bool.not_eq_true', decide_eq_true_eq, Option.isNone_iff_eq_none]
      using h
  obtain ⟨tokens, htokens, hissue⟩ := wavefrontIssue_of_can hwave
  obtain ⟨gated, hstep⟩ := issueWeightWave_of_passed tokens hread hcheck
  rw [hweight, if_neg Bool.false_ne_true, hstep] at hissue
  have hapart := wavePlan_apart (spindleOf s p) op hcols
  have hval := fun c hc => storeGet_drainPlan op.head (waveIndex op) (wavePlan (spindleOf s p) op) hapart
    (undrained (spindleOf s p) op) (List.mem_range (m := c).mpr hc)
  obtain ⟨hsat, hufl⟩ := counts_drainPlan op.head (waveIndex op) (wavePlan (spindleOf s p) op) hapart
    (undrained (spindleOf s p) op)
  refine ⟨_, finish_eq_next (only_wavefrontIssue s p) (by decide), ?_⟩
  rw [hissue, spindleOf_setSpindle, if_pos rfl]
  refine ⟨fun c hc => (hval c hc).1, fun htwice c hc => (hval c hc).2 htwice, fun a ha => ?_, ?_, ?_, rfl,
    htokens.symm, rfl, rfl, rfl, rfl, rfl⟩
  · exact storeGet_drainPlan_of_ne _ _ _ _ _ fun c hc => ha c (List.mem_range.mp hc)
  · exact congrArg (satAdd _) (hsat.trans (Nat.zero_add _))
  · exact congrArg (satAdd _) (hufl.trans (Nat.zero_add _))

/-- Settles O10: the drain is that of one tile, whose entries are apart. -/
theorem stationaryGroup : Obligations.StationaryGroup := by
  intro s p j op h
  obtain ⟨⟨⟨⟨hwave, hstat⟩, hlast⟩, hcols⟩, htiles⟩ : (((Can.wave s p j op = true ∧ op.head.outStat = true) ∧
      op.issued % groupWaves op.head = groupWaves op.head - 1) ∧
      columnsUsed op.head (groupIndex op) ≤ 32) ∧ 1 ≤ op.head.accTiles := by
    simpa only [Can.groupEnd, groupIndex, Bool.and_eq_true, beq_iff_eq, decide_eq_true_eq] using h
  obtain ⟨tokens, -, hissue⟩ := wavefrontIssue_of_can hwave
  obtain ⟨gated, hstep⟩ := issueStationaryWave_last tokens hlast
  rw [hstat, if_pos rfl, hstep] at hissue
  have hval := fun m n hm hn => storeGet_drainPlan op.head (groupIndex op) (groupPlan op)
    (groupPlan_apart op hcols htiles) (undrained (spindleOf s p) op) (mem_tileEntries (e := (m, n)).mpr ⟨hm, hn⟩)
  refine ⟨_, finish_eq_next (only_wavefrontIssue s p) (by decide), ?_⟩
  rw [hissue, spindleOf_setSpindle, if_pos rfl]
  refine ⟨fun m n hm hn => (hval m n hm hn).1, fun htwice m n hm hn => (hval m n hm hn).2 htwice,
    fun a ha => ?_, rfl, rfl, rfl, rfl⟩
  exact storeGet_drainPlan_of_ne _ _ _ _ _ fun e he => ha e.1 e.2 (mem_tileEntries.mp he).1 (mem_tileEntries.mp he).2

/-- Settles O11: the command is the addition of one set. -/
theorem weightSets : Obligations.WeightSets := by
  intro s p op v h
  have heffect := weightSetLoaded_of_can h
  rw [withSet] at heffect
  rw [← heffect]
  exact finish_eq_next (only_weightSetLoaded s p) (by decide)

/-- Settles O12: the array's report either waits for epilogue blocks or is judged, and nothing is repeated, for the
counters are those of the report. -/
theorem operationReports : Obligations.OperationReports := by
  intro s p op jd h hjudging
  have heffect := operationComplete_of_can h
  have hreport : spindleOf (setSpindle s p (operationReport (spindleOf s p) op)) p =
      operationReport (spindleOf s p) op := by rw [spindleOf_setSpindle, if_pos rfl]
  have hjd : (spindleOf (setSpindle s p (operationReport (spindleOf s p) op)) p).scale.judging =
      some (reportedJudgement (spindleOf s p) op jd) := by rw [hreport, judging_operationReport hjudging]
  refine ⟨_, finish_eq_next (only_operationComplete s p) (by decide), fun hleft => ?_, fun hdone => ?_⟩
  · rw [heffect, judge_of_blocks_left hjd hleft, hreport]
    exact ⟨rfl, rfl, rfl, judging_operationReport hjudging op, rfl, rfl⟩
  · rw [heffect, judge_of_reported hjd rfl hdone (by rw [hreport]; rfl) (by rw [hreport]; rfl), spindleOf_judgeFinal,
      hreport]
    exact ⟨rfl, rfl, rfl, rfl, rfl, rfl, rfl, rfl, rfl, rfl, rfl, rfl, rfl⟩

end Sys2Proof
end

section
/-! PROOFS. The ROM loader, firmware start and recovery (R95, R216, R411, R413, R507, R513 to R523). -/

namespace Sys2Proof.Machine

/-! ### Bytes (R9) -/

@[simp] theorem length_fit (n : Nat) (b : Bytes) : (fit n b).length = n := by
  simp [fit, zeroBytes]
  omega

@[simp] theorem length_toLE (n x : Nat) : (toLE n x).length = n := by
  induction n generalizing x with
  | zero => rfl
  | succ n ih => rw [toLE, List.length_cons, ih]

theorem leNat_lt (b : Bytes) : leNat b < 256 ^ b.length := by
  induction b with
  | nil => exact Nat.one_pos
  | cons x r ih =>
    rw [leNat, List.length_cons, Nat.pow_succ]
    have := x.isLt
    omega

/-- A field of n bytes holds a number of n bytes. -/
theorem le_lt (b : Bytes) (lo n : Nat) : le b lo n < 256 ^ n :=
  (leNat_lt _).trans_le (Nat.pow_le_pow_right (by decide) (List.length_take_le _ _))

theorem leNat_toLE (n x : Nat) : leNat (toLE n x) = x % 256 ^ n := by
  induction n generalizing x with
  | zero => rw [Nat.pow_zero, Nat.mod_one]; rfl
  | succ n ih =>
    have hbyte : (BitVec.ofNat 8 x).toNat = x % 256 := BitVec.toNat_ofNat _ _
    rw [toLE, leNat, ih, hbyte, Nat.pow_succ', Nat.mod_mul]

/-- A field reads back from bytes laid end to end. -/
theorem slice_append {a b : Bytes} {lo n : Nat} (ha : a.length = lo) (hb : b.length = n) (c : Bytes) :
    slice (a ++ (b ++ c)) lo n = b := by
  rw [slice, List.drop_left' ha, List.take_left' hb]

theorem zeros_append {a : Bytes} {lo n : Nat} (ha : a.length = lo) (c : Bytes) :
    zeros (a ++ (zeroBytes n ++ c)) lo n = true := by
  rw [zeros, slice_append ha (b := zeroBytes n) List.length_replicate]
  simp [zeroBytes]

/-! ### The life log is taken (R507) -/

/-- The working copy with its commit counted. -/
def committedLife (l : LifeLog) : LifeLog := { l with commits := satInc l.commits }

/-- A commit writes the working copy to the slot that it makes the last, and leaves the rest of the start alone. -/
theorem commitLife_eq (s : State) : ∃ last a b, (if last then b else a) = some (committedLife s.boot.life) ∧
    commitLife s = setBoot s { s.boot with
      life := committedLife s.boot.life, lastSlot := last, age := 0, slotA := a, slotB := b } := by
  cases ha : s.boot.slotA with
  | none => exact ⟨false, _, _, rfl, by simp only [commitLife, ha]; rfl⟩
  | some x => cases hb : s.boot.slotB with
    | none => exact ⟨true, _, _, rfl, by simp only [commitLife, ha, hb]; rfl⟩
    | some y =>
      by_cases hlater : y.commits.toNat < x.commits.toNat
      · exact ⟨true, _, _, rfl, by simp only [commitLife, ha, hb, hlater]; rfl⟩
      · exact ⟨false, _, _, rfl, by simp only [commitLife, ha, hb, hlater]; rfl⟩

/-- BOOTS of this start: counted once, from the latest slot. -/
def bootsOf (b : Boot) : Word := if b.bootsCounted then b.life.boots else satInc ((latestLife b).getD {}).boots

theorem takeLife_eq (s : State) : ∃ l rebuilt, l.boots = bootsOf s.boot ∧
    takeLife s = setBoot s { s.boot with life := l, bootsCounted := true, rebuilt := rebuilt } := by
  cases hcounted : s.boot.bootsCounted with
  | true =>
    refine ⟨s.boot.life, s.boot.rebuilt, by rw [bootsOf, if_pos hcounted], ?_⟩
    rw [takeLife, if_pos hcounted, ← hcounted]
    rfl
  | false =>
    refine ⟨_, _, ?_, by rw [takeLife, if_neg (by simp [hcounted])]⟩
    rw [bootsOf, if_neg (by simp [hcounted])]

/-- The slot taken and the log committed. -/
theorem commitLife_takeLife_eq (s : State) : ∃ l last a b rebuilt, l.boots = bootsOf s.boot ∧
    (if last then b else a) = some l ∧ commitLife (takeLife s) = setBoot s { s.boot with
      life := l, bootsCounted := true, rebuilt := rebuilt, lastSlot := last, age := 0, slotA := a, slotB := b } := by
  obtain ⟨l, rebuilt, hboots, htaken⟩ := takeLife_eq s
  obtain ⟨last, a, b, hslot, hcommit⟩ := commitLife_eq (takeLife s)
  rw [htaken] at hslot
  exact ⟨committedLife l, last, a, b, rebuilt, hboots, hslot, by rw [hcommit, htaken]; rfl⟩

theorem recoveryEntered_enterRecovery (s : State) (cause : Nat) : recoveryEntered s (enterRecovery s cause) cause := by
  obtain ⟨l, last, a, b, rebuilt, hboots, hslot, heq⟩ := commitLife_takeLife_eq s
  rw [enterRecovery, heq]
  exact ⟨rfl, rfl, rfl, rfl, rfl, rfl, hslot, hboots⟩

/-! ### ROM_LOADER_START (R411, R513, R514) -/

theorem romLoaderStart_eq (s : State) (blank : Bool) : romLoaderStart s blank =
    if Can.romStart s then
      if blank then
        setBoot (commitLife (takeLife s)) { (commitLife (takeLife s)).boot with
          romRunning := true, stage := 5, cause := 7 }
      else setBoot (provision s) { (provision s).boot with
        romRunning := true, stage := if s.boot.perst then 0 else 1, cause := 0 }
    else s := by
  have hguard : (s.boot.rails ≠ 8 || s.boot.romRunning || s.boot.held || flashBusy s.boot) = !Can.romStart s := by
    simp [Can.romStart, Bool.not_and, beq_eq_decide]
  rw [romLoaderStart, hguard]
  cases Can.romStart s <;> rfl

theorem provision_of_secret {s : State} (h : s.sec.secret ≠ []) : provision s = s := by
  simp [provision, h]

/-- An endorsement record of the given fields (R411, R412). -/
def endorsementRecord (die : BitVec 64) (identity encryption : Bytes) (signer : BitVec 8) (signature : Bytes) : Bytes :=
  toLE 8 die.toNat ++ fit 32 identity ++ fit 32 encryption ++ [signer] ++ zeroBytes 55
    ++ fit 64 signature ++ zeroBytes 64

section
variable (die : BitVec 64) (identity encryption : Bytes) (signer : BitVec 8) (signature : Bytes)

theorem length_endorsementRecord : (endorsementRecord die identity encryption signer signature).length = 256 := by
  simp [endorsementRecord, zeroBytes]

theorem dieId_endorsementRecord :
    le (endorsementRecord die identity encryption signer signature) 0 8 = die.toNat := by
  have hslice : slice (endorsementRecord die identity encryption signer signature) 0 8 = toLE 8 die.toNat := by
    simp only [endorsementRecord, List.append_assoc]
    exact slice_append (a := []) rfl (length_toLE _ _) _
  rw [le, hslice, leNat_toLE]
  exact Nat.mod_eq_of_lt die.isLt

theorem identity_endorsementRecord :
    slice (endorsementRecord die identity encryption signer signature) 8 32 = fit 32 identity := by
  simp only [endorsementRecord, List.append_assoc]
  exact slice_append (length_toLE _ _) (length_fit _ _) _

theorem encryption_endorsementRecord :
    slice (endorsementRecord die identity encryption signer signature) 40 32 = fit 32 encryption := by
  rw [endorsementRecord, List.append_assoc, List.append_assoc, List.append_assoc, List.append_assoc]
  exact slice_append (by simp) (length_fit _ _) _

theorem signer_endorsementRecord :
    byteAt (endorsementRecord die identity encryption signer signature) 72 = signer.toNat := by
  rw [endorsementRecord, List.append_assoc, List.append_assoc, List.append_assoc, byteAt,
    List.getD_append_right _ _ _ _ (by simp)]
  simp

theorem zeros_endorsementRecord :
    zeros (endorsementRecord die identity encryption signer signature) 73 55 = true ∧
    zeros (endorsementRecord die identity encryption signer signature) 192 64 = true := by
  constructor
  · rw [endorsementRecord, List.append_assoc, List.append_assoc]
    exact zeros_append (by simp) _
  · rw [endorsementRecord, ← List.append_nil (zeroBytes 64)]
    exact zeros_append (by simp [zeroBytes]) _

end

/-- The first start takes the secret and an endorsement record of the module's own keys (R411, R412). -/
theorem provision_of_blank {s : State} (h : s.sec.secret = []) : ∃ signer : BitVec 8, signer.toNat < 4 ∧ ∃ signature,
    (provision s).sec.secret = Config.entropy s.draws 32 ∧ (provision s).sec.endorsement = endorsementRecord
      (provision s).sec.dieId (identityKey (provision s)) (encryptionKey (provision s)) signer signature := by
  refine ⟨BitVec.ofNat 8 (Config.freeNat (s.draws + 2) % 4), ?_, Config.entropy (s.draws + 3) 64, ?_⟩
  · rw [BitVec.toNat_ofNat]
    omega
  · simp only [provision, h, List.isEmpty_nil, Bool.not_true, Bool.false_eq_true, if_false]
    exact ⟨rfl, rfl⟩

/-! ### IMAGE_VERIFIED (R413, R516) -/

/-- What the loader does with the image it reads. -/
def verifiedWith (s : State) (i : FwImage) : State :=
  if imageCause s i = 0 then runImage s i
  else appendRing (enterRecovery s (imageCause s i)) 5 0xFF 0
    (if imageCause s i = 5 then [] else detailOf ((fit 256 i.header).take 80))

theorem imageVerified_eq (s : State) (found : FwImage) : imageVerified s found =
    if Can.readImage s then
      if s.boot.requested then enterRecovery s 6 else verifiedWith s (s.boot.flash.getD found)
    else s := by
  have hguard : (!s.boot.romRunning || s.boot.stage ≠ 1 || s.boot.perst || flashBusy s.boot) = !Can.readImage s := by
    simp [Can.readImage, Bool.not_and, beq_eq_decide]
  rw [imageVerified, hguard]
  cases Can.readImage s <;> rfl

/-- The table of R516, its tests as propositions. -/
theorem imageCause_eq (s : State) (i : FwImage) :
    let h := fit 256 i.header
    let n := le h 4 4
    imageCause s i = if i.readable = false then 5
      else if le h 0 4 ≠ 0x4C514657 ∨ zeros h 10 2 = false ∨ zeros h 144 112 = false ∨ 67108608 < n then 1
      else if 4 ≤ byteAt h 9 ∨
        Config.ed25519Verify (Config.firmwareKey (byteAt h 9)) (h.take 80) (slice h 80 64) = false then 2
      else if i.body.length < n ∨ slice h 16 64 ≠ fit 64 (Config.sha512 (i.body.take n)) then 3
      else if byteAt h 8 < s.sec.svFused then 4 else 0 := by
  simp only [imageCause, Bool.or_eq_true, Bool.not_eq_true', decide_eq_true_eq, or_assoc]
  rfl

theorem runsImage_runImage (s : State) (i : FwImage) : runsImage (runImage s i) i :=
  ⟨rfl, rfl, rfl, rfl, Nat.mod_eq_of_lt (le_lt _ 12 4)⟩

/-- The newest entry of the ring, after one has joined (R426). -/
theorem getLast?_appendRing (s : State) (kind part counter : Nat) (detail : Bytes) :
    (appendRing s kind part counter detail).sec.ring.getLast? =
      some (auditEntry s s.sec.ring s.sec.ringSeq kind 3 part 0 counter detail) := by
  simp only [appendRing, appendRingWith, setSec_sec]
  rw [List.getLast?_drop, if_neg (by rw [List.length_append, List.length_singleton]; omega), List.getLast?_concat]

/-- What an entry of recovery says is about the start alone. -/
theorem recoveryEntered_of_boot_eq {s t u : State} {cause : Nat} (h : recoveryEntered s t cause)
    (hu : u.boot = t.boot) : recoveryEntered s u cause := by
  unfold recoveryEntered lifeTaken at h ⊢
  rw [hu]
  exact h

theorem boot_appendRing (s : State) (kind part counter : Nat) (detail : Bytes) :
    (appendRing s kind part counter detail).boot = s.boot :=
  (only_appendRing _ _ _ _ _).keeps .boot (by decide)

theorem sec_enterRecovery (s : State) (cause : Nat) : (enterRecovery s cause).sec = s.sec :=
  (only_enterRecovery s cause).keeps .sec (by decide)
theorem time_enterRecovery (s : State) (cause : Nat) : (enterRecovery s cause).time = s.time :=
  (only_enterRecovery s cause).keeps .time (by decide)

/-! ### Recovery (R518, R523) -/

theorem recState_programming (x : BitVec 4) : x ∈ [1, 2, 3, 4] ↔ 1 ≤ x.toNat ∧ x.toNat ≤ 4 := by
  revert x
  decide

theorem lanRecGo_eq (s : State) (fn : Fn) (v : Word) : lanRecGo s fn.val v =
    if fn ≠ 0 ∨ s.boot.stage ≠ 4 ∨ v.getLsbD 0 = false ∨ s.boot.recState ∈ [1, 2, 3, 4] then s
    else if s.boot.recAddr.toNat % 64 ≠ 0 ∨ s.boot.recLength.toNat < 256 ∨ 67108864 < s.boot.recLength.toNat then
      setBoot s { s.boot with recState := 6, recStatus := stBadArgument }
    else
      issueRead (setBoot s { s.boot with recState := 1 }) 0 s.boot.recAddr.toNat s.boot.recLength.toNat .recovery := by
  have hfn : fn.val ≠ 0 ↔ fn ≠ 0 := Fin.val_ne_zero_iff
  simp only [lanRecGo, recoveryFails, recState_programming, hfn, Bool.or_eq_true, Bool.and_eq_true, Bool.not_eq_true',
    decide_eq_true_eq, or_assoc]

/-! ### Host reads (R490) -/

theorem reads_answerInvalidations (l : List (Nat × List Nat)) (s : State) :
    (answerInvalidations s l).hif.reads = s.hif.reads := by
  induction l generalizing s with
  | nil => rfl
  | cons e l ih =>
    simp only [answerInvalidations]
    split
    · exact ih _
    · rfl

theorem reads_endReads (s : State) (p : HostRead → Bool) : (endReads s p).hif.reads = s.hif.reads.filter (!p ·) :=
  reads_answerInvalidations _ _

/-- The state with the recovery's read at its end. -/
def recoveryReadEnded (s : State) : State := endReads s (fun r => r.reader == .recovery)

theorem reader_recoveryReadEnded {s : State} {r : HostRead} (h : r ∈ (recoveryReadEnded s).hif.reads) :
    r.reader ≠ .recovery := by
  rw [recoveryReadEnded, reads_endReads] at h
  simpa using (List.mem_filter.mp h).2

theorem boot_recoveryReadEnded (s : State) : (recoveryReadEnded s).boot = s.boot :=
  (only_endReads _ _).keeps .boot (by decide)
theorem sec_recoveryReadEnded (s : State) : (recoveryReadEnded s).sec = s.sec :=
  (only_endReads _ _).keeps .sec (by decide)

/-- Requests to host memory leave the reads that are outstanding. -/
theorem reads_issuePosted (s : State) (o : Output) : (issuePosted s o).hif.reads = s.hif.reads := by
  simp only [issuePosted, askTranslation, holdWrite]
  repeat' split
  all_goals rfl

theorem reads_hostWrite (s : State) (fn addr : Nat) (bytes : Bytes) :
    (hostWrite s fn addr bytes).hif.reads = s.hif.reads := by
  unfold hostWrite
  generalize pagesOf _ _ _ = pages
  induction pages generalizing s with
  | nil => rfl
  | cons c pages ih => exact (ih _).trans (reads_issuePosted _ _)

theorem reads_raiseVector (s : State) (fn vec : Nat) : (raiseVector s fn vec).hif.reads = s.hif.reads := by
  simp only [raiseVector]
  repeat' split
  · rfl
  · rfl
  · rfl
  · exact reads_issuePosted _ _

theorem reads_eventTo (s : State) (m code : Nat) (part : Option Nat) (data : Bytes) :
    (eventTo s m code part data).hif.reads = s.hif.reads := by
  simp only [eventTo]
  repeat' split
  · rfl
  · rfl
  · rw [reads_raiseVector, reads_hostWrite]
    exact reads_hostWrite _ _ _ _

/-- A failed read of the loader is reported, and the reads outstanding stand (R408). -/
theorem reads_raiseHostTimeout (s : State) (agent addr : Nat) :
    (raiseHostTimeout s none agent addr).hif.reads = s.hif.reads := reads_eventTo _ _ _ _ _

theorem boot_raiseHostTimeout (s : State) (part : Option Nat) (agent addr : Nat) :
    (raiseHostTimeout s part agent addr).boot = s.boot := (only_raiseHostTimeout _ _ _ _).keeps .boot (by decide)

/-! ### The end of the recovery's read -/

theorem imageCause_congr {s t : State} (h : t.sec = s.sec) (i : FwImage) : imageCause t i = imageCause s i := by
  rw [imageCause_eq, imageCause_eq, h]

theorem recReadComplete_of_ne {s : State} (h : s.boot.recState ≠ 1) (o : Option Bytes) : recReadComplete s o = s :=
  if_pos h

theorem recReadComplete_failed {s : State} (h : s.boot.recState = 1) : ∃ addr, recReadComplete s none =
    recoveryFails (raiseHostTimeout (recoveryReadEnded s) none 2 addr) stHostTimeout :=
  ⟨_, if_neg (not_not.mpr h)⟩

/-- The image that the recovery's bytes hold. -/
def recoveryImage (s : State) (b : Bytes) : FwImage :=
  let d := fit s.boot.recLength.toNat b
  { readable := true, header := d.take 256, body := d.drop 256 }

theorem recReadComplete_some {s : State} (h : s.boot.recState = 1) (b : Bytes) :
    recReadComplete s (some b) = setBoot (recoveryReadEnded s)
      (if imageCause s (recoveryImage s b) = 0 then
        { s.boot with recState := 3, staged := some (recoveryImage s b), flash := some erasedFlash }
      else { s.boot with
        recState := 6, recStatus := if imageCause s (recoveryImage s b) = 4 then stNotPermitted else stBadCheck }) := by
  have hsec := sec_recoveryReadEnded s
  have hboot := boot_recoveryReadEnded s
  rw [recoveryReadEnded] at hsec hboot
  rw [recReadComplete, if_neg (not_not.mpr h)]
  generalize hcause : imageCause s (recoveryImage s b) = cause
  rw [recoveryImage] at hcause
  simp only [recoveryFails, hboot, imageCause_congr hsec, hcause]
  by_cases h4 : cause = 4
  · simp [h4, recoveryReadEnded]
  · by_cases h0 : cause = 0
    · simp [h0, recoveryReadEnded, recoveryImage]
    · simp [h4, h0, recoveryReadEnded]

/-! ### The end of programming and of the read back -/

/-- The loader restarts only from the state that waits for it (R518). -/
theorem loaderAgain_of_stage {s : State} (h : s.boot.stage ≠ 0) : loaderAgain s = s := by
  simp only [loaderAgain, decide_eq_false h, Bool.and_false, Bool.false_and, Bool.false_eq_true, if_false]

@[simp] theorem finish_setBoot (s : State) (b : Boot) : finish s (setBoot s b) = .next (setBoot s b) := rfl

theorem finish_loaderAgain_setBoot {b : Boot} (hb : b.stage ≠ 0) (s : State) :
    finish s (loaderAgain (setBoot s b)) = .next (setBoot s b) := by
  rw [loaderAgain_of_stage (s := setBoot s b) hb, finish_setBoot]

theorem loaderAgain_of_done {s : State} (hrom : s.boot.romRunning = true) (hstage : s.boot.stage = 0)
    (hperst : s.boot.perst = false) (hflash : flashBusy s.boot = false) :
    loaderAgain s = setBoot s { s.boot with stage := 1, recState := 0 } := by
  simp [loaderAgain, hrom, hstage, hperst, hflash]

theorem recProgramComplete_of_ne {s : State} (h : s.boot.recState ≠ 3) (ok : Bool) : recProgramComplete s ok = s :=
  if_pos h
theorem recReadBackComplete_of_ne {s : State} (h : s.boot.recState ≠ 4) (ok : Bool) : recReadBackComplete s ok = s :=
  if_pos h

theorem recProgramComplete_of_programming {s : State} (h : s.boot.recState = 3) (ok : Bool) : recProgramComplete s ok =
    if ok then setBoot s { s.boot with recState := 4 } else recoveryFails s stUncorrectable :=
  if_neg (not_not.mpr h)

theorem recReadBackComplete_failed {s : State} (h : s.boot.recState = 4) :
    recReadBackComplete s false = recoveryFails s stUncorrectable :=
  if_neg (not_not.mpr h)

/-- The start with flash work that has succeeded. -/
def flashed (b : Boot) (i : FwImage) : Boot :=
  { b with recState := 5, recStatus := stOk, flash := some i, staged := none, requested := false }

theorem recReadBackComplete_done {s : State} {i : FwImage} (h : s.boot.recState = 4) (hi : s.boot.staged = some i) :
    recReadBackComplete s true =
      if s.boot.stage = 4 then runImage (setBoot s (flashed s.boot i)) i else setBoot s (flashed s.boot i) := by
  rw [recReadBackComplete, if_neg (not_not.mpr h)]
  simp only [hi]
  rfl

/-- The recovery ends with its image run (R518). -/
theorem loaderAgain_recReadBackComplete_of_stage {s : State} {i : FwImage} (h : s.boot.recState = 4)
    (hstage : s.boot.stage = 4) (hi : s.boot.staged = some i) :
    loaderAgain (recReadBackComplete s true) = runImage (setBoot s (flashed s.boot i)) i := by
  rw [recReadBackComplete_done h hi, if_pos hstage]
  exact loaderAgain_of_stage (s := runImage _ i) (show (2 : BitVec 4) ≠ 0 by decide)

/-- After a PERST# the end of the flash work lets the loader restart, with what is then in flash (R518). -/
theorem loaderAgain_recReadBackComplete_of_perst {s : State} {i : FwImage} (h : s.boot.recState = 4)
    (hstage : s.boot.stage = 0) (hrom : s.boot.romRunning = true) (hperst : s.boot.perst = false)
    (hi : s.boot.staged = some i) (ok : Bool) : ∃ b, loaderAgain (recReadBackComplete s ok) = setBoot s b ∧
      b.stage = 1 ∧ b.recState = 0 ∧ b.flash = if ok then some i else s.boot.flash := by
  cases ok with
  | true =>
    refine ⟨{ flashed s.boot i with stage := 1, recState := 0 }, ?_, rfl, rfl, rfl⟩
    rw [recReadBackComplete_done h hi, if_neg (by rw [hstage]; decide)]
    exact loaderAgain_of_done (s := setBoot s (flashed s.boot i)) hrom hstage hperst rfl
  | false =>
    refine ⟨{ s.boot with stage := 1, recState := 0, recStatus := stUncorrectable }, ?_, rfl, rfl, rfl⟩
    rw [recReadBackComplete_failed h]
    exact loaderAgain_of_done (s := recoveryFails s stUncorrectable) hrom hstage hperst rfl

/-! ### Firmware start, step by step (R519, R520) -/

/-- What is read of one unit after a list of changes, each of which sets one unit: the value that its own sets. -/
theorem read_foldl_of_mem {α β : Type} {f : State → α → State} {read : State → β} {a : α} {v : β}
    (hset : ∀ s, read (f s a) = v) (hkeep : ∀ s b, b ≠ a → read (f s b) = read s) {l : List α} (ha : a ∈ l)
    (s : State) : read (l.foldl f s) = v := by
  induction l using List.reverseRecOn with
  | nil => cases ha
  | append_singleton l b ih =>
    rw [List.foldl_append, List.foldl_cons, List.foldl_nil]
    by_cases hb : b = a
    · rw [hb, hset]
    · rw [hkeep _ _ hb]
      exact ih ((List.mem_append.mp ha).resolve_right fun h => hb (List.mem_singleton.mp h).symm)

theorem state_trainChannel (found : StartFindings) (s : State) (c k : Fin 24) :
    (channelOf (trainChannel found s c) k).state =
      if c = k then (if found.failedChannels.contains k then 4 else 2) else (channelOf s k).state := by
  unfold trainChannel
  rw [channelOf_setChannel]
  by_cases hck : c = k
  · subst hck
    rw [if_pos rfl, if_pos rfl]
  · rw [if_neg (fun h => hck (Fin.ext h)), if_neg hck]

theorem state_trainChannels (found : StartFindings) (s : State) (c : Fin 24) :
    (channelOf ((List.finRange 24).foldl (trainChannel found) s) c).state =
      if found.failedChannels.contains c then 4 else 2 :=
  read_foldl_of_mem (read := fun s => (channelOf s c).state)
    (fun s => (state_trainChannel found s c c).trans (if_pos rfl))
    (fun s b hb => (state_trainChannel found s b c).trans (if_neg hb)) (List.mem_finRange c) s

theorem linkPortOf_enableLink (s : State) (p k : Nat) : linkPortOf (enableLink s p) k =
    if p = k then { linkPortOf s k with enabled := true, state := 1 } else linkPortOf s k := by
  refine (tget_tset _ _ _ _ _).trans ?_
  split
  next h => rw [h]
  · rfl

theorem linkPortOf_enableLinks (s : State) (p : Fin 4) : linkPortOf ((List.range 4).foldl enableLink s) p =
    { linkPortOf s p with enabled := true, state := 1 } := by
  rw [unitOf_foldl (unitOf := linkPortOf) (g := fun x => { x with enabled := true, state := 1 }) linkPortOf_enableLink
    (fun _ => rfl), if_pos (List.mem_range.mpr p.isLt)]

/-! ### The bypass map (R95) -/

/-- A record of a change of width changes the column records of the life log alone (R510). -/
theorem recordColumn_eq (s : State) (p col width : Nat) : ∃ l, recordColumn s p col width = setLife s l ∧
    l.boots = s.boot.life.boots := by
  simp only [recordColumn]
  split <;> exact ⟨_, rfl, rfl⟩

theorem spindleOf_recordColumn (s : State) (p col width k : Nat) :
    spindleOf (recordColumn s p col width) k = spindleOf s k := by
  obtain ⟨l, h, -⟩ := recordColumn_eq s p col width
  rw [h]
  rfl

theorem boot_bypassColumn (s : State) (e : Fin 256 × Fin 32) :
    ∃ l, (bypassColumn s e).boot = { s.boot with life := l } ∧ l.boots = s.boot.life.boots := by
  simp only [bypassColumn]
  split
  · exact ⟨s.boot.life, rfl, rfl⟩
  · obtain ⟨l, h, hl⟩ := recordColumn_eq (setSpindle s e.1 _) e.1 e.2 _
    exact ⟨l, congrArg State.boot h, hl⟩

theorem boot_bypassColumns (l : List (Fin 256 × Fin 32)) (s : State) :
    ∃ m, (l.foldl bypassColumn s).boot = { s.boot with life := m } ∧ m.boots = s.boot.life.boots := by
  induction l generalizing s with
  | nil => exact ⟨s.boot.life, rfl, rfl⟩
  | cons e l ih =>
    obtain ⟨m, h, hm⟩ := boot_bypassColumn s e
    obtain ⟨m', h', hm'⟩ := ih (bypassColumn s e)
    rw [h] at h' hm'
    exact ⟨m', h', hm'.trans hm⟩

theorem getLsbD_bit (c k : Fin 32) : (BitVec.ofNat 32 (2 ^ c.val)).getLsbD k.val = decide (c = k) := by
  rw [BitVec.getLsbD_ofNat, Nat.testBit_two_pow, decide_eq_true k.isLt, Bool.true_and]
  exact decide_eq_decide.mpr Fin.ext_iff.symm

theorem bypass_bypassColumn (s : State) (e : Fin 256 × Fin 32) (p : Fin 256) (k : Fin 32) :
    (spindleOf (bypassColumn s e) p).arr.bypass.getLsbD k =
      ((spindleOf s p).arr.bypass.getLsbD k || decide (e = (p, k))) := by
  obtain ⟨q, c⟩ := e
  simp only [bypassColumn, Prod.mk.injEq]
  split
  next hset =>
    by_cases he : q = p ∧ c = k
    · rw [← he.1, ← he.2, hset, Bool.true_or]
    · rw [decide_eq_false he, Bool.or_false]
  · rw [spindleOf_recordColumn, spindleOf_setSpindle]
    by_cases hq : q = p
    · subst hq
      rw [if_pos rfl, BitVec.getLsbD_or, getLsbD_bit]
      simp
    · rw [if_neg (fun h => hq (Fin.ext h)), decide_eq_false (fun h => hq h.1), Bool.or_false]

theorem bypass_bypassColumns (l : List (Fin 256 × Fin 32)) (s : State) (p : Fin 256) (k : Fin 32) :
    (spindleOf (l.foldl bypassColumn s) p).arr.bypass.getLsbD k =
      ((spindleOf s p).arr.bypass.getLsbD k || l.contains (p, k)) := by
  induction l generalizing s with
  | nil => exact (Bool.or_false _).symm
  | cons e l ih =>
    rw [List.foldl_cons, ih, bypass_bypassColumn, Bool.or_assoc, List.contains_cons, beq_eq_decide,
      decide_eq_decide.mpr eq_comm]

/-! ### Limit, point and mailbox 8 -/

theorem power_setTarget (s : State) {n : Nat} (hn : n < 16) :
    (setTarget s n).power.limit = s.power.limit ∧ (setTarget s n).power.target = BitVec.ofNat 4 n := by
  have hshow : ∀ t, (showPoint t n).power = t.power := fun t => (only_showPoint t n).keeps .power (by decide)
  simp only [setTarget]
  split
  next h => exact ⟨rfl, BitVec.eq_of_toNat_eq (by rw [h, BitVec.toNat_ofNat, Nat.mod_eq_of_lt hn])⟩
  · rw [hshow]
    exact ⟨rfl, rfl⟩

theorem openMailbox8_of_ended {s : State} (hended : s.boot.firmwareEnded = true) (hstage : s.boot.stage = 2) :
    openMailbox8 s = if s.hif.configReady then setMailbox (setBoot s { s.boot with stage := 3 }) 8 { present := true }
      else s := by
  simp [openMailbox8, hended, hstage]

/-! ### FIRMWARE_START_END -/

section
variable (found : StartFindings) (s : State)

/-- The start once the life log is taken and the channels are trained. -/
def startTrained : State := (List.finRange 24).foldl (trainChannel found) (takeLife s)
/-- After that, the columns found bad are bypassed. -/
def startBypassed : State := found.badColumns.foldl bypassColumn (startTrained found s)
/-- After that, the Burava ports train. -/
def startLinked : State := (List.range 4).foldl enableLink (startBypassed found s)
/-- After that, the Belfry's state is taken. -/
def startCompared : State := compareBelfry (startLinked found s)
/-- After that, limit and point are set. -/
def startPowered : State :=
  setTarget (setPower (startCompared found s) { (startCompared found s).power with
    limit := BitVec.ofNat 17 (ceilingMw (startCompared found s)) }) 1
/-- After that, the end of firmware start is marked with its counts. -/
def startEnded : State :=
  setBoot (startPowered found s) { (startPowered found s).boot with
    firmwareEnded := true
    trainFailed := BitVec.ofNat 7 ((List.finRange 24).countP (fun c => found.failedChannels.contains c))
    offline := BitVec.ofNat 9
      ((List.range 256).countP (fun p => widthOf (spindleOf (startPowered found s) p).arr == 0)) }

theorem only_startTrained : Only [.boot, .channels] s (startTrained found s) :=
  ((only_takeLife s).mono (by decide)).trans
    ((Only.foldl _ (fun _ _ => only_trainChannel _ _ _) _ (Only.refl [.channels] _)).mono (by decide))
theorem only_startBypassed : Only [.spindles, .boot] (startTrained found s) (startBypassed found s) :=
  Only.foldl _ only_bypassColumn _ (Only.refl _ _)
theorem only_startLinked : Only [.skein] (startBypassed found s) (startLinked found s) :=
  Only.foldl _ only_enableLink _ (Only.refl _ _)
theorem only_startPowered : Only [.domes, .power] (startCompared found s) (startPowered found s) :=
  ((only_setPower _ _).mono (by decide)).trans (only_setTarget _ _)

/-- What follows the comparison with the Belfry. -/
theorem only_after_startCompared : Only [.domes, .power, .boot, .mailboxes] (startCompared found s)
    (openMailbox8 (startEnded found s)) :=
  (((only_startPowered found s).mono (by decide)).step (only_setBoot _ _) (by decide)).step (only_openMailbox8 _)
    (by decide)
/-- What follows the ports. -/
theorem only_after_startLinked : Only [.sec, .domes, .power, .boot, .mailboxes] (startLinked found s)
    (openMailbox8 (startEnded found s)) :=
  ((only_compareBelfry _).mono (by decide)).trans ((only_after_startCompared found s).mono (by decide))
/-- What follows the bypass map. -/
theorem only_after_startBypassed : Only [.skein, .sec, .domes, .power, .boot, .mailboxes] (startBypassed found s)
    (openMailbox8 (startEnded found s)) :=
  ((only_startLinked found s).mono (by decide)).trans ((only_after_startLinked found s).mono (by decide))
/-- What follows the training of the channels. -/
theorem only_after_startTrained : Only [.spindles, .skein, .sec, .domes, .power, .boot, .mailboxes]
    (startTrained found s) (openMailbox8 (startEnded found s)) :=
  ((only_startBypassed found s).mono (by decide)).trans ((only_after_startBypassed found s).mono (by decide))

/-- Before the comparison with the Belfry. -/
theorem only_before_startCompared : Only [.boot, .channels, .spindles, .skein] s (startLinked found s) :=
  (((only_startTrained found s).mono (by decide)).step (only_startBypassed found s) (by decide)).step
    (only_startLinked found s) (by decide)

variable {found s}

theorem firmwareStartEnd_of_can (hstage : s.boot.stage = 2) (hended : s.boot.firmwareEnded = false) :
    firmwareStartEnd s found = openMailbox8 (startEnded found s) := by
  rw [firmwareStartEnd, if_neg (by simp [hstage, hended])]
  rfl

theorem firmwareStartEnd_of_cannot (h : (s.boot.stage != 2 || s.boot.firmwareEnded) = true) :
    firmwareStartEnd s found = s := by
  rw [firmwareStartEnd, if_pos]
  simpa using h

variable (found s)

theorem boot_startLinked : ∃ l rebuilt, (startLinked found s).boot =
    { s.boot with life := l, bootsCounted := true, rebuilt := rebuilt } ∧ l.boots = bootsOf s.boot := by
  obtain ⟨l, rebuilt, hl, htaken⟩ := takeLife_eq s
  obtain ⟨m, hcolumns, hm⟩ := boot_bypassColumns found.badColumns (startTrained found s)
  have htrained : (startTrained found s).boot = (takeLife s).boot :=
    (Only.foldl _ (fun _ _ => only_trainChannel _ _ _) _ (Only.refl [.channels] _)).keeps .boot (by decide)
  have hlinked : (startLinked found s).boot = (startBypassed found s).boot :=
    (only_startLinked found s).keeps .boot (by decide)
  rw [htrained, htaken] at hcolumns hm
  exact ⟨m, rebuilt, hlinked.trans hcolumns, hm.trans hl⟩

theorem compareBelfry_of_powered {s : State} (h : s.belfry.powered = true) : compareBelfry s =
    setSec (setBoot s { s.boot with
      owedSeal := decide (s.belfry.mirGen ≠ s.sec.lastSeal), owedTamper := s.belfry.mirTamper })
    { s.sec with lastSeal := s.belfry.mirGen, lastTamper := s.belfry.mirTamper } := by
  rw [compareBelfry, if_neg (by simp [h])]
  rfl

theorem compareBelfry_of_not_powered {s : State} (h : s.belfry.powered = false) : compareBelfry s = s := by
  simp [compareBelfry, h]

/-- The comparison leaves what the start has of its own, and the fuses; it notes what the Belfry shows (R520). -/
theorem boot_compareBelfry (s : State) : ∃ owed tamper,
    (compareBelfry s).boot = { s.boot with owedSeal := owed, owedTamper := tamper } ∧
    (s.belfry.powered = true → owed = decide (s.belfry.mirGen ≠ s.sec.lastSeal) ∧ tamper = s.belfry.mirTamper) := by
  cases h : s.belfry.powered with
  | true =>
    exact ⟨decide (s.belfry.mirGen ≠ s.sec.lastSeal), s.belfry.mirTamper,
      by rw [compareBelfry_of_powered h]; rfl, fun _ => ⟨rfl, rfl⟩⟩
  | false =>
    exact ⟨s.boot.owedSeal, s.boot.owedTamper, congrArg State.boot (compareBelfry_of_not_powered h),
      fun hp => nomatch hp⟩

theorem ceilSteps_compareBelfry (s : State) : (compareBelfry s).sec.ceilSteps = s.sec.ceilSteps := by
  cases h : s.belfry.powered with
  | true => rw [compareBelfry_of_powered h]; rfl
  | false => rw [compareBelfry_of_not_powered h]

theorem boot_startCompared : ∃ l rebuilt owed tamper, (startCompared found s).boot = { s.boot with
      life := l, bootsCounted := true, rebuilt := rebuilt, owedSeal := owed, owedTamper := tamper } ∧
    l.boots = bootsOf s.boot ∧
    (s.belfry.powered = true → owed = decide (s.belfry.mirGen ≠ s.sec.lastSeal) ∧ tamper = s.belfry.mirTamper) := by
  obtain ⟨l, rebuilt, hlinked, hl⟩ := boot_startLinked found s
  obtain ⟨owed, tamper, hcompared, hbelfry⟩ := boot_compareBelfry (startLinked found s)
  rw [(only_before_startCompared found s).keeps .belfry (by decide),
    (only_before_startCompared found s).keeps .sec (by decide)] at hbelfry
  rw [hlinked] at hcompared
  exact ⟨l, rebuilt, owed, tamper, hcompared, hl, hbelfry⟩

theorem hif_startEnded : (startEnded found s).hif = s.hif :=
  calc (startEnded found s).hif
    _ = (startCompared found s).hif := (only_startPowered found s).keeps .hif (by decide)
    _ = (startLinked found s).hif := (only_compareBelfry _).keeps .hif (by decide)
    _ = s.hif := (only_before_startCompared found s).keeps .hif (by decide)

theorem boot_startPowered : (startPowered found s).boot = (startCompared found s).boot :=
  (only_startPowered found s).keeps .boot (by decide)

/-- The end of firmware start is marked, with its counts, over what the comparison has left. -/
theorem boot_startEnded : (startEnded found s).boot = { (startCompared found s).boot with
    firmwareEnded := true, trainFailed := (startEnded found s).boot.trainFailed
    offline := (startEnded found s).boot.offline } := by
  rw [← boot_startPowered]
  rfl

theorem stage_startEnded : (startEnded found s).boot.stage = s.boot.stage := by
  obtain ⟨l, rebuilt, owed, tamper, hcompared, -, -⟩ := boot_startCompared found s
  rw [boot_startEnded, hcompared]

/-- Firmware start ends with mailbox 8 opened, once the host's configuration requests are answered (R513). -/
theorem openMailbox8_startEnded (hstage : s.boot.stage = 2) : openMailbox8 (startEnded found s) =
    if s.hif.configReady then
      setMailbox (setBoot (startEnded found s) { (startEnded found s).boot with stage := 3 }) 8 { present := true }
    else startEnded found s := by
  rw [openMailbox8_of_ended rfl ((stage_startEnded found s).trans hstage), hif_startEnded]

theorem boot_openMailbox8_startEnded (hstage : s.boot.stage = 2) : (openMailbox8 (startEnded found s)).boot =
    { (startEnded found s).boot with stage := if s.hif.configReady then 3 else 2 } := by
  rw [openMailbox8_startEnded found s hstage]
  cases s.hif.configReady with
  | true => rfl
  | false =>
    rw [if_neg Bool.false_ne_true, if_neg Bool.false_ne_true, ← (stage_startEnded found s).trans hstage]

theorem mailboxes_openMailbox8_startEnded (hstage : s.boot.stage = 2) :
    let t := openMailbox8 (startEnded found s)
    (s.hif.configReady = true → mailboxOf t 8 = { present := true }) ∧
    (s.hif.configReady = false → t.mailboxes = s.mailboxes) := by
  have hended : (startEnded found s).mailboxes = s.mailboxes :=
    calc (startEnded found s).mailboxes
      _ = (startCompared found s).mailboxes := (only_startPowered found s).keeps .mailboxes (by decide)
      _ = (startLinked found s).mailboxes := (only_compareBelfry _).keeps .mailboxes (by decide)
      _ = s.mailboxes := (only_before_startCompared found s).keeps .mailboxes (by decide)
  intro t
  simp only [t, openMailbox8_startEnded found s hstage]
  exact ⟨fun h => by rw [if_pos h, mailboxOf_setMailbox, if_pos rfl],
    fun h => by rw [h, if_neg Bool.false_ne_true, hended]⟩

/-! ### The units after firmware start -/

theorem channels_firmwareStart (c : Fin 24) : (channelOf (openMailbox8 (startEnded found s)) c).state =
    if found.failedChannels.contains c then 4 else 2 := by
  rw [channelOf, (only_after_startTrained found s).keeps .channels (by decide)]
  exact state_trainChannels found _ c

theorem bypass_firmwareStart (p : Fin 256) (k : Fin 32) :
    (spindleOf (openMailbox8 (startEnded found s)) p).arr.bypass.getLsbD k =
      ((spindleOf s p).arr.bypass.getLsbD k || found.badColumns.contains (p, k)) := by
  have hbefore : spindleOf (startTrained found s) p = spindleOf s p := by
    rw [spindleOf, (only_startTrained found s).keeps .spindles (by decide), spindleOf]
  rw [spindleOf, (only_after_startBypassed found s).keeps .spindles (by decide), ← hbefore]
  exact bypass_bypassColumns _ _ _ _

theorem links_firmwareStart (p : Fin 4) : linkPortOf (openMailbox8 (startEnded found s)) p =
    { linkPortOf s p with enabled := true, state := 1 } := by
  have hbefore : linkPortOf (startBypassed found s) p = linkPortOf s p := by
    rw [linkPortOf, (only_startBypassed found s).keeps .skein (by decide),
      (only_startTrained found s).keeps .skein (by decide), linkPortOf]
  rw [linkPortOf, (only_after_startLinked found s).keeps .skein (by decide), ← hbefore]
  exact linkPortOf_enableLinks _ p

theorem power_firmwareStart :
    (openMailbox8 (startEnded found s)).power.limit.toNat = 120000 - 5000 * s.sec.ceilSteps ∧
    (openMailbox8 (startEnded found s)).power.target = 1 := by
  have hpower : (openMailbox8 (startEnded found s)).power = (startPowered found s).power :=
    (only_openMailbox8 _).keeps .power (by decide)
  have hceil : (startCompared found s).sec.ceilSteps = s.sec.ceilSteps := by
    rw [startCompared, ceilSteps_compareBelfry, (only_before_startCompared found s).keeps .sec (by decide)]
  obtain ⟨hlimit, htarget⟩ := power_setTarget (setPower (startCompared found s) { (startCompared found s).power with
    limit := BitVec.ofNat 17 (ceilingMw (startCompared found s)) }) (n := 1) (by decide)
  rw [hpower]
  refine ⟨?_, htarget⟩
  rw [startPowered, hlimit, setPower_power, BitVec.toNat_ofNat, ceilingMw, hceil]
  omega

theorem sec_firmwareStart (h : s.belfry.powered = true) :
    (openMailbox8 (startEnded found s)).sec.lastSeal = s.belfry.mirGen ∧
    (openMailbox8 (startEnded found s)).sec.lastTamper = s.belfry.mirTamper := by
  have hbelfry := (only_before_startCompared found s).keeps .belfry (by decide)
  rw [(only_after_startCompared found s).keeps .sec (by decide), startCompared,
    compareBelfry_of_powered (by rw [hbelfry]; exact h), ← hbelfry]
  exact ⟨rfl, rfl⟩

theorem offline_firmwareStart (hstage : s.boot.stage = 2) :
    (openMailbox8 (startEnded found s)).boot.offline.toNat =
      (List.range 256).countP (fun p => widthOf (spindleOf (openMailbox8 (startEnded found s)) p).arr == 0) := by
  have hspindles : ∀ p, spindleOf (openMailbox8 (startEnded found s)) p = spindleOf (startPowered found s) p := by
    intro p
    rw [spindleOf, (only_openMailbox8 _).keeps .spindles (by decide)]
    rfl
  have hle : (List.range 256).countP (fun p => widthOf (spindleOf (startPowered found s) p).arr == 0) ≤ 256 :=
    List.countP_le_length.trans_eq List.length_range
  simp only [hspindles]
  rw [boot_openMailbox8_startEnded found s hstage]
  exact Nat.mod_eq_of_lt (by omega)

theorem trainFailed_firmwareStart (hstage : s.boot.stage = 2) :
    (openMailbox8 (startEnded found s)).boot.trainFailed.toNat =
      (List.finRange 24).countP (fun c => found.failedChannels.contains c) := by
  have hle : (List.finRange 24).countP (fun c => found.failedChannels.contains c) ≤ 24 :=
    List.countP_le_length.trans_eq (List.length_finRange)
  rw [boot_openMailbox8_startEnded found s hstage]
  exact Nat.mod_eq_of_lt (by omega)

end

/-! ### The statement on start and recovery -/

/-- Settles O50: each command is its effect, and each part of the effect is the lemma of the operation that makes
it. -/
theorem startAndRecovery : Obligations.StartAndRecovery := by
  refine ⟨?blank, ?loader, ?noLoader, ?held, ?verified, ?noImage, ?firmware, ?noFirmware, ?control, ?go, ?readFailed,
    ?read, ?programmed, ?readBack, ?restarts, ?nothing⟩
  case blank =>
    intro s h
    obtain ⟨l, last, a, b, rebuilt, hboots, hslot, htaken⟩ := commitLife_takeLife_eq s
    refine ⟨_, finish_eq_next (only_romLoaderStart s true) (by decide), ?_⟩
    rw [romLoaderStart_eq, if_pos h, if_pos rfl, htaken]
    exact ⟨rfl, rfl, rfl, ⟨rfl, hslot, hboots⟩, only_setBoot _ _⟩
  case loader =>
    intro s h
    refine ⟨_, finish_eq_next (only_romLoaderStart s false) (by decide), ?_⟩
    rw [romLoaderStart_eq, if_pos h, if_neg Bool.false_ne_true]
    refine ⟨?_, fun hsecret => ?_, fun hsecret => ?_⟩
    · rw [setBoot_boot, (only_provision s).keeps .boot (by decide)]
    · rw [provision_of_secret hsecret]
      exact only_setBoot _ _
    · obtain ⟨signer, hsigner, signature, hkey, hrecord⟩ := provision_of_blank hsecret
      refine ⟨hkey, ?_⟩
      simp only [setBoot_keeps, hrecord]
      obtain ⟨hzeros, hzeros'⟩ := zeros_endorsementRecord (provision s).sec.dieId (identityKey (provision s))
        (encryptionKey (provision s)) signer signature
      exact ⟨length_endorsementRecord _ _ _ _ _, dieId_endorsementRecord _ _ _ _ _,
        identity_endorsementRecord _ _ _ _ _, encryption_endorsementRecord _ _ _ _ _,
        (signer_endorsementRecord _ _ _ _ _).trans_lt hsigner, hzeros, hzeros',
        ((only_provision s).mono (by decide)).step (only_setBoot _ _) (by decide)⟩
  case noLoader =>
    intro s b h
    change finish s (romLoaderStart s b) = _
    rw [romLoaderStart_eq, if_neg (by simp [h]), finish_self]
  case held =>
    intro s found h hrequested
    refine ⟨_, finish_eq_next (only_imageVerified s found) (by decide), ?_⟩
    rw [imageVerified_eq, if_pos h, if_pos hrequested]
    exact ⟨recoveryEntered_enterRecovery s 6, only_enterRecovery s 6⟩
  case verified =>
    intro s found h hrequested
    refine ⟨_, finish_eq_next (only_imageVerified s found) (by decide), ?_⟩
    rw [imageVerified_eq, if_pos h, if_neg (by simp [hrequested])]
    intro i h n c
    have hc : c = imageCause s i := (imageCause_eq s i).symm
    rw [hc]
    refine ⟨fun hzero => ?_, fun hcause => ?_, ?_⟩
    · rw [verifiedWith, if_pos hzero]
      exact ⟨runsImage_runImage s i, rfl, rfl⟩
    · rw [verifiedWith, if_neg hcause]
      refine ⟨recoveryEntered_of_boot_eq (recoveryEntered_enterRecovery s (imageCause s i)) (boot_appendRing _ _ _ _ _),
        _, getLast?_appendRing _ _ _ _ _, rfl, rfl, ?_, time_enterRecovery s (imageCause s i), ?_, rfl⟩
      · rw [boot_appendRing]; rfl
      · exact congrArg (fun x => chainOf x.ring) (sec_enterRecovery s _)
    · unfold verifiedWith
      exact Only.ite ((only_runImage _ _).mono (by decide))
        (((only_enterRecovery _ _).mono (by decide)).step (only_appendRing _ _ _ _ _) (by decide))
  case noImage =>
    intro s found h
    change finish s (imageVerified s found) = _
    rw [imageVerified_eq, if_neg (by simp [h]), finish_self]
  case firmware =>
    intro s f hstage hended
    obtain ⟨l, rebuilt, owed, tamper, hcompared, hboots, hbelfry⟩ := boot_startCompared f s
    obtain ⟨hopen, hclosed⟩ := mailboxes_openMailbox8_startEnded f s hstage
    obtain ⟨hlimit, htarget⟩ := power_firmwareStart f s
    have hboot := boot_openMailbox8_startEnded f s hstage
    have honly := only_firmwareStartEnd s f
    refine ⟨_, finish_eq_next honly (by decide), ?_⟩
    rw [firmwareStartEnd_of_can hstage hended] at honly ⊢
    refine ⟨by rw [hboot]; rfl, ?_, ?_, by rw [hboot], hopen, hclosed, channels_firmwareStart f s,
      trainFailed_firmwareStart f s hstage, bypass_firmwareStart f s, offline_firmwareStart f s hstage, hlimit, htarget,
      links_firmwareStart f s, fun hpowered => ?_, honly.mono (by decide)⟩
    · rw [hboot, boot_startEnded, hcompared]
    · rw [hboot, boot_startEnded, hcompared]
      exact hboots
    · obtain ⟨hseal, htamper⟩ := sec_firmwareStart f s hpowered
      obtain ⟨howed, howedTamper⟩ := hbelfry hpowered
      refine ⟨hseal, htamper, ?_, ?_⟩
      · rw [hboot, boot_startEnded, hcompared]
        exact (Bool.eq_iff_iff.mp howed).trans decide_eq_true_iff
      · rw [hboot, boot_startEnded, hcompared]
        exact howedTamper
  case noFirmware =>
    intro s f h
    change finish s (firmwareStartEnd s f) = _
    rw [firmwareStartEnd_of_cannot h, finish_self]
  case control =>
    intro s fn v
    change finish s (guarded (fn.val == 0) s _) = _
    by_cases hfn : fn = 0
    · rw [hfn]; rfl
    · rw [beq_eq_false_iff_ne.mpr (Fin.val_ne_zero_iff.mpr hfn), if_neg hfn]
      rfl
  case go =>
    intro s fn v
    have hgo : exec (.lanRecGo fn v) s = .next (lanRecGo s fn v) := finish_eq_next (only_lanRecGo s fn v) (by decide)
    rw [hgo, lanRecGo_eq]
  case readFailed =>
    intro s h
    obtain ⟨addr, heffect⟩ := recReadComplete_failed h
    refine ⟨_, finish_eq_next (only_recReadComplete s none) (by decide), ?_, ?_,
      (only_recReadComplete s none).mono (by decide)⟩
    · rw [heffect, recoveryFails, setBoot_boot, boot_raiseHostTimeout, boot_recoveryReadEnded]
    · rw [heffect]
      intro r hr
      change r ∈ (raiseHostTimeout _ _ _ _).hif.reads at hr
      rw [reads_raiseHostTimeout] at hr
      exact reader_recoveryReadEnded hr
  case read =>
    intro s b h
    have heffect := recReadComplete_some h b
    refine ⟨_, finish_eq_next (only_recReadComplete s (some b)) (by decide), ?_⟩
    rw [heffect]
    refine ⟨rfl, fun r hr => reader_recoveryReadEnded hr, ?_⟩
    exact ((only_endReads _ _).mono (by decide)).step (only_setBoot _ _) (by decide)
  case programmed =>
    intro s h hstage
    have hstay : s.boot.stage ≠ 0 := by rw [hstage]; decide
    change finish s (loaderAgain (recProgramComplete s true)) = _ ∧
      finish s (loaderAgain (recProgramComplete s false)) = _
    rw [recProgramComplete_of_programming h, recProgramComplete_of_programming h]
    exact ⟨finish_loaderAgain_setBoot (b := { s.boot with recState := 4 }) hstay s, finish_loaderAgain_setBoot
      (b := { s.boot with recState := 6, recStatus := stUncorrectable }) hstay s⟩
  case readBack =>
    intro s i h hstage hi
    have hstay : s.boot.stage ≠ 0 := by rw [hstage]; decide
    constructor
    · change finish s (loaderAgain (recReadBackComplete s false)) = _
      rw [recReadBackComplete_failed h]
      exact finish_loaderAgain_setBoot (b := { s.boot with recState := 6, recStatus := stUncorrectable }) hstay s
    · have honly : Only [.boot, .sec] s (runImage (setBoot s (flashed s.boot i)) i) :=
        ((only_setBoot s _).mono (by decide)).step (only_runImage _ _) (by decide)
      refine ⟨_, ?_, runsImage_runImage _ i, rfl, honly⟩
      change finish s (loaderAgain (recReadBackComplete s true)) = _
      rw [loaderAgain_recReadBackComplete_of_stage h hstage hi]
      exact finish_eq_next honly (by decide)
  case restarts =>
    intro s i ok h hstage hrom hperst hi
    obtain ⟨b, heffect, hb, hrec, hflash⟩ := loaderAgain_recReadBackComplete_of_perst h hstage hrom hperst hi ok
    refine ⟨setBoot s b, ?_, hb, hrec, hflash, only_setBoot _ _⟩
    change finish s (loaderAgain (recReadBackComplete s ok)) = _
    rw [heffect, finish_setBoot]
  case nothing =>
    intro s o ok
    have hstay : s.boot.stage = 4 → loaderAgain s = s := fun hstage => loaderAgain_of_stage (by rw [hstage]; decide)
    refine ⟨fun h => ?_, fun h hstage => ?_, fun h hstage => ?_⟩
    · change finish s (recReadComplete s o) = _
      rw [recReadComplete_of_ne h, finish_self]
    · change finish s (loaderAgain (recProgramComplete s ok)) = _
      rw [recProgramComplete_of_ne h, hstay hstage, finish_self]
    · change finish s (loaderAgain (recReadBackComplete s ok)) = _
      rw [recReadBackComplete_of_ne h, hstay hstage, finish_self]
end Sys2Proof.Machine
end

section
/-! SUPPORT. A unit of a part of the state that an operation leaves alone. -/

namespace Sys2Proof

open Machine

section
variable {F : List Field} {s t : State} (h : Only F s t)
include h

theorem Only.spindleOf_eq (hF : Field.spindles ∉ F) (p : Nat) : spindleOf t p = spindleOf s p :=
  congrArg (fun x : Table Spindle => tget x p {}) (h.keeps .spindles hF)

theorem Only.spireOf_eq (hF : Field.spires ∉ F) (i : Nat) : spireOf t i = spireOf s i :=
  congrArg (fun x : Table Spire => tget x i {}) (h.keeps .spires hF)

theorem Only.jobOf_eq (hF : Field.jobs ∉ F) (j : Nat) : jobOf t j = jobOf s j :=
  congrArg (fun x : Table Job => tget x j {}) (h.keeps .jobs hF)

theorem Only.partOf_eq (hF : Field.parts ∉ F) (n : Nat) : partOf t n = partOf s n :=
  congrArg (tfind · n) (h.keeps .parts hF)

end

end Sys2Proof
end

section
/-! PROOFS. The steps of a program, and a fetch from a work counter (R103, R122 to R124, R130 to R133, R196, R370, R373,
R503). -/

namespace Sys2Proof.Machine

/-! ### A fetch from a work counter (R122) -/

/-- A fetch changes its counter and its spindle alone (R122, R125). -/
theorem only_workFetch_of_can {s : State} {p j : Nat} (hc : Can.workFetch s p j = true) :
    Only [.spindles, .spires] s (workFetch s p) := by
  rw [workFetch_of_can hc]
  exact ((only_setWork _ _ _ _).mono (by decide)).step (only_setSpindle _ _ _) (by decide)

/-- Settles O60: the counter that the fetch leaves is `fetchWork`'s, and it sets no other. -/
theorem workCounterFetch : Obligations.WorkCounterFetch := by
  intro s p j hc
  refine ⟨_, finish_eq_next (only_workFetch s p) (by decide), ?_⟩
  intro h w v
  have hitem : (spindleOf (workFetch s p) p).agen.workItem = if w.value < w.limit then w.value else 0xFFFFFFFF#32 := by
    rw [workFetch_of_can hc, spindleOf_setSpindle, if_pos rfl, workItem_fetchedSpindle, fetchWork_answer]
  have hwork : ∀ i n, workOf (workFetch s p) i n = if h.wcSpire = i ∧ h.wc = n then
      (if w.value < w.limit then { w with value := w.value + 1 } else w) else workOf s i n := fun i n => by
    rw [workFetch_of_can hc, workOf_setSpindle, workOf_setWork, fetchWork_counter]
  have hv : v = if w.value < w.limit then { w with value := w.value + 1 } else w :=
    (hwork _ _).trans (if_pos ⟨rfl, rfl⟩)
  refine ⟨fun hlt => ?_, fun hle => ?_, fun i n hin => ?_, only_workFetch_of_can hc⟩
  · rw [hitem, hv, if_pos hlt, if_pos hlt]
    exact ⟨rfl, rfl, rfl⟩
  · rw [hitem, hv, if_neg (BitVec.not_lt.mpr hle), if_neg (BitVec.not_lt.mpr hle)]
    exact ⟨rfl, rfl⟩
  · rw [hwork, if_neg fun hsame => hin (Prod.ext hsame.1.symm hsame.2.symm)]

/-! ### DESCRIPTOR_FETCH (R103, R370, R503) -/

/-- The next descriptor of a program lies in its partition: it is relocated into the table, unless its bytes are in
error. -/
theorem descriptorFetch_of_missing {s : State} {p j off : Nat} {q : Partition} (hrun : runningJob s p = some j)
    (hlive : agenLive s p = true) (hmiss : firstMissing (spindleOf s p) 64 (spindleOf s p).agen.next = some off)
    (hlast : off ≤ (spindleOf s p).agen.last) (hpart : partOf s (jobOf s j).part.toNat = some q)
    (hsize : (spindleOf s p).agen.program + 64 * off + 64 ≤ regionBytes q) :
    let x := spindleOf s p
    let place := x.agen.program + 64 * off
    let d := relocate (relocEntries q.region (jobOf s j).desc (jobOf s j).header) (jobOf s j).args (entryIndex s j p)
      off (storeRead q.region place 64)
    descriptorFetch s p = if badRead q place 64 = true then
        agenError (dramUncorrectable s (jobOf s j).part.toNat [(place, 64)] (jobId s j) p) p stUncorrectable off
      else setSpindle s p { x with agen := { x.agen with slots := tset x.agen.slots (off % 64) (off, d) } } := by
  simp only [descriptorFetch, hrun, hmiss, hlive, hpart, jobRegion, Bool.not_true, Bool.false_or, decide_eq_true_eq,
    if_neg (Nat.not_lt.mpr hlast), if_neg (Nat.not_lt.mpr hsize)]

/-! ### ARM, JUMP and VECTOR (R123, R124, R130 to R133) -/

theorem armCounter_of_can {s : State} {p j : Nat} (hc : Can.arm s p j = true) :
    let d := descAt s p
    let x := spindleOf s p
    armCounter s p = setSpindle
      (setWork s (field (byteAt d 2) 0 5) (field (byteAt d 1) 0 4)
        { value := BitVec.ofNat 32 (le d 4 4), limit := BitVec.ofNat 32 (le d 8 4) })
      p (goTo (executing x x.agen.next 3 1) (x.agen.next + 1)) := by
  obtain ⟨hdesc, howns⟩ : Can.desc s p j 3 = true ∧ ownsSpire s j (field (byteAt (descAt s p) 2) 0 5) = true := by
    simpa [Can.arm] using hc
  intro d x
  rw [armCounter, onDesc_of_can hdesc rfl]
  exact if_neg (by simp [howns])

theorem jumpBack_of_can {s : State} {p j : Nat} (hc : Can.desc s p j 4 = true) :
    jumpBack s p = setSpindle s p (goTo (executing (spindleOf s p) (spindleOf s p).agen.next 4 1)
      (le (descAt s p) 2 2)) := by
  rw [jumpBack, onDesc_of_can hc rfl]

/-- A spindle that has handed block b to its engine, with the judgement's account of it, and goes on behind the n
descriptors of the block. -/
def handedSpindle (x : Spindle) (b : VBlock) (jd : Option Judgement) (n : Nat) : Spindle :=
  goTo (executing { x with
    vec := { x.vec with blocks := x.vec.blocks ++ [b], state := if x.vec.blocks.isEmpty then 1 else x.vec.state }
    scale := { x.scale with judging := jd } } x.agen.next 7 6) (x.agen.next + n)

theorem handBlock_of_can {s : State} {p j : Nat} (hc : Can.vector s p j = true) :
    let x := spindleOf s p
    ∃ epilogue jd, handBlock s p = setSpindle s p (handedSpindle x
      (decodeBlockDesc (fun k => (tableDesc x (x.agen.next + k)).getD []) x.agen.next epilogue) jd (blockDescs x)) := by
  obtain ⟨⟨hdesc, hheld⟩, hroom⟩ : (Can.desc s p j 7 = true ∧
      blockHeld (spindleOf s p) (spindleOf s p).agen.next (blockDescs (spindleOf s p)) = true) ∧
      (spindleOf s p).vec.blocks.length < 2 := by simpa [Can.vector] using hc
  intro x
  rw [handBlock, onDesc_of_can hdesc rfl]
  exact ⟨_, _, (if_neg (by rw [← blockDescs, hheld]; decide)).trans (if_neg (Nat.not_le.mpr hroom))⟩

/-- A block holds no more instructions than its COUNT (R131). -/
theorem length_insns_decodeBlockDesc_le (get : Nat → Bytes) (pc : Nat) (epilogue : Bool) :
    (decodeBlockDesc get pc epilogue).insns.length ≤ byteAt (get 0) 5 := List.length_take_le _ _

/-! ### END (R196, R373) -/

theorem state_of_runningJob {s : State} {p j : Nat} (h : runningJob s p = some j) : (jobOf s j).state = 2 := by
  unfold runningJob at h
  split at h
  · cases h
  · split at h
    next hstate => rwa [← Option.some.inj h]
    · cases h

theorem runningJob_of_desc {s : State} {p j kind : Nat} (h : Can.desc s p j kind = true) : runningJob s p = some j := by
  obtain ⟨⟨⟨-, hrun⟩, -⟩, -⟩ : ((agenLive s p = true ∧ runningJob s p = some j) ∧
      (nextDesc (spindleOf s p)).isSome = true) ∧ kindOf (descAt s p) = kind := by simpa [Can.desc] using h
  exact hrun

/-- The arbiter grants the first request: a job that is neither free nor ENDING enters ENDING (R373). -/
theorem jobOf_endJobWith {s : State} {j : Nat}
    (h : 1 ≤ (jobOf s j).state.toNat ∧ (jobOf s j).state.toNat ≤ 6) (st : Status) (cause errP errOff : Nat) :
    jobOf (endJobWith s j st cause errP errOff) j = { jobOf s j with
      state := 7, outcome := st, cause := BitVec.ofNat 8 cause
      errSpindle := BitVec.ofNat 16 errP, errOffset := BitVec.ofNat 16 errOff } := by
  simp only [endJobWith, h.1, h.2, decide_true, Bool.and_self, if_true]
  rw [(only_completeWaiting _ _ _ _ _).jobOf_eq (by decide), jobOf_setJob, if_pos rfl]

theorem desc_of_endProgram {s : State} {p j : Nat} (hc : Can.endProgram s p j = true) : Can.desc s p j 0 = true := by
  obtain ⟨⟨hdesc, -⟩, -⟩ : (Can.desc s p j 0 = true ∧ settled s p = true) ∧ (spindleOf s p).dma.copies = [] := by
    simpa [Can.endProgram] using hc
  exact hdesc

/-- The job of a program that reaches its END runs, whatever becomes of a spindle. -/
theorem state_setSpindle_of_endProgram {s : State} {p j : Nat} (hc : Can.endProgram s p j = true) (x : Spindle) :
    (jobOf (setSpindle s p x) j).state = 2 := by
  rw [(only_setSpindle s p x).jobOf_eq (by decide)]
  exact state_of_runningJob (runningJob_of_desc (desc_of_endProgram hc))

theorem endProgram_of_can {s : State} {p j : Nat} (hc : Can.endProgram s p j = true) :
    let u := setSpindle s p (executing (spindleOf s p) (spindleOf s p).agen.next 0 7)
    endProgram s p = if jobEnded u j = true then endJobWith u j stOk 0 0xFFFF 0xFFFF else u := by
  obtain ⟨⟨hdesc, hblocks, harray⟩, hcopies⟩ : (Can.desc s p j 0 = true ∧ blocksDone (spindleOf s p) = true ∧
      arrayDone (spindleOf s p) = true) ∧ (spindleOf s p).dma.copies = [] := by
    simpa [Can.endProgram, settled] using hc
  intro u
  rw [endProgram, onDesc_of_can hdesc (by simp [hblocks, harray, hcopies])]
  simp only [tryDone, state_setSpindle_of_endProgram hc, decide_true, Bool.true_and, u]

/-! ### The statement on the steps of a program -/

/-- Settles O14: each command is its effect on one spindle, an ARM also on its counter and the last END also on its
job, and each part of the effect is a field of what it sets. -/
theorem programSteps : Obligations.ProgramSteps := by
  refine ⟨?fetch, ?fetchBad, ?arm, ?jump, ?vector, ?ends⟩
  case fetch =>
    intro s p j off q hrun hlive hmiss hlast hpart hsize hgood
    change finish s (descriptorFetch s p) = _
    rw [finish_eq_next (only_descriptorFetch s p) (by decide),
      descriptorFetch_of_missing hrun hlive hmiss hlast hpart hsize, if_neg (Bool.eq_false_iff.mp hgood)]
  case fetchBad =>
    intro s p j off q hrun hlive hmiss hlast hpart hsize hbad
    change finish s (descriptorFetch s p) = _
    rw [finish_eq_next (only_descriptorFetch s p) (by decide),
      descriptorFetch_of_missing hrun hlive hmiss hlast hpart hsize, if_pos hbad]
  case arm =>
    intro s p j hc
    refine ⟨_, finish_eq_next (only_armCounter s p) (by decide), ?_⟩
    rw [armCounter_of_can hc]
    refine ⟨?_, fun i n hin => ?_, ?_, ?_, ?_, ?_⟩
    · rw [workOf_setSpindle, workOf_setWork, if_pos ⟨rfl, rfl⟩]
    · rw [workOf_setSpindle, workOf_setWork, if_neg fun hsame => ?_]
      exact hin.elim (fun hi => hi hsame.1.symm) (fun hn => hn hsame.2.symm)
    · rw [spindleOf_setSpindle_self]; rfl
    · rw [spindleOf_setSpindle_self]; rfl
    · rw [spindleOf_setSpindle_self]; rfl
    · exact ((only_setWork _ _ _ _).mono (by decide)).step (only_setSpindle _ _ _) (by decide)
  case jump =>
    intro s p j hc
    change finish s (jumpBack s p) = _
    rw [finish_eq_next (only_jumpBack s p) (by decide), jumpBack_of_can hc]
    rfl
  case vector =>
    intro s p j hc
    obtain ⟨epilogue, jd, heq⟩ := handBlock_of_can hc
    refine ⟨_, finish_eq_next (only_handBlock s p) (by decide), ?_⟩
    rw [heq, spindleOf_setSpindle_self]
    have hlast : ∀ b n, (handedSpindle (spindleOf s p) b jd n).vec.blocks.getLastD {} = b :=
      fun b n => List.getLastD_concat
    simp only [hlast]
    exact ⟨rfl, rfl, rfl, rfl, rfl, rfl, rfl, rfl, length_insns_decodeBlockDesc_le _ _ _, rfl, rfl, rfl, rfl, trivial⟩
  case ends =>
    intro s p j hc
    refine ⟨_, finish_eq_next (only_endProgram s p) (by decide), ?_⟩
    intro x u
    have hstate : (jobOf u j).state = 2 := state_setSpindle_of_endProgram hc _
    rw [endProgram_of_can hc]
    refine ⟨?_, fun hmore => if_neg (Bool.eq_false_iff.mp hmore), fun hlast => ?_⟩
    · have hu : spindleOf u p = executing x x.agen.next 0 7 := spindleOf_setSpindle_self s p _
      split
      · rw [(only_endJobWith _ _ _ _ _ _).spindleOf_eq (by decide), hu]; rfl
      · rw [hu]; rfl
    · rw [if_pos hlast, jobOf_endJobWith (by rw [hstate]; decide)]
      exact ⟨rfl, rfl⟩

end Sys2Proof.Machine
end

section
/-! PROOFS. The runs of a job: dispatch, abort and limit, pre-emption, save and restoration, ending (R370 to R382). -/

namespace Sys2Proof.Machine

/-! ### The units of a job (R371) -/

theorem mem_of_tfind {α : Type} {t : Table α} {k : Nat} {v : α} (h : tfind t k = some v) : (k, v) ∈ t := by
  induction t with
  | nil => cases h
  | cons e r ih =>
    obtain ⟨i, u⟩ := e
    unfold tfind at h
    split at h
    next hi => exact List.mem_cons.mpr (.inl (by rw [← hi, ← Option.some.inj h]))
    · exact List.mem_cons_of_mem _ (ih h)

theorem mem_heldSpindles {s : State} {p j : Nat} (h : (spindleOf s p).job = some j) : p ∈ heldSpindles s j := by
  cases hx : tfind s.spindles p with
  | none => simp [spindleOf, tget, hx] at h
  | some x =>
    refine List.mem_map.mpr ⟨(p, x), List.mem_filter.mpr ⟨mem_of_tfind hx, ?_⟩, rfl⟩
    simpa [spindleOf, tget, hx] using h

theorem mem_heldStems {s : State} {i j : Nat} (h : (spireOf s i).stem.job = some j) : i ∈ heldStems s j := by
  cases hx : tfind s.spires i with
  | none => simp [spireOf, tget, hx] at h
  | some x =>
    refine List.mem_map.mpr ⟨(i, x), List.mem_filter.mpr ⟨mem_of_tfind hx, ?_⟩, rfl⟩
    simpa [spireOf, tget, hx] using h

/-- A spindle, and a spire, whose unit has been freed. -/
def freedSpindle (x : Spindle) : Spindle := { x with job := none }
def freedStem (x : Spire) : Spire := { x with stem := { x.stem with job := none } }

/-- The spindles of job j, then its stem engines, are freed. -/
def freeSpindles (s : State) (j : Nat) : State :=
  (heldSpindles s j).foldl (fun t p => setSpindle t p (freedSpindle (spindleOf t p))) s
def freeStems (s : State) (j : Nat) : State :=
  (heldStems s j).foldl (fun t i => setSpire t i (freedStem (spireOf t i))) s

theorem freeUnits_eq (s : State) (j : Nat) : freeUnits s j = freeStems (freeSpindles s j) j := rfl

theorem only_freeStems (s : State) (j : Nat) : Only [.spires] s (freeStems s j) :=
  Only.foldl _ (fun _ _ => only_setSpire _ _ _) _ (Only.refl _ _)

theorem job_freeSpindles (s : State) (j p : Nat) : (spindleOf (freeSpindles s j) p).job ≠ some j := by
  have hfold : spindleOf (freeSpindles s j) p = if p ∈ heldSpindles s j then freedSpindle (spindleOf s p)
      else spindleOf s p := by
    refine unitOf_foldl (unitOf := spindleOf) (g := freedSpindle) (fun t i k => ?_) (fun _ => rfl) _ s p
    rw [spindleOf_setSpindle]
    split
    next h => rw [h]
    · rfl
  rw [hfold]
  split
  · exact nofun
  next h => exact fun hjob => h (mem_heldSpindles hjob)

theorem job_freeStems (s : State) (j i : Nat) : (spireOf (freeStems s j) i).stem.job ≠ some j := by
  have hfold : spireOf (freeStems s j) i = if i ∈ heldStems s j then freedStem (spireOf s i) else spireOf s i := by
    refine spireOf_foldl (g := freedStem) (fun t i k => ?_) (fun _ => rfl) _ s i
    rw [spireOf_setSpire]
    split
    next h => rw [h]
    · rfl
  rw [hfold]
  split
  · exact nofun
  next h => exact fun hjob => h (mem_heldStems hjob)

/-- No unit is the job's once its units are free, nor while they stand so (R380). -/
theorem units_free_of_only {F : List Field} {s t : State} {j : Nat} (h : Only F (freeUnits s j) t)
    (hF : Field.spindles ∉ F ∧ Field.spires ∉ F) :
    (∀ p, (spindleOf t p).job ≠ some j) ∧ (∀ i, (spireOf t i).stem.job ≠ some j) := by
  refine ⟨fun p => ?_, fun i => ?_⟩
  · rw [h.spindleOf_eq hF.1, freeUnits_eq, (only_freeStems _ _).spindleOf_eq (by decide)]
    exact job_freeSpindles s j p
  · rw [h.spireOf_eq hF.2, freeUnits_eq]
    exact job_freeStems _ j i

/-! ### JOB_DISPATCH (R370, R371) -/

/-- The spindle of an entry starts its program, whose last offset is `last`'s. -/
def startEntry (j : Nat) (last : SpindleEntry → Nat) (t : State) (e : SpindleEntry) : State :=
  setSpindle t e.spindle (startSpindle (spindleOf t e.spindle) j e.program (last e))

/-- The spindles that job j lists start, then its stem engines. -/
def startSpindles (s : State) (j : Nat) (last : SpindleEntry → Nat) : State :=
  (listedSpindles s j).foldl (startEntry j last) s
def startStems (s : State) (j : Nat) : State :=
  (listedStems s j).foldl (fun t e =>
    setSpire t e.spire { spireOf t e.spire with stem := { job := some j, list := e.stemOffset, state := 1 } }) s

/-- A job that may run starts its units and runs, on the adapter banks in use at its start (R176). -/
def startedJob (s : State) (j : Nat) (x : Partition) (last : SpindleEntry → Nat) : State :=
  let u := startStems (startSpindles s j last) j
  setJob u j { jobOf u j with state := 2, banks := x.images.map (fun i => (i.base, i.active)) }

theorem only_startSpindles (s : State) (j : Nat) (last : SpindleEntry → Nat) :
    Only [.spindles] s (startSpindles s j last) :=
  Only.foldl _ (fun _ _ => only_setSpindle _ _ _) _ (Only.refl _ _)

theorem only_startStems (s : State) (j : Nat) : Only [.spires] s (startStems s j) :=
  Only.foldl _ (fun _ _ => only_setSpire _ _ _) _ (Only.refl _ _)

theorem only_startUnits (s : State) (j : Nat) (last : SpindleEntry → Nat) :
    Only [.spindles, .spires] s (startStems (startSpindles s j last) j) :=
  ((only_startSpindles s j last).mono (by decide)).step (only_startStems _ j) (by decide)

theorem only_startedJob (s : State) (j : Nat) (x : Partition) (last : SpindleEntry → Nat) :
    Only [.jobs, .spindles, .spires] s (startedJob s j x last) :=
  ((only_startUnits s j last).mono (by decide)).step (only_setJob _ _ _) (by decide)

theorem jobOf_startedJob (s : State) (j : Nat) (x : Partition) (last : SpindleEntry → Nat) :
    jobOf (startedJob s j x last) j =
      { jobOf s j with state := 2, banks := x.images.map (fun i => (i.base, i.active)) } := by
  rw [startedJob, jobOf_setJob, if_pos rfl, (only_startUnits s j last).jobOf_eq (by decide)]

theorem spindleOf_startedJob (s : State) (j : Nat) (x : Partition) (last : SpindleEntry → Nat) (p : Nat) :
    spindleOf (startedJob s j x last) p = spindleOf (startSpindles s j last) p :=
  ((only_setJob _ _ _).spindleOf_eq (by decide) p).trans ((only_startStems _ j).spindleOf_eq (by decide) p)

section
variable (j : Nat) (last : SpindleEntry → Nat) (l : List SpindleEntry) (s : State) (p : Nat)

theorem spindleOf_foldl_start_of_forall_ne (h : ∀ e ∈ l, e.spindle ≠ p) :
    spindleOf (l.foldl (startEntry j last) s) p = spindleOf s p := by
  induction l generalizing s with
  | nil => rfl
  | cons e l ih =>
    rw [List.foldl_cons, ih _ fun e' he' => h e' (List.mem_cons_of_mem _ he'), startEntry, spindleOf_setSpindle,
      if_neg (h e List.mem_cons_self)]

/-- A second start of a spindle leaves nothing of the first. -/
theorem startSpindle_startSpindle (x : Spindle) (j a b c d : Nat) :
    startSpindle (startSpindle x j a b) j c d = startSpindle x j c d := rfl

theorem spindleOf_foldl_start_of_mem (h : ∃ e ∈ l, e.spindle = p) :
    ∃ program stop, spindleOf (l.foldl (startEntry j last) s) p = startSpindle (spindleOf s p) j program stop := by
  induction l generalizing s with
  | nil => simp at h
  | cons e l ih =>
    rw [List.foldl_cons]
    by_cases hl : ∃ e' ∈ l, e'.spindle = p
    · obtain ⟨program, stop, heq⟩ := ih (startEntry j last s e) hl
      refine ⟨program, stop, heq.trans ?_⟩
      rw [startEntry, spindleOf_setSpindle]
      split
      next he => rw [he, startSpindle_startSpindle]
      · rfl
    · have he : e.spindle = p := by
        obtain ⟨e', he', hp⟩ := h
        rcases List.mem_cons.mp he' with rfl | hmem
        · exact hp
        · exact absurd ⟨e', hmem, hp⟩ hl
      refine ⟨e.program, last e, ?_⟩
      rw [spindleOf_foldl_start_of_forall_ne j last l _ p fun e' he' hp => hl ⟨e', he', hp⟩, startEntry,
        spindleOf_setSpindle, if_pos he, he]

end

theorem jobDispatch_of_can {s : State} {j : Nat} {x : Partition} (hc : Can.jobDispatch s j x = true) :
    ∃ last, jobDispatch s j =
      if (jobOf s j).header.sequences = true then seqStep (startedJob s j x last) j else startedJob s j x last := by
  obtain ⟨⟨hstate, hmay⟩, hpart⟩ : ((jobOf s j).state = 1 ∧ mayDispatch s j = true) ∧
      partOf s (jobOf s j).part.toNat = some x := by simpa [Can.jobDispatch] using hc
  have hrun : jobDispatch s j = runJob s j := if_pos (by rw [hstate, hmay]; rfl)
  rw [hrun, runJob, hpart]
  exact ⟨_, rfl⟩

/-! ### Commands that name a job (R369, R374, R375) -/

theorem jobNamed_of_can {s : State} {slot opcode j : Nat} (hc : Can.jobCommand s slot opcode j = true) :
    jobNamed s (descPart (cmdDesc s slot)) (le (cmdDesc s slot) 8 4) = .ok j := by
  simp only [Can.jobCommand, Bool.and_eq_true] at hc
  obtain ⟨-, hnamed⟩ := hc
  split at hnamed
  next k hk => rw [hk, beq_iff_eq.mp hnamed]
  · cases hnamed

theorem state_ne_zero_of_jobNamed {s : State} {n id j : Nat} (h : jobNamed s n id = .ok j) : (jobOf s j).state ≠ 0 := by
  simp only [jobNamed] at h
  split at h
  · cases h
  next hid =>
    split at h
    · cases h
    · rw [← Except.ok.inj h]
      simp only [Bool.or_eq_true, decide_eq_true_eq, not_or] at hid
      exact hid.2

/-- A command whose JOB_ID names a job has its effect on that job. -/
theorem onJob_of_can {s : State} {slot opcode j : Nat} (hc : Can.jobCommand s slot opcode j = true) (f : Nat → State) :
    command s slot opcode [(8, 4)] (fun d => onJob s slot d f) = f j := by
  have hcommand : Can.command s slot opcode [(8, 4)] = true := by
    simp only [Can.jobCommand, Bool.and_eq_true] at hc
    exact hc.1
  rw [command_of_can hcommand, onJob, jobNamed_of_can hc]

/-- A command whose completion is put off waits. -/
theorem waiting_of_deferCompletion {s : State} {slot : Nat} {r : Running}
    (h : runningOf (deferCompletion s slot) slot = some r) : r.waiting = true := by
  cases hr : runningOf s slot with
  | none => simp [deferCompletion, hr] at h
  | some r' =>
    rw [runningOf_deferCompletion hr] at h
    rw [← Option.some.inj h]

theorem cmdJobAbort_of_can {s : State} {slot j : Nat} (hc : Can.jobCommand s slot 0x0411 j = true)
    (hstate : (jobOf s j).state.toNat < 7) :
    cmdJobAbort s slot = deferCompletion (endJobWith s j stAborted 1 0xFFFF 0xFFFF) slot := by
  rw [cmdJobAbort, onJob_of_can hc, if_neg (Nat.not_le.mpr hstate)]

theorem cmdJobPreempt_of_can {s : State} {slot : Fin 10} {j : Nat} (hc : Can.jobCommand s slot 0x0412 j = true)
    (hstate : (jobOf s j).state = 2) (hmay : (jobOf s j).header.preemptible = true)
    (hskein : (jobOf s j).header.skeinBarriers = 0) :
    cmdJobPreempt s slot = deferCompletion (setJob s j { jobOf s j with state := 3, preemptor := some slot }) slot := by
  rw [cmdJobPreempt, onJob_of_can hc]
  simp [hstate, hmay, hskein]

theorem cmdJobResume_of_can {s : State} {slot j : Nat} (hc : Can.jobCommand s slot 0x0413 j = true)
    (hstate : (jobOf s j).state = 4) :
    cmdJobResume s slot =
      complete (setJob (ordered s) j { jobOf s j with state := 5, order := s.orders }) slot stOk [] := by
  rw [cmdJobResume, onJob_of_can hc]
  simp [hstate]

/-- A job past its limit of time that runs, saves or is restored ends as by an abort (R375). -/
theorem timeLimit_of_past {s : State} {j : Nat}
    (hstate : (jobOf s j).state = 2 ∨ (jobOf s j).state = 3 ∨ (jobOf s j).state = 6)
    (hpast : (jobOf s j).header.timeLimit ≤ (jobOf s j).time) :
    timeLimit s j = endJobWith s j stAborted 2 0xFFFF 0xFFFF :=
  if_pos (by simpa [hpast, or_assoc] using hstate)

/-! ### What a withdrawal or a return of counts makes of the jobs (R377, R379) -/

/-- From s to t no job changes its state, but that one whose recorded counts are all held again may run. -/
structure JobsResume (s t : State) : Prop where
  state : ∀ j, (jobOf t j).state = (jobOf s j).state ∨ (jobOf t j).state = 2

theorem JobsResume.trans {s t u : State} (h : JobsResume s t) (k : JobsResume t u) : JobsResume s u where
  state j := (k.state j).elim (fun heq => heq ▸ h.state j) .inr

theorem JobsResume.of_only {F : List Field} {s t : State} (h : Only F s t) (hF : Field.jobs ∉ F) : JobsResume s t where
  state j := .inl (by rw [h.jobOf_eq hF])

theorem JobsResume.refl (s : State) : JobsResume s s := .of_only (Only.refl [] s) (by decide)

theorem JobsResume.setJob {s : State} {j : Nat} {x : Job} (h : x.state = (jobOf s j).state ∨ x.state = 2) :
    JobsResume s (setJob s j x) where
  state k := by
    rw [jobOf_setJob]
    split
    next hjk => rwa [← hjk]
    · exact .inl rfl

theorem JobsResume.ite {s t u : State} {c : Prop} [Decidable c] (h : JobsResume s t) (k : JobsResume s u) :
    JobsResume s (if c then t else u) := by
  split
  · exact h
  · exact k

theorem JobsResume.foldl {α : Type} {f : State → α → State} (hf : ∀ s a, JobsResume s (f s a)) (l : List α)
    (s : State) : JobsResume s (l.foldl f s) := by
  induction l generalizing s with
  | nil => exact .refl s
  | cons a l ih => exact (hf s a).trans (ih _)

theorem jobsResume_holdUnits (s : State) (j key : Nat) (d : Int) : JobsResume s (holdUnits s j key d) :=
  .setJob (.inl rfl)

theorem jobsResume_setSem (s : State) (spire n : Nat) (x : Sem) : JobsResume s (setSem s spire n x) :=
  .of_only (only_setSem _ _ _ _) (by decide)

theorem jobsResume_resumeUnits (s : State) (j : Nat) : JobsResume s (resumeUnits s j) := by
  unfold resumeUnits
  split
  · exact .refl s
  · refine .trans ?_ (.setJob (.inr rfl))
    exact (JobsResume.foldl (fun _ _ => .of_only (only_setSpindle _ _ _) (by decide)) _ _).trans
      (.foldl (fun _ _ => .of_only (only_setSpire _ _ _) (by decide)) _ _)

theorem jobsResume_resumeWaiter (s : State) (key : Nat) (w : Waiter) : JobsResume s (resumeWaiter s key w) := by
  cases w with
  | spindle p => exact .of_only (only_setSpindle _ _ _) (by decide)
  | stem i => exact .of_only (only_setSpire _ _ _) (by decide)
  | restoring j =>
    simp only [resumeWaiter]
    split
    · exact .refl s
    · split
      · refine .trans (.setJob ?_) (jobsResume_resumeUnits _ _)
        exact .inl rfl
      · exact .setJob (.inl rfl)

theorem jobsResume_grantHeads (spire n fuel : Nat) (s : State) : JobsResume s (grantHeads spire n fuel s) := by
  induction fuel generalizing s with
  | zero => exact .refl s
  | succ fuel ih =>
    simp only [grantHeads]
    split
    · exact .refl s
    · split
      · exact .refl s
      · refine .trans ?_ ((jobsResume_resumeWaiter _ _ _).trans (ih _))
        split
        · exact jobsResume_setSem _ _ _ _
        · exact (jobsResume_setSem _ _ _ _).trans (jobsResume_holdUnits _ _ _ _)

theorem jobsResume_grantSet (s : State) (spire n : Nat) (x : Sem) :
    JobsResume s (grantAll (setSem s spire n x) spire n) :=
  (jobsResume_setSem s spire n x).trans (jobsResume_grantHeads _ _ _ _)

theorem jobsResume_returnUnits (s : State) (spire n c : Nat) : JobsResume s (returnUnits s spire n c) := by
  simp only [returnUnits]
  split
  · exact jobsResume_setSem _ _ _ _
  · exact jobsResume_grantSet _ _ _ _

theorem jobsResume_withdrawFrom (s : State) (j spire n : Nat) : JobsResume s (withdrawFrom s j spire n) := by
  unfold withdrawFrom
  exact .ite (jobsResume_grantSet _ _ _ _) (jobsResume_grantSet _ _ _ _)

theorem jobsResume_withdrawAll (s : State) (j : Nat) : JobsResume s (withdrawAll s j) := by
  unfold withdrawAll
  exact .foldl (fun _ _ => jobsResume_withdrawFrom _ _ _ _) _ _

theorem jobsResume_releaseCounts (s : State) (j : Nat) : JobsResume s (releaseCounts s j) := by
  unfold releaseCounts
  refine .trans (.setJob ?_) (.foldl (fun _ _ => jobsResume_returnUnits _ _ _ _) _ _)
  exact .inl rfl

/-- The waiting requests of job j withdrawn and its counts returned (R377). -/
def withdrawnState (s : State) (j : Nat) : State := releaseCounts (withdrawAll s j) j

theorem only_withdrawnState (s : State) (j : Nat) : Only [.spindles, .spires, .jobs] s (withdrawnState s j) :=
  (only_withdrawAll s j).trans (only_releaseCounts _ j)

theorem jobsResume_withdrawnState (s : State) (j : Nat) : JobsResume s (withdrawnState s j) :=
  (jobsResume_withdrawAll s j).trans (jobsResume_releaseCounts _ j)

/-! ### SAVE_COMPLETE (R376, R377, R503) -/

theorem state_of_savePoint {s : State} {j : Nat} (hc : Can.savePoint s j = true) : (jobOf s j).state = 3 := by
  simp only [Can.savePoint, Bool.and_eq_true, beq_iff_eq] at hc
  exact hc.1

/-- A save that may end fails or is done, with the job's requests withdrawn. -/
theorem saveComplete_of_point {s : State} {j : Nat} (hc : Can.savePoint s j = true) :
    ∃ counts, saveComplete s j = if saveAreaBad s j = true then saveFails (withdrawnState s j) j
      else saveDone (withdrawnState s j) j (jobOf s j) counts := by
  obtain ⟨hstate, hcopies⟩ : (jobOf s j).state = 3 ∧
      ((heldSpindles s j).any fun p => !(spindleOf s p).dma.copies.isEmpty) = false := by
    simpa only [Can.savePoint, Bool.and_eq_true, beq_iff_eq, Bool.not_eq_true'] using hc
  have hpart : partOf (releaseCounts (withdrawAll s j) j) (jobOf s j).part.toNat = partOf s (jobOf s j).part.toNat :=
    (only_withdrawnState s j).partOf_eq (by decide) _
  refine ⟨positiveCounts (jobOf (withdrawAll s j) j), ?_⟩
  cases hx : partOf s (jobOf s j).part.toNat with
  | none | some x => simp [saveComplete, withdrawnState, saveAreaBad, hstate, hcopies, hpart, hx]

/-- A save that is done frees the units of its job, then leaves it PREEMPTED, counts it and answers what waits for
it. -/
theorem saveDone_eq (s : State) (j : Nat) (x : Job) (counts : List (Nat × Nat)) : ∃ v saved,
    saveDone s j x counts = completePreempt (setJob (freeUnits v j) j { jobOf (freeUnits v j) j with
      state := 4, saved := some saved, preemptions := satInc x.preemptions, preemptor := none }) j x.preemptor :=
  ⟨_, _, rfl⟩

theorem only_saveDone_freed (s : State) (j : Nat) (x : Job) (counts : List (Nat × Nat)) : ∃ v saved,
    Only [.out, .jobs, .mailboxes, .running, .hif] (freeUnits v j) (saveDone s j x counts) ∧
    jobOf (saveDone s j x counts) j = { jobOf (freeUnits v j) j with
      state := 4, saved := some saved, preemptions := satInc x.preemptions, preemptor := none } := by
  obtain ⟨v, saved, heq⟩ := saveDone_eq s j x counts
  refine ⟨v, saved, ?_, ?_⟩
  · rw [heq]
    exact ((only_setJob _ _ _).mono (by decide)).step (only_completePreempt _ _ _) (by decide)
  · rw [heq, (only_completePreempt _ _ _).jobOf_eq (by decide), jobOf_setJob, if_pos rfl]

/-- A save that fails ends its job. -/
theorem jobOf_saveFails {s : State} {j : Nat} (h : 1 ≤ (jobOf s j).state.toNat ∧ (jobOf s j).state.toNat ≤ 6) :
    (jobOf (saveFails s j) j).state = 7 ∧ (jobOf (saveFails s j) j).outcome = stUncorrectable := by
  have hkeep : ∀ f ranges id, jobOf (dramUncorrectable (modPart (drawn s) (jobOf s j).part.toNat f)
      (jobOf s j).part.toNat ranges id 0xFFFF) j = jobOf s j := fun f ranges id =>
    ((only_dramUncorrectable _ _ _ _ _).jobOf_eq (by decide) j).trans
      (((only_modPart _ _ _).jobOf_eq (by decide) j).trans ((only_drawn s).jobOf_eq (by decide) j))
  rw [saveFails, jobOf_endJobWith (by rwa [hkeep])]
  exact ⟨rfl, rfl⟩

/-! ### RESTORE_COMPLETE (R379) -/

/-- The units of a restored job resume: it runs, with no save. -/
theorem jobOf_resumeUnits {s : State} {j : Nat} {sv : SavedJob} (h : (jobOf s j).saved = some sv) :
    (jobOf (resumeUnits s j) j).state = 2 ∧ (jobOf (resumeUnits s j) j).saved = none := by
  simp only [resumeUnits, h, jobOf_setJob, if_true, and_self]

/-- A readable save without counts restores spire caches, and the units resume. -/
theorem restoreComplete_of_readable {s : State} {j : Nat} {sv : SavedJob} {x : Partition}
    (hstate : (jobOf s j).state = 6) (hsaved : (jobOf s j).saved = some sv) (hcounts : sv.counts = [])
    (hpart : partOf s (jobOf s j).part.toNat = some x) (hwaits : restoreWaits s j = false)
    (hgood : badRead x (jobOf s j).save (jobOf s j).saveBytes = false) :
    ∃ u, Only [.spires, .draws] s u ∧ restoreComplete s j true = resumeUnits u j := by
  simp only [restoreComplete, hsaved, hpart, hstate, hwaits, hgood, hcounts]
  refine ⟨_, ?_, rfl⟩
  refine Only.foldl _ (fun t e => ?_) _ (Only.refl _ s)
  split
  · exact Only.refl _ t
  · exact ((only_drawn t).mono (by decide)).step (only_setSpire _ _ _) (by decide)

/-! ### JOB_END (R380 to R382) -/

/-- A client's record once a job of it has ended (R382). -/
def clientEnded (st : Status) (c : Client) : Client := { c with
  active := c.active - 1
  done := if st = stOk then satInc c.done else c.done
  endedOtherwise := if st = stOk then c.endedOtherwise else satInc c.endedOtherwise }

/-- The state in which the last records of an ENDING job are formed (R380, steps 1 to 3). -/
def recordsFormed (s : State) (j : Nat) : State := if (jobOf s j).endFormed then s else endSteps s j

/-- An ENDING job whose copies and records are gone finishes. -/
theorem jobEnd_of_can {s : State} {j : Nat} (hc : Can.jobEnd s j = true) :
    jobEnd s j = finishJob (recordsFormed s j) j := by
  obtain ⟨⟨hstate, hcopies⟩, hrecords⟩ : ((jobOf s j).state = 7 ∧ copiesRun s j = false) ∧
      jobRecordWaits (recordsFormed s j) j = false := by simpa [Can.jobEnd, recordsFormed] using hc
  exact (if_neg (by rw [hstate, hcopies]; decide)).trans (if_neg (Bool.eq_false_iff.mp hrecords))

/-- From the state in which the units of job j are free and its report is posted: the job terminal, its client
counted and the aborts that wait for it complete (R380, step 5). -/
def endedJob (w : State) (j : Nat) (x : Job) : State :=
  completeWaiting (modClient (setJob (ordered w) j { jobOf w j with
      state := terminalState x.outcome, status := x.outcome, order := w.orders, saved := none })
    x.part.toNat x.client.toNat (clientEnded x.outcome)) 0x0411 (fun d => le d 8 4 % 1024 == j) stOk []

/-- A job that finishes releases its holds, frees its units and posts its report; then it is terminal, and goes on to
its pipeline. -/
theorem finishJob_eq (s : State) (j : Nat) :
    let x := jobOf s j
    ∃ w, Only [.out, .mailboxes, .hif] (freeUnits (releaseHolds s x.part.toNat (ownerJob j)) j) w ∧
      finishJob s j = (match x.origin with
        | none => endedJob w j x
        | some o => stageJobEnded (endedJob w j x) x.part.toNat o x.outcome) := by
  intro x
  refine ⟨_, ?_, rfl⟩
  split
  · exact only_postJobEnd _ _ _ _
  · exact Only.refl _ _

theorem only_endedJob (w : State) (j : Nat) (x : Job) :
    Only [.out, .orders, .jobs, .parts, .mailboxes, .running, .hif] w (endedJob w j x) :=
  (((((only_ordered w).mono (by decide)).step (only_setJob _ _ _) (by decide)).step (only_modClient _ _ _ _)
    (by decide)).step (only_completeWaiting _ _ _ _ _) (by decide))

theorem jobOf_endedJob (w : State) (j : Nat) (x : Job) : jobOf (endedJob w j x) j = { jobOf w j with
    state := terminalState x.outcome, status := x.outcome, order := w.orders, saved := none } := by
  rw [endedJob, (only_completeWaiting _ _ _ _ _).jobOf_eq (by decide), (only_modClient _ _ _ _).jobOf_eq (by decide),
    jobOf_setJob, if_pos rfl]

theorem partOf_endedJob (w : State) (j : Nat) (x : Job) : partOf (endedJob w j x) x.part.toNat =
    (partOf w x.part.toNat).map (fun q =>
      { q with clients := tset q.clients x.client.toNat (clientEnded x.outcome (clientOf q x.client.toNat)) }) := by
  rw [endedJob, (only_completeWaiting _ _ _ _ _).partOf_eq (by decide), modClient, partOf_modPart, if_pos rfl]
  rfl

/-! ### Holds released keep the clients (R233) -/

theorem clients_spill (x : Partition) (p : Nat) (v : Pool) : (spill x p v).clients = x.clients := by
  unfold spill
  split <;> rfl

theorem clients_putOwners (x : Partition) (p : Nat) (v : Pool) (i : Nat) (l : List (BitVec 16)) :
    (putOwners x p v i l).clients = x.clients := by
  simp only [putOwners, setPool]

theorem clients_freeBobbin (x : Partition) (p : Nat) (v : Pool) (i : Nat) :
    (freeBobbin x p v i).clients = x.clients := by
  simp only [freeBobbin]
  split
  · exact clients_putOwners _ _ _ _ _
  · rw [clients_spill, clients_putOwners]

theorem clients_dropOwner (x : Partition) (p : Nat) (v : Pool) (i : Nat) (o : BitVec 16) :
    (dropOwner x p v i o).clients = x.clients := by
  simp only [dropOwner]
  split
  · exact clients_freeBobbin _ _ _ _
  · exact clients_putOwners _ _ _ _ _

theorem partOf_releaseHolds {s : State} {n : Nat} {q : Partition} (hpart : partOf s n = some q) (o : BitVec 16) :
    ∃ q', partOf (releaseHolds s n o) n = some q' ∧ q'.clients = q.clients := by
  simp only [releaseHolds, hpart, partOf_setPart, if_true]
  refine ⟨_, rfl, List.foldlRecOn (motive := fun y : Partition => y.clients = q.clients) _ _ rfl fun y hy k _ => ?_⟩
  split
  · exact hy
  · exact (clients_dropOwner _ _ _ _ _).trans hy

/-- The client of a job that ends is counted, whatever holds its partition releases (R233, R382). -/
theorem clientOf_endedJob {s w : State} {j : Nat} {x : Job} {o : BitVec 16} {q : Partition}
    (hw : Only [.out, .mailboxes, .hif] (freeUnits (releaseHolds s x.part.toNat o) j) w)
    (hpart : partOf s x.part.toNat = some q) : ∃ q', partOf (endedJob w j x) x.part.toNat = some q' ∧
      clientOf q' x.client.toNat = clientEnded x.outcome (clientOf q x.client.toNat) := by
  obtain ⟨q', hq', hclients⟩ := partOf_releaseHolds hpart o
  have hw' : partOf w x.part.toNat = some q' := by
    rw [hw.partOf_eq (by decide), (only_freeUnits _ _).partOf_eq (by decide), hq']
  refine ⟨_, (partOf_endedJob w j x).trans (congrArg _ hw'), ?_⟩
  rw [clientOf, tget_tset, if_pos rfl, clientOf, clientOf, hclients]

/-! ### The statement on the runs of a job -/

/-- Settles O28: each command is its effect, and each part of the effect is the lemma of the operation that makes
it. -/
theorem jobRuns : Obligations.JobRuns := by
  refine ⟨?dispatch, ?abort, ?limit, ?preempt, ?save, ?saveFails, ?resume, ?restore, ?ends⟩
  case dispatch =>
    intro s j x hc
    obtain ⟨last, heq⟩ := jobDispatch_of_can hc
    refine ⟨startedJob s j.val x last, ?_, jobOf_startedJob s j x last, fun e he => ?_, fun p hp => ?_,
      only_startedJob s j x last⟩
    · rw [← heq]
      exact finish_eq_next (only_jobDispatch s j) (by decide)
    · obtain ⟨program, stop, hx⟩ := spindleOf_foldl_start_of_mem j last (listedSpindles s j) s e.spindle ⟨e, he, rfl⟩
      rw [spindleOf_startedJob, startSpindles, hx]
      exact ⟨rfl, rfl, rfl, rfl, rfl, rfl, rfl⟩
    · rw [spindleOf_startedJob]
      exact spindleOf_foldl_start_of_forall_ne j last (listedSpindles s j) s p hp
  case abort =>
    intro s slot j hc hstate
    have hlo : 1 ≤ (jobOf s j).state.toNat :=
      Nat.pos_of_ne_zero fun h => state_ne_zero_of_jobNamed (jobNamed_of_can hc) (BitVec.eq_of_toNat_eq h)
    refine ⟨_, finish_eq_next (only_cmdJobAbort s slot) (by decide), ?_⟩
    rw [cmdJobAbort_of_can hc hstate]
    have hjob := ((only_deferCompletion _ slot.val).jobOf_eq (by decide) j).trans
      (jobOf_endJobWith ⟨hlo, Nat.le_of_lt_succ hstate⟩ stAborted 1 0xFFFF 0xFFFF)
    exact ⟨congrArg Job.state hjob, congrArg Job.outcome hjob, congrArg Job.cause hjob,
      fun r hr => waiting_of_deferCompletion hr⟩
  case limit =>
    intro s j hstate hpast
    have hlive : 1 ≤ (jobOf s j.val).state.toNat ∧ (jobOf s j.val).state.toNat ≤ 6 := by
      rcases hstate with h | h | h <;> rw [h] <;> decide
    refine ⟨_, finish_eq_next (only_timeLimit s j) (by decide), ?_⟩
    rw [timeLimit_of_past hstate hpast, jobOf_endJobWith hlive]
    exact ⟨rfl, rfl, rfl⟩
  case preempt =>
    intro s slot j hc hstate hmay hskein
    change finish s (cmdJobPreempt s slot) = _
    rw [finish_eq_next (only_cmdJobPreempt s slot) (by decide), cmdJobPreempt_of_can hc hstate hmay hskein]
  case save =>
    intro s j hc
    obtain ⟨hpoint, hgood⟩ : Can.savePoint s j = true ∧ saveAreaBad s j = false := by
      simpa [Can.saveComplete] using hc
    obtain ⟨counts, heq⟩ := saveComplete_of_point hpoint
    rw [if_neg (Bool.eq_false_iff.mp hgood)] at heq
    obtain ⟨v, saved, hfreed, hjob⟩ := only_saveDone_freed (withdrawnState s j) j (jobOf s j) counts
    refine ⟨_, finish_eq_next (only_saveComplete s j) (by decide), ?_⟩
    rw [heq, hjob]
    exact ⟨rfl, rfl, rfl, units_free_of_only hfreed (by decide)⟩
  case saveFails =>
    intro s j hpoint hbad
    obtain ⟨counts, heq⟩ := saveComplete_of_point hpoint
    have hlive : 1 ≤ (jobOf (withdrawnState s j) j).state.toNat ∧ (jobOf (withdrawnState s j) j).state.toNat ≤ 6 := by
      rcases (jobsResume_withdrawnState s j).state j with h | h
      · rw [h, state_of_savePoint hpoint]
        decide
      · rw [h]
        decide
    refine ⟨_, finish_eq_next (only_saveComplete s j) (by decide), ?_⟩
    rw [heq, if_pos hbad]
    exact jobOf_saveFails hlive
  case resume =>
    intro s slot j hc hstate
    change finish s (cmdJobResume s slot) = _
    rw [finish_eq_next (only_cmdJobResume s slot) (by decide), cmdJobResume_of_can hc hstate]
  case restore =>
    intro s j sv x hstate hsaved hcounts hpart hwaits hgood
    obtain ⟨u, hu, heq⟩ := restoreComplete_of_readable hstate hsaved hcounts hpart hwaits hgood
    obtain ⟨hruns, hnone⟩ := jobOf_resumeUnits (s := u) (by rw [hu.jobOf_eq (by decide)]; exact hsaved)
    refine ⟨_, finish_eq_next (only_restoreComplete s j true) (by decide), ?_⟩
    rw [heq]
    exact ⟨hruns, hnone, (hu.mono (by decide)).step (only_resumeUnits u j) (by decide)⟩
  case ends =>
    intro s j hc
    obtain ⟨w, hw, heq⟩ := finishJob_eq (recordsFormed s j) j
    refine ⟨_, endedJob w j (jobOf (recordsFormed s j) j), finish_eq_next (only_jobEnd s j) (by decide), ?_⟩
    intro r x
    have hfreed := (hw.mono (G := [.out, .orders, .jobs, .parts, .mailboxes, .running, .hif]) (by decide)).trans
      (only_endedJob w j x)
    obtain ⟨hspindles, hstems⟩ := units_free_of_only hfreed (by decide)
    exact ⟨(jobEnd_of_can hc).trans heq, congrArg Job.state (jobOf_endedJob w j x),
      congrArg Job.status (jobOf_endedJob w j x), hspindles, hstems, fun q hq => clientOf_endedJob hw hq⟩

end Sys2Proof.Machine
end

section
/-! PROOFS. The instructions of the vector engine: what the issue of one leaves, and what each form computes (R128 to
R148, R152, R154). -/

namespace Sys2Proof.Machine

/-! ### What an instruction writes -/

/-- Spindle `y` is `x` but for the listed registers of its vector engine, with NAN, PERM_RANGE and EMPTY raised as
given (R152). -/
structure WritesOnly (l : List VecReg) (nan perm empty : Bool) (x y : Spindle) : Prop where
  regs : RegsOnly x y
  keeps : keepsBut l x y
  flags : flagsAre x y nan perm empty

theorem keepsBut_trans {l : List VecReg} {x y z : Spindle} (h : keepsBut l x y) (k : keepsBut l y z) :
    keepsBut l x z := fun r hr => by
  have hxy := h r hr
  have hyz := k r hr
  cases r with
  | tags | cache => exact ⟨hyz.1.trans hxy.1, hyz.2.trans hxy.2⟩
  | _ => exact hyz.trans hxy

theorem flagsAre_refl (x : Spindle) : flagsAre x x false false false := by simp [flagsAre]

section
variable {l : List VecReg} {nan perm empty : Bool} {x y z : Spindle}

theorem WritesOnly.refl (l : List VecReg) (x : Spindle) : WritesOnly l false false false x x where
  regs := ⟨rfl, rfl, rfl, rfl, rfl, rfl, rfl, rfl⟩
  keeps r _ := by cases r <;> simp [keepsReg]
  flags := flagsAre_refl x

theorem WritesOnly.trans (h : WritesOnly l nan perm empty x y) (k : WritesOnly l false false false y z) :
    WritesOnly l nan perm empty x z where
  regs := by
    obtain ⟨h1, h2, h3, h4, h5, h6, h7, h8⟩ := h.regs
    obtain ⟨k1, k2, k3, k4, k5, k6, k7, k8⟩ := k.regs
    exact ⟨k1.trans h1, k2.trans h2, k3.trans h3, k4.trans h4, k5.trans h5, k6.trans h6, k7.trans h7, k8.trans h8⟩
  keeps := keepsBut_trans h.keeps k.keeps
  flags := by
    have hyz := k.flags
    simp only [flagsAre, Bool.or_false] at hyz
    simpa only [flagsAre, hyz] using h.flags

/-- NAN, PERM_RANGE and EMPTY raised behind a write (R152). -/
theorem WritesOnly.raise (h : WritesOnly l false false false x y) (nan perm empty : Bool) :
    WritesOnly l nan perm empty x { y with vec := raiseVecFlags y.vec nan perm empty } where
  regs := { h.regs with }
  keeps := h.keeps
  flags := by
    have hxy := h.flags
    simp only [flagsAre, Bool.or_false] at hxy
    simp only [flagsAre, raiseVecFlags, hxy, and_self]

/-! One rule for each register: writing it writes nothing else. -/

theorem writesOnly_lanes (hl : .lanes ∈ l) (x : Spindle) (v : Store 32) :
    WritesOnly l false false false x { x with vec := { x.vec with v := v } } :=
  ⟨⟨rfl, rfl, rfl, rfl, rfl, rfl, rfl, rfl⟩,
    keepsBut_of (absurd hl) (fun _ => rfl) (fun _ => rfl) (fun _ => ⟨rfl, rfl⟩)
      (fun _ => rfl) (fun _ => rfl) (fun _ => ⟨rfl, rfl⟩) (fun _ => rfl),
    flagsAre_refl x⟩

theorem writesOnly_masks (hl : .masks ∈ l) (x : Spindle) (m : Store 32) :
    WritesOnly l false false false x { x with vec := { x.vec with m := m } } :=
  ⟨⟨rfl, rfl, rfl, rfl, rfl, rfl, rfl, rfl⟩,
    keepsBut_of (fun _ => rfl) (absurd hl) (fun _ => rfl) (fun _ => ⟨rfl, rfl⟩)
      (fun _ => rfl) (fun _ => rfl) (fun _ => ⟨rfl, rfl⟩) (fun _ => rfl),
    flagsAre_refl x⟩

theorem writesOnly_addresses (hl : .addresses ∈ l) (x : Spindle) (a : Store 32) :
    WritesOnly l false false false x { x with vec := { x.vec with x := a } } :=
  ⟨⟨rfl, rfl, rfl, rfl, rfl, rfl, rfl, rfl⟩,
    keepsBut_of (fun _ => rfl) (fun _ => rfl) (absurd hl) (fun _ => ⟨rfl, rfl⟩)
      (fun _ => rfl) (fun _ => rfl) (fun _ => ⟨rfl, rfl⟩) (fun _ => rfl),
    flagsAre_refl x⟩

theorem writesOnly_tags (hl : .tags ∈ l) (x : Spindle) (pack unpack : BitVec 16) :
    WritesOnly l false false false x { x with vec := { x.vec with packTag := pack, unpackTag := unpack } } :=
  ⟨⟨rfl, rfl, rfl, rfl, rfl, rfl, rfl, rfl⟩,
    keepsBut_of (fun _ => rfl) (fun _ => rfl) (fun _ => rfl) (absurd hl)
      (fun _ => rfl) (fun _ => rfl) (fun _ => ⟨rfl, rfl⟩) (fun _ => rfl),
    flagsAre_refl x⟩

theorem writesOnly_fallback (hl : .fallback ∈ l) (x : Spindle) (fb : Store 32) :
    WritesOnly l false false false x { x with vec := { x.vec with fb := fb } } :=
  ⟨⟨rfl, rfl, rfl, rfl, rfl, rfl, rfl, rfl⟩,
    keepsBut_of (fun _ => rfl) (fun _ => rfl) (fun _ => rfl) (fun _ => ⟨rfl, rfl⟩)
      (absurd hl) (fun _ => rfl) (fun _ => ⟨rfl, rfl⟩) (fun _ => rfl),
    flagsAre_refl x⟩

theorem writesOnly_accumulator (hl : .accumulator ∈ l) (x : Spindle) (acc : Store 32) :
    WritesOnly l false false false x { x with acc := acc } :=
  ⟨⟨rfl, rfl, rfl, rfl, rfl, rfl, rfl, rfl⟩,
    keepsBut_of (fun _ => rfl) (fun _ => rfl) (fun _ => rfl) (fun _ => ⟨rfl, rfl⟩)
      (fun _ => rfl) (absurd hl) (fun _ => ⟨rfl, rfl⟩) (fun _ => rfl),
    flagsAre_refl x⟩

theorem writesOnly_cache (hl : .cache ∈ l) (x : Spindle) (c : Store 8) (bad : List Nat) :
    WritesOnly l false false false x { x with cache := c, bad := bad } :=
  ⟨⟨rfl, rfl, rfl, rfl, rfl, rfl, rfl, rfl⟩,
    keepsBut_of (fun _ => rfl) (fun _ => rfl) (fun _ => rfl) (fun _ => ⟨rfl, rfl⟩)
      (fun _ => rfl) (fun _ => rfl) (absurd hl) (fun _ => rfl),
    flagsAre_refl x⟩

theorem writesOnly_counts (hl : .counts ∈ l) (x : Spindle) (sat ufl : Nat) :
    WritesOnly l false false false x (countInto x sat ufl) :=
  ⟨⟨rfl, rfl, rfl, rfl, rfl, rfl, rfl, rfl⟩,
    keepsBut_of (fun _ => rfl) (fun _ => rfl) (fun _ => rfl) (fun _ => ⟨rfl, rfl⟩)
      (fun _ => rfl) (fun _ => rfl) (fun _ => ⟨rfl, rfl⟩) (absurd hl),
    flagsAre_refl x⟩

end

/-! ### The issue of one instruction (R132, R152) -/

/-- A command that issues an instruction whose work is done answers a next state, in which its spindle has the
instruction's result and has moved on. -/
theorem exists_next_of_issue {s : State} {p op : Nat} {f : Spindle → Insn → VecOut} {y : Spindle}
    {o : Host.Outcome State Fault Refusal} {l : List VecReg} {nan perm empty : Bool}
    (ho : o = finish s (vecIssue s p op f)) (h : Can.issue s p op = true)
    (hf : f (standing s p) (insnOf (standing s p)) = .done y)
    (hy : WritesOnly l nan perm empty (standing s p) y) :
    ∃ t, o = .next t ∧ SameBody y (spindleOf t p) ∧ keepsBut l (standing s p) (spindleOf t p) ∧
      flagsAre (standing s p) (spindleOf t p) nan perm empty ∧ movedOn (standing s p) (spindleOf t p) ∧
      t = setSpindle s p (spindleOf t p) := by
  obtain ⟨w, hnext, hsame, hmoved⟩ := exec_vecIssue ho h hf hy.regs
  refine ⟨_, hnext, ?_⟩
  rw [spindleOf_setSpindle_self]
  exact ⟨hsame, hsame.but hy.keeps, hsame.flagsAre hy.flags, hmoved, rfl⟩

/-! ### Lanes and registers read back (R128, R129, R138) -/

theorem mem_activeLanes {v : VecEngine} {i : Insn} {l : Nat} :
    l ∈ activeLanes v i ↔ l < 32 ∧ activeLane v i l = true := by simp [activeLanes]

/-- A register written in the lanes that meet a condition. -/
theorem laneOf_writeLanes_where (v : VecEngine) (d : Nat) (c : Nat → Prop) [DecidablePred c] (g : Nat → Word)
    (n l : Nat) (hl : l < 32) : laneOf (writeLanes v d (fun l => if c l then some (g l) else none)) n l =
      if n = d ∧ c l then g l else laneOf v n l := by
  rw [laneOf_writeLanes _ _ _ _ _ hl]
  by_cases hn : n = d <;> by_cases hc : c l <;> simp [hn, hc]

theorem laneOf_writeLane0 (x : Spindle) (d : Nat) (w : Word) (nan empty : Bool) (n l : Nat) (hl : l < 32) :
    laneOf (writeLane0 x d w nan empty).vec n l = if n = d ∧ l = 0 then w else laneOf x.vec n l := by
  refine (storeGet_storeSet _ _ _ _).trans ?_
  have hplace : 32 * d = 32 * n + l ↔ n = d ∧ l = 0 := by omega
  simp only [hplace, laneOf]

theorem xregOf_setXreg (v : VecEngine) (d : Nat) (w : Word) (n : Nat) :
    xregOf (setXreg v d w) n = if n = d then w else xregOf v n := by
  refine (storeGet_storeSet _ _ _ _).trans ?_
  simp only [xregOf, eq_comm]

theorem maskOfReg_setMaskReg (v : VecEngine) (d m n : Nat) :
    maskOfReg (setMaskReg v d m) n = if n = d ∧ n ≠ 0 then m % 2 ^ 32 else maskOfReg v n := by
  unfold setMaskReg maskOfReg
  by_cases hn : n = 0
  · simp [hn]
  · by_cases hd : d = 0
    · simp [hd, hn]
    · simp [hd, hn, eq_comm, apply_ite BitVec.toNat]

theorem writesOnly_writeLanes {l : List VecReg} (hl : .lanes ∈ l) (x : Spindle) (d : Nat) (f : Nat → Option Word) :
    WritesOnly l false false false x { x with vec := writeLanes x.vec d f } := writesOnly_lanes hl x _

/-! ### Element-wise instructions (R137, R140, R141) -/

theorem exec_elementOp {e : ElementOp} (he : e ∈ elementOps) (p : Fin 256) (s : State) :
    exec (e.cmd p) s = finish s (vecIssue s p e.op (elementwise e.lane)) := by
  revert e
  simp only [elementOps, List.forall_mem_cons]
  exact ⟨rfl, rfl, rfl, rfl, rfl, rfl, rfl, rfl, rfl, rfl, rfl, rfl, rfl, rfl, rfl, rfl, rfl, nofun⟩

/-- Settles O1: an element-wise instruction writes the active lanes of Vd and counts. -/
theorem vectorElements : Obligations.VectorElements := by
  intro e he s p hissue
  obtain ⟨t, hnext, hsame, htail⟩ := exists_next_of_issue (l := [.lanes, .counts]) (exec_elementOp he p s) hissue rfl
    ((writesOnly_lanes (by decide) _ _).trans (writesOnly_counts (by decide) _ _ _))
  exact ⟨t, hnext, fun n l hl => (hsame.laneOf n l).trans (laneOf_writeLanes_where _ _ _ _ n l hl), hsame.counts, htail⟩

/-! ### Address registers, tags, SEL and BCASTI (R137, R138) -/

theorem exec_vXset_or_vXadd (add : Bool) (p : Fin 256) (s : State) :
    exec (if add then .vXadd p else .vXset p) s =
      finish s (vecIssue s p (if add then 0x02 else 0x01) (if add then addAddress else setAddress)) := by
  cases add <;> rfl

theorem setAddress_or_addAddress (add : Bool) (x : Spindle) (i : Insn) :
    (if add then addAddress else setAddress) x i = .done { x with
      vec := setXreg x.vec i.xn
        (if add then xregOf x.vec i.xn + BitVec.ofNat 32 i.imm else BitVec.ofNat 32 i.imm) } := by
  cases add <;> rfl

theorem setTag_eq (x : Spindle) (i : Insn) : setTag x i = .done { x with vec := { x.vec with
    packTag := if bitOf i.imm 16 then x.vec.packTag else BitVec.ofNat 16 i.imm
    unpackTag := if bitOf i.imm 16 then BitVec.ofNat 16 i.imm else x.vec.unpackTag } } := by
  unfold setTag
  cases bitOf i.imm 16 <;> rfl

/-- Settles O2: each writes one register, or none. -/
theorem vectorMoves : Obligations.VectorMoves := by
  intro s p
  refine ⟨fun hissue => ?nop, fun add hissue => ?address, fun hissue => ?tagset, fun hissue => ?sel,
    fun hissue => ?bcasti⟩
  case nop =>
    obtain ⟨t, hnext, -, htail⟩ := exists_next_of_issue (o := exec (.vNop p) s) rfl hissue rfl (WritesOnly.refl [] _)
    exact ⟨t, hnext, htail⟩
  case address =>
    obtain ⟨t, hnext, hsame, htail⟩ := exists_next_of_issue (l := [.addresses]) (exec_vXset_or_vXadd add p s) hissue
      (setAddress_or_addAddress add _ _) (writesOnly_addresses (by decide) _ _)
    refine ⟨t, hnext, fun n => (hsame.xregOf n).trans ((xregOf_setXreg _ _ _ n).trans ?_), htail⟩
    by_cases hn : n = (insnOf (standing s p)).xn <;> simp [hn]
  case tagset =>
    obtain ⟨t, hnext, hsame, htail⟩ := exists_next_of_issue (l := [.tags]) (o := exec (.vTagset p) s) rfl hissue
      (setTag_eq _ _) (writesOnly_tags (by decide) _ _ _)
    obtain ⟨hpack, hunpack⟩ := hsame.regs .tags (by simp)
    exact ⟨t, hnext, hunpack, hpack, htail⟩
  case sel =>
    obtain ⟨t, hnext, hsame, htail⟩ := exists_next_of_issue (l := [.lanes]) (o := exec (.vSel p) s) rfl hissue rfl
      (writesOnly_lanes (by decide) _ _)
    exact ⟨t, hnext, fun n l hl => (hsame.laneOf n l).trans (laneOf_writeLanes_where _ _ _ _ n l hl), htail⟩
  case bcasti =>
    obtain ⟨t, hnext, hsame, htail⟩ := exists_next_of_issue (l := [.lanes]) (o := exec (.vBcasti p) s) rfl hissue rfl
      (writesOnly_lanes (by decide) _ _)
    exact ⟨t, hnext, fun n l hl => (hsame.laneOf n l).trans (laneOf_writeLanes_where _ _ _ _ n l hl), htail⟩

/-! ### Compares and mask logic (R142) -/

theorem exec_compareOp {e : CompareOp} (he : e ∈ compareOps) (p : Fin 256) (s : State) :
    exec (e.cmd p) s = finish s (vecIssue s p e.op (compareLanes e.holds)) := by
  revert e
  simp only [compareOps, List.forall_mem_cons]
  exact ⟨rfl, rfl, rfl, nofun⟩

theorem exec_maskOp {e : MaskOp} (he : e ∈ maskOps) (p : Fin 256) (s : State) :
    exec (e.cmd p) s = finish s (vecIssue s p e.op (maskLogic e.bits)) := by
  revert e
  simp only [maskOps, List.forall_mem_cons]
  exact ⟨rfl, rfl, rfl, nofun⟩

/-- A mask register written changes the mask registers alone. -/
theorem writesOnly_setMaskReg (x : Spindle) (d m : Nat) :
    WritesOnly [.masks] false false false x { x with vec := setMaskReg x.vec d m } := by
  unfold setMaskReg
  split
  · exact WritesOnly.refl _ x
  · exact writesOnly_masks (by decide) x _

/-- Settles O3: each writes one mask register, and a compare raises NAN. -/
theorem vectorMasks : Obligations.VectorMasks := by
  refine ⟨fun e he s p hissue => ?_, fun e he s p hissue => ?_⟩
  · obtain ⟨t, hnext, hsame, htail⟩ := exists_next_of_issue (exec_compareOp he p s) hissue rfl
      ((writesOnly_setMaskReg _ _ _).raise _ _ _)
    exact ⟨t, hnext, fun n => (hsame.maskOfReg n).trans (maskOfReg_setMaskReg _ _ _ n), htail⟩
  · obtain ⟨t, hnext, hsame, htail⟩ := exists_next_of_issue (exec_maskOp he p s) hissue rfl
      (writesOnly_setMaskReg _ _ _)
    exact ⟨t, hnext, fun n => (hsame.maskOfReg n).trans (maskOfReg_setMaskReg _ _ _ n), htail⟩

/-! ### Reductions (R143, R144) -/

theorem exec_reduceOp {e : ReduceOp} (he : e ∈ reduceOps) (p : Fin 256) (s : State) :
    exec (e.cmd p) s = finish s (vecIssue s p e.op (reduceLanes e.lane e.idFp e.idInt)) := by
  revert e
  simp only [reduceOps, List.forall_mem_cons]
  exact ⟨rfl, rfl, rfl, rfl, nofun⟩

theorem exec_vRargmin_or_vRargmax (least : Bool) (p : Fin 256) (s : State) :
    exec (if least then .vRargmin p else .vRargmax p) s =
      finish s (vecIssue s p (if least then 0x45 else 0x44) (argLanes (if least then beatsMin else beatsMax))) := by
  cases least <;> rfl

theorem reduceLanes_eq (f : Nat → Word → Word → Word → Rounded) (idF idI : Word) (x : Spindle) (i : Insn) :
    let ident := if i.ty = 1 then idI else idF
    let tree := reduceTree (fun a b => f i.ty a b 0) 5
      ((List.range 32).map (fun l => if activeLane x.vec i l then laneOf x.vec i.va l else ident))
    let none' := (activeLanes x.vec i).isEmpty
    reduceLanes f idF idI x i = .done (countInto
      (writeLane0 x i.vd (if none' then ident else BitVec.ofNat 32 tree.bits) (activeNaN x.vec i) none')
      (if none' then 0 else tree.sat) (if none' then 0 else tree.ufl)) := by
  simp only [reduceLanes]
  cases (activeLanes x.vec i).isEmpty <;> simp [plain]

theorem writesOnly_writeLane0 {l : List VecReg} (hl : .lanes ∈ l) (x : Spindle) (d : Nat) (w : Word)
    (nan empty : Bool) : WritesOnly l nan false empty x (writeLane0 x d w nan empty) :=
  (writesOnly_lanes hl x (storeSet x.vec.v (32 * d) w)).raise nan false empty

/-- Settles O4: a reduction writes lane 0 of Vd, raises NAN and EMPTY, and the tree counts. -/
theorem vectorReductions : Obligations.VectorReductions := by
  refine ⟨fun e he s p hissue => ?_, fun least s p hissue => ?_⟩
  · obtain ⟨t, hnext, hsame, htail⟩ := exists_next_of_issue (l := [.lanes, .counts]) (exec_reduceOp he p s) hissue
      (reduceLanes_eq _ _ _ _ _)
      ((writesOnly_writeLane0 (by decide) _ _ _ _ _).trans (writesOnly_counts (by decide) _ _ _))
    exact ⟨t, hnext, fun n l hl => (hsame.laneOf n l).trans (laneOf_writeLane0 _ _ _ _ _ n l hl), hsame.counts, htail⟩
  · obtain ⟨t, hnext, hsame, htail⟩ := exists_next_of_issue (exec_vRargmin_or_vRargmax least p s) hissue rfl
      (writesOnly_writeLane0 (l := [.lanes]) (by decide) _ _ _ _ _)
    exact ⟨t, hnext, fun n l hl => (hsame.laneOf n l).trans (laneOf_writeLane0 _ _ _ _ _ n l hl), htail⟩

/-! ### Permutations (R145) -/

theorem exec_vBcast_or_vPerm (imm : Bool) (p : Fin 256) (s : State) :
    exec (if imm then .vBcast p else .vPerm p) s = finish s (vecIssue s p (if imm then 0x53 else 0x50)
      (permuteLanes (fun v i l => if imm then field i.imm 0 5 else (laneOf v i.vb l).toNat))) := by
  cases imm <;> rfl

/-- The lane of Va that a slide by k lanes brings to lane l, none where zeros come in. -/
def slideSource (down : Bool) (v : VecEngine) (k l : Nat) : Option Nat :=
  if down then (if v.vl.toNat ≤ l + k then none else some (l + k)) else (if l < k then none else some (l - k))

theorem exec_vSlidedn_or_vSlideup (down : Bool) (p : Fin 256) (s : State) :
    exec (if down then .vSlidedn p else .vSlideup p) s =
      finish s (vecIssue s p (if down then 0x52 else 0x51) (slideLanes (slideSource down))) := by
  cases down <;> rfl

/-- Settles O5: each writes the active lanes of Vd, and PERM and BCAST raise PERM_RANGE. -/
theorem vectorPermutes : Obligations.VectorPermutes := by
  refine ⟨fun imm s p hissue => ?_, fun down s p hissue => ?_⟩
  · obtain ⟨t, hnext, hsame, htail⟩ := exists_next_of_issue (exec_vBcast_or_vPerm imm p s) hissue rfl
      ((writesOnly_writeLanes (l := [.lanes]) (by decide) _ _ _).raise _ _ _)
    exact ⟨t, hnext, fun n l hl => (hsame.laneOf n l).trans (laneOf_writeLanes_where _ _ _ _ n l hl), htail⟩
  · obtain ⟨t, hnext, hsame, htail⟩ := exists_next_of_issue (l := [.lanes]) (exec_vSlidedn_or_vSlideup down p s) hissue
      rfl (writesOnly_lanes (by decide) _ _)
    refine ⟨t, hnext, fun n l hl => (hsame.laneOf n l).trans ((laneOf_writeLanes_where _ _ _ _ n l hl).trans ?_), htail⟩
    congr 1
    cases down <;> simp only [slideSource, if_true, Bool.false_eq_true, if_false] <;> split_ifs <;> rfl

/-! ### Block accesses and unpacking (R72, R146, R147) -/

/-- The address registers behind a block access: the scale pointer is 2 further on, in EN4 the knot pointer 8. -/
def advancedPointers (v : VecEngine) (i : Insn) (f : Nat) : Store 32 :=
  let a := storeSet v.x (i.xn + 1) (storeGet v.x (i.xn + 1) + 2)
  if f = fmtEn4 then storeSet a (i.xn + 2) (storeGet a (i.xn + 2) + 8) else a

theorem advanceBlock_eq (v : VecEngine) (i : Insn) (f : Nat) (load : Bool) : advanceBlock v i f load = { v with
    x := advancedPointers v i f
    packTag := if load then v.packTag else v.packTag + 1
    unpackTag := if load then v.unpackTag + 1 else v.unpackTag } := by
  by_cases hf : f = fmtEn4 <;> cases load <;> simp [advanceBlock, advancedPointers, setXreg, xregOf, hf]

theorem storeGet_advancedPointers (v : VecEngine) (i : Insn) (f n : Nat) :
    storeGet (advancedPointers v i f) n = if n = i.xn + 1 then xregOf v n + 2
      else if f = fmtEn4 ∧ n = i.xn + 2 then xregOf v n + 8 else xregOf v n := by
  unfold advancedPointers xregOf
  by_cases hf : f = fmtEn4
  · by_cases hknots : n = i.xn + 2
    · simp [hf, hknots]
    · by_cases hscale : n = i.xn + 1 <;> simp [hf, hknots, hscale, eq_comm (b := n)]
  · by_cases hscale : n = i.xn + 1 <;> simp [hf, hscale, eq_comm (b := n)]

theorem xregOf_advanceBlock (v : VecEngine) (i : Insn) (f : Nat) (load : Bool) (n : Nat) :
    xregOf (advanceBlock v i f load) n = if n = i.xn + 1 then xregOf v n + 2
      else if f = fmtEn4 ∧ n = i.xn + 2 then xregOf v n + 8 else xregOf v n := by
  rw [advanceBlock_eq]
  exact storeGet_advancedPointers v i f n

theorem tags_advanceBlock (v : VecEngine) (i : Insn) (f : Nat) (load : Bool) :
    (advanceBlock v i f load).unpackTag = (if load then v.unpackTag + 1 else v.unpackTag) ∧
    (advanceBlock v i f load).packTag = (if load then v.packTag else v.packTag + 1) := by
  rw [advanceBlock_eq]
  exact ⟨rfl, rfl⟩

/-- A block access moves address registers and a tag on and nothing else. -/
theorem writesOnly_advanceBlock {l : List VecReg} (hx : .addresses ∈ l) (ht : .tags ∈ l) (x : Spindle) (i : Insn)
    (f : Nat) (load : Bool) : WritesOnly l false false false x { x with vec := advanceBlock x.vec i f load } := by
  rw [advanceBlock_eq]
  exact (writesOnly_addresses hx x (advancedPointers x.vec i f)).trans (writesOnly_tags ht _ _ _)

/-- The engine behind an unpack: a block format moves its pointers and UNPACK_TAG on. -/
def unpackedEngine (x : Spindle) (i : Insn) : VecEngine :=
  if fmtBlock i.va then advanceBlock x.vec i i.va true else x.vec

theorem unpackLanes_of_can {x : Spindle} (h : Can.load x = true) :
    ∃ rs, unpackLanes x (insnOf x) = .ok (rs, unpackedEngine x (insnOf x)) ∧
      ∀ l < 32, rs.getD l { bits := 0 } = unpacked x (insnOf x) l := by
  obtain ⟨⟨hok, -⟩, hskew⟩ : (accessOk x.vec (insnOf x) (insnOf x).va (activeLanes x.vec (insnOf x)) = true ∧
      loadFails x (insnOf x) (insnOf x).va (activeLanes x.vec (insnOf x)) = false) ∧
      (fmtBlock (insnOf x).va = false ∨ skewCause (insnOf x).va x.vec.unpackTag.toNat (blockEntry x (insnOf x))
        (blockData x (insnOf x)) = none) := by simpa [Can.load] using h
  unfold blockEntry blockData at hskew
  cases hblock : fmtBlock (insnOf x).va
  · refine ⟨_, (by
      simp only [unpackLanes, unpackedEngine, hok, hblock, Bool.not_true, Bool.false_eq_true, if_false]
      rfl), fun l hl => ?_⟩
    simp [unpacked, hblock, hl]
  · have hnone := hskew.resolve_left (by simp [hblock])
    refine ⟨_, (by
      simp only [unpackLanes, unpackedEngine, hok, hblock, hnone, Bool.not_true, Bool.false_eq_true, if_false, if_true]
      rfl), fun l _ => ?_⟩
    simp [unpacked, hblock, blockEntry, blockData]

/-- A spindle after an instruction that unpacks: the lane function of the active lanes in Vd, with the counts of the
unpacks `u` and of the function. -/
def loadedSpindle (lane : Nat → Rounded → Word → Word → Rounded) (u : Nat → Rounded) (x : Spindle) (i : Insn) :
    Spindle :=
  let r := fun l => lane i.ty (u l) (laneOf x.vec i.vb l) (laneOf x.vec i.vd l)
  countInto { x with vec := writeLanes (unpackedEngine x i) i.vd (fun l =>
    if activeLane x.vec i l then some (BitVec.ofNat 32 (r l).bits) else none) }
    ((activeLanes x.vec i).map (fun l => (u l).sat + (r l).sat)).sum
    ((activeLanes x.vec i).map (fun l => (u l).ufl + (r l).ufl)).sum

theorem writeLanes_congr {f g : Nat → Option Word} (h : ∀ l < 32, f l = g l) (v : VecEngine) (d : Nat) :
    writeLanes v d f = writeLanes v d g := by
  unfold writeLanes
  congr 1
  exact List.foldl_ext _ _ _ fun st l hl => by rw [h l (List.mem_range.mp hl)]

theorem sum_activeLanes_congr {v : VecEngine} {i : Insn} {f g : Nat → Nat} (h : ∀ l < 32, f l = g l) :
    ((activeLanes v i).map f).sum = ((activeLanes v i).map g).sum := by
  rw [List.map_congr_left fun l hl => h l (mem_activeLanes.mp hl).1]

theorem loadedSpindle_congr {u w : Nat → Rounded} (h : ∀ l < 32, u l = w l)
    (lane : Nat → Rounded → Word → Word → Rounded) (x : Spindle) (i : Insn) :
    loadedSpindle lane u x i = loadedSpindle lane w x i := by
  simp only [loadedSpindle]
  congr 1
  · congr 1
    exact writeLanes_congr (fun l hl => by rw [h l hl]) _ _
  · exact sum_activeLanes_congr fun l hl => by rw [h l hl]
  · exact sum_activeLanes_congr fun l hl => by rw [h l hl]

theorem not_failed_of_can_load {x : Spindle} (h : Can.load x = true) :
    (accessOk x.vec (insnOf x) (insnOf x).va (activeLanes x.vec (insnOf x)) &&
      loadFails x (insnOf x) (insnOf x).va (activeLanes x.vec (insnOf x))) = false := by
  simp only [Can.load, Bool.and_eq_true, Bool.not_eq_true'] at h
  obtain ⟨⟨-, hgood⟩, -⟩ := h
  rw [hgood, Bool.and_false]

theorem loadLanes_of_can {x : Spindle} (h : Can.load x = true) : loadLanes x (insnOf x) =
    .done (loadedSpindle (fun _ u _ _ => { bits := u.bits }) (unpacked x (insnOf x)) x (insnOf x)) := by
  obtain ⟨rs, hrs, hget⟩ := unpackLanes_of_can h
  rw [← loadedSpindle_congr hget]
  simp only [loadLanes, loadedSpindle, not_failed_of_can_load h, Bool.false_eq_true, if_false, hrs, Nat.add_zero]

theorem multiplyMemory_of_can (f : Nat → Word → Word → Word → Rounded) {x : Spindle} (h : Can.load x = true) :
    multiplyMemory f x (insnOf x) = .done (loadedSpindle (fun ty u b d => f ty (BitVec.ofNat 32 u.bits) b d)
      (unpacked x (insnOf x)) x (insnOf x)) := by
  obtain ⟨rs, hrs, hget⟩ := unpackLanes_of_can h
  rw [← loadedSpindle_congr hget]
  simp only [multiplyMemory, loadedSpindle, not_failed_of_can_load h, Bool.false_eq_true, if_false, hrs]

/-- VLD, MACM and MULM each issue a load whose lane function is that of the instruction. -/
theorem exec_loadOp {e : LoadOp} (he : e ∈ loadOps) :
    ∃ f, (∀ (p : Fin 256) (s : State), exec (e.cmd p) s = finish s (vecIssue s p e.op f)) ∧
      ∀ x, Can.load x = true → f x (insnOf x) = .done (loadedSpindle e.lane (unpacked x (insnOf x)) x (insnOf x)) := by
  revert e
  simp only [loadOps, List.forall_mem_cons]
  exact ⟨⟨loadLanes, fun _ _ => rfl, fun _ => loadLanes_of_can⟩,
    ⟨multiplyMemory laneFma, fun _ _ => rfl, fun _ => multiplyMemory_of_can laneFma⟩,
    ⟨multiplyMemory laneMul, fun _ _ => rfl, fun _ => multiplyMemory_of_can laneMul⟩, nofun⟩

theorem writesOnly_unpackedEngine {l : List VecReg} (hx : .addresses ∈ l) (ht : .tags ∈ l) (x : Spindle) (i : Insn) :
    WritesOnly l false false false x { x with vec := unpackedEngine x i } := by
  unfold unpackedEngine
  split
  · exact writesOnly_advanceBlock hx ht x i i.va true
  · exact .refl l x

theorem fmtBlock_en4 : fmtBlock fmtEn4 = true := rfl

theorem xregOf_unpackedEngine (x : Spindle) (i : Insn) (n : Nat) : xregOf (unpackedEngine x i) n =
    if fmtBlock i.va = true ∧ n = i.xn + 1 then xregOf x.vec n + 2
    else if i.va = fmtEn4 ∧ n = i.xn + 2 then xregOf x.vec n + 8 else xregOf x.vec n := by
  unfold unpackedEngine
  cases hblock : fmtBlock i.va
  · have hen4 : i.va ≠ fmtEn4 := fun h => by simp [h, fmtBlock_en4] at hblock
    simp [hen4]
  · simp [xregOf_advanceBlock]

theorem tags_unpackedEngine (x : Spindle) (i : Insn) :
    (unpackedEngine x i).unpackTag = (if fmtBlock i.va then x.vec.unpackTag + 1 else x.vec.unpackTag) ∧
    (unpackedEngine x i).packTag = x.vec.packTag := by
  unfold unpackedEngine
  split
  · exact tags_advanceBlock _ _ _ true
  · exact ⟨rfl, rfl⟩

theorem lanes_unpackedEngine (x : Spindle) (i : Insn) : (unpackedEngine x i).v = x.vec.v := by
  unfold unpackedEngine
  split
  · rw [advanceBlock_eq]
  · rfl

/-- Settles O6: the load writes the active lanes of Vd and counts, behind the moves of a block access. -/
theorem vectorLoads : Obligations.VectorLoads := by
  intro e he s p hissue hcan
  obtain ⟨f, hexec, hdone⟩ := exec_loadOp he
  obtain ⟨t, hnext, hsame, htail⟩ := exists_next_of_issue (l := [.lanes, .counts, .addresses, .tags]) (hexec p s) hissue
    (hdone _ hcan) (((writesOnly_unpackedEngine (by decide) (by decide) _ _).trans
      (writesOnly_writeLanes (by decide) _ _ _)).trans (writesOnly_counts (by decide) _ _ _))
  obtain ⟨hpack, hunpack⟩ := hsame.regs .tags (by simp)
  obtain ⟨hunpacked, hpacked⟩ := tags_unpackedEngine (standing s p) (insnOf (standing s p))
  refine ⟨t, hnext, fun n l hl => ?_, hsame.counts, fun n => (hsame.xregOf n).trans (xregOf_unpackedEngine _ _ n),
    hunpack.trans hunpacked, hpack.trans hpacked, htail⟩
  rw [hsame.laneOf]
  refine (laneOf_writeLanes_where _ _ _ _ n l hl).trans ?_
  rw [laneOf, lanes_unpackedEngine]
  rfl

/-! ### Stores (R139, R146, R147, R154) -/

theorem storeGet_storeWrite_of_outside {w : Nat} (st : Store w) {a k : Nat} {b : List (BitVec w)}
    (h : k < a ∨ a + b.length ≤ k) : storeGet (storeWrite st a b) k = storeGet st k := by
  rw [storeGet_storeWrite]
  split
  · rw [List.getElem?_eq_none (by omega), Option.getD_none]
  · rfl

/-- The width of an element: one half byte, or whole bytes. -/
theorem fmtBits_cases (f : Nat) : fmtBits f = 4 ∨ fmtBits f = 8 * (fmtBits f / 8) := by
  unfold fmtBits
  split_ifs <;> simp

/-- An element is put into the bytes from the address to the end of its place. -/
theorem storeGet_putElement_of_outside (c : Store 8) {f a l k : Nat} (code : Nat)
    (h : k < a ∨ a + ceilDiv ((l + 1) * fmtBits f) 8 ≤ k) : storeGet (putElement c f a l code) k = storeGet c k := by
  unfold ceilDiv at h
  unfold putElement fmt4bit
  split
  next hbits =>
    rw [of_decide_eq_true hbits] at h
    rw [storeGet_storeSet, if_neg (by omega)]
  next hbits =>
    have hwidth : fmtBits f = 8 * (fmtBits f / 8) := (fmtBits_cases f).resolve_left (by simpa using hbits)
    generalize fmtBits f / 8 = n at *
    rw [hwidth, Nat.add_mul, one_mul, Nat.mul_left_comm] at h
    refine storeGet_storeWrite_of_outside c ?_
    rw [length_toLE]
    omega

/-- The active lanes rise, so the last of them reaches furthest. -/
theorem ceilDiv_le_reachBytes (f : Nat) {v : VecEngine} {i : Insn} {l : Nat} (hl : l ∈ activeLanes v i) :
    ceilDiv ((l + 1) * fmtBits f) 8 ≤ reachBytes f (activeLanes v i) := by
  have hrise : (activeLanes v i).Pairwise (· ≤ ·) := (List.pairwise_lt_range.imp Nat.le_of_lt).filter _
  have hlast := hrise.rel_getLast hl
  unfold reachBytes
  rw [List.getLast?_eq_some_getLast (List.ne_nil_of_mem hl)]
  exact Nat.div_le_div_right (Nat.sub_le_sub_right (Nat.add_le_add_right
    (Nat.mul_le_mul_right _ (Nat.add_le_add_right hlast 1)) 8) 1)

theorem storeGet_foldl_putElement_of_outside {f a e k : Nat} {g : Nat → Nat} {act : List Nat} (c : Store 8)
    (hact : ∀ l ∈ act, ceilDiv ((l + 1) * fmtBits f) 8 ≤ e) (h : k < a ∨ a + e ≤ k) :
    storeGet (act.foldl (fun c l => putElement c f a l (g l)) c) k = storeGet c k := by
  induction act generalizing c with
  | nil => rfl
  | cons l act ih =>
    obtain ⟨hl, hrest⟩ := List.forall_mem_cons.mp hact
    refine (ih _ hrest).trans (storeGet_putElement_of_outside c _ ?_)
    omega

/-- A store of single elements: those of the active lanes put at their places, and their counts. -/
def storedElements (x : Spindle) (i : Insn) : Spindle :=
  let act := activeLanes x.vec i
  let a := memAddress x.vec i
  let r := fun l => packLane i.va i.ty (laneOf x.vec i.vd l)
  countInto { x with
    cache := act.foldl (fun c l => putElement c i.va a l (r l).bits) x.cache
    bad := clearWords x.bad a (reachBytes i.va act) }
    (act.map (fun l => (r l).sat)).sum (act.map (fun l => (r l).ufl)).sum

/-- The operand cache behind a store of a block: its elements, its scale entry and, in EN4, its knot record. -/
def blockCache (x : Spindle) (i : Insn) : Store 8 :=
  let b := storedBlock x i
  let c := storeWrite (storeWrite x.cache (memAddress x.vec i) (packCodes i.va b.codes))
    (xregOf x.vec (i.xn + 1)).toNat (toLE 2 b.entry)
  if i.va = fmtEn4 then storeWrite c (xregOf x.vec (i.xn + 2)).toNat b.knots else c

/-- A store of a block, with the moves of a block access. -/
def storedBlockSpindle (x : Spindle) (i : Insn) : Spindle :=
  countInto { x with
    cache := blockCache x i
    bad := clearWords x.bad (memAddress x.vec i) (blockBytes i.va)
    vec := advanceBlock x.vec i i.va false } (storedBlock x i).sat (storedBlock x i).ufl

theorem storeLanes_of_can {x : Spindle} (h : Can.store x = true) : storeLanes x (insnOf x) =
    .done (if fmtBlock (insnOf x).va then storedBlockSpindle x (insnOf x) else storedElements x (insnOf x)) := by
  obtain ⟨hok, hgood⟩ : accessOk x.vec (insnOf x) (insnOf x).va (activeLanes x.vec (insnOf x)) = true ∧
      storeFails x (insnOf x) (insnOf x).va (activeLanes x.vec (insnOf x)) = false := by simpa [Can.store] using h
  simp only [storeLanes, hok, hgood, Bool.not_true, Bool.false_eq_true, if_false]
  split <;> rfl

theorem length_packCodes {f : Nat} (hf : fmtBlock f = true) {codes : List Nat} (hcodes : codes.length = 32) :
    (packCodes f codes).length = blockBytes f := by
  have hwidth : fmtBits f = 4 ∨ fmtBits f = 8 := by
    simp only [fmtBlock, Bool.or_eq_true, decide_eq_true_eq, or_assoc] at hf
    obtain rfl | rfl | rfl | rfl | rfl := hf <;> decide
  unfold packCodes blockBytes elemBytes fmt4bit
  rcases hwidth with hw | hw <;> simp [hw, hcodes]

theorem length_codes_storedBlock (x : Spindle) (i : Insn) : (storedBlock x i).codes.length = 32 := by
  unfold storedBlock packSupplied packBlock packEn4 packMx packEn4At packMxAt
  split_ifs <;> simp

theorem length_knots_storedBlock (x : Spindle) {i : Insn} (hen4 : i.va = fmtEn4) :
    (storedBlock x i).knots.length = 8 := by
  unfold storedBlock packSupplied packBlock packEn4 packEn4At
  simp only [hen4, if_true]
  split <;> simp

/-- A block store writes its elements, its scale entry and, in EN4, its knot record, and no other byte. -/
theorem storeGet_blockCache_of_outside (x : Spindle) (i : Insn) (hblock : fmtBlock i.va = true) {k : Nat}
    (hdata : k < memAddress x.vec i ∨ memAddress x.vec i + blockBytes i.va ≤ k)
    (hentry : k < (xregOf x.vec (i.xn + 1)).toNat ∨ (xregOf x.vec (i.xn + 1)).toNat + 2 ≤ k)
    (hknots : i.va ≠ fmtEn4 ∨ k < (xregOf x.vec (i.xn + 2)).toNat ∨ (xregOf x.vec (i.xn + 2)).toNat + 8 ≤ k) :
    storeGet (blockCache x i) k = storeGet x.cache k := by
  have helements : storeGet (storeWrite (storeWrite x.cache (memAddress x.vec i)
      (packCodes i.va (storedBlock x i).codes)) (xregOf x.vec (i.xn + 1)).toNat (toLE 2 (storedBlock x i).entry)) k =
      storeGet x.cache k := by
    rw [storeGet_storeWrite_of_outside _ (by rwa [length_toLE]), storeGet_storeWrite_of_outside _
      (by rwa [length_packCodes hblock (length_codes_storedBlock x i)])]
  unfold blockCache
  by_cases hen4 : i.va = fmtEn4
  · simp only [hen4, if_true] at helements ⊢
    rw [storeGet_storeWrite_of_outside _ (by
      rw [length_knots_storedBlock x hen4]
      exact hknots.resolve_left (not_not_intro hen4))]
    exact helements
  · simp only [hen4, if_false]
    exact helements

theorem writesOnly_storedElements {l : List VecReg} (hc : .cache ∈ l) (hn : .counts ∈ l) (x : Spindle) (i : Insn) :
    WritesOnly l false false false x (storedElements x i) :=
  (writesOnly_cache hc x _ _).trans (writesOnly_counts hn _ _ _)

theorem writesOnly_storedBlockSpindle {l : List VecReg} (hc : .cache ∈ l) (hn : .counts ∈ l) (hx : .addresses ∈ l)
    (ht : .tags ∈ l) (x : Spindle) (i : Insn) : WritesOnly l false false false x (storedBlockSpindle x i) :=
  ((writesOnly_advanceBlock hx ht x i i.va false).trans (writesOnly_cache hc _ _ _)).trans (writesOnly_counts hn _ _ _)

/-- Settles O7: a store writes its elements or its block, and nothing outside their reach. That a run of lanes clears
the uncorrectable mark of each word it covers whole is the model's choice (log entry 39). -/
theorem vectorStores : Obligations.VectorStores := by
  intro s p hissue hcan
  have hdone := storeLanes_of_can hcan
  cases hblock : fmtBlock (insnOf (standing s p)).va
  · rw [hblock, if_neg Bool.false_ne_true] at hdone
    obtain ⟨t, hnext, hsame, htail⟩ := exists_next_of_issue (l := [.cache, .counts, .addresses, .tags])
      (o := exec (.vVst p) s) rfl hissue hdone (writesOnly_storedElements (by decide) (by decide) _ _)
    obtain ⟨hcache, hbad⟩ := hsame.regs .cache (by simp)
    obtain ⟨hpack, hunpack⟩ := hsame.regs .tags (by simp)
    refine ⟨t, hnext, fun _ => ⟨hcache, fun k hk => ?_, hsame.regs .addresses (by simp), hpack, hsame.counts⟩,
      fun h => absurd (hblock.symm.trans h) Bool.false_ne_true, hbad.trans (by rw [hblock]; rfl), hunpack, htail⟩
    rw [hcache]
    exact storeGet_foldl_putElement_of_outside _ (fun l hl => ceilDiv_le_reachBytes _ hl) hk
  · rw [hblock, if_pos rfl] at hdone
    obtain ⟨t, hnext, hsame, htail⟩ := exists_next_of_issue (l := [.cache, .counts, .addresses, .tags])
      (o := exec (.vVst p) s) rfl hissue hdone
      (writesOnly_storedBlockSpindle (by decide) (by decide) (by decide) (by decide) _ _)
    obtain ⟨hcache, hbad⟩ := hsame.regs .cache (by simp)
    obtain ⟨hpack, hunpack⟩ := hsame.regs .tags (by simp)
    refine ⟨t, hnext, fun h => absurd (h.symm.trans hblock) Bool.false_ne_true,
      fun _ => ⟨fun k hdata hentry hknots => ?_, hcache, fun n => ?_, ?_, hsame.counts⟩,
      hbad.trans (by rw [hblock]; rfl), ?_, htail⟩
    · rw [hcache]
      exact storeGet_blockCache_of_outside _ _ hblock hdata hentry hknots
    · exact (hsame.xregOf n).trans (xregOf_advanceBlock _ _ _ _ n)
    · exact hpack.trans (tags_advanceBlock _ _ _ false).2
    · exact hunpack.trans (tags_advanceBlock _ _ _ false).1

/-! ### Rows of accumulators and fallback buffers (R93, R148) -/

theorem exec_vFld_or_vTld (fb : Bool) (p : Fin 256) (s : State) :
    exec (if fb then .vFld p else .vTld p) s =
      finish s (vecIssue s p (if fb then 0x64 else 0x62) (if fb then loadFallback else loadTile)) := by
  cases fb <;> rfl

theorem exec_vFst_or_vTst (fb : Bool) (p : Fin 256) (s : State) :
    exec (if fb then .vFst p else .vTst p) s =
      finish s (vecIssue s p (if fb then 0x65 else 0x63) (if fb then storeFallback else storeTile)) := by
  cases fb <;> rfl

/-- A row access is in range, and that of a tile meets an idle one. -/
theorem row_of_can {x : Spindle} {fb : Bool} (h : Can.row x fb = true) :
    if fb then ¬ 128 ≤ rowAddress x.vec (insnOf x)
    else ¬ 512 ≤ rowAddress x.vec (insnOf x) ∧ x.busy.getLsbD (rowAddress x.vec (insnOf x) / 32) = false := by
  cases fb <;> simpa [Can.row] using h

theorem loadRow_of_can {x : Spindle} {fb : Bool} (h : Can.row x fb = true) :
    (if fb then loadFallback else loadTile) x (insnOf x) = .done { x with
      vec := writeLanes x.vec (insnOf x).vd (fun l => if activeLane x.vec (insnOf x) l then
        some (storeGet (if fb then x.vec.fb else x.acc) (32 * rowAddress x.vec (insnOf x) + l)) else none) } := by
  have hrow := row_of_can h
  cases fb
  · obtain ⟨hrange, hidle⟩ := hrow
    simp only [loadTile, hrange, hidle, Bool.false_eq_true, if_false]
  · simp only [loadFallback, if_neg hrow, if_true]

/-- The active lanes of Vd stored in a row. -/
def storedRow (st : Store 32) (x : Spindle) (i : Insn) : Store 32 :=
  (activeLanes x.vec i).foldl (fun a l => storeSet a (32 * rowAddress x.vec i + l) (laneOf x.vec i.vd l)) st

theorem storeGet_storedRow (st : Store 32) (x : Spindle) (i : Insn) (k : Nat) :
    let row := rowAddress x.vec i
    storeGet (storedRow st x i) k = if 32 * row ≤ k ∧ k < 32 * row + 32 ∧ activeLane x.vec i (k - 32 * row) = true
      then laneOf x.vec i.vd (k - 32 * row) else storeGet st k := by
  intro row
  refine (storeGet_foldl_lanes (fun l => some (laneOf x.vec i.vd l)) row (activeLanes x.vec i) st k
    (List.nodup_range.filter _)).trans ?_
  have hmem : (32 * row ≤ k ∧ k - 32 * row ∈ activeLanes x.vec i) ↔
      32 * row ≤ k ∧ k < 32 * row + 32 ∧ activeLane x.vec i (k - 32 * row) = true := by
    rw [mem_activeLanes]
    exact and_congr_right fun hle => and_congr_left' (by omega)
  simp only [hmem, Option.getD_some]

theorem storeTile_of_can {x : Spindle} (h : Can.row x false = true) :
    storeTile x (insnOf x) = .done { x with acc := storedRow x.acc x (insnOf x) } := by
  obtain ⟨hrange, hidle⟩ := row_of_can h
  simp only [storeTile, hrange, hidle, Bool.false_eq_true, if_false, storedRow]

theorem storeFallback_of_can {x : Spindle} (h : Can.row x true = true) :
    storeFallback x (insnOf x) = .done { x with vec := { x.vec with fb := storedRow x.vec.fb x (insnOf x) } } :=
  if_neg (row_of_can h)

/-- Settles O8: a load writes the active lanes of Vd, a store one row. -/
theorem vectorRows : Obligations.VectorRows := by
  refine ⟨fun fb s p hissue hcan => ?_, fun fb s p hissue hcan => ?_⟩
  · obtain ⟨t, hnext, hsame, htail⟩ := exists_next_of_issue (exec_vFld_or_vTld fb p s) hissue (loadRow_of_can hcan)
      (writesOnly_writeLanes (l := [.lanes]) (by decide) _ _ _)
    exact ⟨t, hnext, fun n l hl => (hsame.laneOf n l).trans (laneOf_writeLanes_where _ _ _ _ n l hl), htail⟩
  · cases fb
    · obtain ⟨t, hnext, hsame, htail⟩ := exists_next_of_issue (exec_vFst_or_vTst false p s) hissue
        (storeTile_of_can hcan) (writesOnly_accumulator (l := [.accumulator]) (by decide) _ _)
      have hacc : (spindleOf t p).acc = _ := hsame.regs .accumulator (by simp)
      refine ⟨t, hnext, fun k => ?_, htail⟩
      exact (congrArg (storeGet · k) hacc).trans (storeGet_storedRow _ _ _ k)
    · obtain ⟨t, hnext, hsame, htail⟩ := exists_next_of_issue (exec_vFst_or_vTst true p s) hissue
        (storeFallback_of_can hcan) (writesOnly_fallback (l := [.fallback]) (by decide) _ _)
      have hfb : (spindleOf t p).vec.fb = _ := hsame.regs .fallback (by simp)
      refine ⟨t, hnext, fun k => ?_, htail⟩
      exact (congrArg (storeGet · k) hfb).trans (storeGet_storedRow _ _ _ k)

end Sys2Proof.Machine
end

section
/-! PROOFS. COPY (R126, R133, R189 to R193). -/

namespace Sys2Proof.Machine

theorem setSpindle_setSpindle (s : State) (p : Nat) (x y : Spindle) :
    setSpindle (setSpindle s p x) p y = setSpindle s p y := by
  simp [setSpindle, tset_tset]

/-- A spindle whose DMA engine holds one copy more, taken with the work item of that moment, and whose generator goes
on. -/
def copyingSpindle (x : Spindle) (d : Bytes) : Spindle :=
  goTo { executing x x.agen.next 6 1 with
    dma := { x.dma with copies := x.dma.copies ++ [⟨x.agen.next, d, copyItem x⟩], state := 1 } } (x.agen.next + 1)

theorem handCopy_of_can {s : State} {p j : Nat} (hc : Can.copy s p j = true) :
    handCopy s p = setSpindle s p (copyingSpindle (spindleOf s p) (descAt s p)) := by
  obtain ⟨⟨⟨hdesc, hblocks⟩, hroom⟩, hbegins⟩ : ((Can.desc s p j 6 = true ∧ blocksDone (spindleOf s p) = true) ∧
      (spindleOf s p).dma.copies.length < 8) ∧ copyBegins s j (descAt s p) (copyItem (spindleOf s p)) = none := by
    simpa [Can.copy] using hc
  have hkept : copyBegins (setSpindle s p (executing (spindleOf s p) (spindleOf s p).agen.next 6 1)) j (descAt s p)
      (copyItem (spindleOf s p)) = none := hbegins
  rw [handCopy, onDesc_of_can hdesc hblocks, if_neg (Nat.not_le.mpr hroom)]
  simp only [hkept, setSpindle_setSpindle]
  rfl

theorem handCopy_of_full {s : State} {p j : Nat} (hdesc : Can.desc s p j 6 = true)
    (hblocks : blocksDone (spindleOf s p) = true) (hfull : 8 ≤ (spindleOf s p).dma.copies.length) :
    handCopy s p = setSpindle s p (executing (spindleOf s p) (spindleOf s p).agen.next 6 5) := by
  rw [handCopy, onDesc_of_can hdesc hblocks, if_pos hfull]

/-- Settles O18: each clause is a field of the spindle that the copy leaves. STATE 1 behind a handed COPY and the
hand-over and the beginning in one step are the model's choices (log entries 22 and 29). -/
theorem copy_begins : Obligations.CopyBegins := by
  refine ⟨fun s p j hc => ?_, fun s p j hdesc hblocks hfull => ?_⟩
  · refine ⟨_, finish_eq_next (only_handCopy s p) (by decide), ?_⟩
    rw [handCopy_of_can hc, spindleOf_setSpindle_self]
    exact ⟨rfl, rfl, rfl, rfl, rfl, rfl⟩
  · refine ⟨_, finish_eq_next (only_handCopy s p) (by decide), ?_⟩
    rw [handCopy_of_full hdesc hblocks hfull, spindleOf_setSpindle_self]
    exact ⟨rfl, rfl, rfl, rfl⟩

end Sys2Proof.Machine
end

section
/-! PROOFS. Models, adapter banks and memory writes (R176, R402, R408, R421, R422). -/

namespace Sys2Proof.Machine

/-! ### Bytes put into a region -/

theorem getD_fit {n k : Nat} (b : Bytes) (h : k < n) : (fit n b).getD k 0 = b.getD k 0 := by
  rcases Nat.lt_or_ge k b.length with hk | hk
  · simp [fit, List.getElem?_append, h, hk]
  · have htail : (b.take n).length ≤ k := (List.length_take_le' _ _).trans hk
    rw [fit, List.getD_append_right _ _ _ _ htail, List.getD_eq_default b _ hk]
    exact List.getElem?_getD_replicate_default_eq ..

theorem getD_storeRead {w n k : Nat} (st : Store w) (a : Nat) (h : k < n) :
    (storeRead st a n).getD k 0 = storeGet st (a + k) := by
  simp [storeRead, h]

/-- A region after bytes are put into it: theirs over their range, its own elsewhere. -/
theorem storeGet_regionPut (x : Partition) (a : Nat) (b : Bytes) (k : Nat) :
    storeGet (regionPut x a b).region k =
      if a ≤ k ∧ k < a + b.length then b.getD (k - a) 0 else storeGet x.region k := by
  change storeGet (storeWrite x.region a b) k = _
  split
  next h => rw [storeGet_storeWrite, if_pos h.1, List.getD_eq_getElem?_getD, List.getElem?_eq_getElem (by omega)]; rfl
  next h => exact storeGet_storeWrite_of_outside _ (by omega)

/-! ### The host bytes of a command -/

/-- The state once the host bytes of a slot's command have come. -/
def hostBytesCome (s : State) (slot : Nat) : State := endReads s (fun r => r.reader == .lantern slot)

theorem only_hostBytesCome (s : State) (slot : Nat) : Only [.out, .hif] s (hostBytesCome s slot) := only_endReads s _

@[simp] theorem partOf_hostBytesCome (s : State) (slot n : Nat) : partOf (hostBytesCome s slot) n = partOf s n :=
  (only_hostBytesCome s slot).partOf_eq (by decide) n

theorem withHost_some (s : State) (slot addr : Nat) (b : Bytes) (f : State → Bytes → State) :
    withHost s slot addr (some b) f = f (hostBytesCome s slot) b := rfl

/-- A command whose host bytes came and that changes one partition, and its completion. -/
theorem finish_hostPart (s : State) (slot n : Nat) (y : Partition) (st : Status) (r : Bytes) :
    finish s (complete (setPart (hostBytesCome s slot) n y) slot st r) =
      .next (complete (setPart (hostBytesCome s slot) n y) slot st r) :=
  finish_complete (((only_hostBytesCome s slot).mono (G := [.out, .hif, .parts]) (by decide)).step
    (only_setPart _ _ _) (by decide)) (by decide) _ _ _

/-! ### CMD_MODEL_LOAD (R402, R421, R422) -/

/-- Opening an image asks the state for its secret alone. -/
theorem openImage_of_sec_eq {s t : State} (h : t.sec = s.sec) (b : Bytes) (length : Nat) :
    openImage t b length = openImage s b length := by
  have hheader : imageHeaderSound t b length = imageHeaderSound s b length := by
    simp only [imageHeaderSound, identityKey, identitySeed, h]
  have hkey : modelKey t b = modelKey s b := by simp only [modelKey, encryptionSecret, h]
  rw [openImage, hheader, hkey, openImage]

@[simp] theorem openImage_hostBytesCome (s : State) (slot : Nat) (b : Bytes) (length : Nat) :
    openImage (hostBytesCome s slot) b length = openImage s b length :=
  openImage_of_sec_eq ((only_hostBytesCome s slot).keeps .sec (by decide)) b length

/-- A partition with a model at its destination and its image recorded. -/
def loadedPart (x : Partition) (b : Bytes) (a : Nat) (m : Bytes) : Partition :=
  { regionPut x a m with images := x.images ++ [imageRecord b a] }

/-- The end of a load, by what the image opened to. -/
def modelLoadEnd (t : State) (slot n a : Nat) (b : Bytes) (x : Partition) : Option Bytes → State
  | none => complete (setPart t n (regionZero x a (le b 72 8))) slot stBadCheck []
  | some m => complete (setPart t n (loadedPart x b a m)) slot stOk (toLE 4 (le b 72 8))

theorem cmdModelLoad_of_can {s : State} {slot : Nat} {b : Bytes} {x : Partition}
    (h : Can.modelLoad s slot b x = true) :
    let d := cmdDesc s slot
    cmdModelLoad s slot (some b) = modelLoadEnd (hostBytesCome s slot) slot (descPart d) (le d 24 8) b x
      (openImage s b (le d 16 8)) := by
  simp only [Can.modelLoad, Bool.and_eq_true, Bool.not_eq_true', decide_eq_true_eq, beq_iff_eq] at h
  obtain ⟨⟨⟨⟨⟨⟨hp, hsource⟩, hmin⟩, hmax⟩, hdest⟩, hclash⟩, hbad⟩ := h
  obtain ⟨hc, hx⟩ := command_of_partCommand hp
  rw [cmdModelLoad, command_of_can hc]
  simp only [hx, withHost_some, partOf_hostBytesCome, openImage_hostBytesCome, hsource, hdest, hclash, hbad,
    Nat.not_lt.mpr hmin, Nat.not_lt.mpr hmax, ne_eq, not_true_eq_false, decide_false, Bool.or_self,
    Bool.false_eq_true, if_false]
  cases openImage s b (le (cmdDesc s slot) 16 8) <;> rfl

theorem exec_cmdModelLoad {s : State} {slot : Fin 10} {b : Bytes} {x : Partition}
    (h : Can.modelLoad s slot b x = true) :
    let d := cmdDesc s slot
    exec (.cmdModelLoad slot (some b)) s = .next (modelLoadEnd (hostBytesCome s slot) slot (descPart d) (le d 24 8)
      b x (openImage s b (le d 16 8))) := by
  change finish s (cmdModelLoad s slot (some b)) = _
  rw [cmdModelLoad_of_can h]
  cases openImage s b (le (cmdDesc s slot) 16 8) <;> exact finish_hostPart _ _ _ _ _ _

/-! ### CMD_MODEL_UNLOAD (R402) -/

theorem exec_cmdModelUnload {s : State} {slot : Fin 10} {x : Partition} {i : ModelImage}
    (h : Can.modelUnload s slot x i = true) :
    exec (.cmdModelUnload slot) s = .next (complete (setPart s (descPart (cmdDesc s slot))
      { x with images := x.images.filter (fun j => j.base ≠ le (cmdDesc s slot) 8 8) }) slot stOk []) := by
  simp only [Can.modelUnload, Bool.and_eq_true, Bool.not_eq_true', decide_eq_true_eq] at h
  obtain ⟨⟨⟨hp, hfind⟩, hdescs⟩, hused⟩ := h
  obtain ⟨hc, hx⟩ := command_of_partCommand hp
  change finish s (cmdModelUnload s slot) = _
  rw [cmdModelUnload, command_of_can hc]
  simp only [hx, hfind, hdescs, hused, Bool.or_self, Bool.false_eq_true, if_false]
  exact finish_complete (only_setPart _ _ _) (by decide) _ _ _

/-! ### CMD_ADAPTER_INSTALL (R176, R402) -/

/-- Where the bank not active of an image begins. -/
def idleBank (i : ModelImage) : Nat := if i.active then i.bank0 else i.bank1

/-- A partition with bytes in the bank of image i that is not active, which is made active. -/
def installedPart (x : Partition) (i : ModelImage) (b : Bytes) : Partition :=
  { regionPut x (idleBank i) b with
    images := x.images.map (fun j => if j.base = i.base then { j with active := !i.active } else j) }

theorem active_of_mem_installedPart {x : Partition} {i j : ModelImage} {b : Bytes}
    (hj : j ∈ (installedPart x i b).images) (hbase : j.base = i.base) : j.active = !i.active := by
  obtain ⟨j', -, rfl⟩ := List.mem_map.mp hj
  by_cases hb : j'.base = i.base
  · rw [if_pos hb]
  · rw [if_neg hb] at hbase
    exact absurd hbase hb

theorem exec_cmdAdapterInstall {s : State} {slot : Fin 10} {x y : Partition} {i : ModelImage}
    (h : Can.adapterInstall s slot x y i = true) :
    let d := cmdDesc s slot
    exec (.cmdAdapterInstall slot) s = .next (complete (setPart s (descPart d)
      (installedPart x i (storeRead y.region (le d 16 8) (le d 24 4)))) slot stOk (toLE 1 (flag (!i.active)))) := by
  simp only [Can.adapterInstall, Bool.and_eq_true, Bool.not_eq_true', decide_eq_true_eq, beq_iff_eq] at h
  obtain ⟨⟨⟨⟨⟨⟨⟨⟨⟨hp, hfind⟩, hsource⟩, haligned⟩, hy⟩, hregion⟩, hbank⟩, hused⟩, hread⟩, hwrite⟩ := h
  obtain ⟨hc, hx⟩ := command_of_partCommand hp
  change finish s (cmdAdapterInstall s slot) = _
  rw [cmdAdapterInstall, command_of_can hc]
  simp only [hx, hfind, hy, haligned, hused, hread, hwrite, Nat.not_le.mpr hsource, Nat.not_lt.mpr hregion,
    Nat.not_lt.mpr hbank, ne_eq, not_true_eq_false, decide_false, Bool.or_self, Bool.false_eq_true, if_false]
  exact finish_complete (only_setPart _ _ _) (by decide) _ _ _

/-! ### CMD_MEM_WRITE (R402) -/

theorem regionWrite_of_partOf {s : State} {n : Nat} {x : Partition} (h : partOf s n = some x) (a : Nat) (b : Bytes) :
    regionWrite s n a b = setPart s n (regionPut x a b) := by
  simp only [regionWrite, modPart, h]

theorem exec_cmdMemWrite {s : State} {slot : Fin 10} {x : Partition} (h : Can.memWrite s slot x = true) (b : Bytes) :
    let d := cmdDesc s slot
    exec (.cmdMemWrite slot (some b)) s = .next (complete (setPart (hostBytesCome s slot) (descPart d)
      (regionPut x (le d 16 8) (fit (le d 24 4) b))) slot stOk []) := by
  simp only [Can.memWrite, Bool.and_eq_true, Bool.not_eq_true', decide_eq_true_eq] at h
  obtain ⟨⟨⟨⟨⟨⟨hp, hpos⟩, hmax⟩, hregion⟩, himages⟩, hctrl⟩, hbad⟩ := h
  obtain ⟨hc, hx⟩ := command_of_partCommand hp
  change finish s (cmdMemWrite s slot (some b)) = _
  rw [cmdMemWrite, command_of_can hc]
  simp only [hx, withHost_some, himages, hctrl, hbad, Nat.ne_of_gt hpos, Nat.not_lt.mpr hmax, Nat.not_lt.mpr hregion,
    decide_false, Bool.or_self, Bool.false_eq_true, if_false]
  rw [regionWrite_of_partOf ((partOf_hostBytesCome _ _ _).trans hx)]
  exact finish_hostPart _ _ _ _ _ _

/-! ### The statement on models and memory -/

/-- Settles O33: each command is one change of its partition and a completion, and every region is bytes put over one
range or zeros. -/
theorem modelMemory : Obligations.ModelMemory := by
  refine ⟨?load, fun s slot x i => exec_cmdModelUnload, ?install, ?write⟩
  case load =>
    intro s slot b x h
    refine ⟨_, exec_cmdModelLoad h, fun m hopen => ?_, fun hopen => ?_⟩
    · rw [hopen]
      exact ⟨_, rfl, rfl, storeGet_regionPut x _ m⟩
    · rw [hopen]
      exact ⟨_, rfl, rfl, storeGet_storeZero x.region _ _⟩
  case install =>
    intro s slot x y i h
    refine ⟨_, exec_cmdAdapterInstall h, fun k => ?_, fun j hj => active_of_mem_installedPart hj⟩
    refine (storeGet_regionPut x (idleBank i) _ k).trans ?_
    rw [length_storeRead]
    exact if_ctx_congr Iff.rfl (fun (hk : idleBank i ≤ k ∧ k < idleBank i + _) => getD_storeRead _ _ (by omega))
      fun _ => rfl
  case write =>
    intro s slot b x h
    refine ⟨_, exec_cmdMemWrite h b, fun k => ?_⟩
    rw [storeGet_regionPut, length_fit]
    exact if_ctx_congr Iff.rfl (fun hk => getD_fit b (by omega)) fun _ => rfl

end Sys2Proof.Machine
end

section
/-! PROOFS. SYNC: requests at a semaphore of the partition, barriers, the local count and the wait for copies (R126,
R194, R197 to R203). -/

namespace Sys2Proof.Machine

/-! ### A semaphore, and the spindle that asks it -/

@[simp] theorem semOf_setSem (s : State) (spire n : Nat) (x : Sem) (i k : Nat) :
    semOf (setSem s spire n x) i k = if spire = i ∧ n = k then x else semOf s i k := by
  by_cases hi : spire = i
  · subst hi
    simp [semOf, setSem]
  · simp [semOf, setSem, hi]

theorem semOf_setSem_self (s : State) (spire n : Nat) (x : Sem) : semOf (setSem s spire n x) spire n = x := by simp

@[simp] theorem semOf_setSpindle (s : State) (p : Nat) (x : Spindle) (i n : Nat) :
    semOf (setSpindle s p x) i n = semOf s i n := rfl

@[simp] theorem semOf_holdUnits (s : State) (j key : Nat) (d : Int) (i n : Nat) :
    semOf (holdUnits s j key d) i n = semOf s i n := rfl

@[simp] theorem spindleOf_holdUnits (s : State) (j key : Nat) (d : Int) (p : Nat) :
    spindleOf (holdUnits s j key d) p = spindleOf s p := rfl

@[simp] theorem spindleOf_setSem (s : State) (spire n : Nat) (x : Sem) (p : Nat) :
    spindleOf (setSem s spire n x) p = spindleOf s p := rfl

theorem semOf_eq_of_only {F : List Field} {s t : State} (h : Only F s t) (hF : Field.spires ∉ F) (i n : Nat) :
    semOf t i n = semOf s i n := by
  rw [semOf, h.spireOf_eq hF, ← semOf]

theorem setSem_setSem (s : State) (spire n : Nat) (x y : Sem) :
    setSem (setSem s spire n x) spire n y = setSem s spire n y := by
  simp [setSem, setSpire, spireOf, tset_tset]

theorem held_holdUnits (s : State) (j key : Nat) (d : Int) :
    tget (jobOf (holdUnits s j key d) j).held key 0 = tget (jobOf s j).held key 0 + d := by
  simp [holdUnits]

/-- A spindle that waits at its SYNC (R126). -/
def waitingSpindle (x : Spindle) : Spindle :=
  let y := executing x x.agen.next 5 4
  { y with agen := { y.agen with syncWaiting := true } }

/-- A spindle whose SYNC has taken effect (R126). -/
def passedSpindle (x : Spindle) : Spindle := agenResume (executing x x.agen.next 5 4)

theorem syncWait_eq (s : State) (p : Nat) : syncWait s p = setSpindle s p (waitingSpindle (spindleOf s p)) := rfl
theorem syncPass_eq (s : State) (p : Nat) : syncPass s p = setSpindle s p (passedSpindle (spindleOf s p)) := rfl

@[simp] theorem semOf_syncWait (s : State) (p i n : Nat) : semOf (syncWait s p) i n = semOf s i n := rfl

theorem spindleOf_syncWait (s : State) (p : Nat) : spindleOf (syncWait s p) p = waitingSpindle (spindleOf s p) := by
  simp [syncWait_eq]

theorem agenResume_waitingSpindle (x : Spindle) : agenResume (waitingSpindle x) = passedSpindle x := rfl

theorem job_of_runningJob {s : State} {p j : Nat} (h : runningJob s p = some j) : (spindleOf s p).job = some j := by
  unfold runningJob at h
  split at h
  · cases h
  next k hk =>
    split at h
    · rwa [← Option.some.inj h]
    · cases h

/-! ### A SYNC that may make its request (R197, R201) -/

theorem onSync_of_can {s : State} {p j op : Nat} (h : Can.sync s p j op = true) (f : Nat → Spindle → Bytes → State) :
    onSync s p op f = f j (spindleOf s p) (descAt s p) := by
  obtain ⟨⟨⟨⟨hdesc, hblocks, harray⟩, hwaiting⟩, hop⟩, -⟩ : (((Can.desc s p j 5 = true ∧
      blocksDone (spindleOf s p) = true ∧ arrayDone (spindleOf s p) = true) ∧
      (spindleOf s p).agen.syncWaiting = false) ∧ byteAt (descAt s p) 1 = op) ∧
      ownsSpire s j (field (byteAt (descAt s p) 3) 0 5) = true := by simpa [Can.sync, settled] using h
  rw [onSync, onDesc_of_can hdesc (by simp [hblocks, harray, hwaiting]), if_pos hop]

theorem desc_of_sync {s : State} {p j op : Nat} (h : Can.sync s p j op = true) : Can.desc s p j 5 = true := by
  simp only [Can.sync, Bool.and_eq_true] at h
  exact h.1.1.1.1

/-- A SYNC at a semaphore of the job's own partition whose request is not refused has that request's effect. -/
theorem onSync_atSem_of_can {s t : State} {p j op : Nat} (h : Can.sync s p j op = true)
    {f : Nat → Nat → Nat → Nat → Option State}
    (ht : f j (syncSpire s p) (syncNumber s p) (syncCount s p) = some t) :
    onSync s p op (fun j x d => atSem s p j x d (f j)) = t := by
  have howns : ownsSpire s j (syncSpire s p) = true := by
    simp only [Can.sync, Bool.and_eq_true] at h
    exact h.2
  rw [onSync_of_can h, atSem]
  simp only [syncSpire, syncNumber, syncCount] at ht howns
  simp only [howns, ht, Bool.not_true, Bool.false_eq_true, if_false]

/-! ### Grants (R199) -/

theorem grantAll_of_empty {s : State} {i n : Nat} (h : (semOf s i n).queue = []) : grantAll s i n = s := by
  rw [grantAll, h]
  rfl

/-- A head that asks for more than there is keeps the queue behind it waiting. -/
theorem grantAll_of_short_head {s : State} {i n : Nat} {e : Waiter × Nat} {r : List (Waiter × Nat)}
    (hq : (semOf s i n).queue = e :: r) (hshort : (semOf s i n).value.toNat < e.2) : grantAll s i n = s := by
  rw [grantAll, hq, List.length_cons, grantHeads]
  simp [hq, hshort]

/-- A spindle alone in the queue is granted what there is. -/
theorem grantAll_setSem_of_spindle {s : State} {v : Sem} {p c j : Nat} (i n : Nat) (hb : v.barrier = false)
    (hq : v.queue = [(.spindle p, c)]) (hc : c ≤ v.value.toNat) (hj : (spindleOf s p).job = some j) :
    grantAll (setSem s i n v) i n = setSpindle
      (holdUnits (setSem s i n { v with value := v.value - BitVec.ofNat 16 c, queue := [] }) j (semKey i n) c)
      p (agenResume (spindleOf s p)) := by
  simp only [grantAll, semOf_setSem_self, setSem_setSem, hq, List.length_singleton, grantHeads, hb, Nat.not_lt.mpr hc,
    waiterJob, spindleOf_setSem, hj, resumeWaiter, spindleOf_holdUnits, decide_false, Bool.or_self, Bool.false_eq_true,
    if_false]

/-! ### Requests (R198 to R200, R203) -/

/-- An ACQUIRE that finds no one waiting and enough units takes them, and its spindle goes on. -/
theorem acquireUnits_of_enough {s : State} {i n p c j : Nat} (hb : (semOf s i n).barrier = false)
    (hq : (semOf s i n).queue = []) (hc : c ≤ (semOf s i n).value.toNat) (hj : (spindleOf s p).job = some j) :
    let v := semOf s i n
    acquireUnits s i n c (.spindle p) = some (setSpindle
      (holdUnits (setSem s i n { v with value := v.value - BitVec.ofNat 16 c }) j (semKey i n) c)
      p (agenResume (spindleOf s p))) := by
  intro v
  have hgrant := grantAll_setSem_of_spindle (v := { v with queue := v.queue ++ [(.spindle p, c)] }) i n hb
    (congrArg (· ++ _) hq) hc hj
  rw [acquireUnits, if_neg (by simp [hb]), hgrant, ← hq]

/-- An ACQUIRE that finds too few units, or a head that waits, joins the queue. -/
theorem acquireUnits_of_short {s : State} {i n c : Nat} (w : Waiter) (hb : (semOf s i n).barrier = false)
    (h : ((semOf s i n).queue = [] ∧ (semOf s i n).value.toNat < c) ∨
      ∃ e r, (semOf s i n).queue = e :: r ∧ (semOf s i n).value.toNat < e.2) :
    let v := semOf s i n
    acquireUnits s i n c w = some (setSem s i n { v with queue := v.queue ++ [(w, c)] }) := by
  intro v
  rw [acquireUnits, if_neg (by simp [hb])]
  obtain ⟨hq, hshort⟩ | ⟨e, r, hq, hshort⟩ := h
  · rw [grantAll_of_short_head (e := (w, c)) (r := []) (by simp [hq]) (by simpa using hshort)]
  · rw [grantAll_of_short_head (e := e) (r := r ++ [(w, c)]) (by simp [hq]) (by simpa using hshort)]

/-- A RELEASE with no one waiting adds its units and takes them off its job's count. -/
theorem releaseUnits_of_empty {s : State} {i n c : Nat} (j : Nat) (hb : (semOf s i n).barrier = false)
    (hq : (semOf s i n).queue = []) (hmax : (semOf s i n).value.toNat + c ≤ 65535) :
    let v := semOf s i n
    releaseUnits s i n c (some j) =
      some (holdUnits (setSem s i n { v with value := v.value + BitVec.ofNat 16 c }) j (semKey i n) (-c)) := by
  intro v
  rw [releaseUnits, if_neg (by simp [hb, hmax])]
  exact congrArg some (grantAll_of_empty (by simpa using hq))

/-- The first of two or more arrivals puts a semaphore of VALUE 0 into barrier use. -/
theorem barrierArrive_first {s : State} {i n c : Nat} (w : Waiter) (hb : (semOf s i n).barrier = false)
    (hv : (semOf s i n).value = 0) (hc : 2 ≤ c) :
    let v := semOf s i n
    barrierArrive s i n c w =
      some (setSem s i n { v with barrier := true, need := c, value := 1, arrivals := v.arrivals ++ [w] }) := by
  have hmore : ((semOf s i n).value + 1).toNat ≠ c := by
    rw [hv]
    exact Nat.ne_of_lt hc
  intro v
  rw [barrierArrive, if_neg (by simp [hb, hv]), if_neg hmore, hv]
  rfl

/-- The semaphore after the last arrival of a generation: out of barrier use, with the units returned meanwhile. -/
def closedSem (v : Sem) : Sem :=
  { v with
    value := BitVec.ofNat 16 v.pendingReturn, gen := v.gen + 1, barrier := false, need := 0, arrivals := []
    pendingReturn := 0 }

/-- The last arrival ends the generation, and every arrival goes on. -/
theorem barrierArrive_last {s : State} {i n c : Nat} (w : Waiter) (hb : (semOf s i n).barrier = true)
    (hneed : (semOf s i n).need = c) (hlast : ((semOf s i n).value + 1).toNat = c) (hq : (semOf s i n).queue = []) :
    barrierArrive s i n c w = some (((semOf s i n).arrivals ++ [w]).foldl
      (fun t a => resumeWaiter t (semKey i n) a) (setSem s i n (closedSem (semOf s i n)))) := by
  rw [barrierArrive, if_neg (by simp [hb, hneed])]
  simp only [hlast, if_true, closeBarrier]
  rw [grantAll_of_empty (by simpa using hq)]
  rfl

theorem resumeWaiter_spindle (s : State) (key p : Nat) :
    resumeWaiter s key (.spindle p) = setSpindle s p (agenResume (spindleOf s p)) := rfl

/-- Arrivals that are spindles go on, and nothing else changes. -/
theorem only_resumeWaiters {l : List Waiter} (key : Nat) (h : ∀ w ∈ l, ∃ q, w = .spindle q) (s : State) :
    Only [.spindles] s (l.foldl (fun t a => resumeWaiter t key a) s) := by
  induction l generalizing s with
  | nil => exact Only.refl _ s
  | cons w l ih =>
    obtain ⟨q, rfl⟩ := h w List.mem_cons_self
    exact (only_setSpindle s q _).trans (ih (fun w hw => h w (List.mem_cons_of_mem _ hw)) _)

/-- A spindle that is none of the arrivals stands. -/
theorem spindleOf_resumeWaiters {l : List Waiter} {p : Nat} (key : Nat)
    (h : ∀ w ∈ l, ∃ q, w = .spindle q ∧ q ≠ p) (s : State) :
    spindleOf (l.foldl (fun t a => resumeWaiter t key a) s) p = spindleOf s p := by
  induction l generalizing s with
  | nil => rfl
  | cons w l ih =>
    obtain ⟨q, rfl, hq⟩ := h w List.mem_cons_self
    rw [List.foldl_cons, ih fun w hw => h w (List.mem_cons_of_mem _ hw)]
    simp [resumeWaiter_spindle, hq]

/-! ### The statement on ACQUIRE and RELEASE -/

theorem syncAcquire_of_enough {s : State} {p j : Nat} (hc : Can.sync s p j 0 = true)
    (hb : (semOf s (syncSpire s p) (syncNumber s p)).barrier = false)
    (hq : (semOf s (syncSpire s p) (syncNumber s p)).queue = [])
    (henough : syncCount s p ≤ (semOf s (syncSpire s p) (syncNumber s p)).value.toNat) :
    let i := syncSpire s p
    let n := syncNumber s p
    let c := syncCount s p
    let v := semOf s i n
    syncAcquire s p = setSpindle
      (holdUnits (setSem (syncWait s p) i n { v with value := v.value - BitVec.ofNat 16 c }) j (semKey i n) c)
      p (passedSpindle (spindleOf s p)) := by
  have hjob : (spindleOf (syncWait s p) p).job = some j := by
    rw [spindleOf_syncWait]
    exact job_of_runningJob (runningJob_of_desc (desc_of_sync hc))
  have hrequest := acquireUnits_of_enough (s := syncWait s p) hb hq henough hjob
  rw [spindleOf_syncWait, agenResume_waitingSpindle] at hrequest
  exact onSync_atSem_of_can hc (f := fun _ i n c => acquireUnits (syncWait s p) i n c (.spindle p)) hrequest

theorem syncAcquire_of_short {s : State} {p j : Nat} (hc : Can.sync s p j 0 = true) :
    let i := syncSpire s p
    let n := syncNumber s p
    let c := syncCount s p
    let v := semOf s i n
    v.barrier = false → ((v.queue = [] ∧ v.value.toNat < c) ∨ ∃ e r, v.queue = e :: r ∧ v.value.toNat < e.2) →
    syncAcquire s p = setSem (syncWait s p) i n { v with queue := v.queue ++ [(.spindle p, c)] } := by
  intro i n c v hb hshort
  exact onSync_atSem_of_can hc (f := fun _ i n c => acquireUnits (syncWait s p) i n c (.spindle p))
    (acquireUnits_of_short (s := syncWait s p) _ hb hshort)

theorem syncRelease_of_empty {s : State} {p j : Nat} (hc : Can.sync s p j 1 = true) :
    let i := syncSpire s p
    let n := syncNumber s p
    let c := syncCount s p
    let v := semOf s i n
    v.barrier = false → v.queue = [] → v.value.toNat + c ≤ 65535 →
    syncRelease s p = syncPass
      (holdUnits (setSem s i n { v with value := v.value + BitVec.ofNat 16 c }) j (semKey i n) (-c)) p := by
  intro i n c v hb hq hmax
  exact onSync_atSem_of_can hc
    (f := fun j i n c => (releaseUnits s i n c (some j)).map (fun t => syncPass t p))
    (congrArg (Option.map (fun t => syncPass t p)) (releaseUnits_of_empty j hb hq hmax))

/-- Settles O16: a request is its change of the semaphore, of the job's count and of the spindle, and each part of the
effect is read back from one of the three. STATE 1 behind a SYNC that passed is the model's choice (log entry 22). -/
theorem syncRequests : Obligations.SyncRequests := by
  refine ⟨fun s p j hc hb => ?acquire, fun s p j hc hb hq hmax => ?release⟩
  case acquire =>
    refine ⟨_, finish_eq_next (only_syncAcquire s p) (by decide), fun hq henough => ?_, fun hshort => ?_⟩
    · rw [syncAcquire_of_enough hc hb hq henough, spindleOf_setSpindle_self]
      exact ⟨semOf_setSem_self _ _ _ _, held_holdUnits _ _ _ _, rfl, rfl, rfl, rfl⟩
    · rw [syncAcquire_of_short hc hb hshort, spindleOf_setSem, spindleOf_syncWait]
      exact ⟨semOf_setSem_self _ _ _ _, rfl, rfl, rfl, rfl,
        ((only_syncWait s p).mono (by decide)).step (only_setSem _ _ _ _) (by decide)⟩
  case release =>
    refine ⟨_, finish_eq_next (only_syncRelease s p) (by decide), ?_⟩
    rw [syncRelease_of_empty hc hb hq hmax, syncPass_eq, spindleOf_setSpindle_self]
    refine ⟨semOf_setSem_self _ _ _ _, ?_, rfl, rfl, ?_⟩
    · rw [Int.sub_eq_add_neg]
      exact held_holdUnits _ _ _ _
    · exact (((only_setSem _ _ _ _).mono (by decide)).step (only_holdUnits _ _ _ _) (by decide)).step
        (only_setSpindle _ _ _) (by decide)

/-! ### The statement on BARRIER, WAIT_LOCAL and DRAIN -/

theorem syncBarrier_first {s : State} {p j : Nat} (hc : Can.sync s p j 2 = true) :
    let i := syncSpire s p
    let n := syncNumber s p
    let c := syncCount s p
    let v := semOf s i n
    v.barrier = false → v.value = 0 → 2 ≤ c →
    syncBarrier s p = setSem (syncWait s p) i n
      { v with barrier := true, need := c, value := 1, arrivals := v.arrivals ++ [.spindle p] } := by
  intro i n c v hb hv hmany
  exact onSync_atSem_of_can hc (f := fun _ i n c => barrierArrive (syncWait s p) i n c (.spindle p))
    (barrierArrive_first (s := syncWait s p) _ hb hv hmany)

theorem syncBarrier_last {s : State} {p j : Nat} (hc : Can.sync s p j 2 = true) :
    let i := syncSpire s p
    let n := syncNumber s p
    let v := semOf s i n
    v.barrier = true → v.need = syncCount s p → (v.value + 1).toNat = syncCount s p → v.queue = [] →
    syncBarrier s p = (v.arrivals ++ [Waiter.spindle p]).foldl (fun t a => resumeWaiter t (semKey i n) a)
      (setSem (syncWait s p) i n (closedSem v)) := by
  intro i n v hb hneed hlast hq
  exact onSync_atSem_of_can hc (f := fun _ i n c => barrierArrive (syncWait s p) i n c (.spindle p))
    (barrierArrive_last (s := syncWait s p) _ hb hneed hlast hq)

/-- The last arrival passes, and leaves its semaphore closed. -/
theorem syncBarrier_last_passes {s : State} {p j : Nat} (hc : Can.sync s p j 2 = true) :
    let i := syncSpire s p
    let n := syncNumber s p
    let v := semOf s i n
    v.barrier = true → v.need = syncCount s p → (v.value + 1).toNat = syncCount s p → v.queue = [] →
    (∀ w ∈ v.arrivals, ∃ q, w = .spindle q ∧ q ≠ p) →
    semOf (syncBarrier s p) i n = closedSem v ∧ spindleOf (syncBarrier s p) p = passedSpindle (spindleOf s p) := by
  intro i n v hb hneed hlast hq harrived
  rw [syncBarrier_last hc hb hneed hlast hq, List.foldl_append, List.foldl_cons, List.foldl_nil]
  refine ⟨?_, ?_⟩
  · rw [resumeWaiter_spindle, semOf_setSpindle, semOf_eq_of_only (only_resumeWaiters _ (fun w hw => ?_) _) (by decide),
      semOf_setSem_self]
    obtain ⟨q, hw, -⟩ := harrived w hw
    exact ⟨q, hw⟩
  · rw [resumeWaiter_spindle, spindleOf_setSpindle_self, spindleOf_resumeWaiters _ harrived, spindleOf_setSem,
      spindleOf_syncWait, agenResume_waitingSpindle]

/-- A spindle with units taken off its local count (R194). -/
def drawnLocal (x : Spindle) (c : Nat) : Spindle :=
  { x with dma := { x.dma with localCount := x.dma.localCount - BitVec.ofNat 16 c } }

theorem passWaitLocal_of_can {s : State} {p j : Nat} (hdesc : Can.desc s p j 5 = true) (hsettled : settled s p = true)
    (hop : byteAt (descAt s p) 1 = 3) :
    passWaitLocal s p = setSpindle s p
      (if syncCount s p ≤ (spindleOf s p).dma.localCount.toNat then
        passedSpindle (drawnLocal (spindleOf s p) (syncCount s p)) else waitingSpindle (spindleOf s p)) := by
  rw [passWaitLocal, onDesc_of_can hdesc hsettled, if_neg (not_not_intro hop), ← syncCount, apply_ite (setSpindle s p)]
  simp only [syncPass_eq, spindleOf_setSpindle_self, setSpindle_setSpindle, syncWait_eq, drawnLocal]

theorem passDrain_of_can {s : State} {p j : Nat} (hdesc : Can.desc s p j 5 = true) (hsettled : settled s p = true)
    (hop : byteAt (descAt s p) 1 = 4) :
    passDrain s p = setSpindle s p
      (if (spindleOf s p).dma.copies = [] then passedSpindle (spindleOf s p) else waitingSpindle (spindleOf s p)) := by
  rw [passDrain, onDesc_of_can hdesc hsettled, if_neg (not_not_intro hop), apply_ite (setSpindle s p)]
  simp only [syncPass_eq, syncWait_eq, List.isEmpty_iff]

/-- Settles O17: an arrival changes its semaphore and the spindles that arrived, and the two waits change their spindle
alone. STATE 1 behind a SYNC that passed is the model's choice (log entry 22). -/
theorem barriersAndWaits : Obligations.BarriersAndWaits := by
  refine ⟨fun s p j hc => ?barrier, fun s p j hdesc hsettled hop => ?waitLocal, fun s p j hdesc hsettled hop => ?drain⟩
  case barrier =>
    refine ⟨_, finish_eq_next (only_syncBarrier s p) (by decide), fun hb hv hmany => ?_,
      fun hb hneed hlast hq harrived => ?_⟩
    · rw [syncBarrier_first hc hb hv hmany, spindleOf_setSem, spindleOf_syncWait]
      exact ⟨semOf_setSem_self _ _ _ _, rfl, rfl, rfl, rfl,
        ((only_syncWait s p).mono (by decide)).step (only_setSem _ _ _ _) (by decide)⟩
    · obtain ⟨hsem, hspindle⟩ := syncBarrier_last_passes hc hb hneed hlast hq harrived
      rw [hsem, hspindle]
      exact ⟨rfl, rfl, rfl, rfl, rfl, rfl, rfl⟩
  case waitLocal =>
    refine ⟨_, finish_eq_next (only_passWaitLocal s p) (by decide), ?_⟩
    rw [passWaitLocal_of_can hdesc hsettled hop, spindleOf_setSpindle_self]
    by_cases henough : syncCount s p ≤ (spindleOf s p).dma.localCount.toNat
    · rw [if_pos henough]
      exact ⟨fun _ => ⟨rfl, rfl, rfl⟩, fun hshort => absurd henough (Nat.not_le.mpr hshort), rfl, rfl⟩
    · rw [if_neg henough]
      exact ⟨fun h => absurd h henough, fun _ => ⟨rfl, rfl, rfl, rfl⟩, rfl, rfl⟩
  case drain =>
    refine ⟨_, finish_eq_next (only_passDrain s p) (by decide), ?_⟩
    rw [passDrain_of_can hdesc hsettled hop, spindleOf_setSpindle_self]
    by_cases hnone : (spindleOf s p).dma.copies = []
    · rw [if_pos hnone]
      exact ⟨fun _ => ⟨rfl, rfl⟩, fun hheld => absurd hnone hheld, rfl, rfl⟩
    · rw [if_neg hnone]
      exact ⟨fun h => absurd h hnone, fun _ => ⟨rfl, rfl, rfl⟩, rfl, rfl⟩

end Sys2Proof.Machine
end

section
/-! PROOFS. COPY_COMPLETE: the rows a copy moves and the pulse it sends (R184 to R191, R194, R198). -/

namespace Sys2Proof.Machine

/-! ### Lengths of rows (R184 to R186, R191) -/

theorem length_flatMap_groupsOf {f : Bytes → Bytes} {n m : Nat} (hn : 0 < n)
    (hf : ∀ g : Bytes, g.length = n → (f g).length = m) {k fuel : Nat} (hfuel : k ≤ fuel) {b : Bytes}
    (hb : b.length = n * k) : ((groupsOf n fuel b).flatMap f).length = m * k := by
  induction k generalizing fuel b with
  | zero =>
    rw [List.length_eq_zero_iff.mp hb]
    cases fuel <;> rfl
  | succ k ih =>
    obtain ⟨fuel, rfl⟩ : ∃ i, fuel = i + 1 := ⟨fuel - 1, by omega⟩
    rw [Nat.mul_succ] at hb
    have hmore : b.isEmpty = false := List.isEmpty_eq_false_iff.mpr (List.ne_nil_of_length_pos (by omega))
    have htake : (b.take n).length = n := by
      rw [List.length_take]
      omega
    have hdrop : (b.drop n).length = n * k := by
      rw [List.length_drop]
      omega
    rw [groupsOf, hmore, if_neg Bool.false_ne_true, List.flatMap_cons, List.length_append, hf _ htake,
      ih (by omega) hdrop, Nat.mul_succ, Nat.add_comm]

/-- Bytes that are k groups of n, each made m bytes, are m * k bytes. -/
theorem length_flatMap_chunks {f : Bytes → Bytes} {n m k : Nat} {b : Bytes} (hn : 0 < n) (hb : b.length = n * k)
    (hf : ∀ g : Bytes, g.length = n → (f g).length = m) : ((chunks n b).flatMap f).length = m * k :=
  length_flatMap_groupsOf hn hf (by rw [hb, Nat.mul_div_cancel_left k hn]; omega) hb

theorem length_swapRow {swap : Nat} {b : Bytes} (h : b.length % swapUnit swap = 0) :
    (swapRow swap b).length = b.length := by
  have hunits := (Nat.mul_div_cancel' (Nat.dvd_of_mod_eq_zero h)).symm
  unfold swapUnit at hunits
  unfold swapRow
  split_ifs at hunits ⊢
  · rfl
  · rw [length_flatMap_chunks (m := 2) (by decide) hunits (by simp)]
    exact hunits.symm
  · rw [length_flatMap_chunks (m := 4) (by decide) hunits (by simp)]
    exact hunits.symm
  · rw [length_flatMap_chunks (m := 4) (by decide) hunits (by simp +contextual)]
    exact hunits.symm

theorem length_encode8 (signed : Bool) (g : Bytes) : (encode8 signed g).length = 8 := length_toLE _ _

theorem length_decode8 (signed : Bool) (rec : Bytes) : (decode8 signed rec).length = 16 := by simp [decode8]

theorem length_encode16 (f codec : Nat) (g : Bytes) : (encode16 f codec g).1.length = recBytes codec := by
  simp only [encode16]
  split <;> exact length_toLE _ _

theorem length_decode16 (f codec : Nat) (rec : Bytes) : (decode16 f codec rec).length = 32 := by
  simp [decode16, List.length_flatMap]

/-- What the checks of a descriptor say of its rows: whole swap units, and with a codec whole groups and a source. -/
structure WholeRows (c : CopyDesc) : Prop where
  units : c.rowBytes % swapUnit c.swap = 0
  source : c.codec ≠ 0 → c.srcSpace ≠ 3
  groups : c.codec ≠ 0 → 256 ∣ c.rowBytes
  codec : c.codec ≠ 0 → c.codec = 1 ∨ c.codec = 2
  quarter : c.codec = 2 → ¬ (c.cfmt = 0 ∨ c.cfmt = 1)

theorem wholeRows_of_copyFields {d : Bytes} (h : copyFields d = true) : WholeRows (decodeCopy d) := by
  have hwidth : (decodeCopy d).codec < 4 := Nat.mod_lt _ (by decide)
  simp only [copyFields, Bool.and_eq_true, Bool.or_eq_true, decide_eq_true_eq, beq_iff_eq] at h
  obtain ⟨⟨⟨⟨⟨⟨⟨⟨⟨⟨⟨⟨⟨⟨⟨⟨⟨⟨⟨-, hcodec⟩, -⟩, -⟩, -⟩, -⟩, -⟩, -⟩, -⟩, -⟩, -⟩, -⟩, -⟩, -⟩, -⟩, hgroups⟩, hunits⟩,
    -⟩, -⟩, -⟩ := h
  have hwhole := fun hne => hgroups.resolve_left hne
  refine ⟨hunits, fun hne => ?_, fun hne => ?_, fun hne => ?_, fun htwo => ?_⟩
  · obtain ⟨⟨-, hsides⟩, -⟩ := hwhole hne
    intro hfill
    simp [hfill] at hsides
  · obtain ⟨⟨⟨-, hbytes⟩, -⟩, -⟩ := hwhole hne
    exact Nat.dvd_of_mod_eq_zero hbytes
  · omega
  · obtain ⟨-, hformat⟩ := hwhole (by omega)
    omega

/-- A row of source bytes makes a row of destination bytes. -/
theorem length_copyRow {c : CopyDesc} (h : WholeRows c) {b : Bytes} (hb : b.length = srcRow c) :
    (copyRow c b).1.length = dstRow c := by
  by_cases hplain : c.codec = 0
  · have hsrc : b.length = c.rowBytes := by simpa [srcRow, hplain] using hb
    rw [copyRow, if_pos hplain, length_swapRow (hsrc ▸ h.units), hsrc]
    simp [dstRow, hplain]
  obtain ⟨k, hk⟩ := h.groups hplain
  have hrecords : compressedRow c = recBytes c.codec * (8 * k) := by
    obtain hone | htwo := h.codec hplain
    · simp only [compressedRow, recBytes, hone, hk, if_true]
      omega
    · simp only [compressedRow, recBytes, htwo, hk, if_neg (by decide : ¬ 2 = 1)]
      omega
  have hfull : c.rowBytes = 32 * (8 * k) := by omega
  have hrow : b.length = if c.decompress then recBytes c.codec * (8 * k) else 32 * (8 * k) := by
    simpa [srcRow, hplain, hrecords, hfull] using hb
  have hgoal : dstRow c = if c.decompress then 32 * (8 * k) else recBytes c.codec * (8 * k) := by
    cases hdir : c.decompress <;> simp [dstRow, hplain, hrecords, hfull, hdir]
  rw [hgoal, copyRow, if_neg hplain]
  by_cases hbytes : c.cfmt = 0 ∨ c.cfmt = 1
  · have hsixteen : recBytes c.codec = 16 :=
      if_pos ((h.codec hplain).resolve_right fun htwo => h.quarter htwo hbytes)
    rw [if_pos (by simpa using hbytes)]
    cases hdir : c.decompress
    · simp only [hdir, hsixteen, Bool.false_eq_true, if_false] at hrow ⊢
      rw [length_flatMap_chunks (k := 16 * k) (by decide) (by omega) fun g _ => length_encode8 _ g]
      omega
    · simp only [hdir, hsixteen, if_true] at hrow ⊢
      rw [length_flatMap_chunks (k := 16 * k) (by decide) (by omega) fun g _ => length_decode8 _ g]
      omega
  · have hpos : 0 < recBytes c.codec := by
      unfold recBytes
      split <;> decide
    rw [if_neg (by simpa using hbytes)]
    cases hdir : c.decompress
    · simp only [hdir, Bool.false_eq_true, if_false, List.flatMap_map] at hrow ⊢
      exact length_flatMap_chunks (by decide) hrow fun g _ => length_encode16 _ _ g
    · simp only [hdir, if_true] at hrow ⊢
      exact length_flatMap_chunks hpos hrow fun g _ => length_decode16 _ _ g

/-- Every row of a copy is a row of its destination, whether a fill or of the source. -/
theorem length_copiedRow {e : CopyReq} (h : WholeRows (decodeCopy e.desc)) (s : State) (p part r : Nat) :
    (copiedRow s p part e r).1.length = dstRow (decodeCopy e.desc) := by
  simp only [copiedRow]
  split
  next hfill =>
    have hplain : (decodeCopy e.desc).codec = 0 := by
      by_contra hne
      exact h.source hne hfill
    have hlength : ((List.range (decodeCopy e.desc).rowBytes).map
        (fun j => BitVec.ofNat 8 ((decodeCopy e.desc).src / 256 ^ (j % 4)))).length = (decodeCopy e.desc).rowBytes := by
      simp
    rw [fillRow, length_swapRow (hlength.symm ▸ h.units), hlength]
    simp [dstRow, hplain]
  next => exact length_copyRow h (length_storeRead _ _ _)

/-! ### Rows written one after another (R189, R190) -/

section
variable {w n : Nat} {place : Nat → Nat} {row : Nat → List (BitVec w)} {l : List Nat}

theorem storeGet_foldl_rows_of_outside (hn : ∀ r, (row r).length = n) {a : Nat}
    (ha : ∀ r ∈ l, a < place r ∨ place r + n ≤ a) (st : Store w) :
    storeGet (l.foldl (fun st r => storeWrite st (place r) (row r)) st) a = storeGet st a := by
  induction l generalizing st with
  | nil => rfl
  | cons r l ih =>
    rw [List.foldl_cons, ih fun q hq => ha q (List.mem_cons_of_mem _ hq)]
    exact storeGet_storeWrite_of_outside st (by rw [hn]; exact ha r List.mem_cons_self)

/-- Rows that lie apart all read back. -/
theorem storeGet_foldl_rows (hn : ∀ r, (row r).length = n) {r k : Nat} (hr : r ∈ l) (hk : k < n)
    (hapart : ∀ q ∈ l, q ≠ r → place r + k < place q ∨ place q + n ≤ place r + k) (d : BitVec w) (st : Store w) :
    storeGet (l.foldl (fun st r => storeWrite st (place r) (row r)) st) (place r + k) = (row r).getD k d := by
  induction l generalizing st with
  | nil => cases hr
  | cons q l ih =>
    have htail := fun i hi => hapart i (List.mem_cons_of_mem q hi)
    rw [List.foldl_cons]
    by_cases hlater : r ∈ l
    · exact ih hlater htail _
    · obtain rfl : r = q := (List.mem_cons.mp hr).resolve_right hlater
      rw [storeGet_foldl_rows_of_outside hn fun i hi => htail i hi fun hir => hlater (hir ▸ hi), storeGet_storeWrite,
        if_pos (Nat.le_add_right _ _), Nat.add_sub_cancel_left, List.getD_eq_getElem?_getD,
        List.getElem?_eq_getElem (by rwa [hn])]
      rfl

end

/-- Rows within a space begin at no negative offset. -/
theorem row_start_nonneg {size rows n r : Nat} {start pitch : Int} (h : rowsWithin size start pitch rows n = true)
    (hr : r < rows) : 0 ≤ start + r * pitch := by
  obtain ⟨hlow, -⟩ : 0 ≤ start + min 0 (pitch * ((rows : Int) - 1)) ∧ _ := by
    simpa only [rowsWithin, Bool.and_eq_true, decide_eq_true_eq] using h
  have hfirst : (0 : Int) ≤ r := Int.natCast_nonneg r
  have hlast : (r : Int) ≤ rows - 1 := by omega
  rcases le_total 0 pitch with hp | hp
  · have hrise := mul_nonneg hfirst hp
    omega
  · have hfall := mul_le_mul_of_nonpos_right hlast hp
    rw [mul_comm] at hlow
    omega

/-- Rows a pitch of at least their length apart do not meet. -/
theorem rows_apart {n q r : Nat} {start pitch : Int} (hpitch : n ≤ pitch.natAbs) (hq : 0 ≤ start + q * pitch)
    (hr : 0 ≤ start + r * pitch) (hne : q ≠ r) {k : Nat} (hk : k < n) :
    (start + r * pitch).toNat + k < (start + q * pitch).toNat ∨
      (start + q * pitch).toNat + n ≤ (start + r * pitch).toNat + k := by
  have hgap : n ≤ (q * pitch - r * pitch).natAbs := by
    rw [← sub_mul, Int.natAbs_mul]
    exact hpitch.trans (Nat.le_mul_of_pos_left _ (by omega))
  omega

/-! ### Bytes put into a space (R177, R180, R193) -/

theorem isSome_partOf_spacePut {s : State} {part : Nat} (h : (partOf s part).isSome = true) (p space spire a : Nat)
    (b : Bytes) : (partOf (spacePut s p part space spire a b) part).isSome = true := by
  unfold spacePut
  split_ifs
  · simp [regionWrite, partOf_modPart, h]
  · exact h
  · exact h

theorem spaceStore_spacePut {s : State} {part : Nat} (h : (partOf s part).isSome = true) (p space spire a : Nat)
    (b : Bytes) : spaceStore (spacePut s p part space spire a b) p part space spire =
      storeWrite (spaceStore s p part space spire) a b := by
  obtain ⟨x, hx⟩ := Option.isSome_iff_exists.mp h
  unfold spacePut
  split_ifs with hregion hspire
  · simp [spaceStore, hregion, regionWrite_of_partOf hx, hx, regionPut]
  · simp [spaceStore, hspire]
  · simp [spaceStore, hregion, hspire]

theorem spaceStore_foldl_spacePut {s : State} {part : Nat} (h : (partOf s part).isSome = true) (p space spire : Nat)
    (place : Nat → Nat) (row : Nat → Bytes) (l : List Nat) :
    spaceStore (l.foldl (fun t r => spacePut t p part space spire (place r) (row r)) s) p part space spire =
      l.foldl (fun st r => storeWrite st (place r) (row r)) (spaceStore s p part space spire) := by
  induction l generalizing s with
  | nil => rfl
  | cons r l ih =>
    rw [List.foldl_cons, ih (isSome_partOf_spacePut h p space spire _ _), spaceStore_spacePut h]
    rfl

/-- A space reads its bytes of the regions and the caches alone. -/
theorem spaceStore_congr {s t : State} {p : Nat} (hparts : ∀ n, partOf t n = partOf s n)
    (hspires : ∀ i, (spireOf t i).cache = (spireOf s i).cache) (hcache : (spindleOf t p).cache = (spindleOf s p).cache)
    (part space spire : Nat) : spaceStore t p part space spire = spaceStore s p part space spire := by
  simp only [spaceStore, hparts, hspires, hcache]

/-- From s to t bytes of regions and caches were put, by a copy of spindle p. -/
structure PutsBytes (p : Nat) (s t : State) : Prop where
  only : Only [.spindles, .spires, .parts] s t
  spindle : spindleOf t p =
    { spindleOf s p with cache := (spindleOf t p).cache, bad := (spindleOf t p).bad }
  sems : ∀ i n, semOf t i n = semOf s i n

theorem PutsBytes.refl (p : Nat) (s : State) : PutsBytes p s s := ⟨Only.refl _ s, rfl, fun _ _ => rfl⟩

theorem PutsBytes.trans {p : Nat} {s t u : State} (h : PutsBytes p s t) (k : PutsBytes p t u) : PutsBytes p s u where
  only := h.only.trans k.only
  spindle := by
    rw [k.spindle, h.spindle]
  sems i n := (k.sems i n).trans (h.sems i n)

theorem putsBytes_spacePut (s : State) (p part space spire a : Nat) (b : Bytes) :
    PutsBytes p s (spacePut s p part space spire a b) := by
  refine ⟨only_spacePut s p part space spire a b, ?_, fun i n => ?_⟩
  · unfold spacePut
    split_ifs
    · rw [(only_regionWrite _ _ _ _).spindleOf_eq (by decide)]
    · rfl
    · rw [spindleOf_setSpindle_self]
  · unfold spacePut
    split_ifs
    · exact semOf_eq_of_only (only_regionWrite _ _ _ _) (by decide) i n
    · by_cases hi : spire = i
      · subst hi
        simp [semOf]
      · simp [semOf, hi]
    · rfl

theorem putsBytes_foldl {p : Nat} {f : State → Nat → State} (hf : ∀ s r, PutsBytes p s (f s r)) (l : List Nat)
    (s : State) : PutsBytes p s (l.foldl f s) := by
  induction l generalizing s with
  | nil => exact .refl p s
  | cons r l ih => exact (hf s r).trans (ih _)

/-! ### The rows moved (R184 to R191) -/

/-- Where row r of a copy begins in its destination (R189). -/
def copyRowPlace (e : CopyReq) (r : Nat) : Nat :=
  (dstStart (decodeCopy e.desc) e.item + r * (decodeCopy e.desc).dstPitch).toNat

/-- The state with the rows of a copy put into its destination. -/
def rowsMoved (s : State) (p part : Nat) (e : CopyReq) : State :=
  let c := decodeCopy e.desc
  (List.range c.rows).foldl
    (fun t r => spacePut t p part c.dstSpace c.dstSpire (copyRowPlace e r) (copiedRow s p part e r).1) s

/-- The non-finite groups of the rows of a copy (R186). -/
def copyNonfinite (s : State) (p part : Nat) (e : CopyReq) : Nat :=
  ((List.range (decodeCopy e.desc).rows).map (fun r => (copiedRow s p part e r).2)).sum

theorem copyData_eq (s : State) (p part : Nat) (e : CopyReq) :
    copyData s p part (decodeCopy e.desc) e.item =
      (List.range (decodeCopy e.desc).rows).map (copiedRow s p part e) := by
  by_cases hfill : (decodeCopy e.desc).srcSpace = 3
  · have hrow : copiedRow s p part e = fun _ => (fillRow (decodeCopy e.desc), 0) := funext fun r => by
      simp [copiedRow, hfill]
    simp [copyData, hfill, hrow, List.map_const']
  · simp [copyData, copiedRow, hfill, srcRows]

theorem moveRows_of_apart {s : State} {p part : Nat} {e : CopyReq}
    (h : copyOverlaps (decodeCopy e.desc) e.item = false) :
    let u := rowsMoved s p part e
    let x := spindleOf u p
    moveRows s p part (decodeCopy e.desc) e.item = setSpindle u p
      { x with dma := { x.dma with nonfinite := satAdd x.dma.nonfinite (copyNonfinite s p part e) } } := by
  simp only [moveRows, h, copyData_eq, dstRows, List.zip_map', List.foldl_map, List.map_map, rowsMoved, copyNonfinite]
  rfl

theorem putsBytes_rowsMoved (s : State) (p part : Nat) (e : CopyReq) : PutsBytes p s (rowsMoved s p part e) :=
  putsBytes_foldl (fun _ _ => putsBytes_spacePut _ _ _ _ _ _ _) _ _

theorem spaceStore_rowsMoved {s : State} {part : Nat} (hpart : (partOf s part).isSome = true) (p : Nat) (e : CopyReq) :
    let c := decodeCopy e.desc
    spaceStore (rowsMoved s p part e) p part c.dstSpace c.dstSpire =
      (List.range c.rows).foldl (fun st r => storeWrite st (copyRowPlace e r) (copiedRow s p part e r).1)
        (spaceStore s p part c.dstSpace c.dstSpire) :=
  spaceStore_foldl_spacePut hpart _ _ _ _ _ _

/-- The rows of a copy whose destination does not meet itself lie apart. -/
theorem copyRowPlace_apart {e : CopyReq} {q r k : Nat}
    (hwithin : rowsWithin (2 ^ 64) (dstStart (decodeCopy e.desc) e.item) (decodeCopy e.desc).dstPitch
      (decodeCopy e.desc).rows (dstRow (decodeCopy e.desc)) = true)
    (hoverlaps : copyOverlaps (decodeCopy e.desc) e.item = false) (hq : q < (decodeCopy e.desc).rows)
    (hr : r < (decodeCopy e.desc).rows) (hne : q ≠ r) (hk : k < dstRow (decodeCopy e.desc)) :
    copyRowPlace e r + k < copyRowPlace e q ∨
      copyRowPlace e q + dstRow (decodeCopy e.desc) ≤ copyRowPlace e r + k := by
  have hpitch : dstRow (decodeCopy e.desc) ≤ (decodeCopy e.desc).dstPitch.natAbs := by
    simp only [copyOverlaps, Bool.or_eq_false_iff, Bool.and_eq_false_iff, decide_eq_false_iff_not,
      Nat.not_lt] at hoverlaps
    obtain ⟨hself, -⟩ := hoverlaps
    omega
  exact rows_apart hpitch (row_start_nonneg hwithin hq) (row_start_nonneg hwithin hr) hne hk

/-! ### The pulse (R194, R198) -/

/-- A descriptor that begins has its effect, and one that does not changes nothing. -/
theorem onDesc_cases {P : State → Prop} {s : State} {p : Nat} {f : Nat → Spindle → Bytes → State} (hs : P s)
    (hf : ∀ j d, P (f j (spindleOf s p) d)) (kind : Nat) (ready : Spindle → Bool) : P (onDesc s p kind ready f) := by
  unfold onDesc
  split
  · exact hs
  · simp only
    split
    · exact hs
    · split
      · exact hf _ _
      · exact hs

/-- From s to t a pulse was sent or took effect: it changes a semaphore, a count of units, or the generator and the
local count of spindle p. -/
structure Pulsed (p : Nat) (s t : State) : Prop where
  only : Only [.spindles, .spires, .jobs] s t
  spindle : spindleOf t p = { spindleOf s p with
    agen := (spindleOf t p).agen, dma := { (spindleOf s p).dma with localCount := (spindleOf t p).dma.localCount } }
  caches : ∀ i, (spireOf t i).cache = (spireOf s i).cache

theorem Pulsed.refl (p : Nat) (s : State) : Pulsed p s s := ⟨Only.refl _ s, rfl, fun _ => rfl⟩

theorem Pulsed.trans {p : Nat} {s t u : State} (h : Pulsed p s t) (k : Pulsed p t u) : Pulsed p s u where
  only := h.only.trans k.only
  spindle := by rw [k.spindle, h.spindle]
  caches i := (k.caches i).trans (h.caches i)

theorem Pulsed.spaceStore_eq {p : Nat} {s t : State} (h : Pulsed p s t) (part space spire : Nat) :
    spaceStore t p part space spire = spaceStore s p part space spire :=
  spaceStore_congr (h.only.partOf_eq (by decide)) h.caches (by rw [h.spindle]) _ _ _

theorem pulsed_setSpindle (s : State) (p : Nat) (a : AgenUnit) (n : BitVec 16) :
    Pulsed p s
      (setSpindle s p { spindleOf s p with agen := a, dma := { (spindleOf s p).dma with localCount := n } }) where
  only := (only_setSpindle _ _ _).mono (by decide)
  spindle := by rw [spindleOf_setSpindle_self]
  caches _ := rfl

theorem pulsed_setSem (s : State) (p spire n : Nat) (x : Sem) : Pulsed p s (setSem s spire n x) where
  only := (only_setSem _ _ _ _).mono (by decide)
  spindle := rfl
  caches i := by
    by_cases hi : spire = i
    · subst hi
      simp [setSem]
    · simp [setSem, hi]

theorem pulsed_holdUnits (s : State) (p j key : Nat) (d : Int) : Pulsed p s (holdUnits s j key d) :=
  ⟨(only_holdUnits _ _ _ _).mono (by decide), rfl, fun _ => rfl⟩

theorem pulsed_syncWait (s : State) (p : Nat) : Pulsed p s (syncWait s p) := pulsed_setSpindle s p _ _
theorem pulsed_syncPass (s : State) (p : Nat) : Pulsed p s (syncPass s p) := pulsed_setSpindle s p _ _

theorem pulsed_passWaitLocal (s : State) (p : Nat) : Pulsed p s (passWaitLocal s p) := by
  refine onDesc_cases (.refl p s) (fun j d => ?_) _ _
  split_ifs
  · exact .refl p s
  · exact (pulsed_setSpindle s p (spindleOf s p).agen _).trans (pulsed_syncPass _ p)
  · exact pulsed_syncWait s p

theorem pulsed_passDrain (s : State) (p : Nat) : Pulsed p s (passDrain s p) := by
  refine onDesc_cases (.refl p s) (fun j d => ?_) _ _
  split_ifs
  · exact .refl p s
  · exact pulsed_syncPass s p
  · exact pulsed_syncWait s p

theorem pulsed_afterPulse (s : State) (p : Nat) : Pulsed p s (afterPulse s p) := by
  unfold afterPulse
  simp only
  split
  · exact .refl p s
  · split
    · exact .refl p s
    · split_ifs
      · exact pulsed_passWaitLocal s p
      · exact pulsed_passDrain s p
      · exact .refl p s

/-- A spindle that waits for nothing takes no notice of a pulse. -/
theorem afterPulse_of_awake {s : State} {p : Nat} (h : (spindleOf s p).agen.syncWaiting = false) :
    afterPulse s p = s := by
  simp [afterPulse, h]

/-- The state with the pulse of a copy counted: at its spindle, at a semaphore, or nowhere. -/
def pulseCounted (s : State) (p j : Nat) (c : CopyDesc) : State :=
  let x := spindleOf s p
  let v := semOf s c.tgtSpire c.tgtSem
  if c.target = 1 then setSpindle s p { x with dma := { x.dma with localCount := satInc x.dma.localCount } }
  else if c.target = 2 then
    holdUnits (setSem s c.tgtSpire c.tgtSem { v with value := v.value + 1 }) j (semKey c.tgtSpire c.tgtSem) (-1)
  else s

theorem copyPulse_of_room {s : State} {c : CopyDesc} (h : c.target = 2 →
      (semOf s c.tgtSpire c.tgtSem).barrier = false ∧ (semOf s c.tgtSpire c.tgtSem).queue = [] ∧
      (semOf s c.tgtSpire c.tgtSem).value.toNat < 65535) (p j pc : Nat) :
    copyPulse s p j pc c = afterPulse (pulseCounted s p j c) p := by
  unfold copyPulse pulseCounted
  split_ifs with hlocal hsem
  · rfl
  · obtain ⟨hb, hq, hroom⟩ := h hsem
    rw [releaseUnits_of_empty (c := 1) j hb hq hroom]
    rfl
  · rfl

theorem pulsed_pulseCounted (s : State) (p j : Nat) (c : CopyDesc) : Pulsed p s (pulseCounted s p j c) := by
  unfold pulseCounted
  split_ifs
  · exact pulsed_setSpindle s p (spindleOf s p).agen _
  · exact (pulsed_setSem s p _ _ _).trans (pulsed_holdUnits _ p _ _ _)
  · exact .refl p s

theorem spindleOf_pulseCounted (s : State) (p j : Nat) (c : CopyDesc) :
    let x := spindleOf s p
    spindleOf (pulseCounted s p j c) p = { x with dma := { x.dma with
      localCount := if c.target = 1 then satInc x.dma.localCount else x.dma.localCount } } := by
  unfold pulseCounted
  split_ifs
  · rw [spindleOf_setSpindle_self]
  · rfl
  · rfl

/-! ### COPY_COMPLETE (R189, R194) -/

/-- A spindle whose oldest copy has left the engine and is counted, with its non-finite groups. -/
def copiedSpindle (x : Spindle) (n : Nat) : Spindle :=
  { x with dma := { x.dma with
    copies := x.dma.copies.tail
    state := if x.dma.copies.tail.isEmpty && x.dma.state = 1 then 0 else x.dma.state
    count := satInc x.dma.count
    nonfinite := satAdd x.dma.nonfinite n } }

/-- The state with the bytes of the oldest copy in its destination and the copy out of the engine. -/
def copyMoved (s : State) (p part : Nat) (e : CopyReq) : State :=
  let u := rowsMoved s p part e
  setSpindle u p (copiedSpindle (spindleOf u p) (copyNonfinite s p part e))

theorem only_copyMoved (s : State) (p part : Nat) (e : CopyReq) :
    Only [.spindles, .spires, .parts] s (copyMoved s p part e) :=
  (putsBytes_rowsMoved s p part e).only.step (only_setSpindle _ _ _) (by decide)

theorem semOf_copyMoved (s : State) (p part : Nat) (e : CopyReq) (i n : Nat) :
    semOf (copyMoved s p part e) i n = semOf s i n :=
  (putsBytes_rowsMoved s p part e).sems i n

theorem spindleOf_copyMoved (s : State) (p part : Nat) (e : CopyReq) :
    let y := spindleOf (copyMoved s p part e) p
    y = { copiedSpindle (spindleOf s p) (copyNonfinite s p part e) with cache := y.cache, bad := y.bad } := by
  simp only [copyMoved, spindleOf_setSpindle_self]
  rw [(putsBytes_rowsMoved s p part e).spindle]
  rfl

theorem spaceStore_copyMoved {s : State} {part : Nat} (hpart : (partOf s part).isSome = true) (p : Nat) (e : CopyReq) :
    let c := decodeCopy e.desc
    spaceStore (copyMoved s p part e) p part c.dstSpace c.dstSpire =
      (List.range c.rows).foldl (fun st r => storeWrite st (copyRowPlace e r) (copiedRow s p part e r).1)
        (spaceStore s p part c.dstSpace c.dstSpire) := by
  intro c
  rw [← spaceStore_rowsMoved hpart]
  have hcache : (spindleOf (copyMoved s p part e) p).cache = (spindleOf (rowsMoved s p part e) p).cache := by
    rw [copyMoved, spindleOf_setSpindle_self]
    rfl
  exact spaceStore_congr (s := rowsMoved s p part e) (t := copyMoved s p part e) (fun _ => rfl) (fun _ => rfl)
    hcache _ _ _

theorem copyComplete_of_can {s : State} {p j : Nat} {e : CopyReq} (hc : Can.copyComplete s p j e = true) :
    copyComplete s p =
      afterPulse (pulseCounted (copyMoved s p (jobOf s j).part.toNat e) p j (decodeCopy e.desc)) p := by
  simp only [Can.copyComplete, Bool.and_eq_true, Bool.or_eq_true, Bool.not_eq_true', decide_eq_true_eq, bne_iff_ne,
    List.isEmpty_iff, Option.isNone_iff_eq_none] at hc
  obtain ⟨⟨⟨⟨⟨⟨⟨hend, hhead⟩, -⟩, hgood⟩, -⟩, hapart⟩, -⟩, hpulse⟩ := hc
  obtain ⟨rest, hfirst⟩ := List.head?_eq_some_iff.mp hhead
  have hmoved : copyComplete s p = copyPulse (copyMoved s p (jobOf s j).part.toNat e) p j e.pc (decodeCopy e.desc) := by
    simp only [copyComplete, hend, hfirst, hgood, moveRows_of_apart hapart, dropCopy, spindleOf_setSpindle_self,
      setSpindle_setSpindle]
    rfl
  rw [hmoved, copyPulse_of_room]
  intro htarget
  obtain ⟨⟨hb, hq⟩, hroom⟩ := hpulse.resolve_left fun hne => hne htarget
  rw [semOf_copyMoved]
  exact ⟨hb, hq, hroom⟩

/-- The copy leaves its rows in the destination, and no other byte of it changes. -/
theorem storeGet_copyMoved {s : State} {p j : Nat} {e : CopyReq} (hc : Can.copyComplete s p j e = true) :
    let c := decodeCopy e.desc
    let part := (jobOf s j).part.toNat
    let after := spaceStore (copyMoved s p part e) p part c.dstSpace c.dstSpire
    (∀ r k, r < c.rows → k < dstRow c → storeGet after (copyPlace e r k) = (copiedRow s p part e r).1.getD k 0) ∧
    (∀ a, (∀ r k, r < c.rows → k < dstRow c → a ≠ copyPlace e r k) →
      storeGet after a = storeGet (spaceStore s p part c.dstSpace c.dstSpire) a) := by
  simp only [Can.copyComplete, Bool.and_eq_true, Bool.not_eq_true'] at hc
  obtain ⟨⟨⟨⟨⟨⟨-, hfields⟩, -⟩, hpart⟩, hapart⟩, hwithin⟩, -⟩ := hc
  intro c part after
  have hlength : ∀ r, (copiedRow s p part e r).1.length = dstRow c :=
    length_copiedRow (wholeRows_of_copyFields hfields) s p part
  have hafter : after = _ := spaceStore_copyMoved hpart p e
  rw [hafter]
  refine ⟨fun r k hr hk => ?_, fun a ha => ?_⟩
  · refine storeGet_foldl_rows hlength (List.mem_range.mpr hr) hk (fun q hq hne => ?_) 0 _
    exact copyRowPlace_apart hwithin hapart (List.mem_range.mp hq) hr hne hk
  · refine storeGet_foldl_rows_of_outside hlength (fun r hr => ?_) _
    by_contra hin
    have hplace : a = copyPlace e r (a - copyRowPlace e r) := by
      change a = copyRowPlace e r + (a - copyRowPlace e r)
      omega
    exact ha r _ (List.mem_range.mp hr) (by omega) hplace

/-- A spindle behind its copy and the pulse of it. -/
theorem spindleOf_of_pulsed_copyMoved {s t : State} {p part : Nat} {e : CopyReq}
    (h : Pulsed p (copyMoved s p part e) t) :
    let z := copiedSpindle (spindleOf s p) (copyNonfinite s p part e)
    let y := spindleOf t p
    y = { z with
      cache := y.cache, bad := y.bad, agen := y.agen, dma := { z.dma with localCount := y.dma.localCount } } := by
  simp only
  rw [h.spindle, spindleOf_copyMoved]

/-! ### The statement on COPY_COMPLETE -/

/-- Settles O19: the copy puts its rows and leaves the engine, its pulse is counted, and a spindle that waits may then
pass; only the first of these changes a byte. Copies whose bytes overlap (R190) do not meet the condition. -/
theorem copyMoves : Obligations.CopyMoves := by
  intro s p j e hc
  refine ⟨_, finish_eq_next (only_copyComplete s p) (by decide), ?_⟩
  rw [copyComplete_of_can hc]
  intro x y c part before after v
  obtain ⟨hrows, hothers⟩ := storeGet_copyMoved hc
  have hpulsed := (pulsed_pulseCounted (copyMoved s p part e) p j c).trans (pulsed_afterPulse _ p)
  have hafter : after = spaceStore (copyMoved s p part e) p part c.dstSpace c.dstSpire := hpulsed.spaceStore_eq _ _ _
  have hy : y = _ := spindleOf_of_pulsed_copyMoved hpulsed
  have hcounted := spindleOf_pulseCounted (copyMoved s p part e) p j c
  rw [spindleOf_copyMoved] at hcounted
  refine ⟨hafter ▸ hrows, hafter ▸ hothers, congrArg (·.dma.copies) hy, congrArg (·.dma.count) hy,
    congrArg (·.dma.nonfinite) hy, fun hawake => ?_, fun htarget => ?_, congrArg (·.acc) hy, congrArg (·.vec) hy,
    congrArg (·.arr) hy, congrArg (·.scale) hy, ?_⟩
  · have hspindle : y = spindleOf (pulseCounted (copyMoved s p part e) p j c) p :=
      congrArg (spindleOf · p) (afterPulse_of_awake ((congrArg (·.agen.syncWaiting) hcounted).trans hawake))
    rw [hspindle, hcounted]
    exact ⟨rfl, rfl⟩
  · have hpast : c.target ≠ 1 := by
      rw [htarget]
      decide
    rw [semOf_eq_of_only (only_afterPulse _ _) (by decide), pulseCounted, if_neg hpast, if_pos htarget,
      semOf_holdUnits, semOf_setSem_self, semOf_copyMoved]
  · exact ((only_copyMoved s p part e).mono (by decide)).trans (hpulsed.only.mono (by decide))

end Sys2Proof.Machine
end

section
/-! PROOFS. LPDDR5: requests in the bank queues, reads that return, refresh and retraining (R207 to R221, R505). -/

namespace Sys2Proof.Machine

theorem setChannel_setChannel (s : State) (c : Nat) (x y : Channel) :
    setChannel (setChannel s c x) c y = setChannel s c y := by
  simp [setChannel, tset_tset]

theorem channelOf_setChannel_self (s : State) (c : Nat) (x : Channel) : channelOf (setChannel s c x) c = x := by simp

/-! ### What the banks offer (R210, R211) -/

theorem mem_and_kind_of_bankOffers {c : Channel} {write : Bool} {b : Nat} {e : MemReq × Nat}
    (h : bankOffers c write b = some e) : e ∈ c.queue.zipIdx ∧ reqWrite e.1 = write := by
  have hoffered : e ∈ (bankQueue c.queue b).filter
      (fun e => reqWrite e.1 == write && passes (c.queue.take e.2) e.1) := by
    unfold bankOffers at h
    split at h
    · rcases Option.or_eq_some_iff.mp h with hhit | ⟨-, hhead⟩
      · exact List.mem_of_find?_eq_some hhit
      · exact List.mem_of_mem_head? hhead
    · exact List.mem_of_mem_head? h
  obtain ⟨hqueue, hkind⟩ := List.mem_filter.mp hoffered
  simp only [Bool.and_eq_true, beq_iff_eq] at hkind
  exact ⟨(List.mem_filter.mp (List.mem_of_mem_take hqueue)).1, hkind.1⟩

theorem mem_and_kind_of_pickOf {c : Channel} {write : Bool} {e : MemReq × Nat} (h : pickOf c write = some e) :
    e ∈ c.queue.zipIdx ∧ reqWrite e.1 = write := by
  obtain ⟨b, -, hoffer⟩ := List.exists_of_findSome?_eq_some h
  exact mem_and_kind_of_bankOffers hoffer

theorem pickOf_write_of_none_pending {c : Channel} (h : writesPending c = 0) : pickOf c true = none := by
  refine Option.eq_none_iff_forall_ne_some.mpr fun e hpick => ?_
  obtain ⟨hmem, hwrite⟩ := mem_and_kind_of_pickOf hpick
  exact List.countP_eq_zero.mp h e.1 (List.fst_mem_of_mem_zipIdx hmem) hwrite

/-- Every bank has its turn. -/
theorem mem_bankOrder (c : Channel) {b : Nat} (h : b < 16) : b ∈ bankOrder c :=
  List.mem_map.mpr ⟨(b + 15 * (c.lastBank + 1)) % 16, List.mem_range.mpr (Nat.mod_lt _ (by decide)), by omega⟩

theorem bankOffers_of_lone {c : Channel} {r : MemReq} (h : c.queue = [r]) :
    bankOffers c (reqWrite r) r.bank = some (r, 0) := by
  have hbank : bankQueue c.queue r.bank = [(r, 0)] := by simp [h, bankQueue]
  have hkind : [(r, 0)].filter (fun e => reqWrite e.1 == reqWrite r && passes (c.queue.take e.2) e.1) = [(r, 0)] := by
    simp [passes]
  rw [bankOffers, hbank, hkind]
  cases hhit : decide (tfind c.openRow r.bank = some r.row) <;> simp [List.find?, hhit]

/-- A request alone in a channel is its next, of its own kind and of no other. -/
theorem pickOf_of_lone {c : Channel} {r : MemReq} (h : c.queue = [r]) (hbank : r.bank < 16) (write : Bool) :
    pickOf c write = if reqWrite r = write then some (r, 0) else none := by
  cases hpick : pickOf c write with
  | none =>
    have hkind : reqWrite r ≠ write := fun hw => by
      have hno := List.findSome?_eq_none_iff.mp hpick r.bank (mem_bankOrder c hbank)
      rw [← hw, bankOffers_of_lone h] at hno
      cases hno
    rw [if_neg hkind]
  | some e =>
    obtain ⟨hmem, hwrite⟩ := mem_and_kind_of_pickOf hpick
    obtain rfl : e = (r, 0) := by simpa [h] using hmem
    rw [if_pos hwrite]

theorem blockBank_lt (b : Nat) : blockBank b < 16 := by
  have hxor (x y lo : Nat) : field x lo 2 ^^^ field y lo 2 < 2 ^ 2 :=
    Nat.xor_lt_two_pow (Nat.mod_lt _ (by decide)) (Nat.mod_lt _ (by decide))
  have hgroup := hxor (b / 24) (blockRow b) 0
  have hbank := hxor (b / 24) (blockRow b) 2
  simp only [blockBank]
  omega

theorem writesPending_afterPick {c : Channel} (h : writesPending c = 0) (e : MemReq × Nat) :
    writesPending (afterPick c e) = 0 :=
  Nat.eq_zero_of_le_zero (h ▸ (List.eraseIdx_sublist c.queue e.2).countP_le)

/-! ### Writes that drain and writes that rest (R211) -/

theorem drainWrites_of_no_write {s : State} {c : Nat} (h : writesPending (channelOf s c) = 0) (n : Nat) :
    drainWrites c n s = s := by
  cases n with
  | zero => rfl
  | succ n =>
    simp only [drainWrites, pickOf_write_of_none_pending h]

theorem drainWrites_of_rest {s : State} {c : Nat} {d : Channel} (hdraining : d.draining = false)
    (hfew : writesPending d < 32) (hread : d.state = 3 ∨ (pickOf d false).isSome = true) (n : Nat) :
    drainWrites c n (setChannel s c d) = setChannel s c d := by
  have hkept : { d with draining := false } = d := by rw [← hdraining]
  have hidle : (decide (d.state = 2) && (pickOf d false).isNone) = false := by
    rcases hread with hstate | hpick
    · rw [hstate]
      rfl
    · rw [Option.isNone_eq_false_iff.mpr hpick, Bool.and_false]
  cases n with
  | zero => rfl
  | succ n =>
    rw [drainWrites, channelOf_setChannel_self]
    cases pickOf d true with
    | none => rfl
    | some e =>
      simp only [hidle, hdraining, decide_eq_false (Nat.not_le.mpr hfew), Bool.false_and, Bool.or_self, Bool.not_false,
        Bool.true_or, if_true, setChannel_setChannel, hkept]

/-- A running channel with one write and nothing else drains it. -/
theorem drainWrites_of_lone {s : State} {c : Nat} {d : Channel} {r : MemReq} {b : Bytes} (hstate : d.state = 2)
    (hqueue : d.queue = [r]) (hbank : r.bank < 16) (hop : r.op = .write b) :
    drainWrites c 1 (setChannel s c d) =
      performWrite (setChannel s c { afterPick d (r, 0) with draining := true }) r b := by
  have hwrite : reqWrite r = true := by simp [reqWrite, hop]
  rw [drainWrites, channelOf_setChannel_self, pickOf_of_lone hqueue hbank, pickOf_of_lone hqueue hbank]
  simp [hstate, hwrite, hop, drainWrites, setChannel_setChannel]

theorem performWrite_of_clean {s : State} {r : MemReq} {x : Partition} {b : Bytes}
    (hpart : partOf s r.part.val = some x) (hclean : badWrite x r.offset b.length = false) :
    performWrite s r b = setPart s r.part.val (regionPut x r.offset b) := by
  simp [performWrite, hpart, hclean]

/-! ### Requests and reads (R207 to R221) -/

/-- A channel with one request more. -/
def joined (c : Channel) (r : MemReq) : Channel := { c with queue := c.queue ++ [r] }

/-- An empty channel that a write has joined and left. -/
def loneDrained (c : Channel) (r : MemReq) : Channel := { afterPick (joined c r) (r, 0) with draining := true }

theorem can_queueRests_iff {c : Channel} {r : MemReq} : Can.queueRests c r = true ↔
    c.draining = false ∧ writesPending (joined c r) < 32 ∧
      (c.state = 3 ∨ (pickOf (joined c r) false).isSome = true) := by
  simp [Can.queueRests, joined, and_assoc]

theorem can_memoryRequest_iff {s : State} {a : MemAgent} {part : Fin 8} {offset n : Nat} {x : Partition} :
    Can.memoryRequest s a part offset n x = true ↔
      partOf s part.val = some x ∧ oneEntry offset n = true ∧ outstanding s a < agentLimit a ∧
        offset + n ≤ regionBytes x ∧ ((channelOf s (requestChannel x offset)).state = 2 ∨
          (channelOf s (requestChannel x offset)).state = 3) := by
  simp [Can.memoryRequest, and_assoc]

section
variable {s : State} {a : MemAgent} {part : Fin 8} {offset c : Nat} {x : Partition}

theorem memoryRequest_of_can {op : MemOp} (hc : requestChannel x offset = c)
    (h : Can.memoryRequest s a part offset (reqBytes (queuedRequest x a part offset op)) x = true) :
    memoryRequest s a part.val offset op = drainWrites c ((channelOf s c).queue.length + 1)
      (setChannel s c (joined (channelOf s c) (queuedRequest x a part offset op))) := by
  obtain ⟨hpart, hentry, hpool, hrange, hstate⟩ := can_memoryRequest_iff.mp h
  rw [hc] at hstate
  have hadmitted : ¬ (!oneEntry offset (reqBytes (queuedRequest x a part offset op)) ||
      decide (agentLimit a ≤ outstanding s a)) = true := by simp [hentry, hpool]
  have hopen : ¬ ((channelOf s c).state ≠ 2 ∧ (channelOf s c).state ≠ 3) :=
    fun hneither => hstate.elim hneither.1 hneither.2
  have hrequest : (⟨a, Fin.ofNat 8 part.val, offset, blockBank (moduleBlock x (dataBlock x offset)),
      blockRow (moduleBlock x (dataBlock x offset)), op⟩ : MemReq) = queuedRequest x a part offset op := by
    rw [Fin.ofNat_val_eq_self]
    rfl
  subst hc
  rw [← hrequest, memoryRequest.eq_def, hpart]
  exact (if_neg hadmitted).trans ((if_neg (Nat.not_lt.mpr hrange)).trans (if_neg hopen))

/-- A write that is alone at a running channel takes effect at once. -/
theorem memoryRequest_of_lone_write {b : Bytes} (hc : requestChannel x offset = c)
    (hcan : Can.memoryRequest s a part offset b.length x = true) (hstate : (channelOf s c).state = 2)
    (hqueue : (channelOf s c).queue = []) (hclean : badWrite x offset b.length = false) :
    memoryRequest s a part.val offset (.write b) =
      setPart (setChannel s c (loneDrained (channelOf s c) (queuedRequest x a part offset (.write b)))) part.val
        (regionPut x offset b) := by
  obtain ⟨hpart, -⟩ := can_memoryRequest_iff.mp hcan
  have hlone : (joined (channelOf s c) (queuedRequest x a part offset (.write b))).queue =
      [queuedRequest x a part offset (.write b)] := by
    rw [joined, hqueue, List.nil_append]
  rw [memoryRequest_of_can (op := .write b) hc hcan, hqueue, List.length_nil, Nat.zero_add,
    drainWrites_of_lone (d := joined _ _) hstate hlone (blockBank_lt _) rfl]
  exact performWrite_of_clean hpart hclean

end

theorem returnRead_clean {s : State} {r : MemReq} {x : Partition} (c : Nat) (hpart : partOf s r.part.val = some x)
    (hgood : badRead x r.offset (reqBytes r) = false) : returnRead s c r .clean =
      emit s (.memoryReply r.agent (some (storeRead x.region r.offset (reqBytes r)))) := by
  simp [returnRead, hpart, hgood, deliverRead, regionRead]

theorem memoryReadComplete_of_clean {s : State} {c : Nat} {e : MemReq × Nat} {x : Partition}
    (hstate : (channelOf s c).state = 2) (hpick : pickOf (channelOf s c) false = some e)
    (hnone : writesPending (channelOf s c) = 0) (hpart : partOf s e.1.part.val = some x)
    (hgood : badRead x e.1.offset (reqBytes e.1) = false) : memoryReadComplete s c .clean =
      emit (setChannel s c (afterPick (channelOf s c) e))
        (.memoryReply e.1.agent (some (storeRead x.region e.1.offset (reqBytes e.1)))) := by
  rw [memoryReadComplete, if_neg (not_not.mpr hstate)]
  simp only [hpick]
  rw [returnRead_clean c (by simpa using hpart) hgood, drainWrites_of_no_write]
  simpa using writesPending_afterPick hnone e

/-- Settles O21: a request that joins leaves the writes at rest or, as the one write there is, drains; behind a read
that returns no write waits. -/
theorem memoryRequests : Obligations.MemoryRequests := by
  refine ⟨?joins, ?lone_write, ?read⟩
  case joins =>
    intro s a part offset op x n c r hcan hrests
    obtain ⟨hdraining, hfew, hread⟩ := can_queueRests_iff.mp hrests
    refine (finish_eq_next (only_memoryRequest s a part.val offset op) (by decide)).trans (congrArg _ ?_)
    rw [memoryRequest_of_can (c := c) rfl hcan]
    exact drainWrites_of_rest (d := joined _ r) hdraining hfew hread _
  case lone_write =>
    intro s a part offset b x c hcan hstate hqueue hclean
    refine ⟨_, regionPut x offset b, finish_eq_next (only_memoryRequest s a part.val offset (.write b)) (by decide),
      ?_⟩
    rw [memoryRequest_of_lone_write (c := c) rfl hcan hstate hqueue hclean]
    refine ⟨by simp, storeGet_regionPut x offset b, ?_, ?_⟩
    · simp [loneDrained, joined, afterPick, hqueue]
    · exact ((only_setChannel _ _ _).mono (by decide)).step (only_setPart _ _ _) (by decide)
  case read =>
    intro s c e x hstate hpick hnone hpart hgood
    exact (finish_eq_next (only_memoryReadComplete s c.val .clean) (by decide)).trans
      (congrArg _ (memoryReadComplete_of_clean hstate hpick hnone hpart hgood))

/-! ### Refresh and retraining (R215, R217) -/

theorem refreshDue_of_idle {s : State} {c b : Nat} (hstate : (channelOf s c).state = 2) (hb : b < 16)
    (hidle : bankDepth (channelOf s c) b = 0) : refreshDue s c b =
      emit (setChannel s c { channelOf s c with
        postponed := BitVec.ofNat 4 ((channelOf s c).postponed.toNat - 1) }) (.refresh c b) := by
  have hmem : ((List.range 16).filter (fun k => bankDepth (channelOf s c) k == 0)).contains b = true := by
    simp [hb, hidle]
  rw [refreshDue, if_neg (not_not.mpr hstate)]
  simp only [hmem, if_true]

theorem refreshDue_of_busy {s : State} {c : Nat} (b : Nat) (hstate : (channelOf s c).state = 2)
    (hbusy : ∀ k, k < 16 → bankDepth (channelOf s c) k ≠ 0) (hroom : (channelOf s c).postponed.toNat < 8) :
    refreshDue s c b =
      setChannel s c { channelOf s c with postponed := (channelOf s c).postponed + 1 } := by
  have hnone : (List.range 16).filter (fun k => bankDepth (channelOf s c) k == 0) = [] := by
    simpa using hbusy
  rw [refreshDue, if_neg (not_not.mpr hstate)]
  simp [hnone, hroom]

/-- Stated for any places: over literal powers of two the kernel would unfold the sum. -/
theorem packBits_four (p q r t b0 b1 b2 b3 : Nat) : packBits [(p, b0), (q, b1), (r, b2), (t, b3)] =
    b0 * 2 ^ p + b1 * 2 ^ q + b2 * 2 ^ r + b3 * 2 ^ t := by
  simp [packBits]

theorem field_packBits_bytes {b0 b1 b2 b3 : Nat} (h0 : b0 < 256) (h1 : b1 < 256) (h2 : b2 < 256) (h3 : b3 < 256) :
    let t := (BitVec.ofNat 32 (packBits [(0, b0), (8, b1), (16, b2), (24, b3)])).toNat
    field t 0 8 = b0 ∧ field t 8 8 = b1 ∧ field t 16 8 = b2 ∧ field t 24 8 = b3 := by
  rw [packBits_four, BitVec.toNat_ofNat]
  simp only [field]
  omega

/-- A channel whose lanes have drifted by so many codes (R217). -/
def drifted (c : Channel) (d0 d1 : Nat) : Channel :=
  { c with due0 := c.due0 || decide (4 ≤ d0), due1 := c.due1 || decide (4 ≤ d1) }

/-- A paused channel, its lanes retrained. -/
def retrained (c : Channel) (delay0 delay1 : BitVec 8) : Channel :=
  let t := c.train.toNat
  { c with
    state := 3, due0 := false, due1 := false, retrain := satInc c.retrain
    train := BitVec.ofNat 32 (packBits [(0, field t 0 8), (8, if c.due0 then delay0.toNat else field t 8 8),
      (16, field t 16 8), (24, if c.due1 then delay1.toNat else field t 24 8)]) }

theorem field_train_retrained (c : Channel) (delay0 delay1 : BitVec 8) :
    let t := (retrained c delay0 delay1).train.toNat
    let u := c.train.toNat
    field t 0 8 = field u 0 8 ∧ field t 8 8 = (if c.due0 then delay0.toNat else field u 8 8) ∧
      field t 16 8 = field u 16 8 ∧ field t 24 8 = (if c.due1 then delay1.toNat else field u 24 8) := by
  have hbyte (x lo : Nat) : field x lo 8 < 256 := Nat.mod_lt _ (by decide)
  have hdelay (due : Bool) (d : BitVec 8) (x lo : Nat) : (if due then d.toNat else field x lo 8) < 256 := by
    split
    · exact d.isLt
    · exact hbyte _ _
  exact field_packBits_bytes (hbyte _ _) (hdelay _ _ _ _) (hbyte _ _) (hdelay _ _ _ _)

theorem retrainPause_of_due {s : State} {c : Nat} (hstate : (channelOf s c).state = 2)
    (hdue : ((channelOf s c).due0 || (channelOf s c).due1) = true) (delay0 delay1 : BitVec 8) :
    retrainPause s c delay0 delay1 =
      setLife (setChannel s c (retrained (channelOf s c) delay0 delay1))
        { s.boot.life with retrain := tbump s.boot.life.retrain c } := by
  have hopen : ¬ (decide ((channelOf s c).state ≠ 2) || !((channelOf s c).due0 || (channelOf s c).due1)) = true := by
    rw [hdue, hstate]
    decide
  exact if_neg hopen

theorem retrainPauseEnd_of_paused {s : State} {c : Nat} (hstate : (channelOf s c).state = 3)
    (hnone : writesPending (channelOf s c) = 0) :
    retrainPauseEnd s c = setChannel s c { channelOf s c with state := 2 } := by
  rw [retrainPauseEnd, if_neg (not_not.mpr hstate), drainWrites_of_no_write]
  rw [channelOf_setChannel_self]
  exact hnone

/-- Settles O22: each clause reads off the channel that its command leaves. That a refresh made while some are
postponed makes one of them up too is the model's choice (log entry 18). -/
theorem refreshAndRetraining : Obligations.RefreshAndRetraining := by
  refine ⟨?refresh, ?rate, ?drift, ?pause, ?resume⟩
  case refresh =>
    intro s c b hstate
    refine ⟨_, finish_eq_next (only_refreshDue s c.val b.val) (by decide), ?_⟩
    exact ⟨refreshDue_of_idle hstate b.isLt, refreshDue_of_busy b.val hstate⟩
  case rate =>
    intro s c d
    exact finish_eq_next (only_setChannel _ _ _) (by decide)
  case drift =>
    intro s c d0 d1
    refine ⟨setChannel s c.val (drifted (channelOf s c.val) d0 d1),
      finish_eq_next (only_setChannel _ _ _) (by decide), ?_⟩
    rw [channelOf_setChannel_self]
    exact ⟨rfl, rfl, rfl, rfl⟩
  case pause =>
    intro s c d0 d1 hstate hdue
    refine ⟨_, finish_eq_next (only_retrainPause s c.val d0 d1) (by decide), ?_⟩
    have hkept : Only [.channels, .boot] s (retrainPause s c.val d0 d1) := only_retrainPause _ _ _ _
    have hself : channelOf (retrainPause s c.val d0 d1) c.val = retrained (channelOf s c.val) d0 d1 := by
      simp [retrainPause_of_due hstate hdue]
    have hothers : ∀ k, k ≠ c.val → channelOf (retrainPause s c.val d0 d1) k = channelOf s k := fun k hk => by
      simp [retrainPause_of_due hstate hdue, Ne.symm hk]
    obtain ⟨hlow0, hdelay0, hlow1, hdelay1⟩ := field_train_retrained (channelOf s c.val) d0 d1
    rw [hself]
    exact ⟨rfl, rfl, rfl, rfl, hdelay0, hdelay1, hlow0, hlow1, rfl, hothers, hkept⟩
  case resume =>
    intro s c hstate hnone
    exact (finish_eq_next (only_retrainPauseEnd s c.val) (by decide)).trans
      (congrArg _ (retrainPauseEnd_of_paused hstate hnone))

end Sys2Proof.Machine
end

section
/-! PROOFS. Bobbin pools: handles and owners, ACQUIRE and GROUP, SHARE and RELEASE, the refill, and the pool commands
(R228 to R237). -/

namespace Sys2Proof.Machine

/-! ### Pools of a partition (R227) -/

@[simp] theorem poolOf_setPool (x : Partition) (p k : Nat) (v : Pool) :
    poolOf (setPool x p v) k = if p = k then some v else poolOf x k := tfind_tset _ _ _ _

theorem poolOf_withRegion (x : Partition) (r : Store 8) (k : Nat) : poolOf { x with region := r } k = poolOf x k := rfl

/-- Pool v once bobbin i has the owners l. -/
def ownedBy (v : Pool) (i : Nat) (l : List (BitVec 16)) : Pool :=
  { v with owners := if l.isEmpty then tdel v.owners i else tset v.owners i l }

@[simp] theorem ownersOf_ownedBy (v : Pool) (i : Nat) (l : List (BitVec 16)) : ownersOf (ownedBy v i l) i = l := by
  cases l <;> simp [ownersOf, ownedBy, tget]

@[simp] theorem poolOf_putOwners (x : Partition) (p k : Nat) (v : Pool) (i : Nat) (l : List (BitVec 16)) :
    poolOf (putOwners x p v i l) k = if p = k then some (ownedBy v i l) else poolOf x k := tfind_tset _ _ _ _

/-! ### Handles (R228) -/

theorem validHandle_eq_some {x : Partition} {h : Word} {v : Pool} {i : Nat} :
    validHandle x h = some (v, i) ↔ poolOf x (handlePool h) = some v ∧ i = handleIndex h ∧
      bitOf h.toNat 31 = false ∧ i < v.count.toNat ∧ (tget v.gens i 0).toNat = handleGen h := by
  cases hpool : poolOf x (handlePool h) with
  | none => simp [validHandle, hpool]
  | some u =>
    simp only [validHandle, hpool, Option.ite_none_right_eq_some, Bool.and_eq_true, Bool.not_eq_true',
      decide_eq_true_eq, Option.some.injEq, Prod.mk.injEq]
    constructor
    · rintro ⟨⟨⟨hbit, hcount⟩, hgen⟩, rfl, rfl⟩
      exact ⟨rfl, rfl, hbit, hcount, hgen⟩
    · rintro ⟨rfl, rfl, hbit, hcount, hgen⟩
      exact ⟨⟨⟨hbit, hcount⟩, hgen⟩, rfl, rfl⟩

theorem holds_of_validHandle {x : Partition} {h : Word} {v : Pool} {i : Nat} (hv : validHandle x h = some (v, i))
    (o : BitVec 16) : holds x h o = (ownersOf v i).contains o := by simp only [holds, hv]

theorem holds_of_not_valid {x : Partition} {h : Word} (hv : validHandle x h = none) (o : BitVec 16) :
    holds x h o = false := by simp only [holds, hv]

/-- New owners leave a valid handle valid. -/
theorem validHandle_putOwners {x : Partition} {h : Word} {v : Pool} {i : Nat} (hv : validHandle x h = some (v, i))
    (l : List (BitVec 16)) : validHandle (putOwners x (handlePool h) v i l) h = some (ownedBy v i l, i) := by
  obtain ⟨-, hindex, hbit, hcount, hgen⟩ := validHandle_eq_some.mp hv
  exact validHandle_eq_some.mpr ⟨(poolOf_putOwners _ _ _ _ _ _).trans (if_pos rfl), hindex, hbit, hcount, hgen⟩

/-- A handle whose bobbin has advanced its generation is stale. -/
theorem validHandle_of_stale {x y : Partition} {h : Word} {v w : Pool} {i : Nat} (hv : validHandle x h = some (v, i))
    (hw : poolOf y (handlePool h) = some w) (hgens : tget w.gens i 0 = tget v.gens i 0 + 1) :
    validHandle y h = none := by
  obtain ⟨-, hindex, -, -, hgen⟩ := validHandle_eq_some.mp hv
  refine Option.eq_none_iff_forall_ne_some.mpr fun ⟨u, k⟩ hu => ?_
  obtain ⟨hu, hk, -, -, hgen'⟩ := validHandle_eq_some.mp hu
  obtain rfl : w = u := Option.some.inj (hw.symm.trans hu)
  rw [hk, ← hindex, hgens, ← hgen] at hgen'
  bv_omega

/-! ### ACQUIRE (R234, R237) -/

theorem pools_of_acquire {s : State} {part pool : Fin 8} {x : Partition} {v : Pool}
    (h : Can.acquire s part pool x v = true) :
    partOf s part.val = some x ∧ poolOf x pool.val = some v ∧ v.cached.isEmpty = false := by
  simpa [Can.acquire, and_assoc] using h

/-- A pool with a handle in its cache grants its own requests, floor or not. -/
theorem grantingPool_of_cached {x : Partition} {q : Nat} {v : Pool} (hv : poolOf x q = some v)
    (hcached : v.cached.isEmpty = false) : grantingPool x 8 q false = some q := by
  have hfree : 0 < freeCount v := Nat.add_pos_left (List.length_pos_of_ne_nil (List.isEmpty_eq_false_iff.mp hcached)) _
  simp only [grantingPool, hv, Bool.false_eq_true, if_false, if_pos hfree]

theorem acquirePair_of_cached {x : Partition} {q : Nat} {v : Pool} (hv : poolOf x q = some v)
    (hcached : v.cached.isEmpty = false) (tag : Nat) (o : BitVec 16) :
    acquirePair tag x q o = some (takeFrom tag x q v o) := by
  simp only [acquirePair, grantingPool_of_cached hv hcached, hv, if_true]

/-- The state after pool v, of number q, has granted a bobbin to o from its cache and the answer is given. -/
def acquiredState (s : State) (n q : Nat) (x : Partition) (v : Pool) (o : BitVec 16) : State :=
  let r := takeFrom s.draws x q v o
  emit (setPart { s with draws := s.draws + 2 } n r.1) (.poolReply n stOk [r.2])

section
variable {s : State} {n q : Nat} {x : Partition} {v : Pool} (hx : partOf s n = some x) (hv : poolOf x q = some v)
  (hcached : v.cached.isEmpty = false) (o : BitVec 16)
include hx hv hcached

theorem groupAcquire_single_of_cached :
    groupAcquire s n [(q, o)] = (setPart { s with draws := s.draws + 2 } n (takeFrom s.draws x q v o).1,
      some [(takeFrom s.draws x q v o).2]) := by
  simp only [groupAcquire, hx, acquireList, acquirePair_of_cached hv hcached, List.length_singleton, Nat.mul_one]

theorem poolAcquire_of_cached : poolAcquire s n q o = acquiredState s n q x v o := by
  simp only [poolAcquire, hx, hv, Option.isNone_some, grantingPool_of_cached hv hcached, hcached, Bool.false_eq_true,
    if_false, acquireBobbin, groupAcquire_single_of_cached hx hv hcached, Option.bind_some, List.head?_cons,
    Option.toList_some, acquiredState]

theorem poolGroup_single_of_cached : poolGroup s n [(q, o)] = acquiredState s n q x v o := by
  simp [poolGroup, hx, hv, groupAcquire_single_of_cached hx hv hcached, acquiredState]

end

/-- Pool v once the bobbin in place k of its cache is taken for o. -/
def takenPool (v : Pool) (k : Nat) (o : BitVec 16) : Pool :=
  let u := { v with cached := v.cached.eraseIdx k }
  ownedBy { u with low := BitVec.ofNat 17 (min v.low.toNat (freeCount u)) } (v.cached.getD k 0) [o]

/-- The low mark never rises. -/
theorem low_takenPool_le (v : Pool) (k : Nat) (o : BitVec 16) : (takenPool v k o).low.toNat ≤ v.low.toNat :=
  (Nat.mod_le _ _).trans (Nat.min_le_left _ _)

theorem ownersOf_takenPool (v : Pool) (k : Nat) (o : BitVec 16) :
    ownersOf (takenPool v k o) (v.cached.getD k 0) = [o] := ownersOf_ownedBy _ _ _

/-- From a cache that is not empty, a bobbin of the cache is taken, and no pool of another number changes. -/
theorem takeFrom_of_cached {v : Pool} (hcached : v.cached.isEmpty = false) (tag : Nat) (x : Partition) (q : Nat)
    (o : BitVec 16) : ∃ k < v.cached.length, (takeFrom tag x q v o).2 = presentHandle q v (v.cached.getD k 0) ∧
      ∀ p, poolOf (takeFrom tag x q v o).1 p = if q = p then some (takenPool v k o) else poolOf x p := by
  have hpos : 0 < v.cached.length := List.length_pos_of_ne_nil (List.isEmpty_eq_false_iff.mp hcached)
  refine ⟨Config.freeNat tag % v.cached.length, Nat.mod_lt _ hpos, ?_, fun p => ?_⟩ <;>
    simp only [takeFrom, hcached, Bool.false_eq_true, if_false]
  · rfl
  · rw [poolOf_withRegion, poolOf_putOwners, takenPool]

/-! ### GROUP (R236) -/

theorem length_of_acquireList {l : List (Nat × BitVec 16)} {tag : Nat} {x y : Partition} {hs : List Word}
    (h : acquireList tag x l = .ok (y, hs)) : hs.length = l.length := by
  induction l generalizing tag x y hs with
  | nil => cases h; rfl
  | cons e r ih =>
    unfold acquireList at h
    split at h
    · cases h
    · split at h
      · cases h
      next hr => cases h; exact congrArg (· + 1) (ih hr)

/-- A GROUP of up to eight pairs of configured pools is what its pairs come to. -/
theorem poolGroup_of_configured {s : State} {n : Nat} {x : Partition} {l : List (Nat × BitVec 16)}
    (hx : partOf s n = some x) (hlen : l.length ≤ 8) (hpools : ∀ e ∈ l, (poolOf x e.1).isSome = true) :
    poolGroup s n l = (match acquireList s.draws x l with
      | .error p => emit (setPart s n (countNoBuffer x p)) (.poolReply n stNoBuffer [])
      | .ok (y, hs) => emit (setPart { s with draws := s.draws + 2 * l.length } n y) (.poolReply n stOk hs)) := by
  have hall : l.all (fun e => (poolOf x e.1).isSome) = true := List.all_eq_true.mpr hpools
  simp only [poolGroup, hx, Nat.not_lt.mpr hlen, hall, Bool.not_true, Bool.false_eq_true, if_false, groupAcquire]
  cases acquireList s.draws x l <;> rfl

/-! ### SHARE and RELEASE (R233) -/

theorem owners_of_held {s : State} {part : Fin 8} {h : Word} {o : BitVec 16} {x : Partition} {v : Pool} {i : Nat}
    (hc : Can.held s part h o x v i = true) : partOf s part.val = some x ∧ validHandle x h = some (v, i) ∧
      (ownersOf v i).contains o = true ∧ recordBad x v i = false := by
  simpa [Can.held, and_assoc] using hc

section
variable (s : State) (n : Nat) (y : Partition) (st : Status)

theorem partOf_replied : partOf (replyStatus n (setPart s n y, st)) n = some y :=
  (partOf_setPart _ _ _ _).trans (if_pos rfl)

/-- A request that changes one partition and is answered. -/
theorem only_replied : Only [.parts, .out] s (replyStatus n (setPart s n y, st)) :=
  ((only_setPart _ _ _).mono (by decide)).step (only_emit _ _) (by decide)

end

theorem shareBobbin_of_holds {s : State} {n : Nat} {h : Word} {o o' : BitVec 16} {x : Partition} {v : Pool} {i : Nat}
    (hx : partOf s n = some x) (hv : validHandle x h = some (v, i)) (ho : (ownersOf v i).contains o = true)
    (hbad : recordBad x v i = false) (hnew : (ownersOf v i).contains o' = false) (hlen : (ownersOf v i).length < 4) :
    shareBobbin s n h o o' = (setPart s n (putOwners x (handlePool h) v i (ownersOf v i ++ [o'])), stOk) := by
  simp only [shareBobbin, hx, hv, hbad, ho, hnew, Bool.not_true, Bool.or_self, Bool.false_eq_true, if_false,
    Nat.not_le.mpr hlen]

theorem releaseBobbin_of_holds {s : State} {n : Nat} {h : Word} {o : BitVec 16} {x : Partition} {v : Pool} {i : Nat}
    (hx : partOf s n = some x) (hv : validHandle x h = some (v, i)) (ho : (ownersOf v i).contains o = true)
    (hbad : recordBad x v i = false) :
    releaseBobbin s n h o = (setPart s n (dropOwner x (handlePool h) v i o), stOk) := by
  simp only [releaseBobbin, hx, hv, hbad, ho, Bool.not_true, Bool.false_eq_true, if_false]

/-- A spill moves handles from the cache to the ring and changes nothing else of its pool (R237). -/
theorem poolOf_spill (x : Partition) (p : Nat) (v : Pool) : ∃ w, poolOf (spill x p v) p = some w ∧
    w.gens = v.gens ∧ w.owners = v.owners ∧ freeCount w = freeCount v := by
  unfold spill
  split
  · exact ⟨v, (poolOf_setPool _ _ _ _).trans (if_pos rfl), rfl, rfl, rfl⟩
  · refine ⟨_, (poolOf_setPool _ _ _ _).trans (if_pos rfl), rfl, rfl, ?_⟩
    simp only [freeCount, List.length_drop, List.length_append, List.length_take]
    omega

/-- A bobbin let go by its last owner is free, ownerless and one generation on. -/
theorem poolOf_freeBobbin (x : Partition) (p : Nat) (v : Pool) (i : Nat) : ∃ w,
    poolOf (freeBobbin x p v i) p = some w ∧ tget w.gens i 0 = tget v.gens i 0 + 1 ∧ ownersOf w i = [] ∧
      freeCount w = freeCount v + 1 := by
  obtain ⟨w, hw, hgens, howners, hfree⟩ := poolOf_spill (putOwners x p v i []) p
    { ownedBy v i [] with gens := tset v.gens i (tget v.gens i 0 + 1), cached := v.cached ++ [i] }
  refine ⟨w, ?_, ?_, ?_, ?_⟩
  · simp only [freeBobbin, poolOf_putOwners, if_true]
    exact hw
  · rw [hgens, tget_tset, if_pos rfl]
  · rw [ownersOf, howners]
    exact ownersOf_ownedBy v i []
  · rw [hfree, freeCount, List.length_append]
    exact Nat.add_right_comm _ _ _

theorem dropOwner_of_last {v : Pool} {i : Nat} {o : BitVec 16} (h : ownersOf v i = [o]) (x : Partition) (p : Nat) :
    dropOwner x p v i o = freeBobbin x p v i := by simp [dropOwner, h]

/-- Of several owners, each named once, one is taken away. -/
theorem dropOwner_of_several {v : Pool} {i : Nat} {o : BitVec 16} (hnodup : (ownersOf v i).Nodup)
    (hlen : 1 < (ownersOf v i).length) (x : Partition) (p : Nat) :
    dropOwner x p v i o = putOwners x p v i ((ownersOf v i).erase o) := by
  have herase : (ownersOf v i).filter (· ≠ o) = (ownersOf v i).erase o := by
    rw [hnodup.erase_eq_filter]
    exact List.filter_congr fun a _ => by simp [bne, beq_eq_decide]
  have hleft : ((ownersOf v i).erase o).isEmpty = false := by
    rw [List.isEmpty_eq_false_iff, ← List.length_pos_iff]
    exact (Nat.sub_pos_of_lt hlen).trans_le List.le_length_erase
  rw [dropOwner, herase, hleft, if_neg Bool.false_ne_true]

/-- What a RELEASE by an owner leaves: the other owners and a valid handle, or a free bobbin and a stale one. -/
theorem dropOwner_of_holds {x : Partition} {h : Word} {v : Pool} {i : Nat} {o : BitVec 16}
    (hv : validHandle x h = some (v, i)) (ho : (ownersOf v i).contains o = true) (hnodup : (ownersOf v i).Nodup) :
    let y := dropOwner x (handlePool h) v i o
    ∃ w, poolOf y (handlePool h) = some w ∧ holds y h o = false ∧
      (1 < (ownersOf v i).length → ownersOf w i = (ownersOf v i).erase o ∧ (validHandle y h).isSome = true) ∧
      ((ownersOf v i).length = 1 → validHandle y h = none ∧ tget w.gens i 0 = tget v.gens i 0 + 1 ∧
        ownersOf w i = [] ∧ freeCount w = freeCount v + 1) := by
  have hmem : o ∈ ownersOf v i := by simpa using ho
  rcases Nat.lt_or_eq_of_le (List.length_pos_of_mem hmem) with hlen | hlen
  · rw [dropOwner_of_several hnodup hlen]
    have hvalid := validHandle_putOwners hv ((ownersOf v i).erase o)
    refine ⟨ownedBy v i ((ownersOf v i).erase o), by simp, ?_, fun _ => ⟨ownersOf_ownedBy _ _ _, ?_⟩,
      fun hone => absurd hone.symm (Nat.ne_of_lt hlen)⟩
    · simp [holds_of_validHandle hvalid, hnodup.mem_erase_iff]
    · rw [hvalid]
      rfl
  · obtain ⟨a, ha⟩ := List.length_eq_one_iff.mp hlen.symm
    obtain rfl : o = a := by simpa [ha] using hmem
    rw [dropOwner_of_last ha]
    obtain ⟨w, hw, hgens, howners, hfree⟩ := poolOf_freeBobbin x (handlePool h) v i
    have hstale := validHandle_of_stale hv hw hgens
    exact ⟨w, hw, holds_of_not_valid hstale o, fun hmore => absurd hlen (Nat.ne_of_lt hmore),
      fun _ => ⟨hstale, hgens, howners, hfree⟩⟩

/-! ### FREE_RING_REFILL (R237) -/

theorem refill_eq (v : Pool) : refill v = { v with
    cached := v.cached ++ v.ring.take 16, ring := v.ring.drop 16,
    head := (v.head + min 16 v.ring.length) % v.count.toNat } := by
  have htake : v.ring.take (min 16 v.ring.length) = v.ring.take 16 := by simp [List.take_eq_take_iff]
  have hdrop : v.ring.drop (min 16 v.ring.length) = v.ring.drop 16 := by
    rcases Nat.le_total 16 v.ring.length with h | h
    · rw [Nat.min_eq_left h]
    · rw [Nat.min_eq_right h, List.drop_length, List.drop_eq_nil_of_le h]
  rw [refill, htake, hdrop]

theorem freeCount_refill (v : Pool) : freeCount (refill v) = freeCount v := by
  rw [refill_eq]
  simp only [freeCount, List.length_append, List.length_take, List.length_drop]
  omega

theorem freeRingRefill_of_low {s : State} {n p : Nat} {x : Partition} {v : Pool} (hx : partOf s n = some x)
    (hv : poolOf x p = some v) (hlow : v.cached.length < 8) (hring : v.ring ≠ []) (hwait : v.waiting = [])
    (hgood : refillBad x v = false) :
    freeRingRefill s n p = setPart s n (setPool x p { refill v with waiting := [] }) := by
  simp only [freeRingRefill, hx, hv, Nat.not_le.mpr hlow, List.isEmpty_eq_false_iff.mpr hring, hwait, hgood,
    decide_false, Bool.or_self, Bool.false_eq_true, if_false, List.foldl_nil]

/-! ### The statement on pool requests -/

/-- Settles O23: each request is its effect on one partition and an answer, and each part of the effect is the lemma of
the operation that makes it. -/
theorem poolRequests : Obligations.PoolRequests := by
  refine ⟨?acquire, ?group, ?single, ?share, ?release, ?refill⟩
  case acquire =>
    intro s part pool o x v hc
    obtain ⟨hx, hv, hcached⟩ := pools_of_acquire hc
    obtain ⟨k, hk, hhandle, hpools⟩ := takeFrom_of_cached hcached s.draws x pool o
    have heffect := poolAcquire_of_cached hx hv hcached o
    refine ⟨_, (takeFrom s.draws x pool v o).1, takenPool v k o, v.cached.getD k 0,
      finish_eq_next (only_poolAcquire s part pool o) (by decide), ?_, (hpools _).trans (if_pos rfl), ?_,
      ownersOf_takenPool v k o, ⟨k, ?_, rfl⟩, rfl, rfl, low_takenPool_le v k o,
      fun q hq => (hpools q).trans (if_neg hq.symm), (only_poolAcquire s part pool o).mono (by decide)⟩
    · simp [heffect, acquiredState]
    · rw [heffect, ← hhandle]
      rfl
    · simp [hk]
  case group =>
    intro s part l x hx hlen hpools
    have heffect : poolGroup s part (l.map fun e => (e.1.val, e.2)) = _ :=
      poolGroup_of_configured hx (by simpa using hlen) (by simpa only [List.forall_mem_map] using hpools)
    refine ⟨_, finish_eq_next (only_poolGroup s part _) (by decide), fun p hp => ?_, fun y hs hy => ⟨?_, ?_, ?_⟩⟩
    · rw [heffect, hp]
    · simpa using length_of_acquireList hy
    · rw [heffect, hy]
      simp
    · rw [heffect, hy]
      rfl
  case single =>
    intro s part pool o x v hc
    obtain ⟨hx, hv, hcached⟩ := pools_of_acquire hc
    exact congrArg (finish s)
      ((poolGroup_single_of_cached hx hv hcached o).trans (poolAcquire_of_cached hx hv hcached o).symm)
  case share =>
    intro s part h o o' x v i hc hnew hlen
    obtain ⟨hx, hv, ho, hbad⟩ := owners_of_held hc
    have heffect := shareBobbin_of_holds hx hv ho hbad hnew hlen
    have hvalid := validHandle_putOwners hv (ownersOf v i ++ [o'])
    refine ⟨_, _, ownedBy v i (ownersOf v i ++ [o']), congrArg (fun r => finish s (replyStatus part r)) heffect, rfl,
      partOf_replied _ _ _ _, by simp, ownersOf_ownedBy _ _ _, ?_, ?_, only_replied _ _ _ _⟩
    · simp [holds_of_validHandle hvalid]
    · rw [holds_of_validHandle hvalid, ownersOf_ownedBy]
      exact (List.contains_append ..).trans (by rw [ho, Bool.true_or])
  case release =>
    intro s part h o x v i hc hnodup
    obtain ⟨hx, hv, ho, hbad⟩ := owners_of_held hc
    obtain ⟨w, hw, hholds, hseveral, hlast⟩ := dropOwner_of_holds hv ho hnodup
    exact ⟨_, _, w, congrArg (fun r => finish s (replyStatus part r)) (releaseBobbin_of_holds hx hv ho hbad), rfl,
      partOf_replied _ _ _ _, hw, hholds, hseveral, hlast, only_replied _ _ _ _⟩
  case refill =>
    intro s part pool x v hx hv hlow hring hwait hgood
    have heffect := freeRingRefill_of_low hx hv hlow hring hwait hgood
    have honly : Only [.parts] s (freeRingRefill s part pool) := by
      rw [heffect]
      exact only_setPart _ _ _
    refine ⟨_, setPool x pool { refill v with waiting := [] }, { refill v with waiting := [] },
      finish_eq_next honly (by decide), ?_, by simp, ?_, ?_, freeCount_refill v, rfl, rfl, honly⟩
    · simp [heffect]
    · rw [refill_eq]
    · rw [refill_eq]

/-! ### CMD_POOL_CREATE and CMD_POOL_DESTROY (R229 to R231) -/

/-- What lies in one place of a list of blocks of n bytes each. -/
theorem slice_flatMap {α : Type} {f : α → Bytes} {n : Nat} (hf : ∀ a, (f a).length = n) {l : List α} {i : Nat}
    (hi : i < l.length) : slice (l.flatMap f) (n * i) n = f l[i] := by
  induction l generalizing i with
  | nil => cases hi
  | cons a r ih =>
    cases i with
    | zero => simp [slice, ← hf a]
    | succ i =>
      have hskip : ((a :: r).flatMap f).drop (n * (i + 1)) = (r.flatMap f).drop (n * i) := by
        rw [List.flatMap_cons, Nat.mul_succ, Nat.add_comm, ← List.drop_drop, List.drop_left' (hf a)]
      rw [slice, hskip]
      exact ih (Nat.lt_of_succ_lt_succ hi)

/-- Of bytes written, a piece reads back. -/
theorem storeRead_storeWrite_slice {b : Bytes} {k n : Nat} (h : k + n ≤ b.length) (st : Store 8) (a : Nat) :
    storeRead (storeWrite st a b) (a + k) n = slice b k n := by
  have hlen : (slice b k n).length = n := by
    rw [slice, List.length_take, List.length_drop]
    omega
  refine List.ext_getElem (by simp [hlen]) fun j hj _ => ?_
  have hj' : j < n := by simpa using hj
  have hin : k + j < b.length := by omega
  simp [storeRead, slice, storeGet_storeWrite, Nat.add_assoc, hin]

/-- The free ring of a fresh control area. -/
def freshRing (p : Nat) (v : Pool) : Bytes :=
  (List.range v.count.toNat).flatMap (fun i => toLE 4 (handleOf p 0 i).toNat)

theorem length_freshRing (p : Nat) (v : Pool) : (freshRing p v).length = 4 * v.count.toNat := by
  simp [freshRing, List.length_flatMap, Nat.mul_comm]

theorem freshControl_eq (p : Nat) (v : Pool) :
    freshControl p v = freshRing p v ++ zeroBytes (8 * v.count.toNat) := rfl

theorem length_freshControl (p : Nat) (v : Pool) : (freshControl p v).length = 12 * v.count.toNat := by
  rw [freshControl_eq, List.length_append, length_freshRing, zeroBytes, List.length_replicate]
  omega

/-- Entry i of a fresh free ring is the first handle of bobbin i. -/
theorem entry_freshControl (p : Nat) (v : Pool) {i : Nat} (hi : i < v.count.toNat) :
    slice (freshControl p v) (4 * i) 4 = toLE 4 (handleOf p 0 i).toNat := by
  have hring := length_freshRing p v
  have hcut : slice (freshControl p v) (4 * i) 4 = slice (freshRing p v) (4 * i) 4 := by
    rw [slice, freshControl_eq, List.drop_append_of_le_length (by omega),
      List.take_append_of_le_length (by rw [List.length_drop]; omega), slice]
  rw [hcut, freshRing, slice_flatMap (fun _ => length_toLE _ _) (by simpa using hi), List.getElem_range]

/-- A partition with a fresh pool v of number p (R231). -/
def withFreshPool (x : Partition) (p : Nat) (v : Pool) : Partition :=
  setPool { x with region := storeWrite x.region v.ctrl (freshControl p v) } p v

theorem entry_withFreshPool (x : Partition) (p : Nat) (v : Pool) {i : Nat} (hi : i < v.count.toNat) :
    leNat (storeRead (withFreshPool x p v).region (v.ctrl + 4 * i) 4) = (handleOf p 0 i).toNat := by
  have hin : 4 * i + 4 ≤ (freshControl p v).length := by rw [length_freshControl]; omega
  change leNat (storeRead (storeWrite x.region v.ctrl (freshControl p v)) _ 4) = _
  rw [storeRead_storeWrite_slice hin, entry_freshControl p v hi, leNat_toLE]
  exact Nat.mod_eq_of_lt (handleOf p 0 i).isLt

theorem storeGet_withFreshPool_of_outside (x : Partition) (p : Nat) (v : Pool) {k : Nat}
    (h : k < v.ctrl ∨ v.ctrl + 12 * v.count.toNat ≤ k) :
    storeGet (withFreshPool x p v).region k = storeGet x.region k :=
  storeGet_storeWrite_of_outside _ (by rwa [length_freshControl])

/-- Fields in range fit the registers of the pool. -/
theorem poolRecord_of_fields {x : Partition} {d : Bytes} (h : poolFields x d = true) :
    (poolRecord d).sizeClass.toNat = byteAt d 9 ∧ (poolRecord d).count.toNat = le d 12 4 ∧
      (poolRecord d).floor.toNat = le d 16 4 := by
  obtain ⟨hclass, hcount, hfloor⟩ : byteAt d 9 ≤ 14 ∧ le d 12 4 ≤ 65536 ∧ le d 16 4 ≤ le d 12 4 := by
    simp only [poolFields, Bool.and_eq_true, decide_eq_true_eq] at h
    tauto
  exact ⟨Nat.mod_eq_of_lt (by omega), Nat.mod_eq_of_lt (by omega), Nat.mod_eq_of_lt (by omega)⟩

theorem exec_cmdPoolCreate {s : State} {slot : Fin 10} {x : Partition} (h : Can.poolCreate s slot x = true) :
    let d := cmdDesc s slot
    exec (.cmdPoolCreate slot) s = .next (complete
      (setPart s (descPart d) (withFreshPool x (byteAt d 8) (poolRecord d))) slot stOk []) := by
  simp only [Can.poolCreate, Bool.and_eq_true, Bool.not_eq_true'] at h
  obtain ⟨⟨hp, hfields⟩, hclash⟩ := h
  obtain ⟨hc, hx⟩ := command_of_partCommand hp
  change finish s (cmdPoolCreate s slot) = _
  rw [cmdPoolCreate, command_of_can hc]
  simp only [hx, hfields, hclash, Bool.not_true, Bool.false_eq_true, if_false]
  exact finish_complete (only_setPart _ _ _) (by decide) _ _ _

theorem exec_cmdPoolDestroy {s : State} {slot : Fin 10} {x : Partition} {v : Pool}
    (h : Can.poolDestroy s slot x v = true) :
    exec (.cmdPoolDestroy slot) s = .next (complete (setPart s (descPart (cmdDesc s slot))
      { x with pools := tdel x.pools (byteAt (cmdDesc s slot) 8) }) slot stOk []) := by
  simp only [Can.poolDestroy, Bool.and_eq_true, Bool.not_eq_true', decide_eq_true_eq] at h
  obtain ⟨⟨⟨⟨hp, hnumber⟩, hv⟩, howners⟩, hfallback⟩ := h
  obtain ⟨hc, hx⟩ := command_of_partCommand hp
  change finish s (cmdPoolDestroy s slot) = _
  rw [cmdPoolDestroy, command_of_can hc]
  simp only [hx, if_pos hnumber, hv, howners, hfallback, Bool.not_true, Bool.or_self, Bool.false_eq_true, if_false]
  exact finish_complete (only_setPart _ _ _) (by decide) _ _ _

/-- Settles O24: a creation puts the pool of its body and a fresh control area into its partition, a destruction takes
the pool out. The empty cache of a new pool (log entry 50) and the place of the free ring at the start of its control
area (log entry 21) are the model's choices. -/
theorem poolCommands : Obligations.PoolCommands := by
  refine ⟨?create, fun s slot x v => exec_cmdPoolDestroy⟩
  case create =>
    intro s slot x h
    obtain ⟨⟨-, hfields⟩, -⟩ : (_ ∧ poolFields x (cmdDesc s slot) = true) ∧ _ := by simpa [Can.poolCreate] using h
    obtain ⟨hclass, hcount, hfloor⟩ := poolRecord_of_fields hfields
    refine ⟨_, poolRecord (cmdDesc s slot), exec_cmdPoolCreate h, (poolOf_setPool _ _ _ _).trans (if_pos rfl), hclass,
      hcount, hfloor, rfl, rfl, congrArg List.range hcount.symm, rfl, rfl, rfl, rfl, rfl,
      fun i => entry_withFreshPool x _ _, fun k => storeGet_withFreshPool_of_outside x _ _, rfl⟩

end Sys2Proof.Machine
end
